-- ==== Sys2Proof/Word.lean ====
section
/-! DEFINITION. The word types of the ZBG-2200: registers and addresses of 64 bits, bytes, and the
32-bit words of an instruction (spec 03 R37, 05 R94). -/
namespace Sys2Proof

/-- A general register, a system register, or an address while it is computed (05 R94). -/
abbrev Word := BitVec 64

/-- The smallest addressable unit of every store (07 R136). -/
abbrev Byte := BitVec 8

/-- One 32-bit word of an instruction (03 R37). -/
abbrev IWord := BitVec 32

end Sys2Proof
end

