-- ==== Sys2Proof/Syntax.lean ====
section
/-! DEFINITION. The instructions of spec 03 R58, the row ILLEGAL_OP, and the machine's own steps and
outside events of the table (spec 95): one constructor for each row of spec/opcode_table.json.
An instruction of the opcode map carries its decoded fields. An event carries the unit it happens to
and, where the spec leaves a choice or a measured value open, that choice or value. -/
namespace Sys2Proof

/-- General register numbers (02 R15). -/
abbrev Reg := Fin 32
/-- Vector register numbers (02 R15). -/
abbrev VReg := Fin 16
/-- Mask register numbers (02 R15). -/
abbrev KReg := Fin 8

/-- Operand and access widths (03 R42). -/
inductive Width | b8 | b16 | b32 | b64
deriving DecidableEq, Repr

/-- CND codes 00001 to 00110 (03 R53); code 00000 is `none` where a branch takes one. -/
inductive Cond | eq | ne | lt | ge | ltu | geu
deriving DecidableEq, Repr

/-- SP codes 000 to 110 (03 R51). -/
inductive SP | g | a | c | w | glob | dram | ctx
deriving DecidableEq, Repr

/-- ORD codes 000 to 100 (03 R52). -/
inductive Ord | plain | acq | rel | acqrel | counted
deriving DecidableEq, Repr

/-- AOP codes (03 R54). -/
inductive Aop | add | and | or | xor | min | max | minu | maxu | swap
deriving DecidableEq, Repr

/-- Element types (03 R55). -/
inductive ET | i8 | i16 | i32 | n8 | n16 | n32 | bf16 | f16 | f32 | e4m3 | e5m2
deriving DecidableEq, Repr

/-- Block-format codes (03 R56). -/
inductive BFmt | zb2 | zb4 | zb7 | mxfp4 | e4m3 | e5m2 | bf16 | i8
deriving DecidableEq, Repr

/-- RM codes (03 R57). -/
inductive RM | rne | rtz | rup | rdn | dyn
deriving DecidableEq, Repr

/-- FENCE scopes (08 R169). -/
inductive Scope | thread | core | tile | region | die | device | system
deriving DecidableEq, Repr

/-- The engines a slot is bound to (04 R78). -/
inductive Engine | scalar | vector | matrix | copy
deriving DecidableEq, Repr

/-- MUL forms (05 R104). -/
inductive MulForm | lo | hs | hu | hsu
deriving DecidableEq, Repr

/-- TSELF forms (04 R84). -/
inductive SelfForm | log | bind | phys
deriving DecidableEq, Repr

/-- PHASE forms (09 R206). -/
inductive PhaseForm | count | mem | full
deriving DecidableEq, Repr

/-- MSTAT forms (19 R344). -/
inductive MstatForm | read | clr | cfg
deriving DecidableEq, Repr

/-- TLBI forms (20 R363). -/
inductive TlbiForm | page | all | bcast
deriving DecidableEq, Repr

/-- SWR forms (13 R271). -/
inductive SwrForm | write | set | clr
deriving DecidableEq, Repr

/-- Comparison conditions of VCMP (17 R306). -/
inductive VCond | eq | ne | lt | le | gt | ge
deriving DecidableEq, Repr

/-- Combining operations of VRED and VSCAN (17 R306). -/
inductive RedOp | add | min | max
deriving DecidableEq, Repr

/-- The effect id of PERFORM: immediate or in g[A] (12 R241). -/
inductive PerfArg
  | imm (id : BitVec 16)
  | reg (a : Reg)
deriving DecidableEq, Repr

/-- CPYX by handle, or reset of a channel (20 R363). -/
inductive CpyxForm
  | handle
  | reset (ch : Fin 4)
deriving DecidableEq, Repr

/-- The address fields of an M-format instruction: base A, index B, SC and OFF24 (03 R45). -/
structure Addr where
  a : Reg
  b : Reg
  sc : Fin 4
  off : BitVec 24
deriving DecidableEq, Repr

/-- VD, K and ZM of a V-format instruction (03 R47). -/
structure VDst where
  d : VReg
  k : KReg
  zm : Bool
deriving DecidableEq, Repr

/-- SUBST and the four parameter words of a P-format instruction, as encoded (03 R48, R49), and the
semaphore fields FN[3:0] and FN[4] (19 R336). -/
structure Params where
  subst : BitVec 4
  p0 : BitVec 32
  p1 : BitVec 32
  p2 : BitVec 32
  p3 : BitVec 32
  sem : Fin 16
  sig : Bool
deriving DecidableEq, Repr

/-- Who makes a reeve call: a slot held for its HVC, or a partition's system image on the board cores
with the arguments g5 to g8 it passes (13 R273). -/
inductive Caller
  | slot (id : Nat)
  | image (part : Nat) (g5 g6 g7 g8 : Word)
deriving DecidableEq, Repr

/-- A word of a store for POISON: a G word of a core, a word of a tile's A, C or W buffer, or a physical
DRAM word (13 R266), or a word of a launch's code region (R267). The context area is the G store's last
64 KiB. -/
inductive Place
  | g (core off : Nat)
  | a (tile off : Nat)
  | c (tile off : Nat)
  | w (tile off : Nat)
  | dram (pa : Nat)
  | code (launch off : Nat)
deriving DecidableEq, Repr

/-- A crest message as received, field by field (21 R387): bytes 0, 1, group, sender, 6, 7, tide at
sending, bite or effective tide, byte 24, and whether the last seven bytes are zero. -/
structure CrestMsg where
  typ : BitVec 8
  byte1 : BitVec 8
  group : Nat
  sender : Nat
  point : Nat
  concerned : BitVec 8
  sent : Nat
  bite : Nat
  pendLimit : BitVec 8
  tailZero : Bool
deriving DecidableEq, Repr

/-- A host access through BAR2: a read of some bytes, or a write (23 R403). -/
inductive BarOp
  | read (n : Nat)
  | write (data : List Byte)
deriving DecidableEq, Repr

/-- What comes back from another module for an access through the fabric aperture (23 R411): the bytes read, lowest
address first, or the acceptance of a write or a message. -/
inductive Remote
  | data (bytes : List Byte)
  | refused
  | linkDown
deriving DecidableEq, Repr

/-- A host access through BAR2, with what comes back of it from another module where it lies there (23 R403, R411). -/
structure BarAccess where
  op : BarOp
  remote : Remote
deriving DecidableEq, Repr

/-- A word that cannot be corrected: its place, the subcode of its store and the syndrome (13 R266, R267; 23 R412). -/
structure PoisonEvent where
  place : Place
  sub : BitVec 8
  syn : Word
deriving DecidableEq, Repr

/-- The second run of a witness launch, with the seed of its dike rings (04 R73; 19 R332). -/
structure SecondRun where
  launch : Nat
  seed : Nat
deriving DecidableEq, Repr

/-- A region's freeboard as it is measured: the lowest working voltage of each of 61 points, the guard band, and the rail's
limit at the present temperature, in mV (21 R374). -/
structure Measured where
  curve : List Nat
  freeboard : Nat
  limit : Nat
deriving DecidableEq, Repr

/-- Every row of the table: the instructions of the opcode map (03 R58) first, then the machine's own
steps and the outside events (95). -/
inductive Instr where
  -- 0x01-0x27, spec 05
  | add (w : Width) (d a b : Reg)
  | addi (w : Width) (d a : Reg) (imm : BitVec 32)
  | sub (w : Width) (d a b : Reg)
  | mul (w : Width) (f : MulForm) (d a b : Reg)
  | div (w : Width) (sg : Bool) (d a b : Reg)
  | rem (w : Width) (sg : Bool) (d a b : Reg)
  | and (w : Width) (d a b : Reg)
  | andi (w : Width) (d a : Reg) (imm : BitVec 32)
  | or (w : Width) (d a b : Reg)
  | ori (w : Width) (d a : Reg) (imm : BitVec 32)
  | xor (w : Width) (d a b : Reg)
  | xori (w : Width) (d a : Reg) (imm : BitVec 32)
  | andn (w : Width) (d a b : Reg)
  | shl (w : Width) (d a b : Reg)
  | shli (w : Width) (d a : Reg) (n : Fin 64)
  | shr (w : Width) (sg : Bool) (d a b : Reg)
  | shri (w : Width) (sg : Bool) (d a : Reg) (n : Fin 64)
  | rot (w : Width) (right : Bool) (d a b : Reg)
  | clz (w : Width) (d a : Reg)
  | ctz (w : Width) (d a : Reg)
  | popc (w : Width) (d a : Reg)
  | min (w : Width) (sg : Bool) (d a b : Reg)
  | max (w : Width) (sg : Bool) (d a b : Reg)
  | cmp (w : Width) (c : Cond) (d a b : Reg)
  | cmpi (w : Width) (c : Cond) (d a : Reg) (imm : BitVec 32)
  | sel (w : Width) (d a b c : Reg)
  | ext (sg : Bool) (d a : Reg) (pos : Fin 64) (len : Fin 65)
  | ins (d a : Reg) (pos : Fin 64) (len : Fin 65)
  | bswap (w : Width) (d a : Reg)
  | adds (w : Width) (sg : Bool) (d a b : Reg)
  | subs (w : Width) (sg : Bool) (d a b : Reg)
  | madd (w : Width) (d a b c : Reg)
  | li (d : Reg) (imm : BitVec 64)
  | lea (d : Reg) (m : Addr)
  | gaddr (phys self : Bool) (sp : Fin 4) (d a : Reg) (off : BitVec 32)
  | localq (d a : Reg)
  | abs (w : Width) (d a : Reg)
  | sext (w : Width) (d a : Reg)
  | zext (w : Width) (d a : Reg)
  | illegalOp (w0 w1 : BitVec 32)
  -- 0x30-0x3B, spec 06 and 04
  | nop
  | br (w : Width) (c : Option Cond) (a b : Reg) (off : BitVec 32)
  | call (d : Reg) (off : BitVec 32)
  | jr (a : Reg)
  | callr (d a : Reg)
  | loop (a : Reg) (off : BitVec 32)
  | loopi (off count : BitVec 32)
  | lbrk
  | sleep (abs : Bool) (a : Reg) (imm : BitVec 32)
  | sleepWake (slot : Nat)
  | wdog
  | yield
  | halt (a : Reg)
  -- 0x40-0x50, spec 07, 08, 20
  | ld (w : Width) (sg : Bool) (o : Ord) (sp : SP) (d : Reg) (m : Addr)
  | st (w : Width) (o : Ord) (sp : SP) (d : Reg) (m : Addr)
  | ldm (w : Width) (sg : Bool) (o : Ord) (sp : SP) (d : Reg) (m : Addr)
  | stm (w : Width) (o : Ord) (sp : SP) (d : Reg) (m : Addr)
  | ldf (sp : SP) (d : Reg) (m : Addr)
  | lde (sp : SP) (d : Reg) (m : Addr)
  | stf (sp : SP) (d : Reg) (m : Addr)
  | stff (sp : SP) (d : Reg) (m : Addr)
  | tagq (sp : SP) (d : Reg) (m : Addr)
  | tagset (sp : SP) (d : Reg) (m : Addr)
  | amo (w : Width) (o : Ord) (op : Aop) (sp : SP) (d a b : Reg) (off : BitVec 24)
  | cas (w : Width) (o : Ord) (sp : SP) (d a b : Reg) (off : BitVec 24)
  | fence (classes : BitVec 8) (scope : Scope)
  | racem (sp : SP) (d : Reg) (m : Addr)
  | dld (w : Width) (sg : Bool) (o : Ord) (d : Reg) (m : Addr)
  | dst (w : Width) (o : Ord) (d : Reg) (m : Addr)
  | damo (w : Width) (o : Ord) (op : Aop) (d a b : Reg) (off : BitVec 24)
  | globalRequest (slot : Nat)
  | globalReply (slot : Nat)
  | countedStoreVisible (index : Nat)
  | waitlimit (slot : Nat)
  -- 0x51, 0x52, spec 04
  | wqpop (nowait : Bool) (d : Reg)
  | wqpush (far close : Bool) (d a b : Reg)
  | spillwayReturn (region launch : Nat)
  -- 0x60, 0x61, spec 09
  | wait
  | phase (f : PhaseForm) (d : Reg)
  | sluiceFiring (launch grp : Nat)
  | sluiceRelease (launch grp pos mem : Nat)
  | linkReady (launch grp : Nat)
  -- 0x62-0x6A, spec 11
  | semv (sem : Fin 16) (n : BitVec 8)
  | semw (sem : Fin 16)
  | send (count : Fin 4) (far : Bool) (a b : Reg)
  | messageAccept (slot : Nat) (remote : Remote)
  | recv (nowait : Bool) (d a : Reg)
  | rarm (pri : Fin 4) (d a b : Reg)
  | mbx (d : Reg) (word : Fin 8)
  | mbxw (a b : Reg) (word : Fin 8)
  | rqpush (pri : Fin 4) (nowait : Bool) (d a : Reg)
  | rqpop (nowait : Bool) (d : Reg)
  -- 0x6B-0x6F, spec 04
  | tstart (e : Engine) (d a b c : Reg)
  | slotStart (slot : Nat)
  | tstop (d a : Reg)
  | treap (nowait : Bool) (d a : Reg)
  | tstat (d a : Reg)
  | tself (f : SelfForm) (d : Reg)
  -- 0x70-0x78, spec 12
  | handle (multi : Bool) (id mask : BitVec 16) (hOff eOff : BitVec 32)
  | endh
  | perform (arg : PerfArg)
  | vperform (et : ET) (d : VReg) (k : KReg) (id : BitVec 16)
  | resume (a b : Reg)
  | resumec (a b : Reg)
  | discard (a : Reg)
  | hexit
  | tokq (d a : Reg)
  | effectDelivery (slot : Nat)
  | tick (slot : Nat)
  | watchdogExpiry (slot : Nat)
  -- 0x79-0x7F, spec 13
  | srd (d : Reg) (r : BitVec 12)
  | swr (f : SwrForm) (d a : Reg) (r : BitVec 12)
  | fpxsumUpdate (tile : Nat)
  | contextWrite (core off : Nat) (w : Width) (v : Word)
  | svc (n : BitVec 32)
  | hvc (n : BitVec 32)
  | setvec (c : Caller)
  | unpark (c : Caller)
  | setroot (c : Caller)
  | pumprun (c : Caller)
  | dbpop (c : Caller)
  | submit (c : Caller)
  | cancel (c : Caller)
  | tret (next : Bool)
  | tkill (d a : Reg)
  | pair (off : Bool) (d a : Reg)
  | trapEntry (slot : Nat)
  | hypervisorTrap (slot : Nat)
  | hctlResume (slot : Nat)
  | hctlNext (slot : Nat)
  | hctlReflect (slot : Nat)
  | hctlPark (slot : Nat)
  | hctlFault (slot : Nat)
  | poison (p : PoisonEvent)
  -- 0x80-0xAB, spec 17
  | vadd (et : ET) (rm : RM) (sat : Bool) (x : VDst) (a b : VReg)
  | vsub (et : ET) (rm : RM) (sat : Bool) (x : VDst) (a b : VReg)
  | vmul (et : ET) (rm : RM) (hi : Bool) (x : VDst) (a b : VReg)
  | vfma (et : ET) (rm : RM) (x : VDst) (a b c : VReg)
  | vdiv (et : ET) (rm : RM) (x : VDst) (a b : VReg)
  | vsqrt (et : ET) (rm : RM) (x : VDst) (a : VReg)
  | vmin (et : ET) (x : VDst) (a b : VReg)
  | vmax (et : ET) (x : VDst) (a b : VReg)
  | vabs (et : ET) (x : VDst) (a : VReg)
  | vneg (et : ET) (x : VDst) (a : VReg)
  | vand (et : ET) (x : VDst) (a b : VReg)
  | vor (et : ET) (x : VDst) (a b : VReg)
  | vxor (et : ET) (x : VDst) (a b : VReg)
  | vshl (et : ET) (x : VDst) (a b : VReg)
  | vshr (et : ET) (x : VDst) (a b : VReg)
  | vcmp (et : ET) (c : VCond) (kd : KReg) (k : KReg) (zm : Bool) (a b : VReg)
  | vsel (et : ET) (d : VReg) (k : KReg) (a b : VReg)
  | vcvt (et et2 : ET) (rm : RM) (part : Fin 4) (sat : Bool) (x : VDst) (a : VReg)
  | vquant (et et2 : ET) (rm : RM) (part : Fin 4) (gs sat : Bool) (x : VDst) (a b : VReg) (ga : Reg)
  | vdeq (et et2 : ET) (rm : RM) (part : Fin 4) (gs : Bool) (x : VDst) (a b : VReg) (ga : Reg)
  | vred (et : ET) (rm : RM) (op : RedOp) (wide : Bool) (d : VReg) (k : KReg) (a : VReg) (ga : Reg)
  | vscan (et : ET) (rm : RM) (op : RedOp) (x : VDst) (a : VReg)
  | vbcast (et : ET) (fromLane : Bool) (lane : BitVec 8) (x : VDst) (a : VReg) (ga : Reg)
  | vmovg (et : ET) (ins : Bool) (lane : BitVec 7) (v : VReg) (ga : Reg)
  | vshuf (et : ET) (x : VDst) (a b c : VReg)
  | vslide (et : ET) (n : BitVec 8) (up fromG : Bool) (x : VDst) (a c : VReg) (ga : Reg)
  | viota (et : ET) (idx : Bool) (x : VDst)
  | vtlu (et et2 : ET) (rm : RM) (slot : Fin 4) (extend : Bool) (x : VDst) (a : VReg)
  | vtcfg (slot : Fin 4) (ga : Reg)
  | vld (et : ET) (inC : Bool) (off : BitVec 14) (x : VDst) (ga : Reg)
  | vst (et : ET) (inC : Bool) (off : BitVec 14) (d : VReg) (k : KReg) (ga : Reg)
  | vgath (et : ET) (inC : Bool) (sh : Fin 4) (x : VDst) (b : VReg) (ga : Reg)
  | vscat (et : ET) (inC : Bool) (sh : Fin 4) (d : VReg) (k : KReg) (b : VReg) (ga : Reg)
  | kand (d a b : KReg)
  | kor (d a b : KReg)
  | kxor (d a b : KReg)
  | knot (d a : KReg)
  | kpop (et : ET) (a : KReg) (ga : Reg)
  | kset (et : ET) (d : KReg) (ga : Reg)
  | kfirst (et : ET) (a : KReg) (ga : Reg)
  | vpack (et : ET) (rm : RM) (f : BFmt) (off : BitVec 8) (d a : VReg)
  | vunpk (et : ET) (rm : RM) (f : BFmt) (off : BitVec 8) (x : VDst) (a : VReg)
  | vclass (et : ET) (classes : BitVec 10) (kd : KReg) (k : KReg) (zm : Bool) (a : VReg)
  | kmovg (put hi : Bool) (k : KReg) (ga : Reg)
  -- 0xC0-0xC7, spec 19
  | mcfg (qmask : BitVec 4) (leader : Fin 4) (afmt : BFmt)
  | mldb (p : Params)
  | mswap
  | mmul (p : Params)
  | mzero (a b : Reg)
  | mout (p : Params)
  | mstat (f : MstatForm) (d : Reg)
  | mred (p : Params)
  | mcfgTurn (tile : Nat)
  | mldbTurn (tile : Nat)
  | mswapTurn (tile : Nat)
  | mmulTurn (tile : Nat)
  | mzeroTurn (tile : Nat)
  | moutTurn (tile : Nat)
  | mredTurn (tile : Nat)
  | dikeRingGrant (region : Nat)
  | ballast (region : Nat)
  -- 0xD0-0xD5, spec 20
  | cpy (nowait : Bool) (d : Reg)
  | cpyw (scope : Scope) (ch : Fin 4) (a : Reg)
  | cpyq (err : Bool) (ch : Fin 4) (d : Reg)
  | cpyx (f : CpyxForm) (d a : Reg)
  | tlbi (f : TlbiForm) (a : Reg)
  | xlat (write : Bool) (d a : Reg)
  | copyChunk (core : Nat) (ch : Fin 4) (remote : Remote)
  | copyComplete (core : Nat) (ch : Fin 4)
  | page (core : Nat) (ch : Fin 4)
  | copyCancelAck (slot : Nat)
  -- launches, spec 04 and 13
  | dispatch (launch : Nat) (placement : List Nat)
  | launchStart (launch : Nat)
  | launchComplete (launch : Nat)
  | witnessSecondRun (run : SecondRun)
  | contextSwitch (slot : Nat) (selector : Fin 16)
  | launchPreempt (launch : Nat)
  | launchRestore (launch : Nat) (placement : List Nat)
  -- power, heat and the crest, spec 21
  | operatingPointChange (tile : Nat)
  | droop (tile : Nat) (on : Bool)
  | fbmaxUpdate (region : Nat) (m : Measured)
  | energyUpdate (launch standing : Nat)
  | quotaPeriodBoundary
  | allowanceUpdate (d0 d1 d2 d3 : BitVec 16)
  | dramtempUpdate (d0 d1 d2 d3 : BitVec 16)
  | referenceLoss (die : Nat)
  | referenceReturn (die : Nat)
  | tideSet (v : Word)
  | announce (m : CrestMsg)
  | heartbeat (m : CrestMsg)
  | heartbeatSend
  | join (m : CrestMsg) (notice : Nat)
  | accept (m : CrestMsg)
  | leave (m : CrestMsg)
  | expel (m : CrestMsg)
  | emergency (m : CrestMsg)
  | memberSilent (mem : Nat)
  | expelTimeout (mem : Nat)
  | crestBite
  -- host, boot, fabric and management, spec 23 and 20
  | bar2Access (part : Nat) (addr : Word) (acc : BarAccess)
  | doorbell (part : Nat) (v : Word)
  | dbstatClear (part : Nat) (v : Word)
  | moduleReset
  | attestation (nonce : List Byte)
  | telemetry
  | linkReplay (port : Nat)
  | linkDown (port : Nat) (members : List Nat)
  | railUndervoltage (mv : Nat)
  | dramReply (slot : Nat) (remote : Remote)
  | dramRefresh (die ch stalled : Nat)
  | tideSlew (up : Bool) (drift : Nat)
  | linkRetrain (port : Nat)
  | railRestored (mv : Nat)
deriving DecidableEq, Repr

end Sys2Proof
end

