-- ==== Sys2Proof/Machine/Fields.lean ====
section
/-! DEFINITION. Tables over field codes (03 R42, R51 to R57), and the restrictions that an entry puts on
its decoded fields (R61 check 5, R63): each with the bit that ILLEGAL_FIELD names. -/
namespace Sys2Proof

/-- The operand width in bits (R42). -/
def Width.bits : Width → Nat
  | .b8 => 8 | .b16 => 16 | .b32 => 32 | .b64 => 64

/-- Bits of an element type (R55). -/
def ET.bits : ET → Nat
  | .i8 | .n8 | .e4m3 | .e5m2 => 8
  | .i16 | .n16 | .bf16 | .f16 => 16
  | .i32 | .n32 | .f32 => 32

/-- Lanes of an element type in 1,024 bits (R55). -/
def ET.lanes (t : ET) : Nat := 1024 / t.bits

/-- The type set I of 17 R306: codes 0 to 5. -/
def ET.isI : ET → Bool
  | .i8 | .i16 | .i32 | .n8 | .n16 | .n32 => true
  | _ => false

/-- The two's-complement types among I. -/
def ET.isSigned : ET → Bool
  | .i8 | .i16 | .i32 => true
  | _ => false

/-- The type set F of 17 R306: codes 6 to 8. -/
def ET.isF : ET → Bool
  | .bf16 | .f16 | .f32 => true
  | _ => false

/-- The type set P of 17 R306: codes 9 and 10. -/
def ET.isP : ET → Bool
  | .e4m3 | .e5m2 => true
  | _ => false

/-- Bytes of one record of a block format with records (16 R285, R286). -/
def BFmt.recordBytes : BFmt → Nat
  | .zb2 => 8 | .zb4 => 12 | .zb7 => 18 | .mxfp4 => 18
  | .e4m3 | .e5m2 | .i8 => 1 | .bf16 => 2

/-- Elements of one record (16 R285, R286). -/
def BFmt.recordElems : BFmt → Nat
  | .zb2 | .zb4 | .zb7 => 16
  | .mxfp4 => 32
  | _ => 1

/-- The block formats that VPACK and VUNPK take (17 R306): codes 0 to 3. -/
def BFmt.isRecord : BFmt → Bool
  | .zb2 | .zb4 | .zb7 | .mxfp4 => true
  | _ => false

/-- Size(space) of GADDR: 05 R112, and 0x7_0000 for G (R115). The codes are 0 G, 1 A, 2 C, 3 W. -/
def gaddrSize (sp : Fin 4) : Nat :=
  match sp.val with
  | 0 => 0x70000
  | 1 => 0x200000
  | _ => 0x100000

/-- Restrictions of the vector entries with a type set (17 R306, R308): F or I only, ET at bit 32. -/
def notIF (t : ET) : Nat × Bool := (32, t.isP)
/-- ET must be in I. -/
def notI (t : ET) : Nat × Bool := (32, !t.isI)
/-- ET must be in F. -/
def notF (t : ET) : Nat × Bool := (32, !t.isF)
/-- ET2 must be in F. -/
def notF2 (t : ET) : Nat × Bool := (36, !t.isF)
/-- The part operand h must lie below the ratio of the two widths (17 R308). -/
def partBad (t t2 : ET) (h : Fin 4) : Nat × Bool :=
  (48, decide (Nat.max t.bits t2.bits / Nat.min t.bits t2.bits ≤ h.val))
/-- A record operand of VPACK or VUNPK (17 R308): format, then the last record inside 128 bytes. -/
def recordBad (t : ET) (f : BFmt) (off : BitVec 8) : List (Nat × Bool) :=
  [(48, !f.isRecord),
   (56, decide (128 < off.toNat + t.lanes / f.recordElems * f.recordBytes))]

/-- The loads' and stores' ORD codes (03 R52). -/
def ordLoad (o : Ord) : Nat × Bool :=
  (32, match o with | .plain | .acq => false | _ => true)
/-- ORD of STM and DST. -/
def ordStore (o : Ord) : Nat × Bool :=
  (32, match o with | .plain | .rel => false | _ => true)
/-- ORD of ST: counted only with SP = 100. -/
def ordSt (o : Ord) (sp : SP) : Nat × Bool :=
  (32, match o with | .plain | .rel => false | .counted => decide (sp ≠ .glob) | _ => true)
/-- ORD of AMO, CAS and DAMO. -/
def ordAmo (o : Ord) : Nat × Bool := (32, decide (o = .counted))
/-- W of AMO, CAS and DAMO is 10 or 11 (07 R157). -/
def widthAmo (w : Width) : Nat × Bool :=
  (30, match w with | .b8 | .b16 => true | _ => false)

/-- The restrictions an entry puts on the values of its fields: each as the lowest bit of the field that
ILLEGAL_FIELD names (03 R62, R63), with whether the instruction breaks it. -/
def Instr.restrictions : Instr → List (Nat × Bool)
  | .ext _ _ _ pos len | .ins _ _ pos len =>
      [(20, decide (64 < pos.val + len.val)), (32, decide (len.val = 0))]
  | .gaddr _ self sp _ a off =>
      [(15, self && decide (a ≠ 0)), (32, decide (gaddrSize sp ≤ off.toNat))]
  | .br _ c a b off =>
      [(15, c.isNone && decide (a ≠ 0)), (20, c.isNone && decide (b ≠ 0)),
       (32, decide (off.toNat % 4 ≠ 0))]
  | .call _ off => [(32, decide (off.toNat % 4 ≠ 0))]
  | .loop _ off => [(32, decide (off.toNat % 4 ≠ 0) || decide (off.toInt < 8))]
  | .loopi off _ => [(32, decide (off.toNat % 4 ≠ 0) || decide (off.toInt < 12))]
  | .ld _ _ o _ _ _ => [ordLoad o]
  | .st _ o sp _ _ => [ordSt o sp]
  | .ldm _ _ o _ d _ => [(10, decide (28 < d.val)), ordLoad o]
  | .stm _ o _ d _ => [(10, decide (28 < d.val)), ordStore o]
  | .amo w o _ _ _ _ _ _ => [widthAmo w, ordAmo o]
  | .cas w o _ _ _ _ _ => [widthAmo w, ordAmo o]
  | .fence classes _ => [(32, decide (classes = 0))]
  | .dld _ _ o _ _ => [ordLoad o]
  | .dst _ o _ _ => [ordStore o]
  | .damo w o _ _ _ _ _ => [widthAmo w, ordAmo o]
  | .wqpop _ d => [(10, decide (27 < d.val))]
  | .wqpush _ close _ a _ => [(15, decide (28 < a.val) || (close && decide (a ≠ 0)))]
  | .semv _ n => [(36, decide (n = 0))]
  | .send count _ a _ => [(15, decide (31 < a.val + count.val))]
  | .recv _ d _ => [(10, decide (27 < d.val))]
  | .rqpop _ d => [(10, decide (d.val = 31))]
  | .treap _ d _ => [(10, decide (d.val = 0) || decide (d.val = 31))]
  | .handle _ _ _ h e =>
      [(64, decide (h.toNat % 4 ≠ 0)), (96, decide (e.toNat % 4 ≠ 0) || decide (e.toInt < 16))]
  | .perform (.imm id) => [(32, decide (id.toNat < 0x100))]
  | .vperform _ _ _ id => [(48, decide (id.toNat < 0x100))]
  | .vadd t _ sat _ _ _ | .vsub t _ sat _ _ _ => [notIF t, (48, sat && !t.isI)]
  | .vmul t _ hi _ _ _ => [notIF t, (48, hi && !t.isI)]
  | .vfma t _ _ _ _ _ | .vdiv t _ _ _ _ | .vmin t _ _ _ | .vmax t _ _ _
  | .vabs t _ _ | .vneg t _ _ | .vscan t _ _ _ _ => [notIF t]
  | .vsqrt t _ _ _ => [notF t]
  | .vshl t _ _ _ | .vshr t _ _ _ | .viota t _ _ => [notI t]
  | .vcvt t t2 _ h _ _ _ => [partBad t t2 h]
  | .vquant t t2 _ h _ _ _ _ _ _ => [notF2 t2, partBad t t2 h]
  | .vdeq t t2 _ h _ _ _ _ _ => [notF t, partBad t t2 h]
  | .vred t _ _ wide _ _ _ _ =>
      [(32, t.isP || (wide && decide (t ≠ .bf16) && decide (t ≠ .f16)))]
  | .vbcast t _ lane _ _ _ => [(56, decide (t.lanes ≤ lane.toNat))]
  | .vmovg t _ lane _ _ => [(48, decide (t.lanes ≤ lane.toNat))]
  | .vslide t n _ fromG _ _ _ _ =>
      [(48, if fromG then decide (n ≠ 0) else decide (t.lanes < n.toNat))]
  | .vtlu t t2 _ _ _ _ _ => [notF t, notF2 t2]
  | .vpack t _ f off _ _ => notF t :: recordBad t f off
  | .vunpk t _ f off _ _ => notF t :: recordBad t f off
  | .vclass t _ _ _ _ _ => [(32, t.isI)]
  | .cpy _ d => [(10, decide (28 < d.val))]
  | .cpyx (.reset _) _ a => [(15, decide (a ≠ 0))]
  | _ => []

end Sys2Proof
end

