-- ==== Sys2Proof/WellFormed.lean ====
section
/-! DEFINITION. Which instructions are well formed: an instruction of the opcode map that breaks no
restriction of its entry (03 R61 check 5). The machine's own steps and the outside events are no
instructions of the map and have no words. -/
namespace Sys2Proof

/-- Is this one of the machine's own steps or an outside event (95), which no code can hold? ILLEGAL_OP
counts as one: it is what an unallocated word does, and no instruction of the map. -/
def Instr.isEvent : Instr → Bool
  | .illegalOp _ _ | .sleepWake _ | .globalRequest _ | .globalReply _ | .countedStoreVisible _
  | .waitlimit _ | .spillwayReturn _ _ | .sluiceFiring _ _ | .sluiceRelease _ _ _ _ | .linkReady _ _
  | .messageAccept _ _ | .slotStart _ | .effectDelivery _ | .tick _ | .watchdogExpiry _
  | .fpxsumUpdate _ | .contextWrite _ _ _ _ | .setvec _ | .unpark _ | .setroot _ | .pumprun _
  | .dbpop _ | .submit _ | .cancel _ | .trapEntry _ | .hypervisorTrap _ | .hctlResume _
  | .hctlNext _ | .hctlReflect _ | .hctlPark _ | .hctlFault _ | .poison _
  | .mcfgTurn _ | .mldbTurn _ | .mswapTurn _ | .mmulTurn _ | .mzeroTurn _ | .moutTurn _
  | .mredTurn _ | .dikeRingGrant _ | .ballast _ | .copyChunk _ _ _ | .copyComplete _ _
  | .page _ _ | .copyCancelAck _ | .dispatch _ _ | .launchStart _ | .launchComplete _
  | .witnessSecondRun _ | .contextSwitch _ _ | .launchPreempt _ | .launchRestore _ _
  | .operatingPointChange _ | .droop _ _ | .fbmaxUpdate _ _ | .energyUpdate _ _
  | .quotaPeriodBoundary | .allowanceUpdate _ _ _ _ | .dramtempUpdate _ _ _ _
  | .referenceLoss _ | .referenceReturn _ | .tideSet _ | .announce _ | .heartbeat _
  | .heartbeatSend | .join .. | .accept _ | .leave _ | .expel _ | .emergency _
  | .memberSilent _ | .expelTimeout _ | .crestBite | .bar2Access _ _ _ | .doorbell _ _
  | .dbstatClear _ _ | .moduleReset | .attestation _ | .telemetry | .linkReplay _
  | .linkDown _ _ | .railUndervoltage _ | .dramReply _ _ | .dramRefresh _ _ _
  | .tideSlew _ _ | .linkRetrain _ | .railRestored _ => true
  | _ => false

/-- The instruction breaks none of its entry's restrictions. -/
def Instr.unrestricted (i : Instr) : Bool := i.restrictions.all (fun p => !p.2)

/-- An instruction of the opcode map with legal fields. Parameter words of the P format are checked when
the instruction executes, after substitution (03 R49), and are free here. -/
def Instr.wf (i : Instr) : Bool := !i.isEvent && i.unrestricted

/-- The proposition that `Instr.wf` decides. -/
abbrev WellFormed (i : Instr) : Prop := i.wf = true

end Sys2Proof
end

