-- ==== Sys2Proof/Decode.lean ====
section
/-! DEFINITION. Decoding and encoding (spec 03). An instruction is read as one number whose bit n is
instruction bit n (R37). A decode gives an instruction, or the bit that ILLEGAL_FIELD names; reserved and
illegal opcodes and length mismatches decode to `Instr.illegalOp`, which takes ILLEGAL_OP. -/
namespace Sys2Proof

/-- The eight formats (R41 to R48). -/
inductive Format | r | i | x | y | m | b | v | p
deriving DecidableEq, Repr

/-- The length code a format fixes (R38). -/
def Format.lenCode : Format → Nat
  | .x => 1 | .y => 2 | .p => 3
  | _ => 0

/-- Words by length code L (R38). -/
def wordsOf (l : Nat) : Nat :=
  match l with
  | 0 => 2 | 1 => 3 | 2 => 4 | _ => 6

/-- LengthOf: bytes by length code L (R38, 06 R124). -/
def lengthOf (l : Nat) : Nat := 4 * wordsOf l

/-- Fields of the R format (R42). -/
structure FieldsR where
  d : Nat
  a : Nat
  b : Nat
  c : Nat
  w : Nat
  fn : Nat
  z : Nat
deriving DecidableEq, Repr

/-- Fields of the I format (R43). -/
structure FieldsI where
  d : Nat
  a : Nat
  fn : Nat
  w : Nat
  imm : Nat
deriving DecidableEq, Repr

/-- Fields of the X format (R43). -/
structure FieldsX where
  d : Nat
  a : Nat
  fn : Nat
  w : Nat
  imm : Nat
deriving DecidableEq, Repr

/-- Fields of the Y format (R44). -/
structure FieldsY where
  d : Nat
  a : Nat
  b : Nat
  c : Nat
  w : Nat
  fn : Nat
  imm : Nat
deriving DecidableEq, Repr

/-- Fields of the M format (R45). -/
structure FieldsM where
  d : Nat
  a : Nat
  b : Nat
  sc : Nat
  sp : Nat
  w : Nat
  ord : Nat
  sg : Nat
  aop : Nat
  off : Nat
deriving DecidableEq, Repr

/-- Fields of the B format (R46). -/
structure FieldsB where
  cnd : Nat
  a : Nat
  b : Nat
  z : Nat
  w : Nat
  off : Nat
deriving DecidableEq, Repr

/-- Fields of the V format (R47). -/
structure FieldsV where
  d : Nat
  a : Nat
  b : Nat
  c : Nat
  k : Nat
  zm : Nat
  z : Nat
  et : Nat
  et2 : Nat
  rm : Nat
  ga : Nat
  fn : Nat
deriving DecidableEq, Repr

/-- Fields of the P format (R48). -/
structure FieldsP where
  d : Nat
  a : Nat
  b : Nat
  c : Nat
  w : Nat
  fn : Nat
  subst : Nat
  z : Nat
  p0 : Nat
  p1 : Nat
  p2 : Nat
  p3 : Nat
deriving DecidableEq, Repr

/-- Field checks in order of no importance, each with the bit it reports, and the instruction read. -/
structure Checked where
  checks : List (Nat × Bool)
  instr : Instr
deriving DecidableEq, Repr

/-- What a decode gives: an instruction with its words, or the lowest bit of the lowest offending field
(R62, R63), or a refusal because the bytes end before the instruction does. -/
inductive Decoded
  | ok (i : Instr)
  | field (bit : Nat)
  | truncated
deriving DecidableEq, Repr

/-- Splits the R format. -/
def splitR (x : Nat) : FieldsR :=
  ⟨x / 1024 % 32, x / 32768 % 32, x / 1048576 % 32, x / 33554432 % 32, x / 1073741824 % 4,
   x / 4294967296 % 65536, x / 281474976710656 % 65536⟩

/-- Splits the I format. -/
def splitI (x : Nat) : FieldsI :=
  ⟨x / 1024 % 32, x / 32768 % 32, x / 1048576 % 1024, x / 1073741824 % 4, x / 4294967296 % 4294967296⟩

/-- Splits the X format. -/
def splitX (x : Nat) : FieldsX :=
  ⟨x / 1024 % 32, x / 32768 % 32, x / 1048576 % 1024, x / 1073741824 % 4,
   x / 4294967296 % 18446744073709551616⟩

/-- Splits the Y format. -/
def splitY (x : Nat) : FieldsY :=
  ⟨x / 1024 % 32, x / 32768 % 32, x / 1048576 % 32, x / 33554432 % 32, x / 1073741824 % 4,
   x / 4294967296 % 4294967296, x / 18446744073709551616 % 18446744073709551616⟩

/-- Splits the M format. -/
def splitM (x : Nat) : FieldsM :=
  ⟨x / 1024 % 32, x / 32768 % 32, x / 1048576 % 32, x / 33554432 % 4, x / 134217728 % 8,
   x / 1073741824 % 4, x / 4294967296 % 8, x / 34359738368 % 2, x / 68719476736 % 16,
   x / 1099511627776 % 16777216⟩

/-- Splits the B format. -/
def splitB (x : Nat) : FieldsB :=
  ⟨x / 1024 % 32, x / 32768 % 32, x / 1048576 % 32, x / 33554432 % 32, x / 1073741824 % 4,
   x / 4294967296 % 4294967296⟩

/-- Splits the V format. -/
def splitV (x : Nat) : FieldsV :=
  ⟨x / 1024 % 16, x / 16384 % 16, x / 262144 % 16, x / 4194304 % 16, x / 67108864 % 8,
   x / 536870912 % 2, x / 1073741824 % 4, x / 4294967296 % 16, x / 68719476736 % 16,
   x / 1099511627776 % 8, x / 8796093022208 % 32, x / 281474976710656 % 65536⟩

/-- Splits the P format. -/
def splitP (x : Nat) : FieldsP :=
  ⟨x / 1024 % 32, x / 32768 % 32, x / 1048576 % 32, x / 33554432 % 32, x / 1073741824 % 4,
   x / 4294967296 % 65536, x / 281474976710656 % 16, x / 4503599627370496 % 4096,
   x / 2 ^ 64 % 4294967296, x / 2 ^ 96 % 4294967296, x / 2 ^ 128 % 4294967296,
   x / 2 ^ 160 % 4294967296⟩

/-- Packs the R format with its opcode and length code. -/
def packR (op : Nat) (f : FieldsR) : Nat :=
  4 * op + 1024 * f.d + 32768 * f.a + 1048576 * f.b + 33554432 * f.c + 1073741824 * f.w
    + 4294967296 * f.fn + 281474976710656 * f.z

/-- Packs the I format. -/
def packI (op : Nat) (f : FieldsI) : Nat :=
  4 * op + 1024 * f.d + 32768 * f.a + 1048576 * f.fn + 1073741824 * f.w + 4294967296 * f.imm

/-- Packs the X format. -/
def packX (op : Nat) (f : FieldsX) : Nat :=
  1 + 4 * op + 1024 * f.d + 32768 * f.a + 1048576 * f.fn + 1073741824 * f.w + 4294967296 * f.imm

/-- Packs the Y format. -/
def packY (op : Nat) (f : FieldsY) : Nat :=
  2 + 4 * op + 1024 * f.d + 32768 * f.a + 1048576 * f.b + 33554432 * f.c + 1073741824 * f.w
    + 4294967296 * f.fn + 18446744073709551616 * f.imm

/-- Packs the M format. -/
def packM (op : Nat) (f : FieldsM) : Nat :=
  4 * op + 1024 * f.d + 32768 * f.a + 1048576 * f.b + 33554432 * f.sc + 134217728 * f.sp
    + 1073741824 * f.w + 4294967296 * f.ord + 34359738368 * f.sg + 68719476736 * f.aop
    + 1099511627776 * f.off

/-- Packs the B format. -/
def packB (op : Nat) (f : FieldsB) : Nat :=
  4 * op + 1024 * f.cnd + 32768 * f.a + 1048576 * f.b + 33554432 * f.z + 1073741824 * f.w
    + 4294967296 * f.off

/-- Packs the V format. -/
def packV (op : Nat) (f : FieldsV) : Nat :=
  4 * op + 1024 * f.d + 16384 * f.a + 262144 * f.b + 4194304 * f.c + 67108864 * f.k
    + 536870912 * f.zm + 1073741824 * f.z + 4294967296 * f.et + 68719476736 * f.et2
    + 1099511627776 * f.rm + 8796093022208 * f.ga + 281474976710656 * f.fn

/-- Packs the P format. -/
def packP (op : Nat) (f : FieldsP) : Nat :=
  3 + 4 * op + 1024 * f.d + 32768 * f.a + 1048576 * f.b + 33554432 * f.c + 1073741824 * f.w
    + 4294967296 * f.fn + 281474976710656 * f.subst + 4503599627370496 * f.z
    + 2 ^ 64 * f.p0 + 2 ^ 96 * f.p1 + 2 ^ 128 * f.p2 + 2 ^ 160 * f.p3

/-- A general register field. -/
def rg (n : Nat) : Reg := Fin.ofNat 32 n
/-- A vector register field. -/
def vr (n : Nat) : VReg := Fin.ofNat 16 n
/-- A mask register field. -/
def kr (n : Nat) : KReg := Fin.ofNat 8 n
/-- The low bit of a field. -/
def bt (n : Nat) : Bool := n % 2 == 1
/-- Two bits of a field. -/
def fn4 (n : Nat) : Fin 4 := Fin.ofNat 4 n
/-- Three bits of a field. -/
def fn8 (n : Nat) : Fin 8 := Fin.ofNat 8 n
/-- Four bits of a field. -/
def fn16 (n : Nat) : Fin 16 := Fin.ofNat 16 n
/-- Six bits of a field. -/
def fn64 (n : Nat) : Fin 64 := Fin.ofNat 64 n
/-- A field length of EXT or INS; more than 64 is refused by its own check, as 0 is (05 R110: IMM32 is named). -/
def fn65 (n : Nat) : Fin 65 := Fin.ofNat 65 (min n 65)

/-- W (R42). -/
def wd (n : Nat) : Width :=
  match n % 4 with
  | 0 => .b8 | 1 => .b16 | 2 => .b32 | _ => .b64
/-- The code of a width (R42). -/
def Width.code : Width → Nat
  | .b8 => 0 | .b16 => 1 | .b32 => 2 | .b64 => 3

/-- CND codes 1 to 6 (R53). -/
def cnd (n : Nat) : Cond :=
  match n with
  | 1 => .eq | 2 => .ne | 3 => .lt | 4 => .ge | 5 => .ltu | _ => .geu
/-- The code of a condition (R53). -/
def Cond.code : Cond → Nat
  | .eq => 1 | .ne => 2 | .lt => 3 | .ge => 4 | .ltu => 5 | .geu => 6
/-- A CND code that CMP and CMPI refuse (05 R103, R109). -/
def condBad (n : Nat) : Bool := n == 0 || n > 6
/-- CND of a branch, 0 always (R46). -/
def brCond (n : Nat) : Option Cond := if n = 0 then none else some (cnd n)
/-- The CND code of a branch. -/
def brCode : Option Cond → Nat
  | none => 0
  | some c => c.code

/-- SP (R51); 7 is refused by its own check. -/
def spc (n : Nat) : SP :=
  match n with
  | 1 => .a | 2 => .c | 3 => .w | 4 => .glob | 5 => .dram | 6 => .ctx | _ => .g
/-- The code of a space (R51). -/
def SP.code : SP → Nat
  | .g => 0 | .a => 1 | .c => 2 | .w => 3 | .glob => 4 | .dram => 5 | .ctx => 6

/-- ORD (R52); 5 to 7 are refused by their own check. -/
def ordr (n : Nat) : Ord :=
  match n with
  | 1 => .acq | 2 => .rel | 3 => .acqrel | 4 => .counted | _ => .plain
/-- The code of an ordering (R52). -/
def Ord.code : Ord → Nat
  | .plain => 0 | .acq => 1 | .rel => 2 | .acqrel => 3 | .counted => 4

/-- AOP (R54); 9 to 15 are refused by their own check. -/
def aop (n : Nat) : Aop :=
  match n with
  | 1 => .and | 2 => .or | 3 => .xor | 4 => .min | 5 => .max | 6 => .minu | 7 => .maxu | 8 => .swap
  | _ => .add
/-- The code of an atomic operation (R54). -/
def Aop.code : Aop → Nat
  | .add => 0 | .and => 1 | .or => 2 | .xor => 3 | .min => 4 | .max => 5 | .minu => 6 | .maxu => 7
  | .swap => 8

/-- ET and ET2 (R55); 11 to 15 are refused by their own check. -/
def ety (n : Nat) : ET :=
  match n with
  | 1 => .i16 | 2 => .i32 | 3 => .n8 | 4 => .n16 | 5 => .n32 | 6 => .bf16 | 7 => .f16 | 8 => .f32
  | 9 => .e4m3 | 10 => .e5m2 | _ => .i8
/-- The code of an element type (R55). -/
def ET.code : ET → Nat
  | .i8 => 0 | .i16 => 1 | .i32 => 2 | .n8 => 3 | .n16 => 4 | .n32 => 5 | .bf16 => 6 | .f16 => 7
  | .f32 => 8 | .e4m3 => 9 | .e5m2 => 10

/-- A block-format code (R56); 8 to 15 are refused by the entries' checks. -/
def bfmt (n : Nat) : BFmt :=
  match n % 16 with
  | 0 => .zb2 | 1 => .zb4 | 2 => .zb7 | 3 => .mxfp4 | 4 => .e4m3 | 5 => .e5m2 | 6 => .bf16 | _ => .i8
/-- The code of a block format (R56). -/
def BFmt.code : BFmt → Nat
  | .zb2 => 0 | .zb4 => 1 | .zb7 => 2 | .mxfp4 => 3 | .e4m3 => 4 | .e5m2 => 5 | .bf16 => 6 | .i8 => 7

/-- RM (R57); 5 to 7 are refused by their own check. -/
def rmd (n : Nat) : RM :=
  match n with
  | 1 => .rtz | 2 => .rup | 3 => .rdn | 4 => .dyn | _ => .rne
/-- The code of a rounding mode (R57). -/
def RM.code : RM → Nat
  | .rne => 0 | .rtz => 1 | .rup => 2 | .rdn => 3 | .dyn => 4

/-- MUL FN[1:0] (05 R104). -/
def mulForm (n : Nat) : MulForm :=
  match n % 4 with
  | 0 => .lo | 1 => .hs | 2 => .hu | _ => .hsu
/-- The code of a MUL form. -/
def MulForm.code : MulForm → Nat
  | .lo => 0 | .hs => 1 | .hu => 2 | .hsu => 3

/-- TSELF FN[1:0] (04 R84). -/
def selfForm (n : Nat) : SelfForm :=
  match n % 4 with
  | 0 => .log | 1 => .bind | _ => .phys
/-- The code of a TSELF form. -/
def SelfForm.code : SelfForm → Nat
  | .log => 0 | .bind => 1 | .phys => 2

/-- PHASE FN[1:0] (09 R204). -/
def phaseForm (n : Nat) : PhaseForm :=
  match n % 4 with
  | 0 => .count | 1 => .mem | _ => .full
/-- The code of a PHASE form. -/
def PhaseForm.code : PhaseForm → Nat
  | .count => 0 | .mem => 1 | .full => 2

/-- MSTAT FN[1:0] (19 R344). -/
def mstatForm (n : Nat) : MstatForm :=
  match n % 4 with
  | 0 => .read | 1 => .clr | _ => .cfg
/-- The code of an MSTAT form. -/
def MstatForm.code : MstatForm → Nat
  | .read => 0 | .clr => 1 | .cfg => 2

/-- TLBI FN[1:0] (20 R363). -/
def tlbiForm (n : Nat) : TlbiForm :=
  match n % 4 with
  | 0 => .page | 1 => .all | _ => .bcast
/-- The code of a TLBI form. -/
def TlbiForm.code : TlbiForm → Nat
  | .page => 0 | .all => 1 | .bcast => 2

/-- SWR FN[1:0] (13 R271). -/
def swrForm (n : Nat) : SwrForm :=
  match n % 4 with
  | 0 => .write | 1 => .set | _ => .clr
/-- The code of an SWR form. -/
def SwrForm.code : SwrForm → Nat
  | .write => 0 | .set => 1 | .clr => 2

/-- VCMP FN16[2:0] (17 R306). -/
def vcond (n : Nat) : VCond :=
  match n % 8 with
  | 0 => .eq | 1 => .ne | 2 => .lt | 3 => .le | 4 => .gt | _ => .ge
/-- The code of a VCMP condition. -/
def VCond.code : VCond → Nat
  | .eq => 0 | .ne => 1 | .lt => 2 | .le => 3 | .gt => 4 | .ge => 5

/-- VRED and VSCAN FN16[1:0] (17 R306). -/
def redOp (n : Nat) : RedOp :=
  match n % 4 with
  | 0 => .add | 1 => .min | _ => .max
/-- The code of a combining operation. -/
def RedOp.code : RedOp → Nat
  | .add => 0 | .min => 1 | .max => 2

/-- The scope codes (08 R169); 7 is refused by its own check. -/
def scope (n : Nat) : Scope :=
  match n % 8 with
  | 0 => .thread | 1 => .core | 2 => .tile | 3 => .region | 4 => .die | 5 => .device | _ => .system
/-- The code of a scope (08 R169). -/
def Scope.code : Scope → Nat
  | .thread => 0 | .core => 1 | .tile => 2 | .region => 3 | .die => 4 | .device => 5 | .system => 6

/-- TSTART FN[1:0] (04 R84). -/
def engine (n : Nat) : Engine :=
  match n % 4 with
  | 0 => .scalar | 1 => .vector | 2 => .matrix | _ => .copy
/-- The code of an engine (04 R84). -/
def Engine.code : Engine → Nat
  | .scalar => 0 | .vector => 1 | .matrix => 2 | .copy => 3

/-- CPYX FN[2:0] (20 R363). -/
def cpyxForm (n : Nat) : CpyxForm :=
  if bt n then .reset (fn4 (n / 2)) else .handle
/-- FN of a CPYX. -/
def CpyxForm.code : CpyxForm → Nat
  | .handle => 0
  | .reset ch => 1 + 2 * ch.val

/-- The address fields of the M format (R45). -/
def adr (f : FieldsM) : Addr := ⟨rg f.a, rg f.b, fn4 f.sc, .ofNat 24 f.off⟩
/-- VD, K and ZM of the V format (R47). -/
def vd (f : FieldsV) : VDst := ⟨vr f.d, kr f.k, bt f.zm⟩
/-- SUBST, the parameter words and the semaphore fields of the P format (R48, 19 R336). -/
def par (f : FieldsP) : Params :=
  ⟨.ofNat 4 f.subst, .ofNat 32 f.p0, .ofNat 32 f.p1, .ofNat 32 f.p2, .ofNat 32 f.p3, fn16 f.fn,
   bt (f.fn / 16)⟩
/-- The P-format fields of a matrix instruction. -/
def parCode (p : Params) : FieldsP :=
  ⟨0, 0, 0, 0, 0, p.sem.val + 16 * p.sig.toNat, p.subst.toNat, 0, p.p0.toNat, p.p1.toNat, p.p2.toNat,
   p.p3.toNat⟩


/-- The format that the opcode map allots to an opcode (R58); none for reserved and permanently illegal opcodes. -/
def opFormat (op : Nat) : Option Format :=
  match op with
  | 0x01 | 0x03 | 0x04 | 0x05 | 0x06 | 0x07 | 0x09 | 0x0B | 0x0D | 0x0E | 0x10 | 0x12
  | 0x13 | 0x14 | 0x15 | 0x16 | 0x17 | 0x18 | 0x1A | 0x1D | 0x1E | 0x1F | 0x20 | 0x24
  | 0x25 | 0x26 | 0x27 | 0x30 | 0x33 | 0x34 | 0x37 | 0x39 | 0x3A | 0x3B | 0x4C | 0x51
  | 0x52 | 0x60 | 0x61 | 0x62 | 0x63 | 0x64 | 0x65 | 0x66 | 0x67 | 0x68 | 0x69 | 0x6A
  | 0x6B | 0x6C | 0x6D | 0x6E | 0x6F | 0x71 | 0x74 | 0x75 | 0x76 | 0x77 | 0x78 | 0x7D
  | 0x7E | 0x7F | 0xC0 | 0xC2 | 0xC4 | 0xC6 | 0xD0 | 0xD1 | 0xD2 | 0xD3 | 0xD4 | 0xD5 => some .r
  | 0x02 | 0x08 | 0x0A | 0x0C | 0x0F | 0x11 | 0x19 | 0x1B | 0x1C | 0x23 | 0x32 | 0x35
  | 0x38 | 0x72 | 0x79 | 0x7A | 0x7B | 0x7C => some .i
  | 0x21 | 0x36 => some .x
  | 0x70 => some .y
  | 0x22 | 0x40 | 0x41 | 0x42 | 0x43 | 0x44 | 0x45 | 0x46 | 0x47 | 0x48 | 0x49 | 0x4A
  | 0x4B | 0x4D | 0x4E | 0x4F | 0x50 => some .m
  | 0x31 => some .b
  | 0x73 | 0x80 | 0x81 | 0x82 | 0x83 | 0x84 | 0x85 | 0x86 | 0x87 | 0x88 | 0x89 | 0x8A
  | 0x8B | 0x8C | 0x8D | 0x8E | 0x8F | 0x90 | 0x91 | 0x92 | 0x93 | 0x94 | 0x95 | 0x96
  | 0x97 | 0x98 | 0x99 | 0x9A | 0x9B | 0x9C | 0x9D | 0x9E | 0x9F | 0xA0 | 0xA1 | 0xA2
  | 0xA3 | 0xA4 | 0xA5 | 0xA6 | 0xA7 | 0xA8 | 0xA9 | 0xAA | 0xAB => some .v
  | 0xC1 | 0xC3 | 0xC5 | 0xC7 => some .p
  | _ => none

/-- Format R: the checks of each entry's fields, and the instruction they give (03 R41 to R63 and the entries). -/
def readR (op : Nat) (f : FieldsR) : Checked :=
  match op with
  | 0x01 => ⟨[(25, f.c != 0), (32, f.fn != 0), (48, f.z != 0)],
      .add (wd f.w) (rg f.d) (rg f.a) (rg f.b)⟩
  | 0x03 => ⟨[(25, f.c != 0), (32, f.fn != 0), (48, f.z != 0)],
      .sub (wd f.w) (rg f.d) (rg f.a) (rg f.b)⟩
  | 0x04 => ⟨[(25, f.c != 0), (34, f.fn / 4 != 0), (48, f.z != 0)],
      .mul (wd f.w) (mulForm f.fn) (rg f.d) (rg f.a) (rg f.b)⟩
  | 0x05 => ⟨[(25, f.c != 0), (33, f.fn / 2 != 0), (48, f.z != 0)],
      .div (wd f.w) (bt f.fn) (rg f.d) (rg f.a) (rg f.b)⟩
  | 0x06 => ⟨[(25, f.c != 0), (33, f.fn / 2 != 0), (48, f.z != 0)],
      .rem (wd f.w) (bt f.fn) (rg f.d) (rg f.a) (rg f.b)⟩
  | 0x07 => ⟨[(25, f.c != 0), (32, f.fn != 0), (48, f.z != 0)],
      .and (wd f.w) (rg f.d) (rg f.a) (rg f.b)⟩
  | 0x09 => ⟨[(25, f.c != 0), (32, f.fn != 0), (48, f.z != 0)],
      .or (wd f.w) (rg f.d) (rg f.a) (rg f.b)⟩
  | 0x0B => ⟨[(25, f.c != 0), (32, f.fn != 0), (48, f.z != 0)],
      .xor (wd f.w) (rg f.d) (rg f.a) (rg f.b)⟩
  | 0x0D => ⟨[(25, f.c != 0), (32, f.fn != 0), (48, f.z != 0)],
      .andn (wd f.w) (rg f.d) (rg f.a) (rg f.b)⟩
  | 0x0E => ⟨[(25, f.c != 0), (32, f.fn != 0), (48, f.z != 0)],
      .shl (wd f.w) (rg f.d) (rg f.a) (rg f.b)⟩
  | 0x10 => ⟨[(25, f.c != 0), (33, f.fn / 2 != 0), (48, f.z != 0)],
      .shr (wd f.w) (bt f.fn) (rg f.d) (rg f.a) (rg f.b)⟩
  | 0x12 => ⟨[(25, f.c != 0), (33, f.fn / 2 != 0), (48, f.z != 0)],
      .rot (wd f.w) (bt f.fn) (rg f.d) (rg f.a) (rg f.b)⟩
  | 0x13 => ⟨[(20, f.b != 0), (25, f.c != 0), (32, f.fn != 0), (48, f.z != 0)],
      .clz (wd f.w) (rg f.d) (rg f.a)⟩
  | 0x14 => ⟨[(20, f.b != 0), (25, f.c != 0), (32, f.fn != 0), (48, f.z != 0)],
      .ctz (wd f.w) (rg f.d) (rg f.a)⟩
  | 0x15 => ⟨[(20, f.b != 0), (25, f.c != 0), (32, f.fn != 0), (48, f.z != 0)],
      .popc (wd f.w) (rg f.d) (rg f.a)⟩
  | 0x16 => ⟨[(25, f.c != 0), (33, f.fn / 2 != 0), (48, f.z != 0)],
      .min (wd f.w) (bt f.fn) (rg f.d) (rg f.a) (rg f.b)⟩
  | 0x17 => ⟨[(25, f.c != 0), (33, f.fn / 2 != 0), (48, f.z != 0)],
      .max (wd f.w) (bt f.fn) (rg f.d) (rg f.a) (rg f.b)⟩
  | 0x18 => ⟨[(25, f.c != 0), (32, condBad (f.fn % 32)), (37, f.fn / 32 != 0), (48, f.z != 0)],
      .cmp (wd f.w) (cnd (f.fn % 32)) (rg f.d) (rg f.a) (rg f.b)⟩
  | 0x1A => ⟨[(32, f.fn != 0), (48, f.z != 0)],
      .sel (wd f.w) (rg f.d) (rg f.a) (rg f.b) (rg f.c)⟩
  | 0x1D => ⟨[(20, f.b != 0), (25, f.c != 0), (32, f.fn != 0), (48, f.z != 0)],
      .bswap (wd f.w) (rg f.d) (rg f.a)⟩
  | 0x1E => ⟨[(25, f.c != 0), (33, f.fn / 2 != 0), (48, f.z != 0)],
      .adds (wd f.w) (bt f.fn) (rg f.d) (rg f.a) (rg f.b)⟩
  | 0x1F => ⟨[(25, f.c != 0), (33, f.fn / 2 != 0), (48, f.z != 0)],
      .subs (wd f.w) (bt f.fn) (rg f.d) (rg f.a) (rg f.b)⟩
  | 0x20 => ⟨[(32, f.fn != 0), (48, f.z != 0)],
      .madd (wd f.w) (rg f.d) (rg f.a) (rg f.b) (rg f.c)⟩
  | 0x24 => ⟨[(20, f.b != 0), (25, f.c != 0), (30, f.w != 0), (32, f.fn != 0), (48, f.z != 0)],
      .localq (rg f.d) (rg f.a)⟩
  | 0x25 => ⟨[(20, f.b != 0), (25, f.c != 0), (32, f.fn != 0), (48, f.z != 0)],
      .abs (wd f.w) (rg f.d) (rg f.a)⟩
  | 0x26 => ⟨[(20, f.b != 0), (25, f.c != 0), (32, f.fn != 0), (48, f.z != 0)],
      .sext (wd f.w) (rg f.d) (rg f.a)⟩
  | 0x27 => ⟨[(20, f.b != 0), (25, f.c != 0), (32, f.fn != 0), (48, f.z != 0)],
      .zext (wd f.w) (rg f.d) (rg f.a)⟩
  | 0x30 => ⟨[(10, f.d != 0), (15, f.a != 0), (20, f.b != 0), (25, f.c != 0), (30, f.w != 0), (32, f.fn != 0), (48, f.z != 0)],
      .nop⟩
  | 0x33 => ⟨[(10, f.d != 0), (20, f.b != 0), (25, f.c != 0), (30, f.w != 0), (32, f.fn != 0), (48, f.z != 0)],
      .jr (rg f.a)⟩
  | 0x34 => ⟨[(20, f.b != 0), (25, f.c != 0), (30, f.w != 0), (32, f.fn != 0), (48, f.z != 0)],
      .callr (rg f.d) (rg f.a)⟩
  | 0x37 => ⟨[(10, f.d != 0), (15, f.a != 0), (20, f.b != 0), (25, f.c != 0), (30, f.w != 0), (32, f.fn != 0), (48, f.z != 0)],
      .lbrk⟩
  | 0x39 => ⟨[(10, f.d != 0), (15, f.a != 0), (20, f.b != 0), (25, f.c != 0), (30, f.w != 0), (32, f.fn != 0), (48, f.z != 0)],
      .wdog⟩
  | 0x3A => ⟨[(10, f.d != 0), (15, f.a != 0), (20, f.b != 0), (25, f.c != 0), (30, f.w != 0), (32, f.fn != 0), (48, f.z != 0)],
      .yield⟩
  | 0x3B => ⟨[(10, f.d != 0), (20, f.b != 0), (25, f.c != 0), (30, f.w != 0), (32, f.fn != 0), (48, f.z != 0)],
      .halt (rg f.a)⟩
  | 0x4C => ⟨[(10, f.d != 0), (15, f.a != 0), (20, f.b != 0), (25, f.c != 0), (30, f.w != 0), (40, f.fn / 256 % 8 == 7), (43, f.fn / 2048 != 0), (48, f.z != 0)],
      .fence (.ofNat 8 f.fn) (scope (f.fn / 256))⟩
  | 0x51 => ⟨[(15, f.a != 0), (20, f.b != 0), (25, f.c != 0), (30, f.w != 0), (33, f.fn / 2 != 0), (48, f.z != 0)],
      .wqpop (bt f.fn) (rg f.d)⟩
  | 0x52 => ⟨[(25, f.c != 0), (30, f.w != 0), (34, f.fn / 4 != 0), (48, f.z != 0)],
      .wqpush (bt f.fn) (bt (f.fn / 2)) (rg f.d) (rg f.a) (rg f.b)⟩
  | 0x60 => ⟨[(10, f.d != 0), (15, f.a != 0), (20, f.b != 0), (25, f.c != 0), (30, f.w != 0), (32, f.fn != 0), (48, f.z != 0)],
      .wait⟩
  | 0x61 => ⟨[(15, f.a != 0), (20, f.b != 0), (25, f.c != 0), (30, f.w != 0), (32, f.fn % 4 == 3), (34, f.fn / 4 != 0), (48, f.z != 0)],
      .phase (phaseForm f.fn) (rg f.d)⟩
  | 0x62 => ⟨[(10, f.d != 0), (15, f.a != 0), (20, f.b != 0), (25, f.c != 0), (30, f.w != 0), (44, f.fn / 4096 != 0), (48, f.z != 0)],
      .semv (fn16 f.fn) (.ofNat 8 (f.fn / 16))⟩
  | 0x63 => ⟨[(10, f.d != 0), (15, f.a != 0), (20, f.b != 0), (25, f.c != 0), (30, f.w != 0), (36, f.fn / 16 != 0), (48, f.z != 0)],
      .semw (fn16 f.fn)⟩
  | 0x64 => ⟨[(10, f.d != 0), (25, f.c != 0), (30, f.w != 0), (35, f.fn / 8 != 0), (48, f.z != 0)],
      .send (fn4 f.fn) (bt (f.fn / 4)) (rg f.a) (rg f.b)⟩
  | 0x65 => ⟨[(20, f.b != 0), (25, f.c != 0), (30, f.w != 0), (33, f.fn / 2 != 0), (48, f.z != 0)],
      .recv (bt f.fn) (rg f.d) (rg f.a)⟩
  | 0x66 => ⟨[(25, f.c != 0), (30, f.w != 0), (34, f.fn / 4 != 0), (48, f.z != 0)],
      .rarm (fn4 f.fn) (rg f.d) (rg f.a) (rg f.b)⟩
  | 0x67 => ⟨[(15, f.a != 0), (20, f.b != 0), (25, f.c != 0), (30, f.w != 0), (35, f.fn / 8 != 0), (48, f.z != 0)],
      .mbx (rg f.d) (fn8 f.fn)⟩
  | 0x68 => ⟨[(10, f.d != 0), (25, f.c != 0), (30, f.w != 0), (35, f.fn / 8 != 0), (48, f.z != 0)],
      .mbxw (rg f.a) (rg f.b) (fn8 f.fn)⟩
  | 0x69 => ⟨[(20, f.b != 0), (25, f.c != 0), (30, f.w != 0), (35, f.fn / 8 != 0), (48, f.z != 0)],
      .rqpush (fn4 f.fn) (bt (f.fn / 4)) (rg f.d) (rg f.a)⟩
  | 0x6A => ⟨[(15, f.a != 0), (20, f.b != 0), (25, f.c != 0), (30, f.w != 0), (33, f.fn / 2 != 0), (48, f.z != 0)],
      .rqpop (bt f.fn) (rg f.d)⟩
  | 0x6B => ⟨[(30, f.w != 0), (34, f.fn / 4 != 0), (48, f.z != 0)],
      .tstart (engine f.fn) (rg f.d) (rg f.a) (rg f.b) (rg f.c)⟩
  | 0x6C => ⟨[(20, f.b != 0), (25, f.c != 0), (30, f.w != 0), (32, f.fn != 0), (48, f.z != 0)],
      .tstop (rg f.d) (rg f.a)⟩
  | 0x6D => ⟨[(20, f.b != 0), (25, f.c != 0), (30, f.w != 0), (33, f.fn / 2 != 0), (48, f.z != 0)],
      .treap (bt f.fn) (rg f.d) (rg f.a)⟩
  | 0x6E => ⟨[(20, f.b != 0), (25, f.c != 0), (30, f.w != 0), (32, f.fn != 0), (48, f.z != 0)],
      .tstat (rg f.d) (rg f.a)⟩
  | 0x6F => ⟨[(15, f.a != 0), (20, f.b != 0), (25, f.c != 0), (30, f.w != 0), (32, f.fn % 4 == 3), (34, f.fn / 4 != 0), (48, f.z != 0)],
      .tself (selfForm f.fn) (rg f.d)⟩
  | 0x71 => ⟨[(10, f.d != 0), (15, f.a != 0), (20, f.b != 0), (25, f.c != 0), (30, f.w != 0), (32, f.fn != 0), (48, f.z != 0)],
      .endh⟩
  | 0x74 => ⟨[(10, f.d != 0), (25, f.c != 0), (30, f.w != 0), (32, f.fn != 0), (48, f.z != 0)],
      .resume (rg f.a) (rg f.b)⟩
  | 0x75 => ⟨[(10, f.d != 0), (25, f.c != 0), (30, f.w != 0), (32, f.fn != 0), (48, f.z != 0)],
      .resumec (rg f.a) (rg f.b)⟩
  | 0x76 => ⟨[(10, f.d != 0), (20, f.b != 0), (25, f.c != 0), (30, f.w != 0), (32, f.fn != 0), (48, f.z != 0)],
      .discard (rg f.a)⟩
  | 0x77 => ⟨[(10, f.d != 0), (15, f.a != 0), (20, f.b != 0), (25, f.c != 0), (30, f.w != 0), (32, f.fn != 0), (48, f.z != 0)],
      .hexit⟩
  | 0x78 => ⟨[(20, f.b != 0), (25, f.c != 0), (30, f.w != 0), (32, f.fn != 0), (48, f.z != 0)],
      .tokq (rg f.d) (rg f.a)⟩
  | 0x7D => ⟨[(10, f.d != 0), (15, f.a != 0), (20, f.b != 0), (25, f.c != 0), (30, f.w != 0), (33, f.fn / 2 != 0), (48, f.z != 0)],
      .tret (bt f.fn)⟩
  | 0x7E => ⟨[(20, f.b != 0), (25, f.c != 0), (30, f.w != 0), (32, f.fn != 0), (48, f.z != 0)],
      .tkill (rg f.d) (rg f.a)⟩
  | 0x7F => ⟨[(20, f.b != 0), (25, f.c != 0), (30, f.w != 0), (33, f.fn / 2 != 0), (48, f.z != 0)],
      .pair (bt f.fn) (rg f.d) (rg f.a)⟩
  | 0xC0 => ⟨[(10, f.d != 0), (15, f.a != 0), (20, f.b != 0), (25, f.c != 0), (30, f.w != 0), (38, f.fn / 64 % 16 > 7), (42, f.fn / 1024 != 0), (48, f.z != 0)],
      .mcfg (.ofNat 4 f.fn) (fn4 (f.fn / 16)) (bfmt (f.fn / 64))⟩
  | 0xC2 => ⟨[(10, f.d != 0), (15, f.a != 0), (20, f.b != 0), (25, f.c != 0), (30, f.w != 0), (32, f.fn != 0), (48, f.z != 0)],
      .mswap⟩
  | 0xC4 => ⟨[(10, f.d != 0), (25, f.c != 0), (30, f.w != 0), (32, f.fn != 0), (48, f.z != 0)],
      .mzero (rg f.a) (rg f.b)⟩
  | 0xC6 => ⟨[(15, f.a != 0), (20, f.b != 0), (25, f.c != 0), (30, f.w != 0), (32, f.fn % 4 == 3), (34, f.fn / 4 != 0), (48, f.z != 0)],
      .mstat (mstatForm f.fn) (rg f.d)⟩
  | 0xD0 => ⟨[(15, f.a != 0), (20, f.b != 0), (25, f.c != 0), (30, f.w != 0), (33, f.fn / 2 != 0), (48, f.z != 0)],
      .cpy (bt f.fn) (rg f.d)⟩
  | 0xD1 => ⟨[(10, f.d != 0), (20, f.b != 0), (25, f.c != 0), (30, f.w != 0), (34, f.fn / 4 % 8 == 7), (37, f.fn / 32 != 0), (48, f.z != 0)],
      .cpyw (scope (f.fn / 4)) (fn4 f.fn) (rg f.a)⟩
  | 0xD2 => ⟨[(15, f.a != 0), (20, f.b != 0), (25, f.c != 0), (30, f.w != 0), (35, f.fn / 8 != 0), (48, f.z != 0)],
      .cpyq (bt (f.fn / 4)) (fn4 f.fn) (rg f.d)⟩
  | 0xD3 => ⟨[(20, f.b != 0), (25, f.c != 0), (30, f.w != 0), (33, f.fn % 2 == 0 && f.fn / 2 % 4 != 0), (35, f.fn / 8 != 0), (48, f.z != 0)],
      .cpyx (cpyxForm f.fn) (rg f.d) (rg f.a)⟩
  | 0xD4 => ⟨[(10, f.d != 0), (20, f.b != 0), (25, f.c != 0), (30, f.w != 0), (32, f.fn % 4 == 3), (34, f.fn / 4 != 0), (48, f.z != 0)],
      .tlbi (tlbiForm f.fn) (rg f.a)⟩
  | 0xD5 => ⟨[(20, f.b != 0), (25, f.c != 0), (30, f.w != 0), (33, f.fn / 2 != 0), (48, f.z != 0)],
      .xlat (bt f.fn) (rg f.d) (rg f.a)⟩
  | _ => ⟨[], .nop⟩

/-- Is a system register number allocated on an ordinary core (13 R258)? The numbers of the tile windows, 0x110 to 0x11F, are
allocated on no other core. -/
def sysKnown (r : Nat) : Bool :=
  r ≤ 0x005 || (0x010 ≤ r && r ≤ 0x014) || (0x020 ≤ r && r ≤ 0x023) || (0x030 ≤ r && r ≤ 0x032)
  || (0x040 ≤ r && r ≤ 0x048) || (0x050 ≤ r && r ≤ 0x063) || r = 0x070 || (0x100 ≤ r && r ≤ 0x10B)
  || (0x110 ≤ r && r ≤ 0x11F)

/-- Format I: the checks of each entry's fields, and the instruction they give (03 R41 to R63 and the entries). -/
def readI (op : Nat) (f : FieldsI) : Checked :=
  match op with
  | 0x02 => ⟨[(20, f.fn != 0)],
      .addi (wd f.w) (rg f.d) (rg f.a) (.ofNat 32 f.imm)⟩
  | 0x08 => ⟨[(20, f.fn != 0)],
      .andi (wd f.w) (rg f.d) (rg f.a) (.ofNat 32 f.imm)⟩
  | 0x0A => ⟨[(20, f.fn != 0)],
      .ori (wd f.w) (rg f.d) (rg f.a) (.ofNat 32 f.imm)⟩
  | 0x0C => ⟨[(20, f.fn != 0)],
      .xori (wd f.w) (rg f.d) (rg f.a) (.ofNat 32 f.imm)⟩
  | 0x0F => ⟨[(20, f.fn != 0), (32, f.imm > 63)],
      .shli (wd f.w) (rg f.d) (rg f.a) (fn64 f.imm)⟩
  | 0x11 => ⟨[(21, f.fn / 2 != 0), (32, f.imm > 63)],
      .shri (wd f.w) (bt f.fn) (rg f.d) (rg f.a) (fn64 f.imm)⟩
  | 0x19 => ⟨[(20, condBad (f.fn % 32)), (25, f.fn / 32 != 0)],
      .cmpi (wd f.w) (cnd (f.fn % 32)) (rg f.d) (rg f.a) (.ofNat 32 f.imm)⟩
  | 0x1B => ⟨[(27, f.fn / 128 != 0), (30, f.w != 3), (32, f.imm > 64)],
      .ext (bt (f.fn / 64)) (rg f.d) (rg f.a) (fn64 f.fn) (fn65 f.imm)⟩
  | 0x1C => ⟨[(26, f.fn / 64 != 0), (30, f.w != 3), (32, f.imm > 64)],
      .ins (rg f.d) (rg f.a) (fn64 f.fn) (fn65 f.imm)⟩
  | 0x23 => ⟨[(20, f.fn % 8 > 3), (25, f.fn / 32 != 0), (30, f.w != 0)],
      .gaddr (bt (f.fn / 16)) (bt (f.fn / 8)) (fn4 f.fn) (rg f.d) (rg f.a) (.ofNat 32 f.imm)⟩
  | 0x32 => ⟨[(15, f.a != 0), (20, f.fn != 0), (30, f.w != 0)],
      .call (rg f.d) (.ofNat 32 f.imm)⟩
  | 0x35 => ⟨[(10, f.d != 0), (20, f.fn != 0), (30, f.w != 0)],
      .loop (rg f.a) (.ofNat 32 f.imm)⟩
  | 0x38 => ⟨[(10, f.d != 0), (21, f.fn / 2 != 0), (30, f.w != 0)],
      .sleep (bt f.fn) (rg f.a) (.ofNat 32 f.imm)⟩
  | 0x72 => ⟨[(10, f.d != 0), (15, f.fn % 2 == 0 && f.a != 0), (21, f.fn / 2 != 0), (30, f.w != 0), (32, if bt f.fn then f.imm != 0 else f.imm / 65536 != 0)],
      .perform (if bt f.fn then .reg (rg f.a) else .imm (.ofNat 16 f.imm))⟩
  | 0x79 => ⟨[(15, f.a != 0), (20, f.fn != 0), (30, f.w != 0), (32, f.imm / 4096 != 0 && !sysKnown (f.imm % 4096)),
      (44, f.imm / 4096 != 0)],
      .srd (rg f.d) (.ofNat 12 f.imm)⟩
  | 0x7A => ⟨[(20, f.fn % 4 == 3), (22, f.fn / 4 != 0), (30, f.w != 0),
      (32, f.imm / 4096 != 0 && !sysKnown (f.imm % 4096)), (44, f.imm / 4096 != 0)],
      .swr (swrForm f.fn) (rg f.d) (rg f.a) (.ofNat 12 f.imm)⟩
  | 0x7B => ⟨[(10, f.d != 0), (15, f.a != 0), (20, f.fn != 0), (30, f.w != 0)],
      .svc (.ofNat 32 f.imm)⟩
  | 0x7C => ⟨[(10, f.d != 0), (15, f.a != 0), (20, f.fn != 0), (30, f.w != 0)],
      .hvc (.ofNat 32 f.imm)⟩
  | _ => ⟨[], .nop⟩

/-- Format X: the checks of each entry's fields, and the instruction they give (03 R41 to R63 and the entries). -/
def readX (op : Nat) (f : FieldsX) : Checked :=
  match op with
  | 0x21 => ⟨[(15, f.a != 0), (20, f.fn != 0), (30, f.w != 3)],
      .li (rg f.d) (.ofNat 64 f.imm)⟩
  | 0x36 => ⟨[(10, f.d != 0), (15, f.a != 0), (20, f.fn != 0), (30, f.w != 0)],
      .loopi (.ofNat 32 f.imm) (.ofNat 32 (f.imm / 4294967296))⟩
  | _ => ⟨[], .nop⟩

/-- Format Y: the checks of each entry's fields, and the instruction they give (03 R41 to R63 and the entries). -/
def readY (op : Nat) (f : FieldsY) : Checked :=
  match op with
  | 0x70 => ⟨[(10, f.d > 1), (15, f.a != 0), (20, f.b != 0), (25, f.c != 0), (30, f.w != 0)],
      .handle (bt f.d) (.ofNat 16 f.fn) (.ofNat 16 (f.fn / 65536)) (.ofNat 32 f.imm) (.ofNat 32 (f.imm / 4294967296))⟩
  | _ => ⟨[], .nop⟩

/-- Format M: the checks of each entry's fields, and the instruction they give (03 R41 to R63 and the entries). -/
def readM (op : Nat) (f : FieldsM) : Checked :=
  match op with
  | 0x22 => ⟨[(27, f.sp != 0), (30, f.w != 0), (32, f.ord != 0), (35, f.sg != 0), (36, f.aop != 0)],
      .lea (rg f.d) (adr f)⟩
  | 0x40 => ⟨[(27, f.sp == 7), (32, f.ord > 4), (36, f.aop != 0)],
      .ld (wd f.w) (bt f.sg) (ordr f.ord) (spc f.sp) (rg f.d) (adr f)⟩
  | 0x41 => ⟨[(27, f.sp == 7), (32, f.ord > 4), (35, f.sg != 0), (36, f.aop != 0)],
      .st (wd f.w) (ordr f.ord) (spc f.sp) (rg f.d) (adr f)⟩
  | 0x42 => ⟨[(27, f.sp == 7), (32, f.ord > 4), (36, f.aop != 0)],
      .ldm (wd f.w) (bt f.sg) (ordr f.ord) (spc f.sp) (rg f.d) (adr f)⟩
  | 0x43 => ⟨[(27, f.sp == 7), (32, f.ord > 4), (35, f.sg != 0), (36, f.aop != 0)],
      .stm (wd f.w) (ordr f.ord) (spc f.sp) (rg f.d) (adr f)⟩
  | 0x44 => ⟨[(27, f.sp == 7), (30, f.w != 3), (32, f.ord != 0), (35, f.sg != 0), (36, f.aop != 0)],
      .ldf (spc f.sp) (rg f.d) (adr f)⟩
  | 0x45 => ⟨[(27, f.sp == 7), (30, f.w != 3), (32, f.ord != 0), (35, f.sg != 0), (36, f.aop != 0)],
      .lde (spc f.sp) (rg f.d) (adr f)⟩
  | 0x46 => ⟨[(27, f.sp == 7), (30, f.w != 3), (32, f.ord != 0), (35, f.sg != 0), (36, f.aop != 0)],
      .stf (spc f.sp) (rg f.d) (adr f)⟩
  | 0x47 => ⟨[(27, f.sp == 7), (30, f.w != 3), (32, f.ord != 0), (35, f.sg != 0), (36, f.aop != 0)],
      .stff (spc f.sp) (rg f.d) (adr f)⟩
  | 0x48 => ⟨[(27, f.sp == 7), (30, f.w != 3), (32, f.ord != 0), (35, f.sg != 0), (36, f.aop != 0)],
      .tagq (spc f.sp) (rg f.d) (adr f)⟩
  | 0x49 => ⟨[(27, f.sp == 7), (30, f.w != 3), (32, f.ord != 0), (35, f.sg != 0), (36, f.aop != 0)],
      .tagset (spc f.sp) (rg f.d) (adr f)⟩
  | 0x4A => ⟨[(25, f.sc != 0), (27, f.sp == 7), (32, f.ord > 4), (35, f.sg != 0), (36, f.aop > 8)],
      .amo (wd f.w) (ordr f.ord) (aop f.aop) (spc f.sp) (rg f.d) (rg f.a) (rg f.b) (.ofNat 24 f.off)⟩
  | 0x4B => ⟨[(25, f.sc != 0), (27, f.sp == 7), (32, f.ord > 4), (35, f.sg != 0), (36, f.aop != 0)],
      .cas (wd f.w) (ordr f.ord) (spc f.sp) (rg f.d) (rg f.a) (rg f.b) (.ofNat 24 f.off)⟩
  | 0x4D => ⟨[(27, f.sp == 7), (30, f.w != 3), (32, f.ord != 0), (35, f.sg != 0), (36, f.aop != 0)],
      .racem (spc f.sp) (rg f.d) (adr f)⟩
  | 0x4E => ⟨[(27, f.sp != 5), (32, f.ord > 4), (36, f.aop != 0)],
      .dld (wd f.w) (bt f.sg) (ordr f.ord) (rg f.d) (adr f)⟩
  | 0x4F => ⟨[(27, f.sp != 5), (32, f.ord > 4), (35, f.sg != 0), (36, f.aop != 0)],
      .dst (wd f.w) (ordr f.ord) (rg f.d) (adr f)⟩
  | 0x50 => ⟨[(25, f.sc != 0), (27, f.sp != 5), (32, f.ord > 4), (35, f.sg != 0), (36, f.aop > 8)],
      .damo (wd f.w) (ordr f.ord) (aop f.aop) (rg f.d) (rg f.a) (rg f.b) (.ofNat 24 f.off)⟩
  | _ => ⟨[], .nop⟩

/-- Format B: the checks of each entry's fields, and the instruction they give (03 R41 to R63 and the entries). -/
def readB (op : Nat) (f : FieldsB) : Checked :=
  match op with
  | 0x31 => ⟨[(10, f.cnd > 6), (25, f.z != 0)],
      .br (wd f.w) (brCond f.cnd) (rg f.a) (rg f.b) (.ofNat 32 f.off)⟩
  | _ => ⟨[], .nop⟩

/-- Format V: the checks of each entry's fields, and the instruction they give (03 R41 to R63 and the entries). -/
def readV (op : Nat) (f : FieldsV) : Checked :=
  match op with
  | 0x73 => ⟨[(14, f.a != 0), (18, f.b != 0), (22, f.c != 0), (29, f.zm != 0), (30, f.z != 0), (32, f.et > 10), (36, f.et2 != f.et), (40, f.rm != 0), (43, f.ga != 0)],
      .vperform (ety f.et) (vr f.d) (kr f.k) (.ofNat 16 f.fn)⟩
  | 0x80 => ⟨[(22, f.c != 0), (30, f.z != 0), (32, f.et > 10), (36, f.et2 != f.et), (40, f.rm > 4), (43, f.ga != 0), (49, f.fn / 2 != 0)],
      .vadd (ety f.et) (rmd f.rm) (bt f.fn) (vd f) (vr f.a) (vr f.b)⟩
  | 0x81 => ⟨[(22, f.c != 0), (30, f.z != 0), (32, f.et > 10), (36, f.et2 != f.et), (40, f.rm > 4), (43, f.ga != 0), (49, f.fn / 2 != 0)],
      .vsub (ety f.et) (rmd f.rm) (bt f.fn) (vd f) (vr f.a) (vr f.b)⟩
  | 0x82 => ⟨[(22, f.c != 0), (30, f.z != 0), (32, f.et > 10), (36, f.et2 != f.et), (40, f.rm > 4), (43, f.ga != 0), (49, f.fn / 2 != 0)],
      .vmul (ety f.et) (rmd f.rm) (bt f.fn) (vd f) (vr f.a) (vr f.b)⟩
  | 0x83 => ⟨[(30, f.z != 0), (32, f.et > 10), (36, f.et2 != f.et), (40, f.rm > 4), (43, f.ga != 0), (48, f.fn != 0)],
      .vfma (ety f.et) (rmd f.rm) (vd f) (vr f.a) (vr f.b) (vr f.c)⟩
  | 0x84 => ⟨[(22, f.c != 0), (30, f.z != 0), (32, f.et > 10), (36, f.et2 != f.et), (40, f.rm > 4), (43, f.ga != 0), (48, f.fn != 0)],
      .vdiv (ety f.et) (rmd f.rm) (vd f) (vr f.a) (vr f.b)⟩
  | 0x85 => ⟨[(18, f.b != 0), (22, f.c != 0), (30, f.z != 0), (32, f.et > 10), (36, f.et2 != f.et), (40, f.rm > 4), (43, f.ga != 0), (48, f.fn != 0)],
      .vsqrt (ety f.et) (rmd f.rm) (vd f) (vr f.a)⟩
  | 0x86 => ⟨[(22, f.c != 0), (30, f.z != 0), (32, f.et > 10), (36, f.et2 != f.et), (40, f.rm != 0), (43, f.ga != 0), (48, f.fn != 0)],
      .vmin (ety f.et) (vd f) (vr f.a) (vr f.b)⟩
  | 0x87 => ⟨[(22, f.c != 0), (30, f.z != 0), (32, f.et > 10), (36, f.et2 != f.et), (40, f.rm != 0), (43, f.ga != 0), (48, f.fn != 0)],
      .vmax (ety f.et) (vd f) (vr f.a) (vr f.b)⟩
  | 0x88 => ⟨[(18, f.b != 0), (22, f.c != 0), (30, f.z != 0), (32, f.et > 10), (36, f.et2 != f.et), (40, f.rm != 0), (43, f.ga != 0), (48, f.fn != 0)],
      .vabs (ety f.et) (vd f) (vr f.a)⟩
  | 0x89 => ⟨[(18, f.b != 0), (22, f.c != 0), (30, f.z != 0), (32, f.et > 10), (36, f.et2 != f.et), (40, f.rm != 0), (43, f.ga != 0), (48, f.fn != 0)],
      .vneg (ety f.et) (vd f) (vr f.a)⟩
  | 0x8A => ⟨[(22, f.c != 0), (30, f.z != 0), (32, f.et > 10), (36, f.et2 != f.et), (40, f.rm != 0), (43, f.ga != 0), (48, f.fn != 0)],
      .vand (ety f.et) (vd f) (vr f.a) (vr f.b)⟩
  | 0x8B => ⟨[(22, f.c != 0), (30, f.z != 0), (32, f.et > 10), (36, f.et2 != f.et), (40, f.rm != 0), (43, f.ga != 0), (48, f.fn != 0)],
      .vor (ety f.et) (vd f) (vr f.a) (vr f.b)⟩
  | 0x8C => ⟨[(22, f.c != 0), (30, f.z != 0), (32, f.et > 10), (36, f.et2 != f.et), (40, f.rm != 0), (43, f.ga != 0), (48, f.fn != 0)],
      .vxor (ety f.et) (vd f) (vr f.a) (vr f.b)⟩
  | 0x8D => ⟨[(22, f.c != 0), (30, f.z != 0), (32, f.et > 10), (36, f.et2 != f.et), (40, f.rm != 0), (43, f.ga != 0), (48, f.fn != 0)],
      .vshl (ety f.et) (vd f) (vr f.a) (vr f.b)⟩
  | 0x8E => ⟨[(22, f.c != 0), (30, f.z != 0), (32, f.et > 10), (36, f.et2 != f.et), (40, f.rm != 0), (43, f.ga != 0), (48, f.fn != 0)],
      .vshr (ety f.et) (vd f) (vr f.a) (vr f.b)⟩
  | 0x8F => ⟨[(10, f.d > 7), (22, f.c != 0), (30, f.z != 0), (32, f.et > 10), (36, f.et2 != f.et), (40, f.rm != 0), (43, f.ga != 0), (48, f.fn % 8 > 5), (51, f.fn / 8 != 0)],
      .vcmp (ety f.et) (vcond f.fn) (kr f.d) (kr f.k) (bt f.zm) (vr f.a) (vr f.b)⟩
  | 0x90 => ⟨[(22, f.c != 0), (29, f.zm != 0), (30, f.z != 0), (32, f.et > 10), (36, f.et2 != f.et), (40, f.rm != 0), (43, f.ga != 0), (48, f.fn != 0)],
      .vsel (ety f.et) (vr f.d) (kr f.k) (vr f.a) (vr f.b)⟩
  | 0x91 => ⟨[(18, f.b != 0), (22, f.c != 0), (30, f.z != 0), (32, f.et > 10), (36, f.et2 > 10), (40, f.rm > 4), (43, f.ga != 0), (51, f.fn / 8 != 0)],
      .vcvt (ety f.et) (ety f.et2) (rmd f.rm) (fn4 f.fn) (bt (f.fn / 4)) (vd f) (vr f.a)⟩
  | 0x92 => ⟨[(22, f.c != 0), (30, f.z != 0), (32, f.et > 10), (36, f.et2 > 10), (40, f.rm > 4), (52, f.fn / 16 != 0)],
      .vquant (ety f.et) (ety f.et2) (rmd f.rm) (fn4 f.fn) (bt (f.fn / 4)) (bt (f.fn / 8)) (vd f) (vr f.a) (vr f.b) (rg f.ga)⟩
  | 0x93 => ⟨[(22, f.c != 0), (30, f.z != 0), (32, f.et > 10), (36, f.et2 > 10), (40, f.rm > 4), (51, f.fn / 8 != 0)],
      .vdeq (ety f.et) (ety f.et2) (rmd f.rm) (fn4 f.fn) (bt (f.fn / 4)) (vd f) (vr f.a) (vr f.b) (rg f.ga)⟩
  | 0x94 => ⟨[(18, f.b != 0), (22, f.c != 0), (29, f.zm != 0), (30, f.z != 0), (32, f.et > 10), (36, f.et2 != f.et), (40, f.rm > 4), (48, f.fn % 4 == 3), (51, f.fn / 8 != 0)],
      .vred (ety f.et) (rmd f.rm) (redOp f.fn) (bt (f.fn / 4)) (vr f.d) (kr f.k) (vr f.a) (rg f.ga)⟩
  | 0x95 => ⟨[(18, f.b != 0), (22, f.c != 0), (30, f.z != 0), (32, f.et > 10), (36, f.et2 != f.et), (40, f.rm > 4), (43, f.ga != 0), (48, f.fn % 4 == 3), (50, f.fn / 4 != 0)],
      .vscan (ety f.et) (rmd f.rm) (redOp f.fn) (vd f) (vr f.a)⟩
  | 0x96 => ⟨[(18, f.b != 0), (22, f.c != 0), (30, f.z != 0), (32, f.et > 10), (36, f.et2 != f.et), (40, f.rm != 0), (49, f.fn / 2 % 128 != 0)],
      .vbcast (ety f.et) (bt f.fn) (.ofNat 8 (f.fn / 256)) (vd f) (vr f.a) (rg f.ga)⟩
  | 0x97 => ⟨[(18, f.b != 0), (22, f.c != 0), (26, f.k != 0), (29, f.zm != 0), (30, f.z != 0), (32, f.et > 10), (36, f.et2 != f.et), (40, f.rm != 0), (10, f.fn / 128 % 2 == 0 && f.d != 0), (14, f.fn / 128 % 2 == 1 && f.a != 0), (56, f.fn / 256 != 0)],
      .vmovg (ety f.et) (bt (f.fn / 128)) (.ofNat 7 f.fn) (vr (if bt (f.fn / 128) then f.d else f.a)) (rg f.ga)⟩
  | 0x98 => ⟨[(30, f.z != 0), (32, f.et > 10), (36, f.et2 != f.et), (40, f.rm != 0), (43, f.ga != 0), (48, f.fn != 0)],
      .vshuf (ety f.et) (vd f) (vr f.a) (vr f.b) (vr f.c)⟩
  | 0x99 => ⟨[(18, f.b != 0), (30, f.z != 0), (32, f.et > 10), (36, f.et2 != f.et), (40, f.rm != 0), (58, f.fn / 1024 != 0)],
      .vslide (ety f.et) (.ofNat 8 f.fn) (bt (f.fn / 256)) (bt (f.fn / 512)) (vd f) (vr f.a) (vr f.c) (rg f.ga)⟩
  | 0x9A => ⟨[(14, f.a != 0), (18, f.b != 0), (22, f.c != 0), (30, f.z != 0), (32, f.et > 10), (36, f.et2 != f.et), (40, f.rm != 0), (43, f.ga != 0), (49, f.fn / 2 != 0)],
      .viota (ety f.et) (bt f.fn) (vd f)⟩
  | 0x9B => ⟨[(18, f.b != 0), (22, f.c != 0), (30, f.z != 0), (32, f.et > 10), (36, f.et2 > 10), (40, f.rm > 4), (43, f.ga != 0), (51, f.fn / 8 != 0)],
      .vtlu (ety f.et) (ety f.et2) (rmd f.rm) (fn4 f.fn) (bt (f.fn / 4)) (vd f) (vr f.a)⟩
  | 0x9C => ⟨[(10, f.d != 0), (14, f.a != 0), (18, f.b != 0), (22, f.c != 0), (26, f.k != 0), (29, f.zm != 0), (30, f.z != 0), (32, f.et != 0), (36, f.et2 != 0), (40, f.rm != 0), (50, f.fn / 4 != 0)],
      .vtcfg (fn4 f.fn) (rg f.ga)⟩
  | 0x9D => ⟨[(14, f.a != 0), (18, f.b != 0), (22, f.c != 0), (30, f.z != 0), (32, f.et > 10), (36, f.et2 != f.et), (40, f.rm != 0), (62, f.fn / 16384 == 0 || f.fn / 16384 == 3)],
      .vld (ety f.et) (bt (f.fn / 32768)) (.ofNat 14 f.fn) (vd f) (rg f.ga)⟩
  | 0x9E => ⟨[(14, f.a != 0), (18, f.b != 0), (22, f.c != 0), (29, f.zm != 0), (30, f.z != 0), (32, f.et > 10), (36, f.et2 != f.et), (40, f.rm != 0), (62, f.fn / 16384 == 0 || f.fn / 16384 == 3)],
      .vst (ety f.et) (bt (f.fn / 32768)) (.ofNat 14 f.fn) (vr f.d) (kr f.k) (rg f.ga)⟩
  | 0x9F => ⟨[(14, f.a != 0), (22, f.c != 0), (30, f.z != 0), (32, f.et > 10), (36, f.et2 != f.et), (40, f.rm != 0), (50, f.fn / 4 % 4096 != 0), (62, f.fn / 16384 == 0 || f.fn / 16384 == 3)],
      .vgath (ety f.et) (bt (f.fn / 32768)) (fn4 f.fn) (vd f) (vr f.b) (rg f.ga)⟩
  | 0xA0 => ⟨[(14, f.a != 0), (22, f.c != 0), (29, f.zm != 0), (30, f.z != 0), (32, f.et > 10), (36, f.et2 != f.et), (40, f.rm != 0), (50, f.fn / 4 % 4096 != 0), (62, f.fn / 16384 == 0 || f.fn / 16384 == 3)],
      .vscat (ety f.et) (bt (f.fn / 32768)) (fn4 f.fn) (vr f.d) (kr f.k) (vr f.b) (rg f.ga)⟩
  | 0xA1 => ⟨[(10, f.d > 7), (14, f.a > 7), (18, f.b > 7), (22, f.c != 0), (26, f.k != 0), (29, f.zm != 0), (30, f.z != 0), (32, f.et != 0), (36, f.et2 != 0), (40, f.rm != 0), (43, f.ga != 0), (48, f.fn != 0)],
      .kand (kr f.d) (kr f.a) (kr f.b)⟩
  | 0xA2 => ⟨[(10, f.d > 7), (14, f.a > 7), (18, f.b > 7), (22, f.c != 0), (26, f.k != 0), (29, f.zm != 0), (30, f.z != 0), (32, f.et != 0), (36, f.et2 != 0), (40, f.rm != 0), (43, f.ga != 0), (48, f.fn != 0)],
      .kor (kr f.d) (kr f.a) (kr f.b)⟩
  | 0xA3 => ⟨[(10, f.d > 7), (14, f.a > 7), (18, f.b > 7), (22, f.c != 0), (26, f.k != 0), (29, f.zm != 0), (30, f.z != 0), (32, f.et != 0), (36, f.et2 != 0), (40, f.rm != 0), (43, f.ga != 0), (48, f.fn != 0)],
      .kxor (kr f.d) (kr f.a) (kr f.b)⟩
  | 0xA4 => ⟨[(10, f.d > 7), (14, f.a > 7), (18, f.b != 0), (22, f.c != 0), (26, f.k != 0), (29, f.zm != 0), (30, f.z != 0), (32, f.et != 0), (36, f.et2 != 0), (40, f.rm != 0), (43, f.ga != 0), (48, f.fn != 0)],
      .knot (kr f.d) (kr f.a)⟩
  | 0xA5 => ⟨[(10, f.d != 0), (14, f.a > 7), (18, f.b != 0), (22, f.c != 0), (26, f.k != 0), (29, f.zm != 0), (30, f.z != 0), (32, f.et > 10), (36, f.et2 != f.et), (40, f.rm != 0), (48, f.fn != 0)],
      .kpop (ety f.et) (kr f.a) (rg f.ga)⟩
  | 0xA6 => ⟨[(10, f.d > 7), (14, f.a != 0), (18, f.b != 0), (22, f.c != 0), (26, f.k != 0), (29, f.zm != 0), (30, f.z != 0), (32, f.et > 10), (36, f.et2 != f.et), (40, f.rm != 0), (48, f.fn != 0)],
      .kset (ety f.et) (kr f.d) (rg f.ga)⟩
  | 0xA7 => ⟨[(10, f.d != 0), (14, f.a > 7), (18, f.b != 0), (22, f.c != 0), (26, f.k != 0), (29, f.zm != 0), (30, f.z != 0), (32, f.et > 10), (36, f.et2 != f.et), (40, f.rm != 0), (48, f.fn != 0)],
      .kfirst (ety f.et) (kr f.a) (rg f.ga)⟩
  | 0xA8 => ⟨[(18, f.b != 0), (22, f.c != 0), (26, f.k != 0), (29, f.zm != 0), (30, f.z != 0), (32, f.et > 10), (36, f.et2 != f.et), (40, f.rm > 4), (43, f.ga != 0), (48, f.fn % 16 > 3), (52, f.fn / 16 % 16 != 0)],
      .vpack (ety f.et) (rmd f.rm) (bfmt f.fn) (.ofNat 8 (f.fn / 256)) (vr f.d) (vr f.a)⟩
  | 0xA9 => ⟨[(18, f.b != 0), (22, f.c != 0), (30, f.z != 0), (32, f.et > 10), (36, f.et2 != f.et), (40, f.rm > 4), (43, f.ga != 0), (48, f.fn % 16 > 3), (52, f.fn / 16 % 16 != 0)],
      .vunpk (ety f.et) (rmd f.rm) (bfmt f.fn) (.ofNat 8 (f.fn / 256)) (vd f) (vr f.a)⟩
  | 0xAA => ⟨[(10, f.d > 7), (18, f.b != 0), (22, f.c != 0), (30, f.z != 0), (32, f.et > 10), (36, f.et2 != f.et), (40, f.rm != 0), (43, f.ga != 0), (58, f.fn / 1024 != 0)],
      .vclass (ety f.et) (.ofNat 10 f.fn) (kr f.d) (kr f.k) (bt f.zm) (vr f.a)⟩
  | 0xAB => ⟨[(18, f.b != 0), (22, f.c != 0), (26, f.k != 0), (29, f.zm != 0), (30, f.z != 0), (32, f.et != 0), (36, f.et2 != 0), (40, f.rm != 0), (10, if bt f.fn then f.d > 7 else f.d != 0), (14, if bt f.fn then f.a != 0 else f.a > 7), (50, f.fn / 4 != 0)],
      .kmovg (bt f.fn) (bt (f.fn / 2)) (kr (if bt f.fn then f.d else f.a)) (rg f.ga)⟩
  | _ => ⟨[], .nop⟩

/-- Format P: the checks of each entry's fields, and the instruction they give (03 R41 to R63 and the entries). -/
def readP (op : Nat) (f : FieldsP) : Checked :=
  match op with
  | 0xC1 => ⟨[(10, f.d != 0), (15, f.a != 0), (20, f.b != 0), (25, f.c != 0), (30, f.w != 0), (37, f.fn / 32 != 0), (52, f.z != 0)],
      .mldb (par f)⟩
  | 0xC3 => ⟨[(10, f.d != 0), (15, f.a != 0), (20, f.b != 0), (25, f.c != 0), (30, f.w != 0), (37, f.fn / 32 != 0), (52, f.z != 0)],
      .mmul (par f)⟩
  | 0xC5 => ⟨[(10, f.d != 0), (15, f.a != 0), (20, f.b != 0), (25, f.c != 0), (30, f.w != 0), (37, f.fn / 32 != 0), (52, f.z != 0)],
      .mout (par f)⟩
  | 0xC7 => ⟨[(10, f.d != 0), (15, f.a != 0), (20, f.b != 0), (25, f.c != 0), (30, f.w != 0), (37, f.fn / 32 != 0), (52, f.z != 0)],
      .mred (par f)⟩
  | _ => ⟨[], .nop⟩

/-- The words of an instruction as one number, instruction bit n at bit n (R37); 0 for a step of the machine, which
has no words. -/
def encodeNat : Instr → Nat
  | .add w d a b => packR 0x01 ⟨d.val, a.val, b.val, 0, w.code, 0, 0⟩
  | .addi w d a i => packI 0x02 ⟨d.val, a.val, 0, w.code, i.toNat⟩
  | .sub w d a b => packR 0x03 ⟨d.val, a.val, b.val, 0, w.code, 0, 0⟩
  | .mul w m d a b => packR 0x04 ⟨d.val, a.val, b.val, 0, w.code, m.code, 0⟩
  | .div w s d a b => packR 0x05 ⟨d.val, a.val, b.val, 0, w.code, s.toNat, 0⟩
  | .rem w s d a b => packR 0x06 ⟨d.val, a.val, b.val, 0, w.code, s.toNat, 0⟩
  | .and w d a b => packR 0x07 ⟨d.val, a.val, b.val, 0, w.code, 0, 0⟩
  | .andi w d a i => packI 0x08 ⟨d.val, a.val, 0, w.code, i.toNat⟩
  | .or w d a b => packR 0x09 ⟨d.val, a.val, b.val, 0, w.code, 0, 0⟩
  | .ori w d a i => packI 0x0A ⟨d.val, a.val, 0, w.code, i.toNat⟩
  | .xor w d a b => packR 0x0B ⟨d.val, a.val, b.val, 0, w.code, 0, 0⟩
  | .xori w d a i => packI 0x0C ⟨d.val, a.val, 0, w.code, i.toNat⟩
  | .andn w d a b => packR 0x0D ⟨d.val, a.val, b.val, 0, w.code, 0, 0⟩
  | .shl w d a b => packR 0x0E ⟨d.val, a.val, b.val, 0, w.code, 0, 0⟩
  | .shli w d a n => packI 0x0F ⟨d.val, a.val, 0, w.code, n.val⟩
  | .shr w s d a b => packR 0x10 ⟨d.val, a.val, b.val, 0, w.code, s.toNat, 0⟩
  | .shri w s d a n => packI 0x11 ⟨d.val, a.val, s.toNat, w.code, n.val⟩
  | .rot w s d a b => packR 0x12 ⟨d.val, a.val, b.val, 0, w.code, s.toNat, 0⟩
  | .clz w d a => packR 0x13 ⟨d.val, a.val, 0, 0, w.code, 0, 0⟩
  | .ctz w d a => packR 0x14 ⟨d.val, a.val, 0, 0, w.code, 0, 0⟩
  | .popc w d a => packR 0x15 ⟨d.val, a.val, 0, 0, w.code, 0, 0⟩
  | .min w s d a b => packR 0x16 ⟨d.val, a.val, b.val, 0, w.code, s.toNat, 0⟩
  | .max w s d a b => packR 0x17 ⟨d.val, a.val, b.val, 0, w.code, s.toNat, 0⟩
  | .cmp w c d a b => packR 0x18 ⟨d.val, a.val, b.val, 0, w.code, c.code, 0⟩
  | .cmpi w c d a i => packI 0x19 ⟨d.val, a.val, c.code, w.code, i.toNat⟩
  | .sel w d a b c => packR 0x1A ⟨d.val, a.val, b.val, c.val, w.code, 0, 0⟩
  | .ext s d a p n => packI 0x1B ⟨d.val, a.val, p.val + 64 * s.toNat, 3, n.val⟩
  | .ins d a p n => packI 0x1C ⟨d.val, a.val, p.val, 3, n.val⟩
  | .bswap w d a => packR 0x1D ⟨d.val, a.val, 0, 0, w.code, 0, 0⟩
  | .adds w s d a b => packR 0x1E ⟨d.val, a.val, b.val, 0, w.code, s.toNat, 0⟩
  | .subs w s d a b => packR 0x1F ⟨d.val, a.val, b.val, 0, w.code, s.toNat, 0⟩
  | .madd w d a b c => packR 0x20 ⟨d.val, a.val, b.val, c.val, w.code, 0, 0⟩
  | .li d i => packX 0x21 ⟨d.val, 0, 0, 3, i.toNat⟩
  | .lea d m => packM 0x22 ⟨d.val, m.a.val, m.b.val, m.sc.val, 0, 0, 0, 0, 0, m.off.toNat⟩
  | .gaddr ph sf sp d a o => packI 0x23 ⟨d.val, a.val, sp.val + 8 * sf.toNat + 16 * ph.toNat, 0, o.toNat⟩
  | .localq d a => packR 0x24 ⟨d.val, a.val, 0, 0, 0, 0, 0⟩
  | .abs w d a => packR 0x25 ⟨d.val, a.val, 0, 0, w.code, 0, 0⟩
  | .sext w d a => packR 0x26 ⟨d.val, a.val, 0, 0, w.code, 0, 0⟩
  | .zext w d a => packR 0x27 ⟨d.val, a.val, 0, 0, w.code, 0, 0⟩
  | .nop => packR 0x30 ⟨0, 0, 0, 0, 0, 0, 0⟩
  | .br w c a b o => packB 0x31 ⟨brCode c, a.val, b.val, 0, w.code, o.toNat⟩
  | .call d o => packI 0x32 ⟨d.val, 0, 0, 0, o.toNat⟩
  | .jr a => packR 0x33 ⟨0, a.val, 0, 0, 0, 0, 0⟩
  | .callr d a => packR 0x34 ⟨d.val, a.val, 0, 0, 0, 0, 0⟩
  | .loop a o => packI 0x35 ⟨0, a.val, 0, 0, o.toNat⟩
  | .loopi o n => packX 0x36 ⟨0, 0, 0, 0, o.toNat + 4294967296 * n.toNat⟩
  | .lbrk => packR 0x37 ⟨0, 0, 0, 0, 0, 0, 0⟩
  | .sleep ab a i => packI 0x38 ⟨0, a.val, ab.toNat, 0, i.toNat⟩
  | .wdog => packR 0x39 ⟨0, 0, 0, 0, 0, 0, 0⟩
  | .yield => packR 0x3A ⟨0, 0, 0, 0, 0, 0, 0⟩
  | .halt a => packR 0x3B ⟨0, a.val, 0, 0, 0, 0, 0⟩
  | .ld w s o sp d m => packM 0x40 ⟨d.val, m.a.val, m.b.val, m.sc.val, sp.code, w.code, o.code, s.toNat, 0, m.off.toNat⟩
  | .st w o sp d m => packM 0x41 ⟨d.val, m.a.val, m.b.val, m.sc.val, sp.code, w.code, o.code, 0, 0, m.off.toNat⟩
  | .ldm w s o sp d m => packM 0x42 ⟨d.val, m.a.val, m.b.val, m.sc.val, sp.code, w.code, o.code, s.toNat, 0, m.off.toNat⟩
  | .stm w o sp d m => packM 0x43 ⟨d.val, m.a.val, m.b.val, m.sc.val, sp.code, w.code, o.code, 0, 0, m.off.toNat⟩
  | .ldf sp d m => packM 0x44 ⟨d.val, m.a.val, m.b.val, m.sc.val, sp.code, 3, 0, 0, 0, m.off.toNat⟩
  | .lde sp d m => packM 0x45 ⟨d.val, m.a.val, m.b.val, m.sc.val, sp.code, 3, 0, 0, 0, m.off.toNat⟩
  | .stf sp d m => packM 0x46 ⟨d.val, m.a.val, m.b.val, m.sc.val, sp.code, 3, 0, 0, 0, m.off.toNat⟩
  | .stff sp d m => packM 0x47 ⟨d.val, m.a.val, m.b.val, m.sc.val, sp.code, 3, 0, 0, 0, m.off.toNat⟩
  | .tagq sp d m => packM 0x48 ⟨d.val, m.a.val, m.b.val, m.sc.val, sp.code, 3, 0, 0, 0, m.off.toNat⟩
  | .tagset sp d m => packM 0x49 ⟨d.val, m.a.val, m.b.val, m.sc.val, sp.code, 3, 0, 0, 0, m.off.toNat⟩
  | .amo w o op sp d a b off => packM 0x4A ⟨d.val, a.val, b.val, 0, sp.code, w.code, o.code, 0, op.code, off.toNat⟩
  | .cas w o sp d a b off => packM 0x4B ⟨d.val, a.val, b.val, 0, sp.code, w.code, o.code, 0, 0, off.toNat⟩
  | .fence cl sc => packR 0x4C ⟨0, 0, 0, 0, 0, cl.toNat + 256 * sc.code, 0⟩
  | .racem sp d m => packM 0x4D ⟨d.val, m.a.val, m.b.val, m.sc.val, sp.code, 3, 0, 0, 0, m.off.toNat⟩
  | .dld w s o d m => packM 0x4E ⟨d.val, m.a.val, m.b.val, m.sc.val, 5, w.code, o.code, s.toNat, 0, m.off.toNat⟩
  | .dst w o d m => packM 0x4F ⟨d.val, m.a.val, m.b.val, m.sc.val, 5, w.code, o.code, 0, 0, m.off.toNat⟩
  | .damo w o op d a b off => packM 0x50 ⟨d.val, a.val, b.val, 0, 5, w.code, o.code, 0, op.code, off.toNat⟩
  | .wqpop t d => packR 0x51 ⟨d.val, 0, 0, 0, 0, t.toNat, 0⟩
  | .wqpush far cl d a b => packR 0x52 ⟨d.val, a.val, b.val, 0, 0, far.toNat + 2 * cl.toNat, 0⟩
  | .wait => packR 0x60 ⟨0, 0, 0, 0, 0, 0, 0⟩
  | .phase m d => packR 0x61 ⟨d.val, 0, 0, 0, 0, m.code, 0⟩
  | .semv s n => packR 0x62 ⟨0, 0, 0, 0, 0, s.val + 16 * n.toNat, 0⟩
  | .semw s => packR 0x63 ⟨0, 0, 0, 0, 0, s.val, 0⟩
  | .send n far a b => packR 0x64 ⟨0, a.val, b.val, 0, 0, n.val + 4 * far.toNat, 0⟩
  | .recv t d a => packR 0x65 ⟨d.val, a.val, 0, 0, 0, t.toNat, 0⟩
  | .rarm p d a b => packR 0x66 ⟨d.val, a.val, b.val, 0, 0, p.val, 0⟩
  | .mbx d n => packR 0x67 ⟨d.val, 0, 0, 0, 0, n.val, 0⟩
  | .mbxw a b n => packR 0x68 ⟨0, a.val, b.val, 0, 0, n.val, 0⟩
  | .rqpush p t d a => packR 0x69 ⟨d.val, a.val, 0, 0, 0, p.val + 4 * t.toNat, 0⟩
  | .rqpop t d => packR 0x6A ⟨d.val, 0, 0, 0, 0, t.toNat, 0⟩
  | .tstart e d a b c => packR 0x6B ⟨d.val, a.val, b.val, c.val, 0, e.code, 0⟩
  | .tstop d a => packR 0x6C ⟨d.val, a.val, 0, 0, 0, 0, 0⟩
  | .treap t d a => packR 0x6D ⟨d.val, a.val, 0, 0, 0, t.toNat, 0⟩
  | .tstat d a => packR 0x6E ⟨d.val, a.val, 0, 0, 0, 0, 0⟩
  | .tself m d => packR 0x6F ⟨d.val, 0, 0, 0, 0, m.code, 0⟩
  | .handle mu id mk h e => packY 0x70 ⟨mu.toNat, 0, 0, 0, 0, id.toNat + 65536 * mk.toNat, h.toNat + 4294967296 * e.toNat⟩
  | .endh => packR 0x71 ⟨0, 0, 0, 0, 0, 0, 0⟩
  | .perform (.imm id) => packI 0x72 ⟨0, 0, 0, 0, id.toNat⟩
  | .perform (.reg a) => packI 0x72 ⟨0, a.val, 1, 0, 0⟩
  | .vperform t d k id => packV 0x73 ⟨d.val, 0, 0, 0, k.val, 0, 0, t.code, t.code, 0, 0, id.toNat⟩
  | .resume a b => packR 0x74 ⟨0, a.val, b.val, 0, 0, 0, 0⟩
  | .resumec a b => packR 0x75 ⟨0, a.val, b.val, 0, 0, 0, 0⟩
  | .discard a => packR 0x76 ⟨0, a.val, 0, 0, 0, 0, 0⟩
  | .hexit => packR 0x77 ⟨0, 0, 0, 0, 0, 0, 0⟩
  | .tokq d a => packR 0x78 ⟨d.val, a.val, 0, 0, 0, 0, 0⟩
  | .srd d r => packI 0x79 ⟨d.val, 0, 0, 0, r.toNat⟩
  | .swr m d a r => packI 0x7A ⟨d.val, a.val, m.code, 0, r.toNat⟩
  | .svc n => packI 0x7B ⟨0, 0, 0, 0, n.toNat⟩
  | .hvc n => packI 0x7C ⟨0, 0, 0, 0, n.toNat⟩
  | .tret t => packR 0x7D ⟨0, 0, 0, 0, 0, t.toNat, 0⟩
  | .tkill d a => packR 0x7E ⟨d.val, a.val, 0, 0, 0, 0, 0⟩
  | .pair t d a => packR 0x7F ⟨d.val, a.val, 0, 0, 0, t.toNat, 0⟩
  | .vadd t r s x a b => packV 0x80 ⟨x.d.val, a.val, b.val, 0, x.k.val, x.zm.toNat, 0, t.code, t.code, r.code, 0, s.toNat⟩
  | .vsub t r s x a b => packV 0x81 ⟨x.d.val, a.val, b.val, 0, x.k.val, x.zm.toNat, 0, t.code, t.code, r.code, 0, s.toNat⟩
  | .vmul t r s x a b => packV 0x82 ⟨x.d.val, a.val, b.val, 0, x.k.val, x.zm.toNat, 0, t.code, t.code, r.code, 0, s.toNat⟩
  | .vfma t r x a b c => packV 0x83 ⟨x.d.val, a.val, b.val, c.val, x.k.val, x.zm.toNat, 0, t.code, t.code, r.code, 0, 0⟩
  | .vdiv t r x a b => packV 0x84 ⟨x.d.val, a.val, b.val, 0, x.k.val, x.zm.toNat, 0, t.code, t.code, r.code, 0, 0⟩
  | .vsqrt t r x a => packV 0x85 ⟨x.d.val, a.val, 0, 0, x.k.val, x.zm.toNat, 0, t.code, t.code, r.code, 0, 0⟩
  | .vmin t x a b => packV 0x86 ⟨x.d.val, a.val, b.val, 0, x.k.val, x.zm.toNat, 0, t.code, t.code, 0, 0, 0⟩
  | .vmax t x a b => packV 0x87 ⟨x.d.val, a.val, b.val, 0, x.k.val, x.zm.toNat, 0, t.code, t.code, 0, 0, 0⟩
  | .vabs t x a => packV 0x88 ⟨x.d.val, a.val, 0, 0, x.k.val, x.zm.toNat, 0, t.code, t.code, 0, 0, 0⟩
  | .vneg t x a => packV 0x89 ⟨x.d.val, a.val, 0, 0, x.k.val, x.zm.toNat, 0, t.code, t.code, 0, 0, 0⟩
  | .vand t x a b => packV 0x8A ⟨x.d.val, a.val, b.val, 0, x.k.val, x.zm.toNat, 0, t.code, t.code, 0, 0, 0⟩
  | .vor t x a b => packV 0x8B ⟨x.d.val, a.val, b.val, 0, x.k.val, x.zm.toNat, 0, t.code, t.code, 0, 0, 0⟩
  | .vxor t x a b => packV 0x8C ⟨x.d.val, a.val, b.val, 0, x.k.val, x.zm.toNat, 0, t.code, t.code, 0, 0, 0⟩
  | .vshl t x a b => packV 0x8D ⟨x.d.val, a.val, b.val, 0, x.k.val, x.zm.toNat, 0, t.code, t.code, 0, 0, 0⟩
  | .vshr t x a b => packV 0x8E ⟨x.d.val, a.val, b.val, 0, x.k.val, x.zm.toNat, 0, t.code, t.code, 0, 0, 0⟩
  | .vcmp t c kd k zm a b => packV 0x8F ⟨kd.val, a.val, b.val, 0, k.val, zm.toNat, 0, t.code, t.code, 0, 0, c.code⟩
  | .vsel t d k a b => packV 0x90 ⟨d.val, a.val, b.val, 0, k.val, 0, 0, t.code, t.code, 0, 0, 0⟩
  | .vcvt t t2 r h s x a => packV 0x91 ⟨x.d.val, a.val, 0, 0, x.k.val, x.zm.toNat, 0, t.code, t2.code, r.code, 0, h.val + 4 * s.toNat⟩
  | .vquant t t2 r h gs s x a b ga => packV 0x92 ⟨x.d.val, a.val, b.val, 0, x.k.val, x.zm.toNat, 0, t.code, t2.code, r.code, ga.val, h.val + 4 * gs.toNat + 8 * s.toNat⟩
  | .vdeq t t2 r h gs x a b ga => packV 0x93 ⟨x.d.val, a.val, b.val, 0, x.k.val, x.zm.toNat, 0, t.code, t2.code, r.code, ga.val, h.val + 4 * gs.toNat⟩
  | .vred t r op wi d k a ga => packV 0x94 ⟨d.val, a.val, 0, 0, k.val, 0, 0, t.code, t.code, r.code, ga.val, op.code + 4 * wi.toNat⟩
  | .vscan t r op x a => packV 0x95 ⟨x.d.val, a.val, 0, 0, x.k.val, x.zm.toNat, 0, t.code, t.code, r.code, 0, op.code⟩
  | .vbcast t fl ln x a ga => packV 0x96 ⟨x.d.val, a.val, 0, 0, x.k.val, x.zm.toNat, 0, t.code, t.code, 0, ga.val, fl.toNat + 256 * ln.toNat⟩
  | .vmovg t ins ln v ga => packV 0x97 ⟨if ins then v.val else 0, if ins then 0 else v.val, 0, 0, 0, 0, 0, t.code, t.code, 0, ga.val, ln.toNat + 128 * ins.toNat⟩
  | .vshuf t x a b c => packV 0x98 ⟨x.d.val, a.val, b.val, c.val, x.k.val, x.zm.toNat, 0, t.code, t.code, 0, 0, 0⟩
  | .vslide t n up fg x a c ga => packV 0x99 ⟨x.d.val, a.val, 0, c.val, x.k.val, x.zm.toNat, 0, t.code, t.code, 0, ga.val, n.toNat + 256 * up.toNat + 512 * fg.toNat⟩
  | .viota t ix x => packV 0x9A ⟨x.d.val, 0, 0, 0, x.k.val, x.zm.toNat, 0, t.code, t.code, 0, 0, ix.toNat⟩
  | .vtlu t t2 r sl e x a => packV 0x9B ⟨x.d.val, a.val, 0, 0, x.k.val, x.zm.toNat, 0, t.code, t2.code, r.code, 0, sl.val + 4 * e.toNat⟩
  | .vtcfg sl ga => packV 0x9C ⟨0, 0, 0, 0, 0, 0, 0, 0, 0, 0, ga.val, sl.val⟩
  | .vld t inC off x ga => packV 0x9D ⟨x.d.val, 0, 0, 0, x.k.val, x.zm.toNat, 0, t.code, t.code, 0, ga.val, off.toNat + (if inC then 32768 else 16384)⟩
  | .vst t inC off d k ga => packV 0x9E ⟨d.val, 0, 0, 0, k.val, 0, 0, t.code, t.code, 0, ga.val, off.toNat + (if inC then 32768 else 16384)⟩
  | .vgath t inC sh x b ga => packV 0x9F ⟨x.d.val, 0, b.val, 0, x.k.val, x.zm.toNat, 0, t.code, t.code, 0, ga.val, sh.val + (if inC then 32768 else 16384)⟩
  | .vscat t inC sh d k b ga => packV 0xA0 ⟨d.val, 0, b.val, 0, k.val, 0, 0, t.code, t.code, 0, ga.val, sh.val + (if inC then 32768 else 16384)⟩
  | .kand d a b => packV 0xA1 ⟨d.val, a.val, b.val, 0, 0, 0, 0, 0, 0, 0, 0, 0⟩
  | .kor d a b => packV 0xA2 ⟨d.val, a.val, b.val, 0, 0, 0, 0, 0, 0, 0, 0, 0⟩
  | .kxor d a b => packV 0xA3 ⟨d.val, a.val, b.val, 0, 0, 0, 0, 0, 0, 0, 0, 0⟩
  | .knot d a => packV 0xA4 ⟨d.val, a.val, 0, 0, 0, 0, 0, 0, 0, 0, 0, 0⟩
  | .kpop t a ga => packV 0xA5 ⟨0, a.val, 0, 0, 0, 0, 0, t.code, t.code, 0, ga.val, 0⟩
  | .kset t d ga => packV 0xA6 ⟨d.val, 0, 0, 0, 0, 0, 0, t.code, t.code, 0, ga.val, 0⟩
  | .kfirst t a ga => packV 0xA7 ⟨0, a.val, 0, 0, 0, 0, 0, t.code, t.code, 0, ga.val, 0⟩
  | .vpack t r fm off d a => packV 0xA8 ⟨d.val, a.val, 0, 0, 0, 0, 0, t.code, t.code, r.code, 0, fm.code + 256 * off.toNat⟩
  | .vunpk t r fm off x a => packV 0xA9 ⟨x.d.val, a.val, 0, 0, x.k.val, x.zm.toNat, 0, t.code, t.code, r.code, 0, fm.code + 256 * off.toNat⟩
  | .vclass t cl kd k zm a => packV 0xAA ⟨kd.val, a.val, 0, 0, k.val, zm.toNat, 0, t.code, t.code, 0, 0, cl.toNat⟩
  | .kmovg put hi k ga => packV 0xAB ⟨if put then k.val else 0, if put then 0 else k.val, 0, 0, 0, 0, 0, 0, 0, 0, ga.val, put.toNat + 2 * hi.toNat⟩
  | .mcfg q l fm => packR 0xC0 ⟨0, 0, 0, 0, 0, q.toNat + 16 * l.val + 64 * fm.code, 0⟩
  | .mldb p => packP 0xC1 (parCode p)
  | .mswap => packR 0xC2 ⟨0, 0, 0, 0, 0, 0, 0⟩
  | .mmul p => packP 0xC3 (parCode p)
  | .mzero a b => packR 0xC4 ⟨0, a.val, b.val, 0, 0, 0, 0⟩
  | .mout p => packP 0xC5 (parCode p)
  | .mstat m d => packR 0xC6 ⟨d.val, 0, 0, 0, 0, m.code, 0⟩
  | .mred p => packP 0xC7 (parCode p)
  | .cpy t d => packR 0xD0 ⟨d.val, 0, 0, 0, 0, t.toNat, 0⟩
  | .cpyw sc ch a => packR 0xD1 ⟨0, a.val, 0, 0, 0, ch.val + 4 * sc.code, 0⟩
  | .cpyq e ch d => packR 0xD2 ⟨d.val, 0, 0, 0, 0, ch.val + 4 * e.toNat, 0⟩
  | .cpyx m d a => packR 0xD3 ⟨d.val, a.val, 0, 0, 0, m.code, 0⟩
  | .tlbi m a => packR 0xD4 ⟨0, a.val, 0, 0, 0, m.code, 0⟩
  | .xlat t d a => packR 0xD5 ⟨d.val, a.val, 0, 0, 0, t.toNat, 0⟩
  | .illegalOp w0 w1 => w0.toNat + 4294967296 * w1.toNat
  | _ => 0

/-- How many 32-bit words an instruction of the opcode map has (R38); 0 for a step of the machine. -/
def Instr.words : Instr → Nat
  | .li _ _ | .loopi _ _ => 3
  | .handle _ _ _ _ _ => 4
  | .mldb _ | .mmul _ | .mout _ | .mred _ => 6
  | .illegalOp _ _ => 2
  | i => if i.isEvent then 0 else 2

/-- The lowest bit among the offending fields (R63), none where no field offends. -/
def lowest : List (Nat × Bool) → Option Nat
  | [] => none
  | (b, bad) :: r =>
    match lowest r with
    | none => if bad then some b else none
    | some m => if bad && decide (b < m) then some b else some m

/-- Check 5 of R61: the fields' own checks, then the entry's restrictions. -/
def Checked.finish (c : Checked) : Decoded :=
  match lowest (c.checks ++ c.instr.restrictions) with
  | none => .ok c.instr
  | some b => .field b

/-- Applies the one format that the opcode map allots to the opcode. -/
def readAs (f : Format) (op x : Nat) : Checked :=
  match f with
  | .r => readR op (splitR x)
  | .i => readI op (splitI x)
  | .x => readX op (splitX x)
  | .y => readY op (splitY x)
  | .m => readM op (splitM x)
  | .b => readB op (splitB x)
  | .v => readV op (splitV x)
  | .p => readP op (splitP x)

/-- ILLEGAL_OP on words 0 and 1 (R59, R60, R62). -/
def illegal (x : Nat) : Decoded :=
  .ok (.illegalOp (.ofNat 32 x) (.ofNat 32 (x / 4294967296)))

/-- Checks 4 and 5 of R61 on an instruction given as one number: the opcode and the length code, then the
fields. -/
def decode (x : Nat) : Decoded :=
  match opFormat (x / 4 % 256) with
  | none => illegal x
  | some f => if f.lenCode = x % 4 then (readAs f (x / 4 % 256) x).finish else illegal x

/-- The value of bytes in little-endian order. -/
def leNat : List Byte → Nat
  | [] => 0
  | b :: r => b.toNat + 256 * leNat r

/-- `n` bytes of a value in little-endian order. -/
def leBytes : Nat → Nat → List Byte
  | 0, _ => []
  | n + 1, x => BitVec.ofNat 8 x :: leBytes n (x / 256)

/-- Decodes the instruction at the head of a list of bytes: its length from L, then its words (R38, R40). A
list that ends before the instruction does is refused by name. -/
def decodeBytes (bs : List Byte) : Decoded :=
  match bs with
  | [] => .truncated
  | b :: _ =>
    let n := lengthOf (b.toNat % 4)
    if bs.length < n then .truncated else decode (leNat (bs.take n))

/-- The words of an instruction of the opcode map (R37). -/
def encode (i : Instr) : List IWord :=
  (List.range i.words).map fun k => BitVec.ofNat 32 (encodeNat i / 2 ^ (32 * k))

/-- The bytes of an instruction of the opcode map, each word in little-endian order (R37). -/
def encodeBytes (i : Instr) : List Byte := leBytes (4 * i.words) (encodeNat i)

/-- The host's question: the instruction that the decoder reads from the bits of `w`, with every bit of the
instruction at and above `nbits` zero. -/
def decodeTableWord (nbits w : Nat) : Option Instr :=
  match decodeBytes (leBytes 24 (w % 2 ^ nbits)) with
  | .ok i => some i
  | _ => none

end Sys2Proof
end

