-- ==== Sys2Proof/Machine/State.lean ====
section
/-! DEFINITION. The state of the module as plain data, and the state after reset. Every register, queue,
mark and count of the spec has a field here; INVENTORY.md lists each with its rule. A collection keyed by
a number (slots, images, tiles, launches) is a list of pairs sorted by key; a key that is not listed
stands for the unit in its reset state. -/
namespace Sys2Proof.Machine
open Sys2Proof

/-! ## One thread -/

/-- One level of the loop stack (06 R123). -/
structure LoopLevel where
  start : Word := 0
  stop : Word := 0
  count : Word := 0
deriving DecidableEq, Repr

/-- One context image: the registers of one thread (05 R95, 13 R260). `loops` holds the live levels,
innermost first; LOOPDEPTH is its length (06 R123). -/
structure Image where
  g : Vector Word 32 := .replicate 32 0
  k : Vector (BitVec 128) 8 := .replicate 8 0
  v : Vector (BitVec 1024) 16 := .replicate 16 0
  loops : List LoopLevel := []
  pc : Word := 0
  cause : Word := 0
  tval : Word := 0
  trappc : Word := 0
  tstatus : Word := 0
  tvec : Word := 0
  tscratch : Word := 0
  hsp : Word := 0
  hlimit : Word := 0
  contbase : Word := 0
  contslots : Word := 0
  effen : Word := 0
  waitlim : Word := 0
  wdlimit : Word := 0
  tickset : Word := 0
  fpflags : Word := 0
  fptrap : Word := 0
  rmode : Word := 0
  tloopS : Vector Word 4 := .replicate 4 0
  tloopC : Vector Word 4 := .replicate 4 0
  tdeleg : Word := 0x100000000
  wdCount : BitVec 32 := 0
  paircfg : Word := 0
deriving DecidableEq, Repr

/-- The states of a slot (04 R77). -/
inductive SlotState | free | live | halted | stopped | parked
deriving DecidableEq, Repr

/-- A cause raised at a boundary, with subcode and value (12 R239). -/
structure Raised where
  cause : Nat
  sub : Nat
  val : Word
deriving DecidableEq, Repr

/-- The hypervisor's trap record (13 R256): the cause, the pc, and whether it was a boundary cause. -/
structure Hold where
  cause : Nat
  sub : Nat
  val : Word
  pc : Word
  boundary : Bool
deriving DecidableEq, Repr

/-- A location in a store: the space, the unit that holds it (core for G and CONTEXT, tile for A, C and
W; 0 for DRAM), and the byte offset (05 R112). -/
structure Loc where
  sp : SP
  unit : Nat
  off : Nat
deriving DecidableEq, Repr

/-- The operation of an access that leaves its core (07 R159 to R164, 20 R368). -/
inductive AccessOp
  | load (sg : Bool)
  | store
  | ldf | lde | stf | stff | tagq
  | tagset (full : Bool)
  | amo (op : Aop)
  | cas (expected : Word)
deriving DecidableEq, Repr

/-- An access under way: its operation, width in bytes, number of elements, destination or source
register, operands read at issue, effective address and location. -/
structure Access where
  op : AccessOp
  bytes : Nat
  count : Nat
  reg : Reg
  data : List Word
  ea : Word
  loc : Loc
deriving DecidableEq, Repr

/-- The owner's answer to a GLOBAL access (07 R138, R149, R155). -/
inductive Reply
  | done (vals : List Word)
  | window (sub : Nat)
  | race (sub : Nat) (addr : Word)
  | poison
deriving DecidableEq, Repr

/-- The waiting tagged accesses (07 R143). -/
inductive TagOp | ldf | lde | stf
deriving DecidableEq, Repr

/-- A message before it is accepted (11 R220): the destination as named, whether it was named as a far one, whether it
leaves the module, and what is carried. The core that it enters is found at its acceptance (11 R211; 23 R410). -/
structure Outgoing where
  dst : Word
  far : Bool
  fabric : Bool
  payload : List Word
deriving DecidableEq, Repr

/-- What a blocked thread waits for. -/
inductive Wait
  /-- A release, or an access to a word that a counted store of the thread has yet to reach: it issues when the earlier
  accesses that it is ordered after are performed (08 R170, R171). -/
  | order
  /-- An instruction that is issued again at each turn until it completes: FENCE, CPY, CPYW, TREAP, WQPOP,
  MSTAT and a matrix instruction that finds the queue full. -/
  | poll
  /-- LDF, LDE or STF waiting at the word's controller, with the rotation edges counted (07 R143, R147). -/
  | tagged (op : TagOp) (reg : Reg) (loc : Loc) (ea : Word) (edges : Nat)
  /-- A GLOBAL access on its way to the owner (07 R138), with the rotation edges counted so far (07 R147). -/
  | globalOut (acc : Access) (edges : Nat)
  /-- A tagged access whose wait has expired: WAITLIMIT is raised at the thread's next turn (15 R280). -/
  | expired (op : TagOp) (ea : Word)
  /-- The owner's reply on its way back. -/
  | globalIn (acc : Access) (r : Reply)
  /-- DLD, DST or DAMO (20 R368). -/
  | dram (acc : Access)
  /-- SEND not yet accepted (11 R220). -/
  | send (m : Outgoing)
  /-- RECV of a sender (11 R221). -/
  | recv (sender : Word) (reg : Reg)
  /-- RQPOP (11 R224), with the cycle in which it was issued (14 R278). -/
  | rqpop (reg : Reg) (since : Nat)
  /-- SEMW (11 R225). -/
  | semw (sem : Fin 16)
  /-- WAIT at the sluice, as member of a group of a launch (09 R205). -/
  | sluice (launch grp mem : Nat)
  /-- SLEEP until a tide (06 R133). -/
  | sleep (till : Nat)
  /-- TSTOP waiting for a sibling to stop at its boundary (04 R86). -/
  | tstop (reg : Reg) (target : Nat)
  /-- CPYX waiting for the acknowledgement of stopped copies (20 R367). -/
  | cpyx (reg : Reg) (ch : Fin 4) (reset : Bool) (ids : List Nat)
deriving DecidableEq, Repr

/-- How a trailing slot follows its leader's last instruction (13 R268): it issues it by itself, or takes from the leader
the registers named and what the instruction changed of the leader's image as it stood before. `handler` says that a handler
entered by that instruction has g3 to g6 from its delivery (12 R239). -/
inductive Mirror
  | own
  | take (regs : List Reg) (vregs : List VReg) (before : Image) (handler : Bool)
deriving DecidableEq, Repr

/-- One thread slot (04 R75 to R81). `sel` is the image selector less the slot's own number, modulo 16
(05 R96). -/
structure Slot where
  state : SlotState := .free
  sel : Fin 16 := 0
  engine : Engine := .scalar
  launch : Nat := 0
  logSlot : BitVec 16 := 0
  exitVal : Word := 0
  starts : BitVec 32 := 0
  bound : Bool := false
  wait : Option Wait := none
  /-- The cycle from which the slot takes its next turn: the one after its last, its first, or that after PAIR's two empty
  rotations. -/
  turnFrom : Nat := 0
  /-- The thread was started and has not had its first turn (04 R75, R85). -/
  starting : Bool := false
  /-- The first cycle at which it may issue; earlier turns are left empty (12 R235, R236; 07 R162; 16 R294). -/
  issueFrom : Nat := 0
  /-- The G offset of the continuation record whose snapshot ends at `issueFrom`, with its header, which is written last (12
  R236). -/
  snap : Option (Nat × Word) := none
  tickDue : Bool := false
  wdDue : Bool := false
  pending : List Raised := []
  hold : Option Hold := none
  /-- The hypervisor's record of a page fault of a copy whose thread is no longer LIVE (20 R360). -/
  pageRecord : Option Hold := none
  /-- A pairing (true) or its end (false) that PAIR has asked for at the next boundary (13 R276). -/
  pairDue : Option Bool := none
  /-- What the trailing slot of a pair has still to follow (13 R268). -/
  mirror : Option Mirror := none
  /-- The thread's last instruction was YIELD (04 R80). -/
  yielded : Bool := false
  /-- The thread has written TICKSET since its start (13 R256). -/
  tickWritten : Bool := false
  /-- The armed TICKSET is the reeve's (13 R256). -/
  tickByReeve : Bool := false
  /-- The thread is to stop at its next instruction boundary (04 R68, R86). -/
  stopDue : Bool := false
  /-- The thread restores a continuation: its registers take the record's values when the eight turns are over (12 R236). -/
  resuming : Bool := false
  /-- The model's own: the thread's plain stores by alias and vector stores leave it before they are performed (08 R170, R176;
  DESIGN CHOICE, log 5). -/
  posting : Bool := false
deriving DecidableEq, Repr

/-! ## One core -/

/-- A message in a receive buffer (11 R211, R213). `launch` is the launch of the slots that may receive it: 0 where those of every launch
may, and 0x10000 + p where those of the launches of partition p may. `seat` is the slot whose reserve entry holds it. -/
structure Msg where
  launch : Nat
  sender : Word
  seq : BitVec 16
  payload : List Word
  fired : Bool
  seat : Option Nat
deriving DecidableEq, Repr

/-- An arm entry (11 R213) of a thread of `launch`. `held` marks a fired arm whose push waits for room. -/
structure Arm where
  launch : Nat
  sender : Word
  value : Word
  pri : Fin 4
  held : Bool
deriving DecidableEq, Repr

/-- A copy channel (20 R356). -/
structure Chan where
  nextId : Nat := 1
  completed : Nat := 1
  error : Word := 0
deriving DecidableEq, Repr

/-- A copy in flight (20 R356, R357, R360, R362): the request words, its id and channel, the issuer, the
level it was issued at, its progress, a pending page fault, and a stop that CPYX asked for. `early` holds the 64-bit
words of the destination, by key, that the chunk under way has written already (08 R178). -/
structure Copy where
  w0 : Word
  w1 : Word
  w2 : Word
  w3 : Word
  id : Nat
  ch : Fin 4
  slot : Nat
  launch : Nat
  level : Nat
  rowsDone : Nat := 0
  bytesDone : Nat := 0
  fault : Option (Nat × Word) := none
  /-- The PAGE trap of that fault has been given to the thread or the reeve (20 R360). -/
  told : Bool := false
  stopping : Bool := false
  early : List Nat := []
  /-- The 64-bit words of its source that it has read and may need again, by key, with their bytes and whether they were poisoned: a
  word is read whole, once (08 R176). -/
  held : List (Nat × List Byte × Bool) := []
  /-- It is cancelled when the chunk under way has finished (04 R68). -/
  cancelled : Bool := false
deriving DecidableEq, Repr

/-- A TLB entry (20 R354): partition, virtual page base, size in bytes, physical base, and rights. -/
structure TlbEntry where
  part : Nat
  va : Nat
  size : Nat
  pa : Nat
  r : Bool
  w : Bool
  at_ : Bool
deriving DecidableEq, Repr

/-- One core, ordinary, pump-class or board. -/
structure Core where
  /-- WINnB, WINnL, WINnA, WINnQ at index 4n to 4n + 3 (07 R148). -/
  win : Vector Word 16 := .replicate 16 0
  rx : List Msg := []
  arms : List (Nat × Arm) := []
  /-- The ready queue by priority, each entry with the launch whose thread, arm or task list put it there (11 R208). -/
  ready : Vector (List (Nat × Word)) 4 := .replicate 4 []
  mailbox : Vector Word 8 := .replicate 8 0
  ranges : List (Nat × Nat) := []
  /-- The launches whose threads marked those ranges (07 R153). -/
  marks : List (Nat × (Nat × Nat)) := []
  chans : Vector Chan 4 := .replicate 4 {}
  fifo : List Copy := []
  tlb : List TlbEntry := []
  /-- The cycle count of a pump-class core's own clock domain. -/
  cycle : Nat := 0
  /-- The operating point the reeve requests for the core (21 R372). -/
  request : Nat := 60
  /-- The operating point of a pump-class core's own clock domain, and its stretching (21 R376). -/
  point : Nat := 60
  droop : Bool := false
  droopAt : Option Nat := none
  volt : Option (Nat × Bool) := none
  /-- Send sequences: the sending slot and the channel's destination, with the next number (11 R208). -/
  seqs : List ((Nat × Word) × BitVec 16) := []
  /-- The sequence expected next from each fabric sender by a launch (11 R221). -/
  expect : List ((Nat × Word) × BitVec 16) := []
  /-- The tagged requests that this store's controller has taken in its present cycle: the cycle, and for each word the place
  of the last one in the order of 07 R144. -/
  tagCycle : Nat := 0
  tagSeen : List (Nat × Nat) := []
  /-- The cycle in which the message unit last fired an arm at an arrival, and the highest arm index fired in it, plus one (11
  R214). -/
  armCycle : Nat := 0
  armSeen : Nat := 0
deriving DecidableEq, Repr

/-! ## The matrix unit -/

/-- One K-block of one column or row, admitted (16 R296): NaN or not, its exponent, signed elements. -/
structure Block where
  nan : Bool
  beta : Int
  els : List Int
deriving DecidableEq, Repr

/-- A bank (19 R326): the admitted columns, each a list of K-blocks; elements that are not listed are 0. -/
structure Bank where
  fmt : BFmt := .zb2
  k : Nat := 0
  n : Nat := 0
  v : Bool := false
  cols : List (List Block) := []
deriving DecidableEq, Repr

/-- An accepted matrix instruction with its parameters after substitution (19 R328, R335). -/
inductive MatrixOp
  | mcfg (conf : BitVec 10)
  | mldb (off k n stride : Nat) (fmt : BFmt) (sem : Option (Fin 16))
  | mswap
  | mmul (m a c : Nat) (fmt : BFmt) (coop : Bool) (stride : Nat) (sem : Option (Fin 16))
  | mzero (off len : Nat)
  | mout (c a rows n : Nat) (et : ET) (rm : RM) (sat clr int : Bool) (sem : Option (Fin 16))
  | mred (src len : Nat) (mask : BitVec 4) (int : Bool) (dst : Nat) (sem : Option (Fin 16))
deriving DecidableEq, Repr

/-- The sticky fields of MSTAT (19 R344). -/
structure MFlags where
  oflags : BitVec 5 := 0
  sovf : Bool := false
  nan : Bool := false
  inf : Bool := false
  sat : Bool := false
deriving DecidableEq, Repr

/-- A matrix unit (19 R326). `token` is the cycle since which the tile holds a power token (R332). -/
structure MatrixUnit where
  bank0 : Bank := {}
  bank1 : Bank := {}
  act : Bool := false
  mconf : BitVec 10 := 0
  flags : MFlags := {}
  queue : List MatrixOp := []
  /-- The instruction at the head has started and has not written these words of C and A yet: their keys and bytes (08 R176). -/
  left : Option (List (Nat × List Byte)) := none
  /-- The matrix instructions that have left the queue (08 R177). -/
  done : Nat := 0
  /-- Co-operative MMULs done since launch start: the number of the next one (19 R341). -/
  coops : Nat := 0
  token : Option Nat := none
deriving DecidableEq, Repr

/-! ## One tile -/

/-- A loaded table slot (17 R320). -/
structure Table where
  x0 : BitVec 32
  e : BitVec 8
  knots : List (BitVec 32)
deriving DecidableEq, Repr

/-- One tile: its clock, its allotment, semaphores, windows, range tables, matrix unit, table slots,
FPXSUM, normaliser and polder. -/
structure Tile where
  cycle : Nat := 0
  /-- The launch the tile is allotted to, and its logical index there (04 R71). -/
  launch : Option Nat := none
  logTile : Nat := 0
  sems : Vector (BitVec 8) 16 := .replicate 16 0
  twin : Vector Word 16 := .replicate 16 0
  aRanges : List (Nat × Nat) := []
  cRanges : List (Nat × Nat) := []
  mx : MatrixUnit := {}
  tables : Vector (Option Table) 4 := .replicate 4 none
  fpxsum : Word := 0
  /-- Threads that took FPX in the current rotation, with their subcodes (13 R261): (core × 16 + slot). -/
  fpxNow : List (Nat × Nat) := []
  /-- Cycles at which operations in the normaliser leave it (16 R294). -/
  norm : List Nat := []
  point : Nat := 60
  droop : Bool := false
  /-- The tide at which the clock was last stretched (21 R376). -/
  droopAt : Option Nat := none
  /-- A raise whose voltage is on its way: the point, and whether the rail has settled there (21 R373). -/
  volt : Option (Nat × Bool) := none
deriving DecidableEq, Repr

/-! ## Region, die -/

/-- A launch's share of a region's work queue (04 R82, R83): its size, its records in order, the spillway
entries that hold its later records in order, and whether it is closed. -/
structure Share where
  size : Nat := 0
  recs : List (List Word) := []
  spilled : List Nat := []
  closed : Bool := false
deriving DecidableEq, Repr

/-- One region: its control clock, work queue shares, dispenser, dike ring and freeboard. -/
structure Region where
  rcycle : Nat := 0
  shares : List (Nat × Share) := []
  withheld : Bool := false
  tokens : Nat := 8
  lastHolder : Nat := 15
  lastGrant : Option Nat := none
  /-- Ring cycles at which tokens came back that no tile has taken yet (21 R377). -/
  returned : List Nat := []
  /-- Ballast in steps; 0 is none (21 R377). -/
  ballast : Nat := 0
  fbmax : Nat := 60
  fbAt : Option Nat := none
  /-- The measured curve in mV: the lowest working voltage of each point (21 R374). -/
  curve : List Nat := .replicate 61 0
  /-- The guard band added above the curve, and the rail's limit at the region's present temperature, in mV (21 R374). -/
  freeboard : Nat := 0
  railLimit : Nat := 0
  outOfService : Bool := false
deriving DecidableEq, Repr

/-- One die: the measured fields, the threshold states and the reference (20 R351, 21 R382 to R385). -/
structure Die where
  allowance : BitVec 16 := 0xFFFF
  temp : BitVec 16 := 0
  hot85 : Bool := false
  hot95 : Bool := false
  shut : Bool := false
  refLost : Bool := false
  refBackAt : Option Nat := none
  /-- Refreshes, cycles stalled for refresh and cycles stalled for bandwidth of each first-tier channel (20 R351). -/
  chanStats : List (Nat × Nat × Nat × Nat) := []
deriving DecidableEq, Repr

/-! ## Sluice groups and launches -/

/-- A barrier program entry (09 R188). -/
structure Barrier where
  mask : BitVec 64
  count : Nat
  link : Bool
  loop : Bool
  endloop : Bool
  stop : Bool
  tag : Nat
deriving DecidableEq, Repr

/-- A decided release (09 R193, R199): the position, the members still to be released, each with the cycle of
its tile at the firing, and for a LINK entry the tide tick from which it is made. -/
structure Release where
  pos : Nat
  mems : List (Nat × Nat)
  tick : Option Nat
deriving DecidableEq, Repr

/-- A sluice group (09 R187 to R203). `base` is the lowest unfired position and `ahead` the fired ones
above it. -/
structure Group where
  num : Nat
  members : List Nat
  prog : List Barrier
  region : Nat
  base : Nat := 0
  ahead : List Nat := []
  waiting : List Nat := []
  phase : List (BitVec 32) := []
  full : BitVec 32 := 0
  /-- The group and member that were lost (09 R203). -/
  breach : Option (Nat × Nat) := none
  decided : List Release := []
  /-- For each member, the edge of its last release, from which its counted window runs (09 R196). -/
  edges : List (Option Nat) := []
  /-- Fired occurrences of each link tag. -/
  occ : List (Nat × Nat) := []
  /-- Ready LINK positions with their ready ticks (09 R199). -/
  ready : List (Nat × Nat) := []
  /-- Ready LINK positions withdrawn by a save (09 R202). -/
  withdrawn : List Nat := []
  /-- The cycle in which the sluice last considered the group, and the positions of the window at its begin: those that come
  into the window in a cycle are considered in the next (09 R191). -/
  seen : Option (Nat × List Nat) := none
  /-- The tide and the cycle of the breach (09 R203). -/
  breachAt : Nat × Nat := (0, 0)
  /-- While the reeve has the group switched out: each member that it took out, with the number of its image (09 R201). -/
  out : List (Nat × Nat) := []
deriving DecidableEq, Repr

/-- The fields of a launch record (04 R64). -/
structure LaunchRec where
  tiles : Nat := 0
  mode : BitVec 8 := 0
  prio : Nat := 0
  codelen : Nat := 0
  code : Nat := 0
  binds : Nat := 0
  nbinds : Nat := 0
  wqshare : Nat := 0
  spill : Nat := 0
  spillsize : Nat := 0
  groups : Nat := 0
  ngroups : Nat := 0
  nmbox : Nat := 0
  mboxes : Nat := 0
  tasks : Nat := 0
  ntasks : Nat := 0
  nout : Nat := 0
  outs : Nat := 0
  arg : Word := 0
  quota : Nat := 0
  images : Nat := 0
  done : Nat := 0
deriving DecidableEq, Repr

/-- Where a launch stands (04 R67 to R70, R73; 13 R264): `between` the two runs of a witness launch. -/
inductive LaunchPhase | queued | dispatched | running | between | saved | done
deriving DecidableEq, Repr

/-- An entry of the image table (04 R65). -/
structure ImageEntry where
  target : Word
  length : Nat
  tags : Nat
  source : Nat
deriving DecidableEq, Repr

/-- The sub-tables of a launch record as the reeve takes them at dispatch (04 R64, R65; 09 R188): binding words,
groups at their start, mailbox and task entries, output ranges and image entries. -/
structure Plan where
  binds : List Word := []
  groups : List Group := []
  mboxes : List (Word × Word) := []
  tasks : List (Word × Word) := []
  outs : List (Word × Word) := []
  images : List ImageEntry := []
deriving DecidableEq, Repr

/-- A pump-class slot bound to a launch (22 R399). -/
structure PumpBind where
  slot : Nat
  entry : Word
  arg : Word
deriving DecidableEq, Repr

/-- What of a time-shared thread stands outside its image (13 R263, R265): its wait, the reeve's record of its trap, the causes
raised in it and not taken, and how its TICKSET was armed. -/
structure Residue where
  /-- The launch of the thread; 0 where no thread stands in the image. -/
  launch : Nat := 0
  /-- A wait at the sluice or of SLEEP, which the switch leaves standing (09 R201; 06 R133). -/
  wait : Option Wait := none
  hold : Option Hold := none
  tickDue : Bool := false
  wdDue : Bool := false
  pending : List Raised := []
  tickWritten : Bool := false
  tickByReeve : Bool := false
deriving DecidableEq, Repr

/-- What the reeve saves of one logical tile (13 R264): the tile, its cores with the save block of each core's channels
(20 R362), slots, images and time-shared threads, and the bytes of its stores, the empty and poisoned words and the race stamps, each by its
place within the tile. -/
structure TileSave where
  /-- The physical tile it was saved from. -/
  from_ : Nat
  tile : Tile
  cores : List Core
  blocks : List (List Byte)
  slots : List Slot
  images : List Image
  residues : List (Nat × Residue)
  cells : List (Nat × Byte)
  empties : List Nat
  poison : List Nat
  stamps : List (Nat × Word)
deriving DecidableEq, Repr

/-- A message that waits at a port core for a launch of this module that is switched out, or for room (11 R218; 23 R410). -/
structure Inbound where
  /-- The logical core. -/
  core : Nat
  sender : Word
  seq : BitVec 16
  payload : List Word
deriving DecidableEq, Repr

/-- What is saved of a pump-class core for a launch (11 R218; 20 R362): the save block of its channels, the launch's copies that stand
in it, its messages, arms and ready entries, and the sequences that its fabric channels expect. -/
structure PumpSave where
  core : Nat
  block : List Byte
  copies : List Copy
  rx : List Msg
  arms : List (Nat × Arm)
  ready : Vector (List (Nat × Word)) 4
  expect : List ((Nat × Word) × BitVec 16)
deriving DecidableEq, Repr

/-- A launch known to the reeve. -/
structure Launch where
  part : Nat := 0
  recAddr : Nat := 0
  record : LaunchRec := {}
  phase : LaunchPhase := .queued
  /-- Physical tile of each logical tile (04 R71). -/
  place : List Nat := []
  plan : Plan := {}
  groups : List Group := []
  pumps : List PumpBind := []
  /-- The spillway entry that the next spilled record takes (04 R83). -/
  spillNext : Nat := 0
  /-- 0 for the first run, 1 for the second run of a witness launch (04 R73). -/
  run : Nat := 0
  /-- The output words saved before the first run, by locator (04 R73). -/
  outsSaved : List (Word × Word) := []
  digestA : BitVec 128 := 0
  /-- The first fatal trap: slot and CAUSE (04 R69). -/
  fault : Option (Nat × Nat) := none
  killed : Bool := false
  breach : Option (Nat × Nat) := none
  /-- The tide and the cycle of the first breach, which order breaches of one cycle (09 R203). -/
  breachAt : Nat × Nat := (0, 0)
  /-- The windows are closed (07 R150). -/
  closed : Bool := false
  /-- The pump-class slots that the launch's threads have started (20 R348). -/
  begun : List Nat := []
  inbox : List Inbound := []
  used : Nat := 0
  /-- The activity counters since the last update of the estimate, in the order of `Activity` (21 R378). -/
  work : List Nat := []
  /-- QUOTA was raised in the current period. -/
  quotaHit : Bool := false
  /-- The threads that took QUOTA as an effect in the current period (21 R380). -/
  quotaTook : List Nat := []
  /-- A pre-emption for the quota was due at a period boundary and not yet made (21 R380). -/
  quotaOwed : Bool := false
  quotaPaused : Bool := false
  savedTiles : List TileSave := []
  savedPumps : List PumpSave := []
  /-- The work-queue shares saved, by the first logical tile of their region (13 R264). -/
  savedShares : List (Nat × Share) := []
  /-- The place in the order of submission (04 R67). -/
  order : Nat := 0
deriving DecidableEq, Repr

/-! ## Partitions, crest, links, flash -/

/-- What the reeve reports to a partition's image, its launches' supervisor (04 R93; 13 R267, R270). -/
structure Report where
  slot : Nat
  cause : Nat
  val : Word
  second : Word
deriving DecidableEq, Repr

/-- A partition (13 R257, 20 R352, 23 R403, R427). -/
structure Partition where
  configured : Bool := false
  started : Bool := false
  key : List Byte := []
  ranges : List (Nat × Nat) := []
  pumpSlots : List Nat := []
  root : Option Nat := none
  vecs : List (Nat × Word) := []
  doorbell : List Word := []
  err : Bool := false
  lost : Bool := false
  /-- The results g5 to g8 of the image's last reeve call (13 R273). -/
  results : List Word := []
  reports : List Report := []
deriving DecidableEq, Repr

/-- How a module stands to the crest group as this module knows it (21 R393, R394): it has asked to join, it is a member
or will be one, or it was expelled. -/
inductive Standing | asked | member | gone
deriving DecidableEq, Repr

/-- A module of the crest group (21 R388 to R394): its limit in force, the limits that it had before, each with the tide at
which it ended, whether the limit came by EMERGENCY, its pending change, the tide at which it was last heard, and the
tides from which it is a member and is none. -/
structure Member where
  limit : Nat := 60
  past : List (Nat × Nat) := []
  emerg : Bool := false
  pend : Option (Nat × Nat) := none
  lastHeard : Nat := 0
  silent : Bool := false
  standing : Standing := .member
  joinAt : Option Nat := none
  leaveAt : Option Nat := none
deriving DecidableEq, Repr

/-- The crest as this module computes it (21 R386 to R396). `caps` are ceilings that hold until a tide: a
raise takes force no earlier. -/
structure Crest where
  group : Option Nat := none
  self : Nat := 0
  notice : Nat := 500
  members : List (Nat × Member) := [(0, {})]
  caps : List (Nat × Nat) := []
  expelled : Bool := false
  now : Word := 0x0834003C
  next : Word := 0x0834003C
  at_ : Word := 0
  lastBeat : Nat := 0
  outbox : List CrestMsg := []
deriving DecidableEq, Repr

/-- A Caerur port (23 R409). `replays` counts the replays in a row of one flit. -/
structure Link where
  replays : Nat := 0
  retrains : Nat := 0
  retraining : Bool := false
  down : Bool := false
deriving DecidableEq, Repr

/-- An image in flash with its security version and signature (23 R406). -/
structure SignedImage where
  bytes : List Byte := []
  version : BitVec 32 := 0
  key : List Byte := []
  sig : List Byte := []
deriving DecidableEq, Repr

/-- Module flash: the reeve image, the configuration records in order, and the partition images by
partition (23 R405, R408). -/
structure Flash where
  reeve : SignedImage := {}
  records : List (List Byte) := []
  images : List (Nat × SignedImage) := []
deriving DecidableEq, Repr

/-- How far the boot chain came (23 R405). -/
inductive Boot | held | controller | reeve | running
deriving DecidableEq, Repr

/-- An error record (23 R412). -/
structure ErrorRecord where
  typ : Nat
  seq : BitVec 32
  tide : Word
  ieee : Word
  place : List Nat
  cause : Nat
  sub : Nat
  syndrome : Word
  addr : Word
  second : Word
deriving DecidableEq, Repr

/-- What the controller sends on the management bus besides error records (23 R407, R413). -/
inductive Mctp
  | attestation (sig : List Byte)
  | telemetry (stats : List (Nat × Nat × Nat × Nat × Nat)) (temps allowances : List Nat) (curves : List (List Nat)) (power : Word)
deriving DecidableEq, Repr

/-- A store that its thread has issued and that is not yet performed: a counted store on the culvert (09 R197), or a plain
store or vector store that was posted (07 R141; 08 R176). It holds the issuer, the class by its bit of 08 R168, the tile
whose cycle count times it, the cycle V from which it is visible, the location and the bytes. -/
structure Counted where
  slot : Nat
  cls : Nat := 6
  tile : Nat
  due : Option Nat := none
  loc : Loc
  data : List Byte
  /-- It is a counted store. -/
  counted : Bool := false
  /-- It is a release, so that it is performed after every earlier store of its thread (08 R171): a counted store is one. -/
  rel : Bool := counted
  /-- The copies of its core, by channel and id, that may read nothing before it is performed (08 R178). -/
  copies : List (Fin 4 × Nat) := []
  /-- The number of matrix instructions that its thread had issued before it on its tile (08 R177). -/
  mx : Nat := 0
deriving DecidableEq, Repr

/-- An access of another module to this module's DRAM (23 R411): a read, a write, or an atomic. -/
inductive FabricOp
  | read (len : Nat)
  | write (bs : List Byte)
  | amo (w : Width) (op : Aop) (x : Word)
deriving DecidableEq, Repr

/-- One entry of the schedule: what the model's step does next (DESIGN CHOICE, log 2). -/
inductive Sched
  | turn (slot : Nat)
  | clock (dom : Nat)
  | tide
  | event (i : Instr)
  | imageStore (part : Nat) (addr : Word) (v : Byte)
  /-- A message of another module reaches this one (23 R410): its destination as named, the sender's name, and the partition
  of the sending launch on its module. -/
  | fabricMsg (dst : Word) (sender : Word) (part : Nat) (seq : BitVec 16) (payload : List Word)
  /-- A message that waits at a port core enters the launch's receive buffer (11 R211, R218). -/
  | deliver (launch index : Nat)
  /-- Another module's access to this module's DRAM (23 R411): the module, its partition, the physical address. -/
  | fabricAccess (fid part addr : Nat) (op : FabricOp)
  /-- The reeve grants a range to a partition of a module, or takes the grant back (23 R411). -/
  | grant (fid part base len : Nat) (on : Bool)
  /-- The reeve links one of this module's partitions with a partition of a module, or ends the link (23 R410). -/
  | linkParts (own fid part : Nat) (on : Bool)
  /-- The host reads a register of BAR0 (23 R403). -/
  | barRead (part : Nat) (off : Nat)
  /-- A flit passes its CRC on a port (23 R409). -/
  | flitPassed (port : Nat)
  /-- The oldest error record leaves the controller's buffer (23 R412). -/
  | recordSent
  /-- The reeve copies a context image out of its store, or stores a saved one whole (05 R99; 13 R263). -/
  | imageOut (image name : Nat)
  | imageIn (image name : Nat)
  /-- A slot's plain stores are posted from now on, or are not (08 R176; DESIGN CHOICE, log 5). -/
  | posting (slot : Nat) (on : Bool)
  /-- A posted store, or a counted one without a promised cycle, is performed. -/
  | performed (index : Nat)
  /-- One 64-bit word of the chunk under way on a channel is written ahead of the others (08 R178); `remote` holds the bytes of
  a source in another module. -/
  | copyWord (core : Nat) (ch : Fin 4) (index : Nat) (remote : Remote)
  /-- The instruction at the head of a tile's matrix queue writes one 64-bit word of C or A ahead of the others (08 R176). -/
  | matrixWord (tile index : Nat)
  /-- A first-tier channel of a die has stalled requests for cycles, because its bandwidth was used up (20 R351). -/
  | dramStall (die ch cycles : Nat)
  /-- The controller does not boot from its ROM from now on, or does (23 R405). -/
  | romFails (on : Bool)
  /-- A region's dispenser begins or ends to withhold records: the region is hot or over its budget (04 R83). -/
  | withhold (region : Nat) (on : Bool)
  /-- The reeve sets the point that a core requests, where the partition has asked for less than 60 (21 R372). -/
  | request (core : Nat) (point : Nat)
deriving DecidableEq, Repr

/-- The whole module. -/
structure State where
  images : List (Nat × Image) := []
  slots : List (Nat × Slot) := []
  cores : List (Nat × Core) := []
  tiles : List (Nat × Tile) := []
  regions : List (Nat × Region) := []
  dies : List (Nat × Die) := []
  /-- Every byte of every store, by the keys of Machine/Ops.lean; a byte that is not listed reads 0. -/
  mem : List Host.Cell := []
  /-- G words whose tag is empty (07 R142). -/
  empties : List Nat := []
  /-- Poisoned words (13 R266). -/
  poison : List Nat := []
  /-- Race stamps of the checked granules (07 R153). -/
  stamps : List (Nat × Word) := []
  culvert : List Counted := []
  launches : List (Nat × Launch) := []
  nextLaunch : Nat := 1
  partitions : List (Nat × Partition) := []
  tide : Word := 0
  tideSet : Bool := false
  slewAt : Option Nat := none
  /-- The tide of the last quota period boundary that was taken (21 R380). -/
  quotaAt : Nat := 0
  crest : Crest := {}
  links : List (Nat × Link) := []
  errSeq : BitVec 32 := 0
  /-- The controller's buffer of records not yet sent, and those that have left, in their 64-byte form (23 R412). -/
  errOut : List ErrorRecord := []
  errSent : List (List Byte) := []
  flash : Flash := {}
  rollback : BitVec 32 := 0
  boot : Boot := .held
  /-- The controller does not boot from its ROM at the next module reset (23 R405): an input. -/
  romFails : Bool := false
  railMv : Nat := 48000
  railHold : Bool := false
  mctp : List Mctp := []
  /-- The data of the host's last read of a BAR (23 R403). -/
  hostData : List Byte := []
  /-- The reply to another module's last access to this module's DRAM; none where the reeve refused it (23 R411). -/
  fabricReply : Option (List Byte) := none
  /-- The ranges granted to partitions of modules: fabric id, partition, base and length (23 R411). -/
  grants : List (Nat × Nat × Nat × Nat) := []
  /-- The partitions linked: own partition, fabric id, partition there (23 R410). -/
  linked : List (Nat × Nat × Nat) := []
  /-- A launch has been dispatched since module reset (21 R384). -/
  everDispatched : Bool := false
  /-- The reeve's housekeeping account in nJ, and its own work since the last update of the account, by kind (21 R381). -/
  house : Nat := 0
  houseWork : List Nat := []
  /-- What stands outside the images of time-shared threads that are switched out, by image (13 R263). -/
  residues : List (Nat × Residue) := []
  /-- The context images that the reeve has copied out, by name (05 R99; 13 R263). -/
  savedImages : List (Nat × Image × Residue) := []
  /-- The model's own: the slot whose turn it is (DESIGN CHOICE, log 2). -/
  cur : Nat := 0
  /-- The model's own: the schedule that the step takes in order (DESIGN CHOICE, log 2). -/
  agenda : List Sched := []
  /-- The model's own: the counter of free values (DESIGN CHOICE, log 17). -/
  fresh : Nat := 0
deriving DecidableEq, Repr

/-- Why the machine stops. -/
inductive Fault
  /-- Raised by the step when its schedule names a slot, clock domain or partition that the module does not
  have (01 R5, R8). Safe: the spec gives such a number no meaning, and the model stops. -/
  | noSuchUnit
deriving DecidableEq, Repr

/-- Why an instruction has no meaning. -/
inductive Refusal
  /-- Raised by the dispatch for an instruction that the model does not give a meaning yet. Safe: the model
  stops where the hardware goes on. -/
  | notModelled (mnemonic : String)
deriving DecidableEq, Repr

/-- The module right after reset (23 R405; each field's value is named in INVENTORY.md, and those that
the spec does not give in log 1, 2, 4, 10, 12 and 17: DESIGN CHOICE). A core's windows and a tile's are all zero until a
launch starts on it (07 R148 names their values at launch start only; log 1). -/
def State.reset : State := {}

end Sys2Proof.Machine
end

