-- ==== Sys2Proof/Machine/Maps.lean ====
section
/-! DEFINITION. Collections keyed by a number, the byte memory in its canonical form, and accesses of
several bytes in little-endian order (07 R137). -/
namespace Sys2Proof.Machine
open Sys2Proof

/-- The value at a key, or `d` where the key is not listed. -/
def look {α : Type} (d : α) : List (Nat × α) → Nat → α
  | [], _ => d
  | (k, v) :: r, n => if n = k then v else look d r n

/-- The value at a key, if it is listed. -/
def find {α : Type} : List (Nat × α) → Nat → Option α
  | [], _ => none
  | (k, v) :: r, n => if n = k then some v else find r n

/-- Sets the value at a key, keeping the keys rising. -/
def put {α : Type} : List (Nat × α) → Nat → α → List (Nat × α)
  | [], n, x => [(n, x)]
  | (k, v) :: r, n, x =>
    if n = k then (n, x) :: r
    else if n < k then (n, x) :: (k, v) :: r
    else (k, v) :: put r n x

/-- Removes a key. -/
def drop {α : Type} (m : List (Nat × α)) (n : Nat) : List (Nat × α) := m.filter fun p => p.1 ≠ n

/-- Keys strictly rising. -/
def rising {α : Type} : List (Nat × α) → Bool
  | [] => true
  | [_] => true
  | a :: b :: r => decide (a.1 < b.1) && rising (b :: r)

/-- What a byte that is not listed reads as (DESIGN CHOICE, log 4: local stores are zero at launch start, 04 R65; DRAM
that nothing has written reads 0 by the model's choice). -/
def blank : Byte := 0

/-- One byte of memory. -/
def byteAt (m : List Host.Cell) (a : Nat) : Byte := look blank m a

/-- Writes one byte, keeping the canonical form. -/
def setByte (m : List Host.Cell) (a : Nat) (b : Byte) : List Host.Cell :=
  if b = blank then drop m a else put m a b

/-- The canonical form of memory: addresses strictly rising, and no byte listed that reads the same when it
is not. -/
def Memory.wf (m : List Host.Cell) : Bool := rising m && m.all fun p => p.2 ≠ blank

/-- `n` bytes from `a` as one number, little-endian. -/
def loadNat (m : List Host.Cell) (a : Nat) : Nat → Nat
  | 0 => 0
  | n + 1 => (byteAt m a).toNat + 256 * loadNat m (a + 1) n

/-- Stores the low `n` bytes of a number from `a`, little-endian. -/
def storeNat (m : List Host.Cell) (a : Nat) : Nat → Nat → List Host.Cell
  | 0, _ => m
  | n + 1, x => storeNat (setByte m a (.ofNat 8 x)) (a + 1) n (x / 256)

/-- `n` bytes from `a` as a list. -/
def loadBytes (m : List Host.Cell) (a : Nat) : Nat → List Byte
  | 0 => []
  | n + 1 => byteAt m a :: loadBytes m (a + 1) n

/-- Stores a list of bytes from `a`. -/
def storeBytes (m : List Host.Cell) (a : Nat) : List Byte → List Host.Cell
  | [] => m
  | b :: r => storeBytes (setByte m a b) (a + 1) r

/-- Zeroes every byte from `a` up to and not including `b`. -/
def clearMem (m : List Host.Cell) (a b : Nat) : List Host.Cell :=
  m.filter fun p => p.1 < a || b ≤ p.1

/-- Copies `n` bytes from `src` to `dst`: every byte is read before any is written. -/
def copyMem (m : List Host.Cell) (src dst n : Nat) : List Host.Cell :=
  (m.filter fun p => src ≤ p.1 && p.1 < src + n).foldl
    (fun acc p => setByte acc (dst + (p.1 - src)) p.2) (clearMem m dst (dst + n))

/-- A set of numbers kept as a list. -/
def addTo (l : List Nat) (n : Nat) : List Nat := if n ∈ l then l else n :: l

/-- The set without a number. -/
def delFrom (l : List Nat) (n : Nat) : List Nat := l.filter (· ≠ n)

/-- Replaces the element at an index of a list. -/
def setNth {α : Type} : List α → Nat → α → List α
  | [], _, _ => []
  | _ :: r, 0, x => x :: r
  | y :: r, n + 1, x => y :: setNth r n x

/-- Bits `hi` down to `lo` of a word as a number. -/
def bits (x : Word) (hi lo : Nat) : Nat := x.toNat / 2 ^ lo % 2 ^ (hi + 1 - lo)

/-- One bit of a word. -/
def bit (x : Word) (n : Nat) : Bool := x.getLsbD n

/-- A word from a number. -/
def word (n : Nat) : Word := BitVec.ofNat 64 n

/-- −n as a word. -/
def neg (n : Nat) : Word := -(BitVec.ofNat 64 n)

/-- A word with bits `hi` down to `lo` replaced by a number. -/
def setBits (x : Word) (hi lo n : Nat) : Word :=
  let k := hi + 1 - lo
  word (x.toNat % 2 ^ lo + 2 ^ lo * (n % 2 ^ k) + 2 ^ (hi + 1) * (x.toNat / 2 ^ (hi + 1)))

/-- ⌈a ÷ b⌉. -/
def ceilDiv (a b : Nat) : Nat := (a + b - 1) / b

end Sys2Proof.Machine
end

