-- ==== Sys2Proof/Machine/Ops.lean ====
section
/-! DEFINITION. The named operations over slots, registers, stores and units; retirement and the loop
stack (06 R124, R125); taking a trap and returning from one (13 R254 to R256, R274). -/
namespace Sys2Proof.Machine
open Sys2Proof

/-! ## Numbering of units (01 R5 to R8, 20 R347) -/

/-- The number of a slot within its core. -/
def slotIdx (n : Nat) : Nat := n % 16
/-- The core of a slot: ordinary cores 0 to 4095, pump-class core p at 4096 + p (20 R347), board core b at 4400 + b. The
spec gives the board cores no numbers: theirs, with slots from 0x11300 on, are the model's (DESIGN CHOICE, log 49). -/
def coreOf (n : Nat) : Nat := n / 16
/-- Slots of pump-class cores (20 R347). -/
def isPump (n : Nat) : Bool := 0x10000 ≤ n && n < 0x10000 + 16 * 304
/-- Slots of ordinary cores (01 R7). -/
def isOrdinary (n : Nat) : Bool := n < 0x10000
/-- Slots that exist: ordinary, pump-class and board cores (01 R5, R8). -/
def slotExists (n : Nat) : Bool := n < 0x10000 + 16 * 312
/-- The tile of an ordinary slot, 0 to 1023 over the module. -/
def tileOf (n : Nat) : Nat := n / 64
/-- The region of a tile, 0 to 63 over the module. -/
def regionOf (t : Nat) : Nat := t / 16
/-- The die of a tile. -/
def dieOf (t : Nat) : Nat := t / 256
/-- The index p of a pump-class core (20 R347). -/
def pumpOf (n : Nat) : Nat := coreOf n - 4096
/-- The die of pump-class core p: a first-tier one stands on its die, the others on the I/O die (20 R347). -/
def pumpDie (p : Nat) : Option Nat := if p < 256 then some (p / 64) else none

/-! ## Places on the mesh (01 R6) -/

/-- The index of a region in its die, or of a tile in its region, from its place (x, y) in the 4 × 4 grid. -/
def gridIndex (x y : Nat) : Nat := 4 * y + x
/-- The index of a die from its place in the 2 × 2 square. -/
def dieIndex (x y : Nat) : Nat := 2 * y + x
/-- A tile's mesh column, 0 to 31: of its die's, its region's and its own place. -/
def meshCol (t : Nat) : Nat := 16 * (dieOf t % 2) + 4 * (regionOf t % 16 % 4) + t % 16 % 4
/-- A tile's mesh row, 0 to 31. -/
def meshRow (t : Nat) : Nat := 16 * (dieOf t / 2) + 4 * (regionOf t % 16 / 4) + t % 16 / 4
/-- The tile at a mesh column and row. -/
def meshTile (col row : Nat) : Nat :=
  256 * dieIndex (col / 16) (row / 16) + 16 * gridIndex (col % 16 / 4) (row % 16 / 4) + gridIndex (col % 4) (row % 4)
/-- The mesh neighbours of a tile; at a die's edge one lies on the adjoining die. -/
def meshNeighbours (t : Nat) : List Nat :=
  let c := meshCol t
  let r := meshRow t
  (if 0 < c then [meshTile (c - 1) r] else []) ++ (if c < 31 then [meshTile (c + 1) r] else [])
  ++ (if 0 < r then [meshTile c (r - 1)] else []) ++ (if r < 31 then [meshTile c (r + 1)] else [])
/-- The distance of two tiles on the mesh, in hops (01 R6; 09 R195). -/
def meshHops (a b : Nat) : Nat :=
  (max (meshCol a) (meshCol b) - min (meshCol a) (meshCol b)) + (max (meshRow a) (meshRow b) - min (meshRow a) (meshRow b))

/-! ## Reading and replacing units -/

/-- A slot. -/
def State.slotAt (s : State) (n : Nat) : Slot := look {} s.slots n
/-- Replaces a slot. -/
def State.setSlot (s : State) (n : Nat) (x : Slot) : State := { s with slots := put s.slots n x }
/-- A core. -/
def State.coreAt (s : State) (c : Nat) : Core := look {} s.cores c
/-- Replaces a core. -/
def State.setCore (s : State) (c : Nat) (x : Core) : State := { s with cores := put s.cores c x }
/-- A tile. -/
def State.tileAt (s : State) (t : Nat) : Tile := look {} s.tiles t
/-- Replaces a tile. -/
def State.setTile (s : State) (t : Nat) (x : Tile) : State := { s with tiles := put s.tiles t x }
/-- A region. -/
def State.regionAt (s : State) (r : Nat) : Region := look {} s.regions r
/-- Replaces a region. -/
def State.setRegion (s : State) (r : Nat) (x : Region) : State := { s with regions := put s.regions r x }
/-- A die. -/
def State.dieAt (s : State) (d : Nat) : Die := look {} s.dies d
/-- Replaces a die. -/
def State.setDie (s : State) (d : Nat) (x : Die) : State := { s with dies := put s.dies d x }
/-- A launch; launch 0 is no launch. -/
def State.launchAt (s : State) (l : Nat) : Launch := look {} s.launches l
/-- Replaces a launch. -/
def State.setLaunch (s : State) (l : Nat) (x : Launch) : State := { s with launches := put s.launches l x }
/-- A partition. -/
def State.partAt (s : State) (p : Nat) : Partition := look {} s.partitions p
/-- Replaces a partition. -/
def State.setPart (s : State) (p : Nat) (x : Partition) : State := { s with partitions := put s.partitions p x }

/-- The key of the context image that a slot's selector names (05 R96). -/
def State.imageKey (s : State) (n : Nat) : Nat :=
  16 * coreOf n + (slotIdx n + (s.slotAt n).sel.val) % 16
/-- The image by its key. -/
def State.imageAt (s : State) (key : Nat) : Image := look {} s.images key
/-- Replaces an image by its key. -/
def State.setImage (s : State) (key : Nat) (x : Image) : State := { s with images := put s.images key x }
/-- The context image of a slot. -/
def State.img (s : State) (n : Nat) : Image := s.imageAt (s.imageKey n)
/-- Replaces the context image of a slot. -/
def State.setImg (s : State) (n : Nat) (x : Image) : State := s.setImage (s.imageKey n) x

/-- Reads a general register of a slot: g0 reads as zero (05 R94). -/
def State.gOf (s : State) (n : Nat) (r : Reg) : Word := if r = 0 then 0 else (s.img n).g[r]
/-- Writes a general register of a slot: a write to g0 is discarded (05 R94). -/
def State.setGOf (s : State) (n : Nat) (r : Reg) (x : Word) : State :=
  if r = 0 then s else s.setImg n { s.img n with g := (s.img n).g.set r x }
/-- Reads a general register of the issuing slot. -/
def State.g (s : State) (r : Reg) : Word := s.gOf s.cur r
/-- Writes a general register of the issuing slot. -/
def State.setG (s : State) (r : Reg) (x : Word) : State := s.setGOf s.cur r x
/-- The register `k` above r, for the instructions that name several. -/
def regPlus (r : Reg) (k : Nat) : Reg := Fin.ofNat 32 (r.val + k)

/-- Reads a mask register: k0 reads as ones (17 R304). -/
def State.kOf (s : State) (n : Nat) (r : KReg) : BitVec 128 := if r = 0 then .allOnes 128 else (s.img n).k[r]
/-- Writes a mask register: a write to k0 is discarded (17 R304). -/
def State.setKOf (s : State) (n : Nat) (r : KReg) (x : BitVec 128) : State :=
  if r = 0 then s else s.setImg n { s.img n with k := (s.img n).k.set r x }
/-- Reads a vector register. -/
def State.vOf (s : State) (n : Nat) (r : VReg) : BitVec 1024 := (s.img n).v[r]
/-- Writes a vector register. -/
def State.setVOf (s : State) (n : Nat) (r : VReg) (x : BitVec 1024) : State :=
  s.setImg n { s.img n with v := (s.img n).v.set r x }

/-- The program counter of a slot. -/
def State.pcOf (s : State) (n : Nat) : Word := (s.img n).pc
/-- Sets the program counter of a slot. -/
def State.setPc (s : State) (n : Nat) (p : Word) : State := s.setImg n { s.img n with pc := p }

/-- The level a slot runs at, TSTATUS.LVL (13 R251, R259). -/
def State.level (s : State) (n : Nat) : Nat := bits (s.img n).tstatus 1 0
/-- The partner of a paired slot (13 R259). -/
def State.partner (s : State) (n : Nat) : Option Nat :=
  let p := (s.img n).paircfg
  if bit p 5 || bit p 4 then some (16 * coreOf n + bits p 3 0) else none
/-- The trailer of a slot, where it leads a pair. -/
def State.trailerOf (s : State) (n : Nat) : Option Nat := if bit (s.img n).paircfg 5 then s.partner n else none

/-- The launch a slot belongs to or acts for (13 R259, 20 R348). -/
def State.launchOf (s : State) (n : Nat) : Launch := s.launchAt (s.slotAt n).launch
/-- The sealed mode (04 R72). -/
def Launch.isSealed (l : Launch) : Bool := l.record.mode.getLsbD 0
/-- The level mode (04 R72). -/
def Launch.isLevel (l : Launch) : Bool := l.record.mode.getLsbD 1
/-- The checked mode (04 R72). -/
def Launch.isChecked (l : Launch) : Bool := l.record.mode.getLsbD 2
/-- The witness mode (04 R72). -/
def Launch.isWitness (l : Launch) : Bool := l.record.mode.getLsbD 3
/-- The sealed mode of a slot's launch. -/
def State.isSealed (s : State) (n : Nat) : Bool := (s.launchOf n).isSealed
/-- CODELIM of a slot's launch (06 R119). -/
def State.codelim (s : State) (n : Nat) : Nat := (s.launchOf n).record.codelen
/-- TILES of the launch a slot belongs to, 0 where it belongs to none (05 R115). -/
def State.tilesOf (s : State) (n : Nat) : Nat := (s.launchOf n).record.tiles
/-- A slot ends up LIVE and in the rotation or blocked; not held by the reeve. -/
def State.isLive (s : State) (n : Nat) : Bool := (s.slotAt n).state = .live

/-- The cycle count that times a slot: of its tile's polder, or of its pump-class core's own clock (04 R76,
21 R376). -/
def State.now (s : State) (n : Nat) : Nat :=
  if isOrdinary n then (s.tileAt (tileOf n)).cycle else (s.coreAt (coreOf n)).cycle

/-! ## The stores -/

/-- The size of a store in bytes (07 R136; for G with the context area, 05 R95). -/
def spSize : SP → Nat
  | .g => 0x80000 | .a => 0x200000 | .c => 0x100000 | .w => 0x100000 | .ctx => 0x10000
  | .glob => 0 | .dram => 0x100000000000000

/-- The key in memory of a location. The keys of the stores and of DRAM never meet. CONTEXT is not kept as
bytes. -/
def Loc.key (l : Loc) : Nat :=
  match l.sp with
  | .g => 2 ^ 60 + l.unit * 0x80000 + l.off
  | .a => 2 ^ 61 + l.unit * 0x200000 + l.off
  | .c => 2 ^ 61 + 2 ^ 40 + l.unit * 0x100000 + l.off
  | .w => 2 ^ 61 + 2 ^ 41 + l.unit * 0x100000 + l.off
  | .dram => l.off
  | .ctx | .glob => 2 ^ 63 + l.unit * 0x10000 + l.off

/-- The key of the first byte of a launch's code region (06 R118). -/
def codeKey (launch : Nat) : Nat := 2 ^ 62 + launch * 0x1000000

/-- Reads bytes of a store as one number. -/
def State.read (s : State) (l : Loc) (n : Nat) : Nat := loadNat s.mem l.key n
/-- Writes bytes of a store from one number. A write makes each word it covers whole again. -/
def State.write (s : State) (l : Loc) (n x : Nat) : State := { s with mem := storeNat s.mem l.key n x }

/-- The key of the 64-bit word that holds a byte. -/
def wordKey (k : Nat) : Nat := k - k % 8

/-- The keys of the words that `n` bytes from `k` touch. -/
def wordsTouched (k n : Nat) : List Nat :=
  (List.range ((k % 8 + n + 7) / 8)).map fun i => wordKey k + 8 * i

/-- The key by which a location's words are marked poisoned: a CONTEXT location stands for its word of the G store (05 R95). -/
def Loc.markKey (l : Loc) : Nat :=
  match l.sp with
  | .ctx => 2 ^ 60 + l.unit * 0x80000 + 0x70000 + l.off
  | _ => l.key

/-- Does an access of `n` bytes meet a poisoned word (13 R266)? -/
def State.poisoned (s : State) (l : Loc) (n : Nat) : Bool :=
  (wordsTouched l.markKey n).any fun k => decide (k ∈ s.poison)

/-- Writing a whole word with good data removes its poison; a store to part of a poisoned word leaves it
poisoned. -/
def State.unpoison (s : State) (l : Loc) (n : Nat) : State :=
  if s.poison = [] then s
  else { s with poison := s.poison.filter fun k => !(l.markKey ≤ k && k + 8 ≤ l.markKey + n) }

/-- A write of single bytes makes whole each word that it covers (13 R266). -/
def State.heal (s : State) (keys : List Nat) : State :=
  if s.poison = [] then s
  else { s with poison := s.poison.filter fun k => !((List.range 8).all fun i => decide (k + i ∈ keys)) }

/-- The tag of a G word (07 R142). -/
def State.tagFull (s : State) (l : Loc) : Bool := !decide (wordKey l.key ∈ s.empties)
/-- Sets the tag of a G word. -/
def State.setTag (s : State) (l : Loc) (full : Bool) : State :=
  if full then { s with empties := delFrom s.empties (wordKey l.key) }
  else { s with empties := addTo s.empties (wordKey l.key) }

/-- A G location of a core. -/
def gLoc (core off : Nat) : Loc := ⟨.g, core, off⟩

/-- The key of the first byte of an image in the G store (05 R95). -/
def imageBase (key : Nat) : Nat := (gLoc (key / 16) (0x70000 + 0x1000 * (key % 16))).key

/-- Writes a general register of slot n with a poisoned word (13 R266). A word that was poisoned already is listed once more, so
that the end of the older poison leaves this one. -/
def State.taintG (s : State) (n : Nat) (r : Reg) : State :=
  if r = 0 then s else { s with poison := (imageBase (s.imageKey n) + 8 * r.val) :: s.poison }

/-! ## Stores that have left their thread -/

/-- A store that has left its thread is performed at its target. -/
def State.land (s : State) (x : Counted) : State :=
  ({ s with mem := storeBytes s.mem x.loc.key x.data } : State).unpoison x.loc x.data.length

/-- Do two stores share a byte, or, of the vector class, a 64-bit word, which is the unit of a vector store (08 R176)? -/
def Counted.meets (x y : Counted) : Bool :=
  if x.cls = 2 ∧ y.cls = 2 then decide (wordKey x.loc.key = wordKey y.loc.key)
  else decide (x.loc.key < y.loc.key + y.data.length ∧ y.loc.key < x.loc.key + x.data.length)

/-- Must `y`, issued before `x`, be performed before it (08 R170, R171, R177)? A release, as a counted store is one, is ordered after
every earlier access of its thread, and two stores of one class to one address are ordered. -/
def Counted.follows (x y : Counted) : Bool := y.slot = x.slot && (x.rel || (y.cls = x.cls && y.meets x))

/-- Has slot n, as its tile's issuer, accepted matrix instructions that have not finished (19 R328)? -/
def State.matrixBusy (s : State) (n : Nat) : Bool :=
  isOrdinary n && (s.slotAt n).engine = .matrix && (s.tileAt (tileOf n)).mx.queue ≠ []

/-- Is a store ordered after a matrix instruction of its thread that has not finished (08 R177)? -/
def State.matrixBehind (s : State) (x : Counted) : Bool :=
  isOrdinary x.slot && decide ((s.tileAt (tileOf x.slot)).mx.done < x.mx)

/-- Has a store reached the cycle before which it may not be seen (09 R197), with the matrix work before it finished (08 R177)? -/
def State.countedReady (s : State) (x : Counted) : Bool :=
  !s.matrixBehind x
  && match x.due with
    | none => true
    | some v => v ≤ (s.tileAt x.tile).cycle

/-- Performs, in the order of issue, the marked entries that `must` names, and those that `ok` lets go and that follow none left
standing. -/
def State.landMarked (s : State) (ok must : Counted → Bool) (ms : List (Counted × Bool)) : State :=
  let r := ms.foldl (fun (acc : State × List Counted) m =>
    if m.2 && (must m.1 || (ok m.1 && !acc.2.any m.1.follows)) then (acc.1.land m.1, acc.2) else (acc.1, acc.2 ++ [m.1])) (s, [])
  { r.1 with culvert := r.2 }

/-- Performs the marked entries that may be performed now. -/
def State.landReady (s : State) (ms : List (Counted × Bool)) : State := s.landMarked s.countedReady (fun _ => false) ms

/-- Performs the entries of a slot that may be performed now. -/
def State.landOwn (s : State) (n : Nat) : State :=
  if s.culvert = [] then s else s.landReady (s.culvert.map fun x => (x, decide (x.slot = n)))

/-- Does slot n still have accesses that are not performed (08 R172)? -/
def State.outstanding (s : State) (n : Nat) : Bool := s.matrixBusy n || s.culvert.any fun x => x.slot = n

/-- The outstanding stores, those of slot n marked that stand at or before its last release (08 R178). -/
def State.beforeRelease (s : State) (n : Nat) : List (Counted × Bool) :=
  s.culvert.foldr (fun x acc => (x, x.slot = n && (x.rel || acc.any fun y => y.2)) :: acc) []

/-- Performs, in the order of issue, the entries that a test selects. -/
def State.landAll (s : State) (p : Counted → Bool) : State :=
  (s.culvert.filter p).foldl (fun s x => s.land x) { s with culvert := s.culvert.filter fun x => !p x }

/-- Performs the stores that slot n posted in the scalar class, but for a release that follows one left standing: frames and records
are accesses of that class (08 R170; 12 R232). -/
def State.landScalar (s : State) (n : Nat) : State :=
  if s.culvert = [] then s
  else s.landMarked (fun _ => true) (fun _ => false) (s.culvert.map fun x => (x, x.slot = n && x.cls = 0))

/-! ## Retirement and the loop stack -/

/-- The end test (06 R124): `a` is the retiring instruction's pc and `n` its next pc. -/
def endTest (a : Word) : List LoopLevel → Word → Word × List LoopLevel
  | [], n => (n, [])
  | l :: r, n =>
    if l.start ≤ a ∧ a ≤ l.stop ∧ l.stop < n then
      if l.count - 1 ≠ 0 then (l.start, { l with count := l.count - 1 } :: r) else endTest a r n
    else (n, l :: r)

/-- The pops of a taken BR or JR from `a` to `t` (06 R125). -/
def leaveLoops (a t : Word) : List LoopLevel → List LoopLevel
  | [] => []
  | l :: r =>
    if l.start ≤ a ∧ a ≤ l.stop ∧ (t < l.start ∨ l.stop < t) then leaveLoops a t r else l :: r

/-- TICKSET counts a retirement at user level (12 R240, 13 R254). -/
def Image.countTick (im : Image) : Image :=
  if bits im.tickset 31 0 = 0 ∨ bits im.tstatus 1 0 ≠ 0 then im
  else { im with tickset := word (bits im.tickset 31 0 - 1) }

/-- The retirement just counted took TICKSET from 1 to 0 (12 R240). -/
def Image.tickHits (im : Image) : Bool := bits im.tickset 31 0 = 1 && bits im.tstatus 1 0 = 0

/-- Counts a retirement of slot n and marks TICK due when it takes the count to 0 (12 R240). -/
def State.tickRetired (s : State) (n : Nat) : State :=
  let hit := (s.img n).tickHits
  let s := s.setImg n (s.img n).countTick
  if hit then s.setSlot n { s.slotAt n with tickDue := true } else s

/-- Puts slot n's pc and loop stack where a retirement from its pc to `next` leaves them, without counting
it (06 R124, 12 R425). -/
def State.settle (s : State) (n : Nat) (next : Word) : State :=
  let im := s.img n
  let r := endTest im.pc im.loops next
  s.setImg n { im with pc := r.1, loops := r.2 }

/-- Retires the instruction of slot n with next pc `next` (06 R124, 12 R240). -/
def State.retireTo (s : State) (n : Nat) (next : Word) : State := (s.settle n next).tickRetired n

/-- Retires an instruction of `len` bytes of slot n. -/
def State.retireOf (s : State) (n len : Nat) : State := s.retireTo n (s.pcOf n + word len)

/-- Retires an instruction of `len` bytes of the issuing slot. -/
def State.retire (s : State) (len : Nat) : State := s.retireOf s.cur len

/-- A taken transfer of the issuing slot to `t`; BR and JR (`pops`) leave loops (06 R125). It retires the
instruction. -/
def State.transfer (s : State) (pops : Bool) (t : Word) : State :=
  let im := s.img s.cur
  (s.setImg s.cur { im with pc := t, loops := if pops then leaveLoops im.pc t im.loops else im.loops }).tickRetired
    s.cur

/-- A progress point (04 R81): the count goes to zero, and a WDOG that this turn's count made due is
withdrawn. -/
def State.progress (s : State) (n : Nat) : State :=
  let s := s.setImg n { s.img n with wdCount := 0 }
  s.setSlot n { s.slotAt n with wdDue := false }

/-- Empties the next `k` turns of slot n: it issues again k + 1 turns after the present one (04 R75). -/
def State.stall (s : State) (n k : Nat) : State :=
  if k = 0 then s else s.setSlot n { s.slotAt n with issueFrom := s.now n + 16 * (k + 1) }

/-- Ends slot n's wait and retires its instruction, with a progress point (04 R81). -/
def State.complete (s : State) (n len : Nat) : State :=
  let s := s.setSlot n { s.slotAt n with wait := none }
  (s.progress n).retireOf n len

/-- Slot n issues again at its first turn after the present cycle (11 R209; 13 R256). -/
def State.awake (s : State) (n : Nat) : State :=
  s.setSlot n { s.slotAt n with turnFrom := max (s.slotAt n).turnFrom (s.now n + 1) }

/-- The condition that slot n waits for is met in the present cycle: its instruction completes, and the next one issues at the first
turn after the cycle (11 R209). -/
def State.served (s : State) (n len : Nat) : State := (s.awake n).complete n len

/-- Retires the issuing slot's instruction, which is a progress point where the slot had waited for it (04 R81; 08 R185;
19 R328; 20 R364). -/
def State.finish (s : State) (len : Nat) : State :=
  if (s.slotAt s.cur).wait.isSome then s.complete s.cur len else s.retire len

/-- Retires the issuing slot's blocking instruction, whose completion is a progress point whether it waited or not (04 R81,
R87). -/
def State.finishBlocking (s : State) (len : Nat) : State := s.complete s.cur len

/-- Puts slot n to wait. -/
def State.block (s : State) (n : Nat) (w : Wait) : State := s.setSlot n { s.slotAt n with wait := some w }

/-! ## Turns (04 R75) -/

/-- Does slot n take a turn in the present cycle of its clock (04 R75)? -/
def State.turnDue (s : State) (n : Nat) : Bool :=
  let sl := s.slotAt n
  sl.state = .live && sl.hold.isNone && decide (s.now n % 16 = slotIdx n ∧ sl.turnFrom ≤ s.now n)
  && decide (sl.launch = 0 ∨ (s.launchAt sl.launch).phase = .running)

/-- Takes the turn: the slot becomes the issuing one and waits for its next turn. -/
def State.openTurn (s : State) (n : Nat) : State :=
  let s := s.setSlot n { s.slotAt n with turnFrom := s.now n + 16, starting := false }
  { s with cur := n }

/-! ## Taking a trap and returning from one -/

/-- The boundary causes of 12 R239 (13 R255). -/
def isBoundary (cause : Nat) : Bool := 0x16 ≤ cause && cause ≤ 0x19

/-- Does a trap of slot n with a cause go to hypervisor level (13 R254)? -/
def State.toReeve (s : State) (n cause : Nat) : Bool :=
  let im := s.img n
  cause = 0x20 || bit im.tdeleg cause || im.tvec = 0 || (bits im.tstatus 1 0 = 1 && bit im.tstatus 4)

/-- A loop level as TLOOPnS records it (13 R255). -/
def packLoop (l : LoopLevel) : Word := word (bits l.stop 31 0 * 2 ^ 32 + bits l.start 31 0)

/-- Level i of a loop stack held innermost first; a level at or above the depth reads as zero (06 R123). -/
def loopAt (ls : List LoopLevel) (i : Nat) : LoopLevel := ls.reverse.getD i {}

/-- A trap to supervisor level (13 R255), taken in one step with the trapping pc. -/
def Image.enter (im : Image) (cause sub : Nat) (v pc : Word) (boundary : Bool) : Image :=
  { im with
    tstatus := word (1 + 4 * bits im.tstatus 1 0 + 16 + (if boundary then 32 else 0) + 256 * im.loops.length)
    cause := word (sub * 256 + cause)
    tval := v
    trappc := pc
    tloopS := .ofFn fun i => packLoop (loopAt im.loops i.val)
    tloopC := .ofFn fun i => (loopAt im.loops i.val).count
    loops := []
    pc := im.tvec }

/-- Takes a trap of slot n (13 R254 to R256): at supervisor level it is taken in one step; at hypervisor
level the slot leaves the rotation in the state the trap found it, with the reeve's record. -/
def State.takeTrap (s : State) (n cause sub : Nat) (v : Word) (boundary : Bool) : State :=
  let s := s.setSlot n { s.slotAt n with wait := none }
  if s.toReeve n cause then
    s.setSlot n { s.slotAt n with hold := some ⟨cause, sub, v, s.pcOf n, boundary⟩ }
  else s.setImg n ((s.img n).enter cause sub v (s.pcOf n) boundary)

/-- Traps the instruction that the issuing slot is at. -/
def State.trap (s : State) (cause sub : Nat) (v : Word) : State := s.takeTrap s.cur cause sub v false

/-- The levels that TRET restores (13 R274): the first `depth` of TLOOP0 to TLOOP3, innermost first. -/
def Image.savedLoops (im : Image) : List LoopLevel :=
  (((List.finRange 4).map fun i =>
    (⟨word (bits im.tloopS[i] 31 0), word (bits im.tloopS[i] 63 32), im.tloopC[i]⟩ : LoopLevel)).take
      (bits im.tstatus 10 8)).reverse

/-- Returns from supervisor level (13 R274): the loop stack, the level and INTRAP; the pc is at TRAPPC. -/
def Image.leave (im : Image) : Image :=
  { im with
    loops := im.savedLoops
    tstatus := word (im.tstatus.toNat - im.tstatus.toNat % 4 + bits im.tstatus 3 2 - (if bit im.tstatus 4 then 16 else 0))
    pc := im.trappc }

/-- The length of the instruction whose word 0 lies at a pc of slot n's code region (06 R124). Beyond CODELIM, where the spec
gives no word to measure, and in a poisoned word it reads the byte that memory holds there (DESIGN CHOICE, log 55). -/
def State.lengthAt (s : State) (n : Nat) (pc : Word) : Nat :=
  lengthOf ((byteAt s.mem (codeKey (s.slotAt n).launch + pc.toNat)).toNat % 4)

/-! ## Activity -/

/-- The activities that the module counts for an energy context (21 R378, R381): instructions issued, matrix rows streamed,
vector operations, bytes moved by copies, bytes over the mesh, DRAM accesses, polders allotted over a microsecond, and
the saves and restores of the launch. -/
inductive Activity | issue | rows | vector | copyBytes | meshBytes | dram | standing | save | restore
deriving DecidableEq, Repr

/-- The place of an activity in `Launch.work`. -/
def Activity.index : Activity → Nat
  | .issue => 0 | .rows => 1 | .vector => 2 | .copyBytes => 3 | .meshBytes => 4 | .dram => 5 | .standing => 6 | .save => 7
  | .restore => 8

/-- Adds to one counter of a list that reads 0 beyond its end. -/
def addCount : List Nat → Nat → Nat → List Nat
  | [], 0, n => [n]
  | [], i + 1, n => 0 :: addCount [] i n
  | x :: r, 0, n => (x + n) :: r
  | x :: r, i + 1, n => x :: addCount r i n

/-- Counts an activity for a launch (21 R378, R381); launch 0 is no launch. -/
def State.charge (s : State) (l : Nat) (a : Activity) (n : Nat) : State :=
  if l = 0 then s else s.setLaunch l { s.launchAt l with work := addCount (s.launchAt l).work a.index n }

/-- A meaning that always gives a next state. -/
abbrev Out := Host.Outcome State Fault Refusal

end Sys2Proof.Machine
end

