-- ==== Sys2Proof/Machine/Params.lean ====
section
/-! DEFINITION. The parameter words of the P format: substitution (03 R49) and the field checks made after
it (19 R338, R340, R343, R345), with what ILLEGAL_FIELD reports (03 R62). -/
namespace Sys2Proof.Machine
open Sys2Proof

/-- Parameter word i as encoded. -/
def rawParam (p : Params) (i : Nat) : Nat :=
  match i with
  | 0 => p.p0.toNat | 1 => p.p1.toNat | 2 => p.p2.toNat | _ => p.p3.toNat

/-- A substituted word whose bits [31:5] are not zero (03 R49). -/
def badSubst (p : Params) (i : Nat) : Bool := p.subst.getLsbD i && 32 ≤ rawParam p i

/-- Parameter word i after substitution by the issuing slot (03 R49). -/
def State.param (s : State) (p : Params) (i : Nat) : Nat :=
  if p.subst.getLsbD i && !badSubst p i then (s.g (rg (rawParam p i))).toNat % 2 ^ 32 else rawParam p i

/-- Bits `hi` down to `lo` of a number. -/
def fieldOf (x hi lo : Nat) : Nat := x / 2 ^ lo % 2 ^ (hi + 1 - lo)

/-- The substitution checks of the four words. -/
def substChecks (p : Params) : List (Nat × Bool) :=
  [(69, badSubst p 0), (101, badSubst p 1), (133, badSubst p 2), (165, badSubst p 3)]

/-- MLDB's parameter fields (19 R338). -/
def mldbChecks (p0 p1 p2 p3 : Nat) : List (Nat × Bool) :=
  let k := fieldOf p1 15 0
  let n := fieldOf p1 31 16
  [(84, p0 / 2 ^ 20 != 0),
   (96, k < 16 || 256 < k || k % 16 != 0 || (fieldOf p3 3 0 == 3 && k % 32 != 0)),
   (112, n < 1 || 256 < n),
   (148, p2 / 2 ^ 20 != 0), (160, 7 < fieldOf p3 3 0), (164, p3 / 16 != 0)]

/-- MMUL's parameter fields (19 R340). -/
def mmulChecks (p0 p1 p2 p3 : Nat) : List (Nat × Bool) :=
  let m := fieldOf p0 10 0
  [(64, 1024 < m || (m == 0 && fieldOf p2 24 24 == 0)), (75, p0 / 2 ^ 11 != 0), (117, p1 / 2 ^ 21 != 0),
   (148, 7 < fieldOf p2 23 20), (153, p2 / 2 ^ 25 != 0), (181, p3 / 2 ^ 21 != 0)]

/-- MOUT's parameter fields (19 R343). -/
def moutChecks (p0 p1 p2 p3 : Nat) : List (Nat × Bool) :=
  let rows := fieldOf p2 10 0
  let n := fieldOf p2 24 16
  [(84, p0 / 2 ^ 20 != 0), (117, p1 / 2 ^ 21 != 0), (128, rows < 1 || 1024 < rows),
   (139, fieldOf p2 15 11 != 0), (144, n < 1 || 256 < n), (153, p2 / 2 ^ 25 != 0),
   (160, 10 < fieldOf p3 3 0), (164, 4 < fieldOf p3 6 4), (170, p3 / 2 ^ 10 != 0)]

/-- MRED's parameter fields (19 R345). -/
def mredChecks (p0 p1 p2 p3 : Nat) : List (Nat × Bool) :=
  let len := fieldOf p1 20 0
  [(84, p0 / 2 ^ 20 != 0), (96, len < 4 || 0x100000 < len), (117, p1 / 2 ^ 21 != 0),
   (128, fieldOf p2 3 0 == 0), (133, p2 / 32 != 0), (180, p3 / 2 ^ 20 != 0)]

/-- Parameter word i for the entry's checks: after substitution, or `d` where the substitution itself is refused, so that no
value stands there to be checked (03 R49). -/
def State.judged (s : State) (p : Params) (d : Nat) (i : Nat) : Nat := if badSubst p i then d else s.param p i

/-- Leaves out the entry's checks on a word whose substitution is refused (03 R49). -/
def keepChecks (p : Params) (cs : List (Nat × Bool)) : List (Nat × Bool) :=
  cs.filter fun c => !badSubst p (c.1 / 32 - 2)

/-- The doubleword of a P-format instruction that holds a bit, after substitution (03 R62). A word whose substitution is
refused is shown as encoded: the spec does not say what stands there then (DESIGN CHOICE, log 50). -/
def State.paramDouble (s : State) (p : Params) (bit : Nat) : Word :=
  if bit < 128 then word (s.param p 0 + 2 ^ 32 * s.param p 1)
  else word (s.param p 2 + 2 ^ 32 * s.param p 3)

/-- Check 5 of 03 R61 on the parameter words: the lowest offending bit and what TVAL holds. MMUL's M is checked against P2's
CO only where P2 stands (`coop` is the P2 that refuses no M). -/
def State.paramFault (s : State) (i : Instr) : Option (Nat × Word) :=
  let go (p : Params) (coop : Nat) (f : Nat → Nat → Nat → Nat → List (Nat × Bool)) : Option (Nat × Word) :=
    let v := s.judged p
    match lowest (substChecks p ++ keepChecks p (f (v 0 0) (v 0 1) (v coop 2) (v 0 3))) with
    | none => none
    | some b => some (b, s.paramDouble p b)
  match i with
  | .mldb p => go p 0 mldbChecks
  | .mmul p => go p (2 ^ 24) mmulChecks
  | .mout p => go p 0 moutChecks
  | .mred p => go p 0 mredChecks
  | _ => none

end Sys2Proof.Machine
end

