-- ==== Sys2Proof/Machine/Issue.lean ====
section
/-! DEFINITION. Checks 5 to 8 of 03 R61 as they are made when an instruction executes: late field checks,
privilege (13 R253), engine binding (04 R78) and sealing (03 R423, 13 R258), and the frame every meaning
stands in. -/
namespace Sys2Proof.Machine
open Sys2Proof

/-- Words 1 and 0 of an instruction, as TVAL holds them (03 R62). -/
def words01 (i : Instr) : Word := word (encodeNat i % 2 ^ 64)

/-! ## System register numbers (13 R258) -/

/-- Is the register allocated, for a slot of an ordinary core or not (13 R258)? -/
def sysAllocated (ordinary : Bool) (r : Nat) : Bool := sysKnown r && (ordinary || r < 0x110)

/-- The lowest level that may read a register (13 R258). -/
def sysReadLevel (r : Nat) : Nat := if r ≤ 0x005 || 0x100 ≤ r then 1 else 0

/-- The lowest level that may write a register; a read-only register takes a write at its read level and keeps
its value (13 R258, R272). -/
def sysWriteLevel (r : Nat) : Nat :=
  if r = 0x108 || r = 0x10A then 2 else sysReadLevel r

/-- Registers whose reading reveals timing or placement at user level (13 R258). -/
def sysReadReveals (r : Nat) : Bool :=
  r = 0x040 || r = 0x041 || r = 0x042 || r = 0x043 || r = 0x044 || r = 0x046 || r = 0x047 || r = 0x048
  || r = 0x053 || r = 0x057 || r = 0x05B || r = 0x05F || r = 0x060 || r = 0x070

/-! ## Engine binding -/

/-- The engine whose set an instruction belongs to; those of the scalar set any slot may issue (04 R78). -/
def unitOf : Instr → Engine
  | .vperform .. | .vadd .. | .vsub .. | .vmul .. | .vfma .. | .vdiv .. | .vsqrt .. | .vmin .. | .vmax ..
  | .vabs .. | .vneg .. | .vand .. | .vor .. | .vxor .. | .vshl .. | .vshr .. | .vcmp .. | .vsel ..
  | .vcvt .. | .vquant .. | .vdeq .. | .vred .. | .vscan .. | .vbcast .. | .vmovg .. | .vshuf ..
  | .vslide .. | .viota .. | .vtlu .. | .vtcfg .. | .vld .. | .vst .. | .vgath .. | .vscat .. | .kand ..
  | .kor .. | .kxor .. | .knot .. | .kpop .. | .kset .. | .kfirst .. | .vpack .. | .vunpk ..
  | .vclass .. | .kmovg .. => .vector
  | .mcfg .. | .mldb .. | .mswap | .mmul .. | .mzero .. | .mout .. | .mstat .. | .mred .. => .matrix
  | .dld .. | .dst .. | .damo .. | .cpy .. | .cpyw .. | .cpyq .. | .cpyx .. | .tlbi .. | .xlat .. => .copy
  | _ => .scalar

/-- May a slot bound to an engine issue an instruction of a set (04 R78)? -/
def engineAllows (bound need : Engine) : Bool := need = .scalar || need = bound

/-! ## Privilege -/

/-- The effective address of an M-format operand (03 R45). -/
def State.effAddr (s : State) (m : Addr) : Word := s.g m.a + (s.g m.b <<< m.sc.val) + m.off.signExtend 64
/-- The effective address of AMO, CAS and DAMO, which take no index (03 R45). -/
def State.effAddrAB (s : State) (a : Reg) (off : BitVec 24) : Word := s.g a + off.signExtend 64

/-- The SP field and the effective address of a memory instruction (07 R157). -/
def State.memOperand (s : State) : Instr → Option (SP × Word)
  | .ld _ _ _ sp _ m | .st _ _ sp _ m | .ldm _ _ _ sp _ m | .stm _ _ sp _ m => some (sp, s.effAddr m)
  | .ldf sp _ m | .lde sp _ m | .stf sp _ m | .stff sp _ m | .tagq sp _ m | .tagset sp _ m
  | .racem sp _ m => some (sp, s.effAddr m)
  | .amo _ _ _ sp _ a _ off | .cas _ _ sp _ a _ off => some (sp, s.effAddrAB a off)
  | _ => none

/-- Check 6 of 03 R61: the PRIV subcode and TVAL (13 R253), if the issuing slot's level is too low. -/
def State.privFault (s : State) (i : Instr) : Option (Nat × Word) :=
  let lvl := s.level s.cur
  match i with
  | .tret _ => if lvl ≠ 1 then some (0, words01 i) else none
  | .tkill _ _ | .hvc _ | .tlbi _ _ | .xlat _ _ _ => if lvl = 0 then some (0, words01 i) else none
  | .gaddr phys _ _ _ _ _ => if phys && lvl = 0 then some (0, words01 i) else none
  | .tstart _ _ _ _ _ | .tstop _ _ | .treap _ _ _ | .tstat _ _ | .pair _ _ _ =>
      if slotIdx s.cur ≠ 0 then some (1, words01 i) else none
  | .srd _ r => if lvl < sysReadLevel r.toNat then some (2, word r.toNat) else none
  | .swr _ _ _ r =>
      if lvl < sysReadLevel r.toNat ∨ lvl < sysWriteLevel r.toNat then some (2, word r.toNat) else none
  | _ =>
    match s.memOperand i with
    | some (.ctx, ea) => if lvl = 0 then some (3, ea) else none
    | _ => none

/-! ## Sealing -/

/-- The value that an SWR form would put in place of `old` (13 R272). -/
def swrNew (f : SwrForm) (old x : Word) : Word :=
  match f with
  | .write => x
  | .set => old ||| x
  | .clr => old &&& ~~~x

/-- WINnQ, n = 0 to 3 (07 R148). -/
def isWinQ (r : Nat) : Bool := r = 0x053 || r = 0x057 || r = 0x05B || r = 0x05F

/-- A WINnQ value whose DIES or REGIONS field is not all ones (07 R148). -/
def masksPart (x : Word) : Bool := bits x 19 0 ≠ 0xFFFFF

/-- Does the instruction reveal timing, as its encoding and the operands it reads at issue decide (03 R423;
24 R419)? The forms that reveal only through the state they find (TSTOP, TREAP.try) are not here. -/
def State.reveals (s : State) (i : Instr) : Bool :=
  match i with
  | .sleep _ _ _ | .wqpop _ _ | .wqpush _ _ _ _ _ | .tagq _ _ _ | .cas _ _ _ _ _ _ _
  | .rarm _ _ _ _ | .cpyq _ _ _ | .cpyx _ _ _ => true
  | .amo _ _ op _ d _ _ _ | .damo _ _ op d _ _ _ => d ≠ 0 || op = .swap
  | .recv nowait _ _ | .rqpush _ nowait _ _ | .rqpop nowait _ | .cpy nowait _ => nowait
  | .tself f _ => f = .phys
  | .srd _ r => sysReadReveals r.toNat
  | .swr f d a r =>
      (d ≠ 0 && sysReadReveals r.toNat)
      || (r.toNat = 0x020 && swrNew f (s.img s.cur).waitlim (s.g a) ≠ 0)
      || (isWinQ r.toNat
          && masksPart (swrNew f ((s.coreAt (coreOf s.cur)).win[(r.toNat - 0x050) % 16]) (s.g a)))
  | _ => false

/-! ## The frame of a meaning -/

/-- The late part of check 5: an unallocated system register (13 R272) and the parameter words. -/
def State.lateField (s : State) (i : Instr) : Option (Nat × Word) :=
  match i with
  | .srd _ r | .swr _ _ _ r => if sysAllocated (isOrdinary s.cur) r.toNat then none else some (32, words01 i)
  | .mldb _ | .mmul _ | .mout _ | .mred _ => s.paramFault i
  | _ => none

/-- The first of checks 5 to 8 that fails: cause, subcode and TVAL (03 R61, R62). -/
def State.issueFault (s : State) (i : Instr) : Option (Nat × Nat × Word) :=
  match s.lateField i with
  | some (b, v) => some (0x02, b, v)
  | none =>
    match s.privFault i with
    | some (sub, v) => some (0x05, sub, v)
    | none =>
      if !engineAllows (s.slotAt s.cur).engine (unitOf i) then some (0x06, 0, words01 i)
      else if s.reveals i && s.isSealed s.cur && s.level s.cur = 0 then some (0x07, 0, 0)
      else none

/-- An instruction of the issuing slot: the first failing check traps, and otherwise the body is its effect. -/
def issue (i : Instr) (s : State) (body : State → State) : Out :=
  match s.issueFault i with
  | some (c, sub, v) => .next (s.trap c sub v)
  | none => .next (body s)

end Sys2Proof.Machine
end

