-- ==== Sys2Proof/Machine/Frames.lean ====
section
/-! DEFINITION. Handler frames, continuation records and tokens (12 R228 to R236), the delivery of a
hardware cause as an effect or a trap (R239), and parking (13 R267). -/
namespace Sys2Proof.Machine
open Sys2Proof

/-! ## The handler stack -/

/-- BASE as a G offset (12 R228). -/
def hspBase (hsp : Word) : Nat := 32 * bits hsp 18 5
/-- DEPTH (12 R228). -/
def hspDepth (hsp : Word) : Nat := bits hsp 23 19
/-- PUSHES (12 R228). -/
def hspPushes (hsp : Word) : Nat := bits hsp 63 48

/-- The G offset of frame i of slot n. -/
def State.frameOff (s : State) (n i : Nat) : Nat := hspBase (s.img n).hsp + 32 * i

/-- Word w of frame i of slot n, read as it stands in memory (12 R229, R232). -/
def State.frameWord (s : State) (n i w : Nat) : Word :=
  word (s.read (gLoc (coreOf n) (s.frameOff n i + 8 * w)) 8)

/-- The id and mask of a frame's word 0 (12 R229). -/
def frameId (h : Word) : Nat := bits h 15 0
/-- MASK. -/
def frameMask (h : Word) : Nat := bits h 31 16
/-- KIND. -/
def frameKind (h : Word) : Nat := bits h 35 32
/-- R: the frame's handler is running. -/
def frameR (h : Word) : Bool := bit h 36
/-- SKIPTOP. -/
def frameSkip (h : Word) : Nat := bits h 44 40
/-- LDEPTH. -/
def frameLdepth (h : Word) : Nat := bits h 47 45

/-- A malformed frame (12 R232). -/
def frameBad (h : Word) : Bool :=
  bits h 39 37 ≠ 0 || 1 < frameKind h || 4 < frameLdepth h || 16 < frameSkip h

/-- Word 0 of every live frame, frame 0 first. -/
def State.frameHeads (s : State) (n : Nat) : List Word :=
  (List.range (hspDepth (s.img n).hsp)).map fun i => s.frameWord n i 0

/-- The lowest malformed live frame (12 R232). -/
def State.badFrame (s : State) (n : Nat) : Option Nat := (s.frameHeads n).findIdx? frameBad

/-- Is frame j suspended (12 R233)? -/
def suspended (fs : List Word) (j : Nat) : Bool :=
  ((fs.take (j + 1)).any fun h => frameR h && decide (j < frameSkip h))

/-- Search(x), from the top frame down, passing over suspended frames (12 R234). -/
def searchFrom (fs : List Word) (x : Nat) : Nat → Option Nat
  | 0 => none
  | j + 1 =>
    let h := fs.getD j 0
    if !suspended fs j && decide (x &&& frameMask h = frameId h &&& frameMask h) then some j
    else searchFrom fs x j

/-- Search(x) on a thread's frames (12 R234). -/
def search (fs : List Word) (x : Nat) : Option Nat := searchFrom fs x fs.length

/-- Is frame f suspended by another frame below it (12 R233)? -/
def suspendedByOther (fs : List Word) (f : Nat) : Bool :=
  ((fs.take f).any fun h => frameR h && decide (f < frameSkip h))

/-- CurrentHandler: the highest running frame that no other frame suspends (12 R233). -/
def currentHandler (fs : List Word) : Nat → Option Nat
  | 0 => none
  | j + 1 =>
    if frameR (fs.getD j 0) && !suspendedByOther fs j then some j else currentHandler fs j

/-! ## Continuation records and tokens -/

/-- The G offset of record i of slot n (12 R230). -/
def State.recordOff (s : State) (n i : Nat) : Nat := 64 * bits (s.img n).contbase 18 6 + 320 * i
/-- CONTSLOTS.N. -/
def State.recordCount (s : State) (n : Nat) : Nat := bits (s.img n).contslots 4 0
/-- A word of record i. -/
def State.recordWord (s : State) (n i off : Nat) : Word :=
  word (s.read (gLoc (coreOf n) (s.recordOff n i + off)) 8)
/-- Writes a word of record i. -/
def State.setRecordWord (s : State) (n i off : Nat) (x : Word) : State :=
  s.write (gLoc (coreOf n) (s.recordOff n i + off)) 8 x.toNat
/-- The header of record i. -/
def State.recordHead (s : State) (n i : Nat) : Word := s.recordWord n i 0
/-- GEN of a header or a token. -/
def genOf (h : Word) : Nat := bits h 63 48
/-- VALID. -/
def recValid (h : Word) : Bool := bit h 43
/-- KIND of a header. -/
def recKind (h : Word) : Nat := bits h 47 44
/-- VP. -/
def recVp (h : Word) : Bool := bit h 42
/-- VD. -/
def recVd (h : Word) : Nat := bits h 41 38
/-- ET. -/
def recEt (h : Word) : Nat := bits h 37 34
/-- FRAME. -/
def recFrame (h : Word) : Nat := bits h 33 30
/-- DEPTH. -/
def recDepth (h : Word) : Nat := bits h 29 25
/-- RESUME. -/
def recResume (h : Word) : Word := word (bits h 24 0)

/-- A well-formed header (12 R231). -/
def headGood (h : Word) : Bool :=
  decide (1 ≤ recDepth h ∧ recDepth h ≤ 16 ∧ recFrame h < recDepth h)
  && (if recVp h then decide (recEt h ≤ 10) else decide (recVd h = 0 ∧ recEt h = 0))

/-- Invalidates a header: VALID 0 and GEN up by one (12 R230). -/
def invalidated (h : Word) : Word := setBits (setBits h 43 43 0) 63 48 (genOf h + 1)

/-- The lowest free record (12 R243). -/
def State.freeRecord (s : State) (n : Nat) : Option Nat :=
  (List.range (s.recordCount n)).find? fun i => !recValid (s.recordHead n i)

/-- A token (12 R231). -/
def tokenOf (gen slot kind thread : Nat) : Word :=
  word (gen * 2 ^ 48 + slot * 2 ^ 44 + kind * 2 ^ 40 + thread * 2 ^ 24)

/-- The first condition of 12 R231 that a token fails: 0 to 3, as the subcodes of R249 number the first three;
none where the token is valid. -/
def State.tokenFault (s : State) (n : Nat) (t : Word) : Option Nat :=
  let i := bits t 47 44
  let h := s.recordHead n i
  if bits t 23 0 ≠ 0 ∨ 1 < bits t 43 40 ∨ s.recordCount n ≤ i then some 0
  else if bits t 39 24 ≠ (s.slotAt n).logSlot.toNat then some 1
  else if !recValid h ∨ genOf h ≠ genOf t ∨ recKind h ≠ bits t 43 40 ∨ !headGood h then some 2
  else if hspDepth (s.img n).hsp < recDepth h then some 3
  else none

/-- Invalidates record i. -/
def State.invalidate (s : State) (n i : Nat) : State :=
  s.setRecordWord n i 0 (invalidated (s.recordHead n i))

/-- Sets DEPTH of HSP. -/
def State.setDepth (s : State) (n d : Nat) : State :=
  s.setImg n { s.img n with hsp := setBits (s.img n).hsp 23 19 d }

/-- Pop(j) (12 R235), without the empty turns. -/
def State.popFrames (s : State) (n j : Nat) : State :=
  let s := (List.range (s.recordCount n)).foldl
    (fun s i => if recValid (s.recordHead n i) && decide (j < recDepth (s.recordHead n i))
      then s.invalidate n i else s) s
  s.setDepth n j

/-- The turns that a pop leaves empty (12 R235). -/
def State.popStall (s : State) (n : Nat) : Nat := ceilDiv (s.recordCount n) 4

/-- Replaces R and SKIPTOP of frame f. -/
def State.markFrame (s : State) (n f : Nat) (r skip : Nat) : State :=
  s.write (gLoc (coreOf n) (s.frameOff n f)) 8
    (setBits (setBits (s.frameWord n f 0) 36 36 r) 44 40 skip).toNat

/-- The loop levels of a record, level 0 first (12 R230). -/
def State.saveLevels (s : State) (n i : Nat) : State :=
  (List.range 4).foldl (fun s k =>
    let l := loopAt (s.img n).loops k
    (s.setRecordWord n i (8 + 16 * k) (packLoop l)).setRecordWord n i (16 + 16 * k) l.count) s

/-- g1 to g31 into a record. -/
def State.saveRegs (s : State) (n i : Nat) : State :=
  (List.range 31).foldl (fun s k => s.setRecordWord n i (0x48 + 8 * k) (s.gOf n (rg (k + 1)))) s

/-- Capture (12 R243): record i, frame f, effect id x, and for a VPERFORM its destination and type. The resume
pc is the thread's pc as it stands. The handler's first instruction issues at the eighth turn after, and the header is
written last, when the turns are over (R236); the record's other words, and the frame's R and SKIPTOP, are written at the
begin of the turns (DESIGN CHOICE, log 69). -/
def State.capture (s : State) (n i f x : Nat) (vp : Option (Nat × Nat)) : State :=
  let fr := s.frameWord n f 0
  let hpc := s.frameWord n f 1
  let depth := hspDepth (s.img n).hsp
  let gen := genOf (s.recordHead n i)
  let head := word (gen * 2 ^ 48 + frameKind fr * 2 ^ 44 + 2 ^ 43
    + (match vp with | some (vd, et) => 2 ^ 42 + vd * 2 ^ 38 + et * 2 ^ 34 | none => 0)
    + f * 2 ^ 30 + depth * 2 ^ 25 + bits (s.pcOf n) 24 0)
  let s := (s.saveLevels n i).saveRegs n i
  let s := s.markFrame n f 1 depth
  let s := s.setGOf n 3 (word x)
  let s := s.setGOf n 4 (tokenOf gen i (frameKind fr) (s.slotAt n).logSlot.toNat)
  let s := s.setPc n hpc
  s.setSlot n { s.slotAt n with wait := none, issueFrom := s.now n + 128, snap := some (s.recordOff n i, head) }

/-! ## Delivery of a hardware cause -/

/-- May the cause be delivered as an effect (12 R239): the frame and the record, where all conditions hold. -/
def State.effectTarget (s : State) (n cause : Nat) : Option (Nat × Nat) :=
  let fs := s.frameHeads n
  let closed := s.isSealed n && (cause = 0x0D || cause = 0x17 || cause = 0x18 || cause = 0x19)
  if s.level n = 0 ∧ bit (s.img n).effen cause ∧ !closed ∧ fs.all (fun h => !frameBad h) then
    match search fs cause, s.freeRecord n with
    | some f, some r => some (f, r)
    | _, _ => none
  else none

/-- Delivers a cause of 12 R239 to slot n. `skip` is the length of the raising instruction where the
continuation resumes after it (R425); without it the continuation resumes at the thread's pc. -/
def State.raiseCause (s : State) (n cause sub : Nat) (v : Word) (skip : Option Nat) : State :=
  match s.effectTarget n cause with
  | some (f, r) =>
    let s := match skip with
      | some len => s.settle n (s.pcOf n + word len)
      | none => s
    ((s.capture n r f cause none).setGOf n 5 (word sub)).setGOf n 6 v
  | none => s.takeTrap n cause sub v (isBoundary cause)

/-- Raises a cause at the issuing instruction, of `len` bytes. -/
def State.raiseHere (s : State) (cause sub : Nat) (v : Word) (len : Nat) : State :=
  s.raiseCause s.cur cause sub v (some len)

/-- The snapshot of slot n ends: its record's header is written (12 R236). -/
def State.finishSnap (s : State) (n : Nat) : State :=
  match (s.slotAt n).snap with
  | some (off, head) => (s.write (gLoc (coreOf n) off) 8 head.toNat).setSlot n { s.slotAt n with snap := none }
  | none => s

/-- What was under way of a capture or a resumption of slot n is over (12 R236). -/
def State.settleSnap (s : State) (n : Nat) : State :=
  let s := s.finishSnap n
  s.setSlot n { s.slotAt n with resuming := false }

/-- A snapshot under way when the thread is lost leaves its record invalid, with the header that it had (12 R236). -/
def State.dropSnapshot (s : State) (n : Nat) : State :=
  if s.now n < (s.slotAt n).issueFrom then s.setSlot n { s.slotAt n with snap := none } else s.finishSnap n

end Sys2Proof.Machine
end

