-- ==== Sys2Proof/Machine/Operands.lean ====
section
/-! DEFINITION. Operand forms and scalar arithmetic (05 R100 to R110): operands of a width read as unsigned
or two's complement numbers, exact results, and the narrowing that Put makes. -/
namespace Sys2Proof.Machine
open Sys2Proof

/-- U(x): the low wb bits read unsigned (05 R100). -/
def uval (w : Width) (x : Word) : Nat := x.toNat % 2 ^ w.bits
/-- S(x): the low wb bits read as two's complement (05 R100). -/
def sval (w : Width) (x : Word) : Int :=
  if 2 * uval w x < 2 ^ w.bits then uval w x else (uval w x : Int) - 2 ^ w.bits
/-- X(x): S where the sign bit is set, U otherwise (05 R100). -/
def xval (sg : Bool) (w : Width) (x : Word) : Int := if sg then sval w x else uval w x

/-- A number as a 64-bit word, modulo 2^64. -/
def wordI (v : Int) : Word := BitVec.ofInt 64 v

/-- SignExtend(x mod 2^b, b) to 64 bits. -/
def sextBits (b : Nat) (x : Nat) : Word :=
  let u := x % 2 ^ b
  if 2 * u < 2 ^ b then word u else word (u + 2 ^ 64 - 2 ^ b)

/-- The word that Put writes: v modulo 2^wb, sign-extended from bit wb − 1 (05 R100). -/
def putWord (w : Width) (v : Int) : Word := sextBits w.bits (v % 2 ^ w.bits).toNat

/-- Sat(v) of ADDS and SUBS (05 R103). -/
def satTo (sg : Bool) (w : Width) (v : Int) : Int :=
  if sg then max (-(2 ^ (w.bits - 1))) (min v (2 ^ (w.bits - 1) - 1)) else max 0 (min v (2 ^ w.bits - 1))

/-- The condition of a CND code on the low W bits (03 R53). -/
def condHolds (c : Cond) (w : Width) (x y : Word) : Bool :=
  match c with
  | .eq => uval w x = uval w y
  | .ne => uval w x ≠ uval w y
  | .lt => sval w x < sval w y
  | .ge => sval w y ≤ sval w x
  | .ltu => uval w x < uval w y
  | .geu => uval w y ≤ uval w x

/-- Tdiv: the quotient rounded toward zero (05 R106). -/
def truncDiv (x y : Int) : Int := Int.tdiv x y

/-- MUL's exact result by form (05 R104). -/
def mulValue (f : MulForm) (w : Width) (x y : Word) : Int :=
  match f with
  | .lo => uval w x * uval w y
  | .hs => (sval w x * sval w y) / 2 ^ w.bits
  | .hu => ((uval w x : Int) * uval w y) / 2 ^ w.bits
  | .hsu => (sval w x * uval w y) / 2 ^ w.bits

/-- SHL by n (05 R105). -/
def shlValue (w : Width) (x : Word) (n : Nat) : Int := if w.bits ≤ n then 0 else uval w x * 2 ^ n

/-- SHR by n (05 R105). -/
def shrValue (sg : Bool) (w : Width) (x : Word) (n : Nat) : Int :=
  if sg then sval w x / 2 ^ (min n (w.bits - 1)) else if w.bits ≤ n then 0 else (uval w x / 2 ^ n : Nat)

/-- ROT by n, to the right or the left (05 R105). -/
def rotValue (right : Bool) (w : Width) (x : Word) (n : Nat) : Int :=
  let m := if right then (w.bits - n % w.bits) % w.bits else n % w.bits
  ((uval w x * 2 ^ m ||| uval w x / 2 ^ (w.bits - m)) % 2 ^ w.bits : Nat)

/-- The number of leading zero bits of the low b bits (05 R108). -/
def clzNat (b x : Nat) : Nat :=
  match b with
  | 0 => 0
  | k + 1 => if x.testBit k then 0 else clzNat k x + 1

/-- The number of trailing zero bits of b bits, from bit i up (05 R108). -/
def ctzFrom (i : Nat) : Nat → Nat → Nat
  | 0, _ => 0
  | k + 1, x => if x.testBit i then 0 else ctzFrom (i + 1) k x + 1

/-- The number of one bits among the low b bits (05 R108). -/
def popNat : Nat → Nat → Nat
  | 0, _ => 0
  | k + 1, x => (if x.testBit k then 1 else 0) + popNat k x

/-- The bytes of a in reverse order (05 R108). -/
def bswapNat (w : Width) (x : Word) : Nat := leNat (leBytes (w.bits / 8) x.toNat).reverse

/-- The immediate operand: IMM32 sign-extended to 64 bits (05 R109). -/
def immWord (imm : BitVec 32) : Word := imm.signExtend 64

/-- EXT's field (05 R110). -/
def extValue (sg : Bool) (x : Word) (pos len : Nat) : Word :=
  let v := x.toNat / 2 ^ pos % 2 ^ len
  if sg then sextBits len v else word v

/-- INS's result (05 R110). -/
def insValue (d a : Word) (pos len : Nat) : Word := setBits d (pos + len - 1) pos a.toNat

/-- The new value of an atomic operation on operands of a width (07 R163). -/
def aopValue (op : Aop) (w : Width) (old b : Word) : Nat :=
  let o := uval w old
  let x := uval w b
  match op with
  | .add => (o + x) % 2 ^ w.bits
  | .and => o &&& x
  | .or => o ||| x
  | .xor => o ^^^ x
  | .min => if sval w old ≤ sval w b then o else x
  | .max => if sval w b ≤ sval w old then o else x
  | .minu => if o ≤ x then o else x
  | .maxu => if x ≤ o then o else x
  | .swap => x

/-- Put (05 R100): writes a value to g[D] of the issuing slot, narrowed and sign-extended. -/
def State.putD (s : State) (w : Width) (d : Reg) (v : Int) : State := s.setG d (putWord w v)

/-- A loaded value of `b` bits extended to 64 (07 R159). -/
def extend (sg : Bool) (b : Nat) (x : Nat) : Word := if sg then sextBits b x else word (x % 2 ^ b)

/-- The width of a number of bytes. -/
def widthOfBytes (n : Nat) : Width :=
  match n with
  | 1 => .b8 | 2 => .b16 | 4 => .b32 | _ => .b64

end Sys2Proof.Machine
end

