-- ==== Sys2Proof/Machine/Scalar.lean ====
section
/-! DEFINITION. Integer and address instructions, opcodes 0x01 to 0x27 (05 R103 to R116), and ILLEGAL_OP
(03 R59, R60). -/
namespace Sys2Proof.Machine
open Sys2Proof

/-- The frame of an instruction that writes one register and retires. -/
def writes (i : Instr) (len : Nat) (s : State) (d : Reg) (x : State → Word) : Out :=
  issue i s fun s => (s.setG d (x s)).retire len

/-- A zero divisor (05 R107): DIVZERO, as an effect or as a trap. -/
def divZero (s : State) (sub : Nat) (a : Reg) : State := s.raiseHere 0x10 sub (s.g a) 8

/-- ADD (05 R103). -/
def execAdd (w : Width) (d a b : Reg) (s : State) : Out :=
  writes (.add w d a b) 8 s d fun s => putWord w (uval w (s.g a) + uval w (s.g b) : Nat)

/-- SUB (05 R103). -/
def execSub (w : Width) (d a b : Reg) (s : State) : Out :=
  writes (.sub w d a b) 8 s d fun s => putWord w ((uval w (s.g a) : Int) - uval w (s.g b))

/-- MUL in its four forms (05 R104). -/
def execMul (w : Width) (f : MulForm) (d a b : Reg) (s : State) : Out :=
  writes (.mul w f d a b) 8 s d fun s => putWord w (mulValue f w (s.g a) (s.g b))

/-- DIV (05 R106, R107). -/
def execDiv (w : Width) (sg : Bool) (d a b : Reg) (s : State) : Out :=
  issue (.div w sg d a b) s fun s =>
    if uval w (s.g b) = 0 then divZero s 0 a
    else (s.putD w d (truncDiv (xval sg w (s.g a)) (xval sg w (s.g b)))).retire 8

/-- REM (05 R106, R107). -/
def execRem (w : Width) (sg : Bool) (d a b : Reg) (s : State) : Out :=
  issue (.rem w sg d a b) s fun s =>
    if uval w (s.g b) = 0 then divZero s 1 a
    else (s.putD w d (xval sg w (s.g a)
      - xval sg w (s.g b) * truncDiv (xval sg w (s.g a)) (xval sg w (s.g b)))).retire 8

/-- AND (05 R103). -/
def execAnd (w : Width) (d a b : Reg) (s : State) : Out :=
  writes (.and w d a b) 8 s d fun s => putWord w (uval w (s.g a) &&& uval w (s.g b) : Nat)

/-- ANDI (05 R109). -/
def execAndi (w : Width) (d a : Reg) (imm : BitVec 32) (s : State) : Out :=
  writes (.andi w d a imm) 8 s d fun s => putWord w (uval w (s.g a) &&& uval w (immWord imm) : Nat)

/-- OR (05 R103). -/
def execOr (w : Width) (d a b : Reg) (s : State) : Out :=
  writes (.or w d a b) 8 s d fun s => putWord w (uval w (s.g a) ||| uval w (s.g b) : Nat)

/-- ORI (05 R109). -/
def execOri (w : Width) (d a : Reg) (imm : BitVec 32) (s : State) : Out :=
  writes (.ori w d a imm) 8 s d fun s => putWord w (uval w (s.g a) ||| uval w (immWord imm) : Nat)

/-- XOR (05 R103). -/
def execXor (w : Width) (d a b : Reg) (s : State) : Out :=
  writes (.xor w d a b) 8 s d fun s => putWord w (uval w (s.g a) ^^^ uval w (s.g b) : Nat)

/-- XORI (05 R109). -/
def execXori (w : Width) (d a : Reg) (imm : BitVec 32) (s : State) : Out :=
  writes (.xori w d a imm) 8 s d fun s => putWord w (uval w (s.g a) ^^^ uval w (immWord imm) : Nat)

/-- ANDN (05 R103). -/
def execAndn (w : Width) (d a b : Reg) (s : State) : Out :=
  writes (.andn w d a b) 8 s d fun s => putWord w (uval w (s.g a) &&& uval w (~~~(s.g b)) : Nat)

/-- ADDI (05 R109). -/
def execAddi (w : Width) (d a : Reg) (imm : BitVec 32) (s : State) : Out :=
  writes (.addi w d a imm) 8 s d fun s => putWord w (uval w (s.g a) + uval w (immWord imm) : Nat)

/-- SHL (05 R105). -/
def execShl (w : Width) (d a b : Reg) (s : State) : Out :=
  writes (.shl w d a b) 8 s d fun s => putWord w (shlValue w (s.g a) (s.g b).toNat)

/-- SHLI (05 R109). -/
def execShli (w : Width) (d a : Reg) (n : Fin 64) (s : State) : Out :=
  writes (.shli w d a n) 8 s d fun s => putWord w (shlValue w (s.g a) n.val)

/-- SHR (05 R105). -/
def execShr (w : Width) (sg : Bool) (d a b : Reg) (s : State) : Out :=
  writes (.shr w sg d a b) 8 s d fun s => putWord w (shrValue sg w (s.g a) (s.g b).toNat)

/-- SHRI (05 R109). -/
def execShri (w : Width) (sg : Bool) (d a : Reg) (n : Fin 64) (s : State) : Out :=
  writes (.shri w sg d a n) 8 s d fun s => putWord w (shrValue sg w (s.g a) n.val)

/-- ROT (05 R105). -/
def execRot (w : Width) (right : Bool) (d a b : Reg) (s : State) : Out :=
  writes (.rot w right d a b) 8 s d fun s => putWord w (rotValue right w (s.g a) (s.g b).toNat)

/-- CLZ (05 R108). -/
def execClz (w : Width) (d a : Reg) (s : State) : Out :=
  writes (.clz w d a) 8 s d fun s => word (clzNat w.bits (s.g a).toNat)

/-- CTZ (05 R108). -/
def execCtz (w : Width) (d a : Reg) (s : State) : Out :=
  writes (.ctz w d a) 8 s d fun s => word (ctzFrom 0 w.bits (s.g a).toNat)

/-- POPC (05 R108). -/
def execPopc (w : Width) (d a : Reg) (s : State) : Out :=
  writes (.popc w d a) 8 s d fun s => word (popNat w.bits (s.g a).toNat)

/-- MIN (05 R103). -/
def execMin (w : Width) (sg : Bool) (d a b : Reg) (s : State) : Out :=
  writes (.min w sg d a b) 8 s d fun s =>
    putWord w (if xval sg w (s.g a) ≤ xval sg w (s.g b) then uval w (s.g a) else uval w (s.g b))

/-- MAX (05 R103). -/
def execMax (w : Width) (sg : Bool) (d a b : Reg) (s : State) : Out :=
  writes (.max w sg d a b) 8 s d fun s =>
    putWord w (if xval sg w (s.g b) ≤ xval sg w (s.g a) then uval w (s.g a) else uval w (s.g b))

/-- CMP (05 R103). -/
def execCmp (w : Width) (c : Cond) (d a b : Reg) (s : State) : Out :=
  writes (.cmp w c d a b) 8 s d fun s => if condHolds c w (s.g a) (s.g b) then 1 else 0

/-- CMPI (05 R109). -/
def execCmpi (w : Width) (c : Cond) (d a : Reg) (imm : BitVec 32) (s : State) : Out :=
  writes (.cmpi w c d a imm) 8 s d fun s => if condHolds c w (s.g a) (immWord imm) then 1 else 0

/-- SEL (05 R103). -/
def execSel (w : Width) (d a b c : Reg) (s : State) : Out :=
  writes (.sel w d a b c) 8 s d fun s => putWord w (if s.g c ≠ 0 then uval w (s.g a) else uval w (s.g b))

/-- EXT (05 R110). -/
def execExt (sg : Bool) (d a : Reg) (pos : Fin 64) (len : Fin 65) (s : State) : Out :=
  writes (.ext sg d a pos len) 8 s d fun s => extValue sg (s.g a) pos.val len.val

/-- INS (05 R110). -/
def execIns (d a : Reg) (pos : Fin 64) (len : Fin 65) (s : State) : Out :=
  writes (.ins d a pos len) 8 s d fun s => insValue (s.g d) (s.g a) pos.val len.val

/-- BSWAP (05 R108). -/
def execBswap (w : Width) (d a : Reg) (s : State) : Out :=
  writes (.bswap w d a) 8 s d fun s => putWord w (bswapNat w (s.g a))

/-- ADDS (05 R103). -/
def execAdds (w : Width) (sg : Bool) (d a b : Reg) (s : State) : Out :=
  writes (.adds w sg d a b) 8 s d fun s => putWord w (satTo sg w (xval sg w (s.g a) + xval sg w (s.g b)))

/-- SUBS (05 R103). -/
def execSubs (w : Width) (sg : Bool) (d a b : Reg) (s : State) : Out :=
  writes (.subs w sg d a b) 8 s d fun s => putWord w (satTo sg w (xval sg w (s.g a) - xval sg w (s.g b)))

/-- MADD (05 R103). -/
def execMadd (w : Width) (d a b c : Reg) (s : State) : Out :=
  writes (.madd w d a b c) 8 s d fun s => putWord w (uval w (s.g a) * uval w (s.g b) + uval w (s.g c) : Nat)

/-- LI (05 R111). -/
def execLi (d : Reg) (imm : BitVec 64) (s : State) : Out :=
  writes (.li d imm) 12 s d fun _ => imm

/-- LEA (05 R114). -/
def execLea (d : Reg) (m : Addr) (s : State) : Out :=
  writes (.lea d m) 8 s d fun s => s.effAddr m

/-- ABS (05 R108). -/
def execAbs (w : Width) (d a : Reg) (s : State) : Out :=
  writes (.abs w d a) 8 s d fun s => putWord w (if sval w (s.g a) < 0 then -(sval w (s.g a)) else sval w (s.g a))

/-- SEXT (05 R108). -/
def execSext (w : Width) (d a : Reg) (s : State) : Out :=
  writes (.sext w d a) 8 s d fun s => putWord w (uval w (s.g a))

/-- ZEXT (05 R108). -/
def execZext (w : Width) (d a : Reg) (s : State) : Out :=
  writes (.zext w d a) 8 s d fun s => word (uval w (s.g a))

/-- The physical form of a location (05 R112). -/
def physAddr (tile core space off : Nat) : Word :=
  word (8 * 2 ^ 60 + tile * 2 ^ 50 + core * 2 ^ 48 + space * 2 ^ 44 + off)

/-- The logical form of a location (05 R112). -/
def logAddr (tile core space off : Nat) : Word :=
  word (9 * 2 ^ 60 + tile * 2 ^ 50 + core * 2 ^ 48 + space * 2 ^ 44 + off)

/-- The physical tile of a logical tile of a slot's launch (04 R71). -/
def State.placeOf (s : State) (n t : Nat) : Nat := (s.launchOf n).place.getD t 0

/-- GADDR (05 R115). -/
def execGaddr (phys self : Bool) (sp : Fin 4) (d a : Reg) (off : BitVec 32) (s : State) : Out :=
  issue (.gaddr phys self sp d a off) s fun s =>
    if self && !isOrdinary s.cur then s.trap 0x09 0x30 0
    else if !self && (bits (s.g a) 63 12 ≠ 0 || s.tilesOf s.cur ≤ bits (s.g a) 11 2) then
      s.trap 0x09 0x30 (s.g a)
    else
      let t := if self then (s.tileAt (tileOf s.cur)).logTile else bits (s.g a) 11 2
      let c := if sp.val ≠ 0 then 0 else if self then coreOf s.cur % 4 else bits (s.g a) 1 0
      let x := if phys then physAddr (s.placeOf s.cur t) c sp.val off.toNat else logAddr t c sp.val off.toNat
      (s.setG d x).retire 8

/-- Is the location part of a global address one that names a location (05 R112, R116): the space code is
allowed, the core is 0 for A, C and W, and the offset lies within the space. -/
def namesLocation (x : Word) (phys : Bool) : Bool :=
  let sp := bits x 47 44
  let size := match sp with | 0 => 0x80000 | 1 => 0x200000 | 6 => 0x10000 | _ => 0x100000
  (sp ≤ 3 || (phys && sp = 6)) && (sp = 0 || sp = 6 || bits x 49 48 = 0) && bits x 43 0 < size

/-- What LOCAL answers for a value (05 R116). -/
def State.localValue (s : State) (x : Word) : Word :=
  let own : Option Bool :=
    if bits x 63 60 = 9 ∧ namesLocation x false ∧ bits x 59 50 < s.tilesOf s.cur then
      some (isOrdinary s.cur && bits x 59 50 = (s.tileAt (tileOf s.cur)).logTile
        && (bits x 47 44 ≠ 0 || bits x 49 48 = coreOf s.cur % 4))
    else if bits x 63 60 = 8 ∧ namesLocation x true ∧ s.level s.cur ≠ 0 then
      some (isOrdinary s.cur && bits x 59 50 = tileOf s.cur
        && (bits x 47 44 ≠ 0 || bits x 49 48 = coreOf s.cur % 4))
    else none
  match own with
  | none => neg 2
  | some true => word (bits x 43 0)
  | some false => neg 1

/-- LOCAL (05 R116). -/
def execLocalq (d a : Reg) (s : State) : Out := writes (.localq d a) 8 s d fun s => s.localValue (s.g a)

/-- ILLEGAL_OP (03 R59, R60, R62): subcode 0 for a reserved opcode, 1 for a length code that is not the
format's, 2 for opcodes 0x00 and 0xFF; TVAL holds words 1 and 0. -/
def execIllegalOp (w0 w1 : BitVec 32) (s : State) : Out :=
  let op := w0.toNat / 4 % 256
  let sub := if op = 0 ∨ op = 255 then 2 else if (opFormat op).isSome then 1 else 0
  .next (s.trap 0x01 sub (word (w0.toNat + 2 ^ 32 * w1.toNat)))

end Sys2Proof.Machine
end

