-- ==== Sys2Proof/Config.lean ====
section
/-! DEFINITION. What an implementation fixes and the free values: constants without a body, so that nothing in
Lean can say what they are. -/
namespace Sys2Proof

/-- A value that the spec leaves open, by the number of its use (DESIGN CHOICE, log 17): the points that the controller names (21 R390, R391), and the input power
that telemetry reports (23 R413). -/
opaque Config.freeWord : Nat → BitVec 64

/-- IEEE 1588 time in ns of TAI when the error record of a sequence number was made, 0 without lock: the clock that the
controller is locked to lies outside the module (23 R412; DESIGN CHOICE, log 17). -/
opaque Config.clock1588 : Nat → BitVec 64

/-- The public key with which the controller checks the reeve image and the configuration records, which the spec does not give (23 R405,
R408; DESIGN CHOICE, log 12). -/
opaque Config.rootKey : BitVec 256

/-- The private half of the module's identity key, as the seed that RFC 8032 names (23 R407). -/
opaque Config.identitySeed : BitVec 256

/-- The energy in nJ of the activities counted for a context since the last update, whose weights each implementation chooses
(21 R378; DESIGN CHOICE, log 17). -/
opaque Config.energyOf : List Nat → Nat

/-- The energy in nJ of the reeve's own work since the last update, by its kinds, with what scrubbing and in-field tests took as
measured (21 R381; DESIGN CHOICE, log 17). -/
opaque Config.houseEnergy : List Nat → Nat → Nat

/-- The energy in nJ of a control cycle of ballast at a step (21 R377; DESIGN CHOICE, log 17). -/
opaque Config.ballastEnergy : Nat → Nat

/-- The source value of a VTLU lane that lies beyond the source register, for the source register and the lane (17 R321; DESIGN CHOICE, log 17). -/
opaque Config.laneBeyond : BitVec 1024 → Nat → BitVec 64

/-- The fields of a FABRIC payload, whose layout the spec does not give: fabric id, crest group id and notice in μs
(23 R408). -/
opaque Config.fabricFields : List Byte → Nat × Nat × Nat

/-- The token count of a region in a TOKENS payload, whose layout the spec does not give (23 R408). -/
opaque Config.tokenField : List Byte → Nat → Nat

/-- The value in a COUNTER payload, whose layout the spec does not give (23 R408). -/
opaque Config.counterField : List Byte → BitVec 32

end Sys2Proof
end

