-- ==== Sys2Proof/Machine/Groups.lean ====
section
/-! DEFINITION. Sluice groups (09 R187 to R203): the unrolled sequence, the window, firing, release, linked
entries and breach. -/
namespace Sys2Proof.Machine
open Sys2Proof

/-! ## The sequence -/

/-- The barrier program as bodies with their passes (09 R189). -/
def bodies : Option (List Barrier × Nat) → List Barrier → List (List Barrier × Nat)
  | none, [] => []
  | some p, [] => [p]
  | none, e :: r =>
    if e.loop then
      if e.endloop then ([e], e.count) :: bodies none r else bodies (some ([e], e.count)) r
    else ([e], 1) :: bodies none r
  | some (b, c), e :: r =>
    if e.endloop then (b ++ [e], c) :: bodies none r else bodies (some (b ++ [e], c)) r

/-- The number of positions of the sequence. -/
def seqLen (bs : List (List Barrier × Nat)) : Nat := (bs.map fun p => p.1.length * p.2).sum

/-- The entry at a position (09 R189). -/
def entryAt : List (List Barrier × Nat) → Nat → Option Barrier
  | [], _ => none
  | (b, c) :: r, q => if q < b.length * c then b[q % b.length]? else entryAt r (q - b.length * c)

/-- How many positions below q hold an entry of a kind. -/
def countBelow (f : Barrier → Bool) : List (List Barrier × Nat) → Nat → Nat
  | [], _ => 0
  | (b, c) :: r, q =>
    let n := b.length
    if n * c ≤ q then c * b.countP f + countBelow f r (q - n * c)
    else q / n * b.countP f + (b.take (q % n)).countP f

/-- The mask of a position as members. -/
def Barrier.holds (e : Barrier) (i : Nat) : Bool := e.mask.getLsbD i

/-- The members of an entry. -/
def Barrier.mems (e : Barrier) : List Nat := (List.range 64).filter e.holds

/-- Two entries share a member. -/
def Barrier.meets (e f : Barrier) : Bool := e.mask &&& f.mask ≠ 0

/-- The bodies of a group's program. -/
def Group.seq (g : Group) : List (List Barrier × Nat) := bodies none g.prog

/-- The window: the eight lowest unfired positions, with their entries (09 R190). -/
def Group.window (g : Group) : List (Nat × Barrier) :=
  let sq := g.seq
  (((List.range (8 + g.ahead.length)).map (g.base + ·)).filter fun q => !decide (q ∈ g.ahead)).take 8
    |>.filterMap fun q => (entryAt sq q).map fun e => (q, e)

/-- The positions of the window that the sluice considers in cycle c: not those that came into it in that cycle (09 R191). -/
def Group.windowAt (g : Group) (c : Nat) : List (Nat × Barrier) :=
  match g.seen with
  | some (k, ps) => if k = c then g.window.filter fun p => decide (p.1 ∈ ps) else g.window
  | none => g.window

/-- Notes the window at the begin of cycle c. -/
def Group.consider (g : Group) (c : Nat) : Group :=
  match g.seen with
  | some (k, _) => if k = c then g else { g with seen := some (c, g.window.map (·.1)) }
  | none => { g with seen := some (c, g.window.map (·.1)) }

/-- Does an unfired position hold member i (09 R205)? -/
def Group.remains (g : Group) (i : Nat) : Bool :=
  let sq := g.seq
  let fired := countBelow (·.holds i) sq g.base
    + g.ahead.countP fun q => match entryAt sq q with | some e => e.holds i | none => false
  decide (fired < countBelow (·.holds i) sq (seqLen sq))

/-- The occurrence number of a LINK position among the positions of its tag (09 R199). -/
def Group.occurrence (g : Group) (q tag : Nat) : Nat := countBelow (fun e => e.link && e.tag = tag) g.seq q

/-- May the entry at q fire apart from a link: every member waits and q is the next entry of each (09 R190)? -/
def Group.canFire (g : Group) (q : Nat) (e : Barrier) : Bool :=
  g.breach.isNone && e.mems.all (fun i => decide (i ∈ g.waiting))
  && g.window.all fun p => !(decide (p.1 < q) && p.2.meets e)

/-- The all-members mask of a group (07 R154). -/
def Group.allMask (g : Group) : BitVec 64 := BitVec.ofNat 64 (2 ^ g.members.length - 1)

/-- Advances base over fired positions. -/
def advance : Nat → Nat → List Nat → Nat × List Nat
  | 0, b, a => (b, a)
  | n + 1, b, a => if b ∈ a then advance n (b + 1) (delFrom a b) else (b, a)

/-- Fires the entry at q (09 R191): the members stop waiting, and their release is decided; `cyc` gives the present
cycle of each member's tile. -/
def Group.fire (g : Group) (q : Nat) (e : Barrier) (cyc : Nat → Nat) (tick : Option Nat) : Group :=
  let a := advance (g.ahead.length + 1) g.base (addTo g.ahead q)
  { g with
    base := a.1
    ahead := a.2
    waiting := g.waiting.filter fun i => !e.holds i
    full := if e.mask = g.allMask then g.full + 1 else g.full
    decided := g.decided ++ [⟨q, e.mems.map fun i => (i, cyc i), tick⟩]
    occ := if e.link then put g.occ e.tag (look 0 g.occ e.tag + 1) else g.occ
    ready := g.ready.filter fun p => p.1 ≠ q
    withdrawn := delFrom g.withdrawn q }

/-! ## Groups of a launch -/

/-- Replaces group number `num` of a launch. -/
def Launch.setGroup (l : Launch) (g : Group) : Launch :=
  { l with groups := l.groups.map fun h => if h.num = g.num then g else h }
/-- Group number `num` of a launch. -/
def Launch.group (l : Launch) (num : Nat) : Option Group := l.groups.find? fun g => g.num = num
/-- Replaces a group. -/
def State.setGroup (s : State) (l : Nat) (g : Group) : State := s.setLaunch l ((s.launchAt l).setGroup g)

/-- The physical slot of a logical slot number of a launch (04 R71). -/
def Launch.slotOf (l : Launch) (log : Nat) : Nat := 64 * l.place.getD (log / 64) 0 + log % 64

/-- A group's membership of a slot: launch, group and member index (09 R187). The trailing slot of a pair is never
a member, and no thread that stands in a slot while the reeve has the slot's group switched out (R201; DEDUCED, log 42). -/
def State.membership (s : State) (n : Nat) : Option (Nat × Group × Nat) :=
  let sl := s.slotAt n
  let l := s.launchAt sl.launch
  if !isOrdinary n || bit (s.img n).paircfg 4 then none
  else l.groups.findSome? fun g =>
    if g.out = [] then (g.members.findIdx? (· = sl.logSlot.toNat)).map fun i => (sl.launch, g, i) else none

/-- The tile that times a group: that of its member 0, whose clock all share in a level group. In a group that is not level the edges of
the tiles need not coincide, and the first edge after a restore is taken on that tile: 09 R202 does not say on which (DESIGN CHOICE,
log 77). -/
def Launch.groupTile (l : Launch) (g : Group) : Nat := tileOf (l.slotOf (g.members.headD 0))

/-- The present cycle of the tile of each member of a group. -/
def State.memberCycle (s : State) (l : Launch) (g : Group) (i : Nat) : Nat :=
  (s.tileAt (tileOf (l.slotOf (g.members.getD i 0)))).cycle

/-- The cycle in which the sluice decides a group's firings: of the group's polders in a level launch, else of the region's
control clock (04 R76). -/
def State.sluiceCycle (s : State) (lc : Launch) (g : Group) : Nat :=
  if lc.isLevel then (s.tileAt (lc.groupTile g)).cycle else (s.regionAt g.region).rcycle

/-- Is the group one whose launch runs and that the reeve has not switched out, so that it may fire (09 R201, R202)? -/
def State.groupIn (s : State) (l : Nat) (g : Group) : Bool :=
  decide ((s.launchAt l).phase = .running) && g.out = []

/-- The tiles that hold a member of a group. -/
def Launch.tilesOf (l : Launch) (g : Group) : List Nat := (g.members.map fun m => tileOf (l.slotOf m)).eraseDups

/-- The tiles whose edges coincide and whose polders step together: those of a level launch's group, else the tile alone (04 R76;
09 R196). -/
def State.peers (s : State) (t : Nat) : List Nat :=
  match (s.tileAt t).launch with
  | none => [t]
  | some l =>
    let lc := s.launchAt l
    match (if lc.isLevel then lc.groups.find? fun g => decide (t ∈ lc.tilesOf g) else none) with
    | some g => lc.tilesOf g
    | none => [t]

/-- Sets the point of a tile and its peers, with any raise forgotten. -/
def State.setPoint (s : State) (t p : Nat) : State :=
  (s.peers t).foldl (fun s u => s.setTile u { s.tileAt u with point := p, volt := none }) s

/-- Stretches a tile's clock and its peers' where one of them is stretched: the answer to a droop holds for all alike (09 R196). -/
def State.evenDroop (s : State) (t : Nat) : State :=
  let ps := s.peers t
  let on := ps.any fun u => (s.tileAt u).droop
  let at_ := ps.foldl (fun m u => match (s.tileAt u).droopAt with | some k => some (max k (m.getD 0)) | none => m) none
  ps.foldl (fun s u => s.setTile u { s.tileAt u with droop := on, droopAt := at_ }) s

/-- Gives the tiles of each level group of a launch one operating point, the lowest of those that they stand at, and one answer to a
droop (09 R196). -/
def State.evenPoints (s : State) (l : Nat) : State :=
  let lc := s.launchAt l
  if lc.isLevel then
    lc.groups.foldl (fun s g =>
      let t := lc.groupTile g
      (s.setPoint t ((s.peers t).foldl (fun m u => min m (s.tileAt u).point) 60)).evenDroop t) s
  else s

/-! ## Links -/

/-- The other groups of a launch that use a tag (09 R199). -/
def Launch.partners (l : Launch) (g : Group) (tag : Nat) : List Group :=
  l.groups.filter fun h => h.num ≠ g.num && h.prog.any fun e => e.link && e.tag = tag

/-- A partner's ready position for an occurrence of a tag, with its ready tick. -/
def Group.readyFor (g : Group) (tag k : Nat) : Option (Nat × Nat) :=
  g.ready.find? fun p =>
    match entryAt g.seq p.1 with
    | some e => e.link && e.tag = tag && g.occurrence p.1 tag = k
    | none => false

/-- Marks the LINK position q ready with a tick (09 R199). -/
def Group.markReady (g : Group) (q tick : Nat) : Group :=
  if g.ready.any fun p => p.1 = q then g
  else { g with ready := g.ready ++ [(q, tick)], withdrawn := delFrom g.withdrawn q }

/-- The LINK positions of a group that satisfy 09 R190 apart from the link in cycle c and are not yet ready. A position whose
readiness a save withdrew becomes ready only on a rotation edge (R202). -/
def Group.newlyReady (g : Group) (c : Nat) (onEdge : Bool) : List Nat :=
  ((g.windowAt c).filter fun p => p.2.link && g.canFire p.1 p.2 && !(g.ready.any fun r => r.1 = p.1)
    && (onEdge || !decide (p.1 ∈ g.withdrawn))).map (·.1)

/-- Performs what the waiting members of a group have outstanding and may have performed now: WAIT is a release of them (08 R172). -/
def State.landWaiters (s : State) (lc : Launch) (g : Group) : State :=
  if s.culvert = [] then s else g.waiting.foldl (fun s i => s.landOwn (lc.slotOf (g.members.getD i 0))) s

/-- The group with those members only as waiting whose earlier accesses are performed: a WAIT that the sluice releases has released
them (08 R172), so that no entry of a member fires before (log 5). -/
def State.ripe (s : State) (lc : Launch) (g : Group) : Group :=
  { g with waiting := g.waiting.filter fun i => !s.outstanding (lc.slotOf (g.members.getD i 0)) }

/-- Marks the newly ready LINK positions of a group. `onEdge` says that a rotation edge passes, on which those become ready whose
readiness a save withdrew: on an edge of the group's tile, `groupTile` (09 R202). -/
def State.linkReadiness (s : State) (l num : Nat) (onEdge : Bool) : State :=
  let lc := s.launchAt l
  match lc.group num with
  | none => s
  | some g =>
    if !s.groupIn l g then s
    else
      let s := s.landWaiters lc g
      s.setGroup l (((s.ripe lc g).newlyReady (s.sluiceCycle lc g) onEdge).foldl (fun g q => g.markReady q s.tide.toNat) g)

/-- Fires the LINK entry at q of a group where its partners are all ready, and with it theirs (09 R199); a partner that is switched
out is not (R202). -/
def State.fireLink (s : State) (l num : Nat) (q : Nat) (e : Barrier) : State :=
  let lc := s.launchAt l
  match lc.group num with
  | none => s
  | some g =>
    let k := g.occurrence q e.tag
    let ps := lc.partners g e.tag
    let rs := (ps.filter (s.groupIn l)).filterMap fun h => (h.readyFor e.tag k).map fun r => (h, r)
    match g.ready.find? (fun r => r.1 = q) with
    | none => s
    | some own =>
      if rs.length = ps.length ∧ ps ≠ [] then
        let tick := 200 + (rs.foldl (fun m r => max m r.2.2) own.2)
        let s := s.setGroup l (g.fire q e (s.memberCycle lc g) (some tick))
        rs.foldl (fun s r =>
          match entryAt r.1.seq r.2.1 with
          | some f =>
            let h := r.1.consider (s.sluiceCycle lc r.1)
            s.setGroup l (h.fire r.2.1 f (s.memberCycle lc r.1) (some tick))
          | none => s) s
      else s

/-- The entries of a group's window that can fire in cycle c apart from a link, with what their members had to release performed. -/
def State.ableIn (s : State) (lc : Launch) (g : Group) (c : Nat) : List (Nat × Barrier) :=
  (g.windowAt c).filter fun p => (s.ripe lc g).canFire p.1 p.2

/-- Decides the firings of a group in the present cycle (09 R191): every entry of the window that can fire does,
and the positions that come into the window are considered in the next cycle. An entry whose members all waited when the group was
saved fires on the first edge after the restore, and not here (R201). -/
def State.fireGroup (s : State) (l num : Nat) : State :=
  let s := s.linkReadiness l num false
  let lc := s.launchAt l
  match lc.group num with
  | none => s
  | some g =>
    if !s.groupIn l g then s
    else
      let c := s.sluiceCycle lc g
      let able := s.ableIn lc g c
      let plain := able.filter fun p => !p.2.link && !decide (p.1 ∈ g.withdrawn)
      let g' := plain.foldl (fun h p => h.fire p.1 p.2 (s.memberCycle lc g) none) (g.consider c)
      let s := s.setGroup l g'
      (able.filter fun p => p.2.link).foldl (fun s p => s.fireLink l num p.1 p.2) s

/-! ## Release -/

/-- Releases member i of a group at its release edge (09 R193): PHASE up by one, the wait ends with the
ordering of 08 R172, and the edge opens its counted window (R196). -/
def State.releaseMember (s : State) (l num i : Nat) : State :=
  let lc := s.launchAt l
  match lc.group num with
  | none => s
  | some g =>
    let n := lc.slotOf (g.members.getD i 0)
    let edge := (s.tileAt (tileOf n)).cycle
    let g := { g with
      phase := setNth g.phase i (g.phase.getD i 0 + 1)
      edges := setNth g.edges i (some edge)
      decided := (g.decided.map fun r =>
        { r with mems := drop r.mems i }).filter fun r => r.mems ≠ [] }
    let s := s.setGroup l g
    match (s.slotAt n).wait with
    | some (.sluice _ _ _) => s.complete n 8
    | _ => s

/-- May a decided release of a member be made now: its tile is on a rotation edge after the firing, and a LINK
release's tick has come (09 R193, R199)? The firing of a group that is not level reaches its members' tiles at once: R193
leaves the delay open up to 32 cycles (DESIGN CHOICE, log 62). -/
def State.releaseDue (s : State) (lc : Launch) (g : Group) (r : Release) (i : Nat) : Bool :=
  let t := s.tileAt (tileOf (lc.slotOf (g.members.getD i 0)))
  (match find r.mems i with | some c => c < t.cycle | none => false) && t.cycle % 16 = 0
  && (match r.tick with | none => true | some k => k ≤ s.tide.toNat)

/-- SLUICE_RELEASE of one member of a decided position (09 R193). -/
def State.release (s : State) (l num pos i : Nat) : State :=
  let lc := s.launchAt l
  match lc.group num with
  | none => s
  | some g =>
    match g.decided.find? fun r => r.pos = pos with
    | some r => if s.releaseDue lc g r i then s.releaseMember l num i else s
    | none => s

/-- Every release due on an edge of a tile, for the groups of the launch allotted to it. -/
def State.releasesAt (s : State) (t : Nat) : State :=
  match (s.tileAt t).launch with
  | none => s
  | some l =>
    (s.launchAt l).groups.foldl (fun s g =>
      g.decided.foldl (fun s r =>
        r.mems.foldl (fun s i =>
          if tileOf ((s.launchAt l).slotOf (g.members.getD i.1 0)) = t then s.release l g.num r.pos i.1 else s) s) s) s

/-! ## The first edge after a restore -/

/-- The entries of a restored group on the first edge of its tile: those without a link whose members all waited at the save fire, and
this edge is their release edge, as it stands one cycle after the firing (09 R201); those with a link become ready, and an
occurrence whose last partner this is fires at once (R202). -/
def State.edgeFirings (s : State) (l num : Nat) : State :=
  let s := s.linkReadiness l num true
  let lc := s.launchAt l
  match lc.group num with
  | none => s
  | some g =>
    if !s.groupIn l g then s
    else
      let c := s.sluiceCycle lc g
      let able := s.ableIn lc g c
      let plain := able.filter fun p => !p.2.link && decide (p.1 ∈ g.withdrawn)
      let g' := plain.foldl (fun h p => h.fire p.1 p.2 (fun i => s.memberCycle lc g i - 1) none) (g.consider c)
      let links (q : Nat) : Bool := match entryAt g.seq q with | some e => e.link | none => false
      let s := s.setGroup l { g' with withdrawn := g'.withdrawn.filter links }
      (able.filter fun p => p.2.link).foldl (fun s p => s.fireLink l num p.1 p.2) s

/-- A rotation edge of tile t for the groups that it times and that a save has withdrawn entries of (09 R201, R202): their firings, and
the releases that are due on the edge. -/
def State.readyAgain (s : State) (t : Nat) : State :=
  match (s.tileAt t).launch with
  | none => s
  | some l =>
    match (s.launchAt l).groups.filter fun g => g.withdrawn ≠ [] && (s.launchAt l).groupTile g = t && s.groupIn l g with
    | [] => s
    | gs => (s.peers t).foldl State.releasesAt (gs.foldl (fun s g => s.edgeFirings l g.num) s)

/-! ## Breach -/

/-- The word that BREACH subcode 0 carries (09 R205). -/
def breachVal (p : Nat × Nat) : Word := word (p.1 * 256 + p.2)

/-- Notes a breach of a group, with its tide and cycle: nothing of it fires any more, and the members that wait on an undecided entry
meet BREACH at their turns (09 R203). -/
def State.breachGroup (s : State) (l num : Nat) (p at_ : Nat × Nat) : State :=
  match (s.launchAt l).group num with
  | none => s
  | some g => s.setGroup l { g with breach := some p, breachAt := at_, waiting := [], ready := [] }

/-- Is the cycle of a group's breach over, so that no other loss of that cycle can come before it (09 R203)? -/
def State.breachOver (s : State) (lc : Launch) (g : Group) (p : Nat × Nat) : Bool :=
  let cycle := match lc.group p.1 with | some h => s.memberCycle lc h p.2 | none => 0
  (s.tide.toNat, cycle) ≠ g.breachAt

/-- What BREACH carries for slot n, which waits in WAIT: its group is breached, and no release of it is decided (09 R203, R205). -/
def State.breachedWait (s : State) (n : Nat) : Option Word :=
  match (s.slotAt n).wait with
  | some (.sluice l num i) =>
    match (s.launchAt l).group num with
    | none => none
    | some g =>
      match g.breach with
      | none => none
      | some p =>
        if s.breachOver (s.launchAt l) g p && !g.decided.any (fun r => r.mems.any fun m => m.1 = i) then some (breachVal p) else none
  | _ => none

/-- Link tags of a group with unfired positions. -/
def Group.openTags (g : Group) : List Nat :=
  (g.prog.filter fun e => e.link
    && decide (look 0 g.occ e.tag < countBelow (fun f => f.link && f.tag = e.tag) g.seq (seqLen g.seq))).map (·.tag)

/-- Is a breach earlier than the one recorded: of one cycle, the lower group and then the lower member comes
first (09 R203)? Losses on tiles of different clocks are taken as of one cycle where the tide and the count of each lost member's own
tile are the same, which the spec does not say (DESIGN CHOICE, log 88). -/
def firstBreach (old : Option (Nat × Nat)) (oldAt : Nat × Nat) (new : Nat × Nat) (newAt : Nat × Nat) : Bool :=
  match old with
  | none => true
  | some o => oldAt = newAt && (new.1 < o.1 || (new.1 = o.1 && new.2 < o.2))

/-- Breaches a group and, through its link tags, its partners; at most the launch's groups in turn (09 R203). A group breached
already takes the new breach only where it is of the same cycle and comes first in it. -/
def State.breachFrom (s : State) (l : Nat) (p at_ : Nat × Nat) : Nat → List Nat → State
  | 0, _ => s
  | _, [] => s
  | f + 1, num :: rest =>
    match (s.launchAt l).group num with
    | none => s.breachFrom l p at_ f rest
    | some g =>
      if !firstBreach g.breach g.breachAt p at_ then s.breachFrom l p at_ f rest
      else
        let more := ((s.launchAt l).groups.filter fun h =>
          h.num ≠ num && h.openTags.any fun t => decide (t ∈ g.openTags)).map (·.num)
        (s.breachGroup l num p at_).breachFrom l p at_ f (rest ++ more)

/-- Member i of group `num` is lost (09 R203), in the cycle that the tide and the count of the member's tile name (DESIGN CHOICE, log
88). -/
def State.breach (s : State) (l num i : Nat) : State :=
  let lc := s.launchAt l
  match lc.group num with
  | none => s
  | some g =>
    let at_ := (s.tide.toNat, (s.tileAt (tileOf (lc.slotOf (g.members.getD i 0)))).cycle)
    if !firstBreach g.breach g.breachAt (num, i) at_ then s
    else
      let s := if firstBreach lc.breach lc.breachAt (num, i) at_ then
          s.setLaunch l { lc with breach := some (num, i), breachAt := at_ } else s
      s.breachFrom l (num, i) at_ 16 [num]

/-- A slot that is parked, stopped or killed breaches the group it is a member of (09 R203). -/
def State.lose (s : State) (n : Nat) : State :=
  match s.membership n with
  | some (l, g, i) => s.breach l g.num i
  | none => s

end Sys2Proof.Machine
end

