-- ==== Sys2Proof/Machine/Life.lean ====
section
/-! DEFINITION. How threads start and end: the start of a slot (04 R79, R85), stopping, halting and parking
(R86, R91; 13 R267, R270), with what becomes of their copies, matrix instructions and group; error records
(23 R412). -/
namespace Sys2Proof.Machine
open Sys2Proof

/-! ## Error records -/

/-- n bytes of an error record's fields that are numbers. -/
def ErrorRecord.bytes (r : ErrorRecord) : List Byte :=
  leBytes 2 r.typ ++ leBytes 2 64 ++ leBytes 4 r.seq.toNat ++ leBytes 8 r.tide.toNat ++ leBytes 8 r.ieee.toNat
  ++ (List.range 5).map (fun i => BitVec.ofNat 8 (r.place.getD i 255))
  ++ [BitVec.ofNat 8 r.cause, BitVec.ofNat 8 r.sub, 0]
  ++ leBytes 8 r.syndrome.toNat ++ leBytes 8 r.addr.toNat ++ leBytes 8 r.second.toNat ++ leBytes 8 0

/-- The oldest unsent record leaves the controller, where that has booted (23 R405, R412). -/
def State.sendRecord (s : State) : State :=
  match s.errOut with
  | [] => s
  | r :: rest => if s.boot = .held then s else { s with errOut := rest, errSent := s.errSent ++ [r.bytes] }

/-- Die, region, tile, core and slot of a slot, or 0xFF where none applies (23 R412): a pump-class core stands in no region and no
tile, and a board core on no die. -/
def placeBytes (n : Nat) : List Nat :=
  if isOrdinary n then [n / 0x4000, n / 0x400 % 16, n / 64 % 16, n / 16 % 4, n % 16]
  else [(pumpDie (pumpOf n)).getD 255, 255, 255, 255, slotIdx n]

/-- Makes an error record: it waits in the controller's buffer, which holds 256, and of which the oldest is dropped where it is
full (23 R412). -/
def State.errorRecord (s : State) (typ : Nat) (place : List Nat) (cause sub : Nat) (syn addr second : Word) : State :=
  let r : ErrorRecord := ⟨typ, s.errSeq, s.tide, Config.clock1588 s.errSeq.toNat, place, cause, sub, syn, addr, second⟩
  { s with
    errSeq := s.errSeq + 1
    errOut := (if 256 ≤ s.errOut.length then s.errOut.drop 1 else s.errOut) ++ [r] }

/-! ## Copies of a thread that is lost -/

/-- COMPLETED of a channel: the lowest id that has not completed, or NEXTID (20 R356). -/
def Core.completedOf (c : Core) (ch : Fin 4) : Nat :=
  ((c.fifo.filter fun x => x.ch = ch).map (·.id)).foldl min c.chans[ch].nextId

/-- Sets COMPLETED from the copies still in flight. -/
def Core.settleChan (c : Core) (ch : Fin 4) : Core :=
  { c with chans := c.chans.set ch { c.chans[ch] with completed := c.completedOf ch } }

/-- FAILED of a channel (20 R356). -/
def chanFailed (x : Chan) : Bool := bit x.error 63

/-- Cancels a copy: it counts as completed, and a failure it caused is cleared (20 R367). -/
def Core.cancelCopy (c : Core) (ch : Fin 4) (id : Nat) : Core :=
  let c := { c with fifo := c.fifo.filter fun x => !(x.ch = ch && x.id = id) }
  let x := c.chans[ch]
  let x := if chanFailed x && bits x.error 55 0 = id then { x with error := x.error &&& 0x4000000000000000 } else x
  ({ c with chans := c.chans.set ch x }).settleChan ch

/-- Cancels every copy in flight that a slot issued. -/
def State.cancelCopies (s : State) (n : Nat) : State :=
  let c := s.coreAt (coreOf n)
  s.setCore (coreOf n) ((c.fifo.filter fun x => x.slot = n).foldl (fun c x => c.cancelCopy x.ch x.id) c)

/-- Is a copy in the middle of a chunk, of which some words are written? -/
def Core.inChunk (c : Core) (x : Copy) : Bool := x.early ≠ [] && x.fault.isNone && !x.stopping && !chanFailed c.chans[x.ch]

/-- Cancels every copy in flight that a slot issued for a launch that is killed; a chunk already under way finishes first (04 R68). -/
def State.endCopies (s : State) (l n : Nat) : State :=
  let c := s.coreAt (coreOf n)
  let of (x : Copy) : Bool := x.slot = n && x.launch = l
  let c := (c.fifo.filter fun x => of x && !c.inChunk x).foldl (fun c x => c.cancelCopy x.ch x.id) c
  s.setCore (coreOf n) { c with fifo := c.fifo.map fun x => if of x then { x with cancelled := true } else x }

/-- A report of the reeve to a partition's image (13 R267, R270; 04 R93). -/
def State.report (s : State) (part : Nat) (r : Report) : State :=
  s.setPart part { s.partAt part with reports := (s.partAt part).reports ++ [r] }

/-! ## Starting a thread -/

/-- The trap vector registered for a code image (13 R257): an offset at or beyond CODELEN leaves 0. -/
def State.vectorFor (s : State) (l : Launch) : Word :=
  let v := look 0 (s.partAt l.part).vecs l.record.code
  if v.toNat < l.record.codelen then v else 0

/-- The registers of a starting thread (04 R79, R85; 13 R259): zero but for g5, g6, the pc and TVEC; TDELEG as the
reeve sets it (DESIGN CHOICE, log 1). -/
def startImage (pc g5 g6 tvec : Word) : Image :=
  { g := ((Vector.replicate 32 (0 : Word)).set 5 g5).set 6 g6, pc := pc, tvec := tvec }

/-- StartSlot (04 R79, R85): the slot becomes LIVE at its own image, bound to an engine, and issues from a
cycle on. -/
def State.startSlot (s : State) (n : Nat) (e : Engine) (pc g5 g6 : Word) (from_ : Nat) : State :=
  let sl := s.slotAt n
  let s := s.setSlot n
    { sl with
      state := .live, sel := 0, engine := e, exitVal := 0, starts := sl.starts + 1, wait := none
      turnFrom := from_, issueFrom := 0, snap := none, tickDue := false, wdDue := false, pending := []
      hold := none, pairDue := none, starting := true, mirror := none, yielded := false, tickWritten := false, tickByReeve := false
      stopDue := false, resuming := false }
  s.setImg n (startImage pc g5 g6 (s.vectorFor (s.launchOf n)))

/-! ## Ending a thread -/

/-- Takes a slot out of the rotation: its wait, its hold and what was pending in it end (04 R86, R91; 13 R267). -/
def State.leaveRotation (s : State) (n : Nat) (st : SlotState) : State :=
  s.setSlot n
    { s.slotAt n with
      state := st, wait := none, hold := none, pending := [], tickDue := false, wdDue := false, pairDue := none
      mirror := none, stopDue := false, resuming := false }

/-- HALT of one slot (04 R91): HALTED with its exit value; the handler stack is dropped and every token becomes invalid, as
Pop(0) does it (12 R235; DEDUCED, log 48); a member that an unfired position still holds breaches its group. -/
def State.haltOne (s : State) (n : Nat) (x : Word) : State :=
  let s := (s.popFrames n 0).leaveRotation n .halted
  let s := s.setSlot n { s.slotAt n with exitVal := x }
  match s.membership n with
  | some (l, g, i) => if g.remains i then s.breach l g.num i else s
  | none => s

/-- An access of slot n is on its way, so that it completes before the slot can stop (04 R68, R86; 07 R138). -/
def State.accessUnderWay (s : State) (n : Nat) : Bool :=
  match (s.slotAt n).wait with
  | some (.globalOut _ _) | some (.globalIn _ _) | some (.dram _) => true
  | _ => false

/-- A capture or a resumption of slot n is under way (12 R236). -/
def State.inSnapshot (s : State) (n : Nat) : Bool :=
  let sl := s.slotAt n
  (sl.snap.isSome || sl.resuming) && decide (s.now n < sl.issueFrom)

/-- A slot and, where it is paired, its partner. -/
def State.pairOf (s : State) (n : Nat) : List Nat :=
  match s.partner n with
  | some m => [n, m]
  | none => [n]

/-- Does what is under way of slot n, or of its partner, keep it from the boundary at which it can stop: an access, a capture or a
resumption, or a chunk of a copy of its (04 R86)? -/
def State.stopHeld (s : State) (n : Nat) : Bool :=
  (s.pairOf n).any fun m =>
    s.accessUnderWay m || s.inSnapshot m
    || (s.coreAt (coreOf m)).fifo.any fun x => x.slot = m && (s.coreAt (coreOf m)).inChunk x

/-- The TSTOP that waits for slot n completes: n is STOPPED (04 R86). -/
def State.answerStop (s : State) (n : Nat) : State :=
  ((List.range 16).map (16 * coreOf n + ·)).foldl (fun s m =>
    match (s.slotAt m).wait with
    | some (.tstop d t) => if t = n then (s.setGOf m d 0).complete m 8 else s
    | _ => s) s

/-- Stops one slot at its instruction boundary (04 R86). A stopped member breaches its group (09 R203). -/
def State.stopOne (s : State) (n : Nat) : State := (((s.finishSnap n).leaveRotation n .stopped).lose n).answerStop n

/-- Gives a tile's power token back to its ring, which runs ballast where no tile takes it (19 R332; 21 R377). -/
def State.returnToken (s : State) (t : Nat) : State :=
  match (s.tileAt t).mx.token with
  | none => s
  | some _ =>
    let r := s.regionAt (regionOf t)
    let s := s.setRegion (regionOf t) { r with returned := r.returned ++ [r.rcycle] }
    s.setTile t { s.tileAt t with mx := { (s.tileAt t).mx with token := none } }

/-- Empties a tile's matrix queue and gives its token back. -/
def State.clearQueue (s : State) (t : Nat) : State :=
  let s := s.returnToken t
  let u := (s.tileAt t).mx
  s.setTile t { s.tileAt t with mx := { u with queue := [], left := none, done := u.done + u.queue.length } }

/-- Discards a tile's matrix instructions that have not started, with the token held for them; a started one stays and completes (19
R335). -/
def State.dropQueue (s : State) (t : Nat) : State :=
  let u := (s.tileAt t).mx
  if u.left.isNone then s.clearQueue t
  else s.setTile t { s.tileAt t with mx := { u with queue := u.queue.take 1 } }

/-- Drops the matrix instructions that a parked issuer had not started (19 R335). -/
def State.dropMatrix (s : State) (n : Nat) : State :=
  if isOrdinary n && (s.slotAt n).engine = .matrix then s.dropQueue (tileOf n) else s

/-- The image of a parked slot: every word zero but CAUSE, TVAL and TRAPPC (13 R267); the selector and the
pair's configuration are no thread state of its own. -/
def scrubbed (im : Image) : Image :=
  { cause := im.cause, tval := im.tval, trappc := im.trappc, tdeleg := 0 }

/-- Parks one slot, with its image as given: its copies are cancelled, its unstarted matrix instructions dropped,
and its group breaches (13 R267). The launch ends FAULTED with that cause. Its windows stay open: the spec does not say that a
park is the fatal fault that closes them (07 R150; DESIGN CHOICE, log 57). -/
def State.parkOne (s : State) (n : Nat) (im : Image) (cause : Nat) : State :=
  let s := s.dropSnapshot n
  let s := ((s.leaveRotation n .parked).lose n).setImg n im
  let s := (s.cancelCopies n).dropMatrix n
  let l := (s.slotAt n).launch
  let lc := s.launchAt l
  if l = 0 then s
  else s.setLaunch l { lc with fault := lc.fault.or (some (n, cause)) }

/-! ## The trailing slot of a pair -/

/-- The trailer's image as it follows the leader's: of the registers those named are taken, and of all else what the leader's
instruction has changed; TICKSET and the watchdog mirror the leader's (13 R268, R269). -/
def Image.follow (own lead before : Image) (regs : List Reg) (vregs : List VReg) : Image :=
  let pick {α : Type} [DecidableEq α] (f : Image → α) : α := if f lead = f before then f own else f lead
  { own with
    g := regs.foldl (fun (g : Vector Word 32) (r : Reg) => g.set r lead.g[r]) own.g
    v := vregs.foldl (fun (v : Vector (BitVec 1024) 16) (r : VReg) => v.set r lead.v[r]) own.v
    loops := pick (·.loops)
    pc := pick (·.pc)
    cause := pick (·.cause)
    tval := pick (·.tval)
    trappc := pick (·.trappc)
    tstatus := pick (·.tstatus)
    tvec := pick (·.tvec)
    tscratch := pick (·.tscratch)
    hsp := pick (·.hsp)
    hlimit := pick (·.hlimit)
    contbase := pick (·.contbase)
    contslots := pick (·.contslots)
    effen := pick (·.effen)
    waitlim := pick (·.waitlim)
    wdlimit := pick (·.wdlimit)
    tickset := lead.tickset
    fpflags := pick (·.fpflags)
    fptrap := pick (·.fptrap)
    rmode := pick (·.rmode)
    tloopS := pick (·.tloopS)
    tloopC := pick (·.tloopC)
    tdeleg := pick (·.tdeleg)
    wdCount := lead.wdCount }

/-- The trailer takes what its leader received, once the leader has it; where a delivery has captured, the handler's g3 to g6 are
among it (12 R239; 13 R268). -/
def State.takeMirror (s : State) (n m : Nat) (regs : List Reg) (vregs : List VReg) (before : Image) (handler : Bool) : State :=
  let sl := s.slotAt n
  if sl.wait.isSome ∨ sl.hold.isSome then s
  else
    let regs := if handler && sl.snap.isSome then regs ++ [3, 4, 5, 6] else regs
    let s := s.setImg m ((s.img m).follow (s.img n) before regs vregs)
    s.setSlot m { s.slotAt m with mirror := none, tickDue := false, wdDue := false }

/-! ## Ends of slots and pairs -/

/-- HALT of a slot; either slot of a pair halts both (13 R269). -/
def State.haltSlot (s : State) (n : Nat) (x : Word) : State := (s.pairOf n).foldl (fun s m => s.haltOne m x) s

/-- TSTOP of a slot; either slot of a pair stops both (04 R86). -/
def State.stopSlot (s : State) (n : Nat) : State := (s.pairOf n).foldl (fun s m => s.stopOne m) s

/-- A stop has been asked for of slot n or of its partner (04 R68, R86). -/
def State.stopAsked (s : State) (n : Nat) : Bool := (s.pairOf n).any fun m => (s.slotAt m).stopDue

/-- The stop that TSTOP or a kill asked of slot n, or of its partner, takes place where n stands at a boundary (04 R68, R86). -/
def State.takeStop (s : State) (n : Nat) : State := if s.stopAsked n && !s.stopHeld n then s.stopSlot n else s

/-- Parks a slot as TKILL does, with the trap's own record unchanged; a pair is parked together (13 R275). -/
def State.killSlot (s : State) (n : Nat) : State :=
  (s.pairOf n).foldl (fun s m => s.parkOne m (scrubbed (s.img m)) ((s.img m).cause.toNat % 0x10000)) s

/-- A thread consumes poison (13 R267): it is parked in the same cycle with UNCORR, the source's subcode and the
address, and the instruction performs nothing. In a pair both slots are parked, with the record of the one that consumes: the spec
does not say what becomes of its partner (DESIGN CHOICE, log 79). -/
def State.consume (s : State) (n sub : Nat) (addr : Word) : State :=
  let pc := s.pcOf n
  let rec_ : Image := { cause := word (sub * 256 + 0x1D), tval := addr, trappc := pc, tdeleg := 0 }
  let s := s.report (s.launchOf n).part ⟨n, sub * 256 + 0x1D, addr, 0⟩
  (s.pairOf n).foldl (fun s m => s.parkOne m rec_ (sub * 256 + 0x1D)) s

/-- Parks both slots of a pair for a mismatch; their registers stay, and their loop stacks and live records are lost (13 R267, R270). -/
def State.parkPair (s : State) (n m sub : Nat) (x y : Word) : State :=
  let c := sub * 256 + 0x1E
  let mark (s : State) (k : Nat) (v : Word) : State :=
    let s := s.popFrames k 0
    s.parkOne k { s.img k with cause := word c, tval := v, trappc := s.pcOf k, loops := [] } c
  let s := (s.report (s.launchOf n).part ⟨n, c, x, y⟩).errorRecord 1 (placeBytes n) 0x1E sub 0 x y
  mark (mark s n x) m y

/-- The first place at which two lists differ. -/
def firstDiff : List Word → List Word → Option (Word × Word)
  | a :: r, b :: t => if a = b then firstDiff r t else some (a, b)
  | [], b :: _ => some (0, b)
  | a :: _, [] => some (a, 0)
  | [], [] => none

/-- What the comparator finds between two requests of one kind, each its addresses and its data: subcode and the two values (13
R270). -/
def requestDiff (a b : List Word × List Word) : Option (Nat × Word × Word) :=
  match firstDiff a.1 b.1 with
  | some p => some (1, p.1, p.2)
  | none => (firstDiff a.2 b.2).map fun p => (0, p.1, p.2)

/-- The writes of a capture that slot n has begun: where its record and its frame lie, and their words (12 R243; 13 R268). -/
def State.captured (s : State) (n : Nat) : List Word × List Word :=
  match (s.slotAt n).snap with
  | none => ([], [])
  | some (off, head) =>
    ([word off, word (s.frameOff n (recFrame head))],
      head :: s.frameWord n (recFrame head) 0
        :: (List.range 39).map fun k => word (s.read (gLoc (coreOf n) (off + 8 + 8 * k)) 8))

/-- The comparator's mismatch over the record of a hardware effect that leader n has taken, which its trailer m presents from its own
image; `skip` is the length of the raising instruction where the continuation passes it (12 R239; 13 R268, R270). -/
def State.captureDiff (s before : State) (n m : Nat) (skip : Option Nat) : Option (Nat × Word × Word) :=
  match (s.slotAt n).snap with
  | none => none
  | some (off, head) =>
    if (before.slotAt n).snap = (s.slotAt n).snap then none
    else
      let own := match skip with | some len => before.settle m (before.pcOf m + word len) | none => before
      requestDiff (s.captured n) ((own.capture m ((off - before.recordOff n 0) / 320) (recFrame head) 0 none).captured m)

/-- Raises a cause in slot n outside an instruction's own step; a leader's record is compared with its trailer's (13 R268). -/
def State.raisePaired (s : State) (n cause sub : Nat) (v : Word) (skip : Option Nat) : State :=
  let t := s.raiseCause n cause sub v skip
  match s.trailerOf n with
  | none => t
  | some m =>
    match t.captureDiff s n m skip with
    | some d => s.parkPair n m d.1 d.2.1 d.2.2
    | none => t

/-- Kills one slot of a launch (04 R68): it stops at its boundary, after an access that is on its way, and its group is
removed by the caller, not breached; a parked slot ends as well (13 R267). -/
def State.killOne (s : State) (n : Nat) : State :=
  let s := s.dropSnapshot n
  match (s.slotAt n).state with
  | .live => if s.accessUnderWay n then s.setSlot n { s.slotAt n with stopDue := true } else s.leaveRotation n .stopped
  | .parked => s.leaveRotation n .stopped
  | _ => s

/-! ## Groups of slots -/

/-- The pump-class slots that act for a launch: those bound to it, and those that its threads have started (20 R348; 22 R399). -/
def Launch.pumpSlots (l : Launch) : List Nat := l.pumps.map (0x10000 + ·.slot) ++ l.begun

/-- Every slot of a launch: the slots of its tiles, and the pump-class slots that act for it. -/
def Launch.slots (l : Launch) : List Nat :=
  l.place.flatMap (fun t => (List.range 64).map fun k => 64 * t + k) ++ l.pumpSlots

/-- The slots that stand for launch `l` now: a pump-class slot of its may have been started for another launch since (20 R348). -/
def State.slotsOf (s : State) (l : Nat) : List Nat := (s.launchAt l).slots.filter fun n => (s.slotAt n).launch = l

/-- The slots of a launch that are LIVE. -/
def State.liveSlots (s : State) (l : Nat) : List Nat := (s.slotsOf l).filter s.isLive

/-- Closes the windows of a launch at a fatal fault and records the first one (07 R150, 04 R69). -/
def State.fatal (s : State) (n cause : Nat) : State :=
  let l := (s.slotAt n).launch
  let lc := s.launchAt l
  if l = 0 then s
  else s.setLaunch l { lc with closed := true, fault := lc.fault.or (some (n, cause)) }

/-- Ends a launch's threads, removes its groups, discards its unstarted matrix instructions and cancels its copies
(04 R68). -/
def State.stopLaunch (s : State) (l : Nat) : State :=
  let lc := s.launchAt l
  let s := (s.slotsOf l).foldl (fun s n => s.killOne n) s
  let s := lc.slots.foldl (fun s n => s.endCopies l n) s
  let s := lc.place.foldl (fun s t => s.dropQueue t) s
  s.setLaunch l { s.launchAt l with groups := [] }

/-- Kills a launch (04 R68). -/
def State.killLaunch (s : State) (l : Nat) : State :=
  let s := s.stopLaunch l
  s.setLaunch l { s.launchAt l with killed := true }

/-! ## The reeve's release of a held slot -/

/-- Ends the hold of a slot, which issues again at its first turn after the present cycle (13 R256). -/
def State.unhold (s : State) (n : Nat) : State := (s.setSlot n { s.slotAt n with hold := none }).awake n

/-- Continues slot n after the instruction at its pc, as `tret.next` does (13 R256, R274): where no word can be
measured the pc stays and the fetch traps. -/
def State.skipAt (s : State) (n : Nat) : State :=
  let p := s.pcOf n
  if bits p 1 0 ≠ 0 ∨ s.codelim n ≤ p.toNat then s else s.settle n (p + word (s.lengthAt n p))

/-- HCTL 1: the slot resumes at its pc (13 R256). -/
def State.hctl1 (s : State) (n : Nat) : State := s.unhold n
/-- HCTL 2: the slot resumes after the instruction. -/
def State.hctl2 (s : State) (n : Nat) : State := (s.unhold n).skipAt n
/-- HCTL 3: the trap is taken at supervisor level. -/
def State.hctl3 (s : State) (n : Nat) (h : Hold) : State :=
  (s.unhold n).setImg n ((s.img n).enter h.cause h.sub h.val h.pc h.boundary)
/-- HCTL 4: the slot, and its partner where it is paired, is parked with the trap's record. -/
def State.hctl4 (s : State) (n : Nat) (h : Hold) : State :=
  let c := h.sub * 256 + h.cause
  (s.pairOf n).foldl (fun s m =>
    s.parkOne m { cause := word c, tval := h.val, trappc := h.pc, tdeleg := 0 } c) s
/-- HCTL 5: the launch ends with status FAULTED; its windows close (13 R256; 07 R150). -/
def State.hctl5 (s : State) (n : Nat) (h : Hold) : State :=
  let s := s.fatal n (h.sub * 256 + h.cause)
  (s.killOne n).stopLaunch (s.slotAt n).launch

/-- A write of the image word HCTL from the hypervisor level; any other value is ignored (13 R256). -/
def State.writeHctl (s : State) (n : Nat) (v : Nat) : State :=
  match (s.slotAt n).hold with
  | none => s
  | some h =>
    match v with
    | 1 => s.hctl1 n
    | 2 => s.hctl2 n
    | 3 => s.hctl3 n h
    | 4 => s.hctl4 n h
    | 5 => s.hctl5 n h
    | _ => s

/-! ## Boundary causes -/

/-- The pending causes with one more: it takes the place of an earlier one of the same cause (12 R239; 21 R397). -/
def raiseIn (ps : List Raised) (r : Raised) : List Raised := (ps.filter fun p => p.cause ≠ r.cause) ++ [r]

/-- Makes a boundary cause pending in slot n. -/
def State.pend (s : State) (n : Nat) (r : Raised) : State :=
  let sl := s.slotAt n
  s.setSlot n { sl with pending := raiseIn sl.pending r }

/-- Makes a cause pending in a time-shared thread that is switched out, where its image passes a test. -/
def Residue.pend (x : Residue) (im : Image) (test : Image → Bool) (r : Raised) : Residue :=
  if x.launch ≠ 0 && test im then { x with pending := raiseIn x.pending r } else x

/-- The number of the image, within its tile, of a saved slot. -/
def Slot.imageIn (x : Slot) (k : Nat) : Nat := k / 16 * 16 + (k % 16 + x.sel.val) % 16

/-- Makes a cause pending in every LIVE thread of a saved tile whose image passes a test. -/
def TileSave.pend (x : TileSave) (test : Image → Bool) (r : Raised) : TileSave :=
  { x with
    slots := (List.range x.slots.length).map fun k =>
      let sl := x.slots.getD k {}
      if sl.state = .live && test (x.images.getD (sl.imageIn k) {}) then { sl with pending := raiseIn sl.pending r } else sl
    residues := x.residues.map fun p => (p.1, p.2.pend (x.images.getD p.1 {}) test r) }

/-- Makes a cause pending in the LIVE threads that stand in no slot: those of saved launches and those that are switched out, of the
launches that `of` names, where the thread's image passes a test (13 R263 to R265; 21 R380, R397). -/
def State.pendAway (s : State) (of : Nat → Bool) (test : Image → Bool) (r : Raised) : State :=
  { s with
    launches := s.launches.map fun p =>
      (p.1, if of p.1 then { p.2 with savedTiles := p.2.savedTiles.map fun x => x.pend test r } else p.2)
    residues := s.residues.map fun p => (p.1, if of p.2.launch then p.2.pend (s.imageAt p.1) test r else p.2)
    savedImages := s.savedImages.map fun p => (p.1, p.2.1, if of p.2.2.launch then p.2.2.pend p.2.1 test r else p.2.2) }

end Sys2Proof.Machine
end

