-- ==== Sys2Proof/Machine/Translate.lean ====
section
/-! DEFINITION. Physical DRAM (20 R350, R351; 23 R404, R411) and the translation of DRAM partition addresses
(20 R352 to R355). -/
namespace Sys2Proof.Machine
open Sys2Proof

/-! ## Physical memory -/

/-- Stacked DRAM of the four dies (20 R350). -/
def stackTop : Nat := 4 * 0x3000000000
/-- The die whose stack holds a physical address. -/
def stackDie (pa : Nat) : Nat := pa / 0x3000000000
/-- An address of the module's own memory (20 R350). -/
def inModule (pa : Nat) : Bool := pa < stackTop || (0x10000000000 ≤ pa && pa < 0x20000000000)
/-- The host aperture (23 R404). -/
def inHostAperture (pa : Nat) : Bool := 2 ^ 54 ≤ pa && pa < 2 ^ 54 + 2 ^ 48
/-- The fabric aperture (23 R411). -/
def inFabric (pa : Nat) : Bool := 2 ^ 55 ≤ pa && pa < 2 ^ 55 + 1024 * 2 ^ 44
/-- The module an aperture address names, and the address there (23 R411). -/
def fabricModule (pa : Nat) : Nat := (pa - 2 ^ 55) / 2 ^ 44
/-- The module's own memory under an address: an aperture address of the module itself loops back. -/
def State.localPa (s : State) (pa : Nat) : Option Nat :=
  if inFabric pa then (if fabricModule pa = s.crest.self then some (pa % 2 ^ 44) else none) else some pa

/-- Has the reeve granted n bytes of the module's memory from an address to a partition of a module (23 R411)? -/
def State.granted (s : State) (fid part a n : Nat) : Bool :=
  s.grants.any fun g => g.1 = fid && g.2.1 = part && decide (g.2.2.1 ≤ a ∧ a + n ≤ g.2.2.1 + g.2.2.2)

/-- Who performs an access to a physical address: this module, at an address of its own; nobody, where its reeve refuses an
access through the fabric aperture; or another module (20 R350; 23 R411). -/
inductive Server
  | here (pa : Nat)
  | refused
  | away
deriving DecidableEq, Repr

/-- Who performs an access of a partition to n bytes at a physical address. -/
def State.serverOf (s : State) (part pa n : Nat) : Server :=
  match s.localPa pa with
  | none => .away
  | some a => if inFabric pa && !s.granted s.crest.self part a n then .refused else .here a

/-- The pump-class core that serves a physical address of the module (20 R350). -/
def servingPump (pa : Nat) : Nat :=
  if pa < stackTop then 64 * stackDie pa + (pa - stackDie pa * 0x3000000000) / 4096 % 64
  else 256 + pa / 4096 % 32

/-- Is the stack that holds an address shut down (20 R351)? -/
def State.stackShut (s : State) (pa : Nat) : Bool := pa < stackTop && (s.dieAt (stackDie pa)).shut

/-- Reads n bytes of physical memory. -/
def State.physRead (s : State) (pa n : Nat) : Nat := loadNat s.mem pa n
/-- Writes n bytes of physical memory; a write to a stack that is shut down is dropped (20 R351). -/
def State.physWrite (s : State) (pa n x : Nat) : State :=
  if s.stackShut pa then s else ({ s with mem := storeNat s.mem pa n x }).unpoison ⟨.dram, 0, pa⟩ n
/-- Does a read of n bytes meet a poisoned word, or a stack that is shut down (13 R266, 20 R351)? -/
def State.physPoisoned (s : State) (pa n : Nat) : Bool := s.stackShut pa || s.poisoned ⟨.dram, 0, pa⟩ n

/-! ## Translation -/

/-- What an access needs of a leaf (20 R353, R355). -/
inductive Right | r | w | at_
deriving DecidableEq, Repr

/-- Does the union of some ranges cover `n` bytes from `a`? -/
def covered (rs : List (Nat × Nat)) : Nat → Nat → Nat → Bool
  | _, _, 0 => true
  | 0, _, _ => false
  | f + 1, a, n =>
    match rs.find? fun r => r.1 ≤ a && a < r.1 + r.2 with
    | none => false
    | some r => covered rs f (r.1 + r.2) (n - (r.1 + r.2 - a))

/-- A partition's allotment covers a range (23 R427). -/
def Partition.allots (p : Partition) (a n : Nat) : Bool := covered p.ranges (p.ranges.length + 1) a n

/-- The index of a partition address at a level, and the lowest bit of the index (20 R352). -/
def levelShift (l : Nat) : Nat :=
  match l with
  | 4 => 48 | 3 => 39 | 2 => 30 | 1 => 21 | _ => 16
/-- The number of entries of a table at a level. -/
def levelEntries (l : Nat) : Nat := if l = 0 then 32 else 512
/-- The bytes a leaf maps at a level; 0 where no leaf is allowed (20 R352). -/
def leafSize (l : Nat) : Nat :=
  match l with
  | 2 => 2 ^ 30 | 1 => 2 ^ 21 | 0 => 2 ^ 16 | _ => 0
/-- The bytes of a table at a level, which is its alignment (20 R352). -/
def tableSize (l : Nat) : Nat := if l = 0 then 256 else 4096

/-- A malformed entry at a level (20 R353, 23 R404). -/
def entryBad (p : Partition) (l : Nat) (e : Word) : Bool :=
  let pa := 256 * bits e 55 8
  let leaf := bit e 1
  bits e 63 56 ≠ 0 || bits e 7 5 ≠ 0
  || (leaf && leafSize l = 0) || (!leaf && l = 0)
  || (if leaf then pa % leafSize l ≠ 0 || !p.allots pa (leafSize l) || (inHostAperture pa && bit e 4)
      else pa % tableSize (l - 1) ≠ 0 || !p.allots pa (tableSize (l - 1)))

/-- The outcome of a walk: a leaf, or the PAGE subcode 0 to 2 (20 R355). -/
inductive Walk
  | leaf (pa size : Nat) (r w at_ : Bool)
  | fail (sub : Nat)
deriving DecidableEq, Repr

/-- The entry of a table at a level that an address selects, with none where it is poisoned or stands in another module: what a
walk then finds the spec does not say, and the model takes it for a malformed entry (DESIGN CHOICE, log 60). -/
def State.tableEntry (s : State) (va table l : Nat) : Option Word :=
  match s.localPa (table + 8 * (va / 2 ^ levelShift l % levelEntries l)) with
  | some pa => if s.physPoisoned pa 8 then none else some (word (s.physRead pa 8))
  | none => none

/-- The walk from a table at level `l` downwards (20 R352, R353). -/
def State.walkFrom (s : State) (p : Partition) (va table : Nat) : Nat → Walk
  | 0 =>
    match s.tableEntry va table 0 with
    | none => .fail 2
    | some e =>
      if !bit e 0 then .fail 0
      else if entryBad p 0 e then .fail 2
      else .leaf (256 * bits e 55 8) (leafSize 0) (bit e 2) (bit e 3) (bit e 4)
  | l + 1 =>
    match s.tableEntry va table (l + 1) with
    | none => .fail 2
    | some e =>
      if !bit e 0 then .fail 0
      else if entryBad p (l + 1) e then .fail 2
      else if bit e 1 then .leaf (256 * bits e 55 8) (leafSize (l + 1)) (bit e 2) (bit e 3) (bit e 4)
      else s.walkFrom p va (256 * bits e 55 8) l

/-- The walk of a partition address; without a root, and for a value that is no partition address, nothing is mapped
(20 R352, R355). -/
def State.walk (s : State) (part va : Nat) : Walk :=
  if 2 ^ 57 ≤ va then .fail 0
  else
    match (s.partAt part).root with
    | none => .fail 0
    | some root => s.walkFrom (s.partAt part) va root 4

/-- The rights of a leaf as an access needs them. -/
def Right.granted (x : Right) (r w at_ : Bool) : Bool :=
  match x with
  | .r => r | .w => w | .at_ => at_

/-- Translates a partition address for a right, without a TLB: a physical address or the PAGE subcode. -/
def State.translate (s : State) (part va : Nat) (x : Right) : Except Nat Nat :=
  match s.walk part va with
  | .fail sub => .error sub
  | .leaf pa size r w a => if x.granted r w a then .ok (pa + va % size) else .error 1

/-- The TLB entry of a core that maps an address of a partition (20 R354). -/
def Core.tlbHit (c : Core) (part va : Nat) : Option TlbEntry :=
  c.tlb.find? fun e => e.part = part && e.va ≤ va && va < e.va + e.size

/-- Translates through the TLB of a pump-class core: an entry translates as the tables did when it was filled;
a walk that succeeds fills one (20 R354; DESIGN CHOICE, log 15). -/
def State.tlbTranslate (s : State) (core part va : Nat) (x : Right) : Except Nat Nat × State :=
  let c := s.coreAt core
  match c.tlbHit part va with
  | some e => (if x.granted e.r e.w e.at_ then .ok (e.pa + (va - e.va)) else .error 1, s)
  | none =>
    match s.walk part va with
    | .fail sub => (.error sub, s)
    | .leaf pa size r w a =>
      if x.granted r w a then
        let e : TlbEntry := ⟨part, va - va % size, size, pa, r, w, a⟩
        (.ok (pa + va % size), s.setCore core { c with tlb := (e :: c.tlb).take 256 })
      else (.error 1, s)

/-- The partition of a slot's launch. -/
def State.partOf (s : State) (n : Nat) : Nat := (s.launchOf n).part

end Sys2Proof.Machine
end

