-- ==== Sys2Proof/Machine/Registers.lean ====
section
/-! DEFINITION. The system registers (13 R258 to R261): those of the image with their layouts and refusals
(04 R81; 07 R146; 12 R228, R230, R238, R240; 13 R259, R260; 16 R292), the window registers (07 R148), and
those of the core, the tile, the launch and the module (21 R376 to R383, R396). -/
namespace Sys2Proof.Machine
open Sys2Proof

/-! ## Registers of the image -/

/-- The word of the image that holds a system register (13 R260). -/
def sysIndex (r : Nat) : Option Nat :=
  if r ≤ 0x005 then some r
  else if 0x010 ≤ r ∧ r ≤ 0x014 then some (r - 0x010 + 6)
  else if 0x020 ≤ r ∧ r ≤ 0x022 then some (r - 0x020 + 11)
  else if 0x030 ≤ r ∧ r ≤ 0x032 then some (r - 0x030 + 14)
  else if 0x100 ≤ r ∧ r ≤ 0x108 then some (r - 0x100 + 17)
  else if r = 0x10B then some 27
  else none

/-- Word k of the image's system registers (13 R260). -/
def Image.sysWord (im : Image) (k : Nat) : Word :=
  match k with
  | 0 => im.cause | 1 => im.tval | 2 => im.trappc | 3 => im.tstatus | 4 => im.tvec | 5 => im.tscratch
  | 6 => im.hsp | 7 => im.hlimit | 8 => im.contbase | 9 => im.contslots | 10 => im.effen
  | 11 => im.waitlim | 12 => im.wdlimit | 13 => im.tickset
  | 14 => im.fpflags | 15 => im.fptrap | 16 => im.rmode
  | 17 => im.tloopS[0] | 18 => im.tloopC[0] | 19 => im.tloopS[1] | 20 => im.tloopC[1]
  | 21 => im.tloopS[2] | 22 => im.tloopC[2] | 23 => im.tloopS[3] | 24 => im.tloopC[3]
  | 25 => im.tdeleg | 26 => im.wdCount.setWidth 64 | 27 => im.paircfg
  | _ => 0

/-- How a register's table refuses a value (13 R272). -/
inductive Refuse | field | hstack
deriving DecidableEq, Repr

/-- The refusal of a new value for word k; the HSTACK restriction holds where `stack` is set (05 R424). -/
def Image.refuses (im : Image) (k : Nat) (stack : Bool) (x : Word) : Option Refuse :=
  if stack && 6 ≤ k && k ≤ 9 && hspDepth im.hsp ≠ 0 then some .hstack
  else
    let bad : Bool := match k with
      | 7 => 0x70000 < 32 * bits x 18 5
      | 8 => 0x70000 < 64 * bits x 18 6 + 320 * bits im.contslots 4 0
      | 9 => 16 < bits x 4 0 || 0x70000 < 64 * bits im.contbase 18 6 + 320 * bits x 4 0
      | 12 => bits x 63 32 ≠ 0
      | 14 | 15 => bits x 63 5 ≠ 0
      | 16 => bits x 63 2 ≠ 0
      | _ => false
    if bad then some .field else none

/-- The bits of EFFEN that exist (12 R238). -/
def effenMask : Word := 0x07C1E000

/-- TSTATUS as written (13 R259): LDEPTH 5 to 7 as 4, PLVL 2 as 1, LVL kept. -/
def tstatusNew (old x : Word) : Word :=
  word (bits old 1 0 + 4 * min 1 (bits x 3 2) + 16 * bits x 5 4 + 256 * min 4 (bits x 10 8))

/-- Stores a value in the RW fields of word k, for a writer of a level (05 R424; 13 R259). -/
def Image.sysStore (im : Image) (k level : Nat) (x : Word) : Image :=
  match k with
  | 0 => { im with cause := word (bits x 15 0) }
  | 1 => { im with tval := x }
  | 2 => { im with trappc := x }
  | 3 => { im with tstatus := tstatusNew im.tstatus x }
  | 4 => { im with tvec := word (4 * bits x 24 2) }
  | 5 => { im with tscratch := x }
  | 6 => { im with hsp := setBits im.hsp 18 5 (bits x 18 5) }
  | 7 => { im with hlimit := word (32 * bits x 18 5) }
  | 8 => { im with contbase := word (64 * bits x 18 6) }
  | 9 => { im with contslots := word (bits x 4 0) }
  | 10 => { im with effen := x &&& effenMask }
  | 11 => { im with waitlim := word (bits x 31 0) }
  | 12 => { im with wdlimit := word (bits x 31 0), wdCount := 0 }
  | 13 => { im with tickset := word (bits x 31 0) }
  | 14 => { im with fpflags := word (bits x 4 0) }
  | 15 => { im with fptrap := word (bits x 4 0) }
  | 16 => { im with rmode := word (bits x 1 0) }
  | 17 => { im with tloopS := im.tloopS.set 0 x }
  | 18 => { im with tloopC := im.tloopC.set 0 x }
  | 19 => { im with tloopS := im.tloopS.set 1 x }
  | 20 => { im with tloopC := im.tloopC.set 1 x }
  | 21 => { im with tloopS := im.tloopS.set 2 x }
  | 22 => { im with tloopC := im.tloopC.set 2 x }
  | 23 => { im with tloopS := im.tloopS.set 3 x }
  | 24 => { im with tloopC := im.tloopC.set 3 x }
  | 25 => if 2 ≤ level then { im with tdeleg := word (bits x 35 0) ||| 0x100000000 } else im
  | 26 => { im with wdCount := x.setWidth 32 }
  | _ => im

/-! ## Windows -/

/-- A core window register's refusal of a value (07 R148): B, L, A, Q as the index is 0 to 3 modulo 4. -/
def winRefuses (idx : Nat) (x : Word) : Bool :=
  match idx % 4 with
  | 0 => bits x 63 19 ≠ 0 || bits x 2 0 ≠ 0
  | 1 => bits x 63 20 ≠ 0 || bits x 2 0 ≠ 0 || 0xE000 < bits x 19 3
  | 2 => bits x 63 4 ≠ 0
  | _ => bits x 63 48 ≠ 0 || bits x 31 22 ≠ 0

/-- The greatest LIMIT of a tile window by BUF (07 R148). -/
def twinTop (buf : Nat) : Nat :=
  match buf with
  | 0 => 2 ^ 19 - 1 | 1 => 0x40000 | _ => 0x20000

/-- A tile window register's refusal of a value, beside the window's other registers (07 R148). -/
def Tile.twinRefuses (t : Tile) (idx : Fin 16) (x : Word) : Bool :=
  match idx.val % 4 with
  | 0 => bits x 63 21 ≠ 0 || bits x 2 0 ≠ 0
  | 1 => bits x 63 22 ≠ 0 || bits x 2 0 ≠ 0 || twinTop (bits t.twin[Fin.ofNat 16 (idx.val + 1)] 5 4) < bits x 21 3
  | 2 => bits x 63 6 ≠ 0 || twinTop (bits x 5 4) < bits t.twin[Fin.ofNat 16 (idx.val - 1)] 21 3
  | _ => bits x 63 48 ≠ 0 || bits x 31 22 ≠ 0

/-! ## Registers of the core, the tile, the launch and the module -/

/-- Frequency of an operating point in MHz (21 R371). -/
def pointMhz (i : Nat) : Nat := 600 + 25 * i

/-- Is a tile part of a level group (21 R376)? -/
def State.inLevelGroup (s : State) (t : Nat) : Bool :=
  match (s.tileAt t).launch with
  | none => false
  | some l =>
    let lc := s.launchAt l
    lc.isLevel && lc.groups.any fun g => g.members.any fun m => tileOf (lc.slotOf m) = t

/-- A clock was stretched in the last 1 μs of tide (21 R376). -/
def State.droopSeen (s : State) (now : Bool) (at_ : Option Nat) : Bool :=
  now || (match at_ with | some k => decide (s.tide.toNat < k + 1000) | none => false)

/-- POLDERF of a slot (21 R376). -/
def State.polderf (s : State) (n : Nat) : Word :=
  let f (point : Nat) (lvl dr : Bool) : Word :=
    word (2 ^ 16 * pointMhz point + (if lvl then 512 else 0) + (if dr then 256 else 0) + point)
  if isOrdinary n then
    let t := s.tileAt (tileOf n)
    f t.point (s.inLevelGroup (tileOf n)) (s.droopSeen t.droop t.droopAt)
  else
    let c := s.coreAt (coreOf n)
    f c.point false (s.droopSeen c.droop c.droopAt)

/-- Four 16-bit fields, die 0 lowest (21 R382, R383). -/
def pack4 (f : Nat → BitVec 16) : Word :=
  word ((f 0).toNat + 2 ^ 16 * (f 1).toNat + 2 ^ 32 * (f 2).toNat + 2 ^ 48 * (f 3).toNat)

/-- The value of system register r for slot n (13 R258). -/
def State.sysRead (s : State) (n r : Nat) : Word :=
  match sysIndex r with
  | some k => (s.img n).sysWord k
  | none =>
    if 0x050 ≤ r ∧ r ≤ 0x05F then (s.coreAt (coreOf n)).win[(r - 0x050) % 16]
    else if 0x110 ≤ r ∧ r ≤ 0x11F then (s.tileAt (tileOf n)).twin[(r - 0x110) % 16]
    else match r with
      | 0x023 => word (s.img n).loops.length
      | 0x040 => s.tide
      | 0x041 => s.crest.now
      | 0x042 => s.crest.next
      | 0x043 => s.crest.at_
      | 0x044 => word (s.launchOf n).used
      | 0x045 => word (s.launchOf n).record.quota
      | 0x046 => pack4 fun d => (s.dieAt d).allowance
      | 0x047 => pack4 fun d => (s.dieAt d).temp
      | 0x048 => s.polderf n
      | 0x060 => word ((s.slotAt n).launch % 0x10000)
      | 0x061 => (s.slotAt n).logSlot.setWidth 64
      | 0x062 => word ((s.launchOf n).record.mode.toNat % 16)
      | 0x063 => word (s.codelim n)
      | 0x070 => if isOrdinary n then (s.tileAt (tileOf n)).fpxsum else 0
      | 0x109 => word (n % 0x10000)
      | 0x10A => word ((slotIdx n + (s.slotAt n).sel.val) % 16)
      | _ => 0

/-- Is a slot of a core, other than some, pointed at image v (05 R96)? The selector of a FREE slot points at no image: 16 slots that
share none of 16 images could never be pointed at another one, as 04 R80 and 13 R263 have it (DESIGN CHOICE, log 73). -/
def State.imageHeld (s : State) (core v : Nat) (but : List Nat) : Bool :=
  (List.range 16).any fun k =>
    let m := 16 * core + k
    !decide (m ∈ but) && (s.slotAt m).state ≠ .free && (k + (s.slotAt m).sel.val) % 16 = v

/-- Would selector v make slot n share its image with another slot of its core (05 R96)? -/
def State.imageShared (s : State) (n v : Nat) : Bool := s.imageHeld (coreOf n) v [n]

/-- Is image v, at which FREE slot n stands when it starts (05 R96), in use by another slot of its core, or does it hold a thread that is
switched out? A start then finds the slot not FREE (DESIGN CHOICE, log 73). -/
def State.imageTaken (s : State) (n v : Nat) : Bool :=
  s.imageShared n v || (look {} s.residues (16 * coreOf n + v)).launch ≠ 0

/-- The refusal of a new value for system register r of slot n (13 R272). -/
def State.sysRefuses (s : State) (n r : Nat) (x : Word) : Option Refuse :=
  match sysIndex r with
  | some k => (s.img n).refuses k true x
  | none =>
    let bad : Bool :=
      if 0x050 ≤ r ∧ r ≤ 0x05F then winRefuses (r - 0x050) x
      else if 0x110 ≤ r ∧ r ≤ 0x11F then (s.tileAt (tileOf n)).twinRefuses (Fin.ofNat 16 (r - 0x110)) x
      else if r = 0x10A then s.imageShared n (bits x 3 0)
      else false
    if bad then some .field else none

/-- Stores a new value in the RW fields of system register r of slot n; `x` is the operand, for W1C fields
(13 R272). The layout of IMAGE stands nowhere in the spec: the selector is bits [3:0], and a write ignores the others
(DESIGN CHOICE, log 54). -/
def State.sysWrite (s : State) (n r : Nat) (new x : Word) : State :=
  match sysIndex r with
  | some k =>
    let s := s.setImg n ((s.img n).sysStore k (s.level n) new)
    if k = 13 then s.setSlot n { s.slotAt n with tickWritten := true, tickByReeve := false } else s
  | none =>
    if 0x050 ≤ r ∧ r ≤ 0x05F then
      let c := s.coreAt (coreOf n)
      s.setCore (coreOf n) { c with win := c.win.set (Fin.ofNat 16 (r - 0x050)) new }
    else if 0x110 ≤ r ∧ r ≤ 0x11F then
      let t := s.tileAt (tileOf n)
      s.setTile (tileOf n) { t with twin := t.twin.set (Fin.ofNat 16 (r - 0x110)) new }
    else if r = 0x070 then
      if isOrdinary n ∧ bit x 31 then s.setTile (tileOf n) { s.tileAt (tileOf n) with fpxsum := 0 } else s
    else if r = 0x10A then
      s.setSlot n { s.slotAt n with sel := Fin.ofNat 16 (bits new 3 0 + 16 - slotIdx n) }
    else s

/-! ## The CONTEXT space -/

/-- The slot of a core that an image belongs to (05 R96): the one that is pointed at it, and without one the FREE slot whose selector
names it (log 73). -/
def State.imageOwner (s : State) (core i : Nat) : Option Nat :=
  let ns := ((List.range 16).map (16 * core + ·)).filter fun n => decide (s.imageKey n = 16 * core + i)
  (ns.find? fun n => (s.slotAt n).state ≠ .free).or ns.head?

/-- Is a slot bound to vector (04 R78; 05 R95)? A FREE slot is bound to no engine. -/
def Slot.boundVector (x : Slot) : Bool := x.engine = .vector && x.state ≠ .free

/-- The 64-bit word at an offset of the context area of a core (05 R95). -/
def State.ctxWord (s : State) (core off : Nat) : Word :=
  let i := off / 0x1000
  let im := s.imageAt (16 * core + i)
  let o := off % 0x1000
  if o < 0x100 then (if o / 8 = 0 then 0 else im.g[o / 8 % 32])
  else if o < 0x200 then im.sysWord ((o - 0x100) / 8)
  else if o < 0x280 then
    let l := loopAt im.loops ((o - 0x200) / 32)
    match o / 8 % 4 with
    | 0 => l.start | 1 => l.stop | 2 => l.count | _ => 0
  else if o < 0x300 then
    let j := (o - 0x280) / 16
    if j = 0 then .allOnes 64 else (im.k[j % 8]).extractLsb' (64 * (o / 8 % 2)) 64
  else if o < 0x800 then 0
  else
    match s.imageOwner core i with
    | some n =>
      if (s.slotAt n).boundVector then (im.v[(o - 0x800) / 128 % 16]).extractLsb' (64 * (o / 8 % 16)) 64 else 0
    | none => 0

/-- Replaces a 64-bit part of a wide register. -/
def putPart {w : Nat} (x : BitVec w) (i : Nat) (v : Word) : BitVec w :=
  BitVec.ofNat w (x.toNat % 2 ^ (64 * i) + 2 ^ (64 * i) * v.toNat + 2 ^ (64 * i + 64) * (x.toNat / 2 ^ (64 * i + 64)))

/-- The loop stack after a write of one word of its area (06 R126): the leading levels with COUNT not zero. An STM or a copy writes the
words of the area one after the other, and each write by itself has this effect, so that START and END stored before their COUNT
are lost: the spec does not say whether 'such a write' is a word or all that one instruction writes (DESIGN CHOICE, log 75). -/
def writeLevels (ls : List LoopLevel) (j part : Nat) (x : Word) : List LoopLevel :=
  let lv := (List.range 4).map fun i =>
    let l := loopAt ls i
    if i = j then
      match part with
      | 0 => { l with start := x } | 1 => { l with stop := x } | 2 => { l with count := x } | _ => l
    else l
  (lv.takeWhile fun l => l.count ≠ 0).reverse

/-- Is a word of image i one that a resumption under way will set, so that a write to it now does not last (12 R236)? Those are
the words of g1 to g31 and of the loop stack. -/
def State.ctxRestoring (s : State) (core i o : Nat) : Bool :=
  (decide (o < 0x100) || decide (0x200 ≤ o ∧ o < 0x280)) &&
  match s.imageOwner core i with
  | some n => (s.slotAt n).resuming && decide (s.now n < (s.slotAt n).issueFrom)
  | none => false

/-- What stands outside the image of a time-shared thread that is switched out. -/
def State.residueAt (s : State) (key : Nat) : Residue := look {} s.residues key

/-- Is the TICKSET of image i of a core one that the reeve may arm: its EFFEN.TICK is 0, and its thread has not written TICKSET
(13 R256)? -/
def State.mayArmTick (s : State) (core i : Nat) : Bool :=
  let key := 16 * core + i
  !bit (s.imageAt key).effen 22
  && match s.imageOwner core i with
    | some n => !(s.slotAt n).tickWritten
    | none => !(s.residueAt key).tickWritten

/-- A CONTEXT write of the TICKSET word below the hypervisor's level acts as the SWR would (05 R424): a TICK that the launch arms is never
the reeve's (13 R256; DEDUCED, log 76). -/
def State.ownTick (s : State) (core i : Nat) : State :=
  let key := 16 * core + i
  match s.imageOwner core i with
  | some n => s.setSlot n { s.slotAt n with tickWritten := true, tickByReeve := false }
  | none => { s with residues := put s.residues key { s.residueAt key with tickWritten := true, tickByReeve := false } }

/-- A write of the TICKSET word at hypervisor level has stored a count: the TICK is the reeve's own where the reeve may arm it (13
R256). -/
def State.armTick (s : State) (core i : Nat) (x : Word) : State :=
  let key := 16 * core + i
  let own : Bool := s.mayArmTick core i && bits x 31 0 ≠ 0
  match s.imageOwner core i with
  | some n => s.setSlot n { s.slotAt n with tickByReeve := own }
  | none =>
    if own || (s.residueAt key).tickByReeve then
      { s with residues := put s.residues key { s.residueAt key with tickByReeve := own } }
    else s

/-- An image with a word written at an offset, by a writer of a level; `vec` says that its slot is bound to vector (05 R95, R98,
R424; 06 R126). -/
def Image.ctxPut (im : Image) (o level : Nat) (vec : Bool) (x : Word) : Image :=
  if o < 0x100 then { im with g := im.g.set (Fin.ofNat 32 (o / 8)) x }
  else if o < 0x200 then im.sysStore ((o - 0x100) / 8) level x
  else if o < 0x280 then { im with loops := writeLevels im.loops ((o - 0x200) / 32) (o / 8 % 4) x }
  else if o < 0x300 then
    let j := (o - 0x280) / 16
    { im with k := im.k.set (Fin.ofNat 8 j) (putPart im.k[j % 8] (o / 8 % 2) x) }
  else if o < 0x800 then im
  else if vec then
    let j := (o - 0x800) / 128
    { im with v := im.v.set (Fin.ofNat 16 j) (putPart im.v[j % 16] (o / 8 % 16) x) }
  else im

/-- Has an image no word at an offset that takes a write: the places of g0 and k0 and those that hold nothing, the vector
registers of a slot that is not bound to vector, and a value that the register's table refuses (05 R94, R95, R424)? -/
def Image.ctxKeeps (im : Image) (o : Nat) (vec : Bool) (x : Word) : Bool :=
  o / 8 = 0 || (0x280 ≤ o && o < 0x290) || (0x300 ≤ o && o < 0x800) || (0x800 ≤ o && !vec)
  || (0x100 ≤ o && o < 0x200 && (im.refuses ((o - 0x100) / 8) false x).isSome)

/-- Before a CONTEXT write reaches a paired leader's image, its trailer takes what it has still to follow: the write applies to the
leader only (13 R269). -/
def State.catchUp (s : State) (n : Nat) : State :=
  match s.trailerOf n with
  | none => s
  | some m =>
    match (s.slotAt m).mirror with
    | some (.take r v b h) => s.takeMirror n m r v b h
    | _ => s

/-- Where the trailer cannot yet, because the leader waits, the write is none of what the leader's instruction changes (13
R269). -/
def State.pastWrite (s : State) (n : Nat) (f : Image → Image) : State :=
  match s.trailerOf n with
  | none => s
  | some m =>
    match (s.slotAt m).mirror with
    | some (.take r v b h) => s.setSlot m { s.slotAt m with mirror := some (.take r v (f b) h) }
    | _ => s

/-- Stores a word of the context area, as a writer of a level (05 R95, R98, R424; 06 R126). Where HSP, CONTBASE or CONTSLOTS is
written, the stores that the slot has posted are performed first (12 R232). A level is normalised after each word (log 75), and a written
TICKSET count ends the reeve's ownership of an armed TICK (log 76). -/
def State.ctxStore (s : State) (core off level : Nat) (x : Word) : State :=
  let i := off / 0x1000
  let key := 16 * core + i
  let o := off % 0x1000
  let owner := s.imageOwner core i
  let vec : Bool := match owner with | some n => (s.slotAt n).boundVector | none => false
  if s.ctxRestoring core i o then s
  else if o / 8 = 0x3F then
    match owner with
    | some n => if 2 ≤ level then s.writeHctl n x.toNat else s
    | none => s
  else if (s.imageAt key).ctxKeeps o vec x then s
  else
    let s := match owner with
      | some n =>
        let s := if o / 8 = 0x26 ∨ o / 8 = 0x28 ∨ o / 8 = 0x29 then s.landScalar n else s
        (s.catchUp n).pastWrite n fun im => im.ctxPut o level vec x
      | none => s
    let s := s.setImage key ((s.imageAt key).ctxPut o level vec x)
    if o / 8 ≠ 0x2D then s else if 2 ≤ level then s.armTick core i x else s.ownTick core i

/-- Reads n bytes of the context area, within one word. -/
def State.ctxRead (s : State) (core off n : Nat) : Nat :=
  (s.ctxWord core (off - off % 8)).toNat / 2 ^ (8 * (off % 8)) % 2 ^ (8 * n)

/-- Writes n bytes of the context area, within one word. -/
def State.ctxWrite (s : State) (core off n x level : Nat) : State :=
  let o := off % 8
  s.ctxStore core (off - o) level (setBits (s.ctxWord core (off - o)) (8 * (o + n) - 1) (8 * o) x)

end Sys2Proof.Machine
end

