-- ==== Sys2Proof/Machine/Access.lean ====
section
/-! DEFINITION. Resolving an address (07 R136 to R140), windows (R148 to R150), the race checker (R153 to R156),
full/empty tags and their waits (R142 to R147), and the operation of an access at the store that owns it
(R151, R159 to R165). -/
namespace Sys2Proof.Machine
open Sys2Proof

/-! ## Resolve -/

/-- The kinds of access that the spaces distinguish (07 R136). -/
inductive MemKind | plain | counted | tagged | atomic | race
deriving DecidableEq, Repr

/-- The space of a space code of a global address (05 R112). -/
def spOfCode (c : Nat) : SP :=
  match c with
  | 0 => .g | 1 => .a | 2 => .c | 3 => .w | _ => .ctx

/-- Step 1 of Resolve for SP = 100 (07 R139): the location, or the cause and subcode. The placement translates a
logical address (05 R113). -/
def State.globalLoc (s : State) (x : Word) : Except (Nat × Nat) Loc :=
  let form := bits x 63 60
  let t := bits x 59 50
  let code := bits x 47 44
  let core := bits x 49 48
  if form ≠ 8 ∧ form ≠ 9 then .error (0x09, 0x20)
  else if form = 8 ∧ s.level s.cur = 0 then .error (0x05, 0x03)
  else if form = 9 ∧ s.tilesOf s.cur ≤ t then .error (0x09, 0x21)
  else if !(code ≤ 3 || (form = 8 && code = 6)) then .error (0x09, 0x22)
  else if 1 ≤ code ∧ code ≤ 3 ∧ core ≠ 0 then .error (0x09, 0x23)
  else
    let pt := if form = 8 then t else s.placeOf s.cur t
    let sp := spOfCode code
    .ok ⟨sp, if sp = .g ∨ sp = .ctx then 4 * pt + core else pt, bits x 43 0⟩

/-- The location of an alias address. -/
def State.aliasLoc (s : State) (sp : SP) (x : Word) : Loc :=
  ⟨sp, if sp = .g ∨ sp = .ctx then coreOf s.cur else tileOf s.cur, x.toNat⟩

/-- The size that bounds an alias access (07 R139 step 3). -/
def aliasSize (sp : SP) : Nat := if sp = .g then 0x70000 else spSize sp

/-- Step 2 of Resolve for a location (07 R136, R157): the scalar path and the kind of access. -/
def kindAllowed (k : MemKind) (sp : SP) : Bool :=
  match k with
  | .plain | .counted => true
  | .tagged | .atomic => sp = .g
  | .race => sp = .g || sp = .a || sp = .c

/-- The tiles that hold a member of the issuing slot's sluice group (07 R139 step 4). -/
def State.groupTiles (s : State) (n : Nat) : List Nat :=
  match s.membership n with
  | some (l, g, _) => g.members.map fun m => tileOf ((s.launchAt l).slotOf m)
  | none => []

/-- The tile of a location; none for a store of a core that no tile has. -/
def Loc.tile (l : Loc) : Nat :=
  match l.sp with
  | .g | .ctx => l.unit / 4
  | _ => l.unit

/-- Steps 1 to 5 of Resolve (07 R139): n bytes at an effective address, aligned to `al`. An access of no bytes, which only RACEM can make,
lies outside where its address is beyond the space's end (07 R165; DESIGN CHOICE, log 86). -/
def State.resolve (s : State) (k : MemKind) (sp : SP) (x : Word) (n al : Nat) : Except (Nat × Nat) Loc := do
  let glob := sp = .glob
  let l ← if glob then s.globalLoc x else pure (s.aliasLoc sp x)
  if sp = .dram then
    throw (if isOrdinary s.cur then (0x0B, 0x00) else (0x09, 0x01))
  if !glob && !isOrdinary s.cur && (sp = .a || sp = .c || sp = .w) then throw (0x09, 0x01)
  if k = .race && glob then throw (0x09, 0x02)
  if !kindAllowed k l.sp then throw (0x09, 0x02)
  if !glob && aliasSize sp < x.toNat + n then throw (0x09, 0x00)
  if glob && spSize l.sp < l.off + n then throw (0x09, 0x24)
  if k = .counted && !(l.sp = .g || l.sp = .a) then throw (0x09, 0x01)
  if k = .counted && !decide (l.tile ∈ s.groupTiles s.cur) then throw (0x09, 0x03)
  if x.toNat % al ≠ 0 then throw (0x08, 0x00)
  pure l

/-! ## Windows -/

/-- The rights of an access in WINnA's bits (07 R149). -/
def AccessOp.rights : AccessOp → Nat
  | .load _ => 1
  | .store => 2
  | .amo _ | .cas _ => 4
  | .ldf | .lde => 9
  | .stf | .stff => 10
  | .tagq | .tagset _ => 8

/-- Does a WINnQ value let a requester in (07 R149)? -/
def winAdmits (q : Word) (launch n : Nat) : Bool :=
  decide (bits q 47 32 = launch % 0x10000) && launch ≠ 0
  && (if isOrdinary n then bit q (16 + dieOf (tileOf n)) && bit q (regionOf (tileOf n) % 16)
      else if pumpOf n < 288 then bit q 20 else bit q 21)

/-- Does a core window cover n bytes from an offset with rights (07 R148, R149)? -/
def Core.windowPasses (c : Core) (w : Fin 4) (off n rights launch req : Nat) : Bool :=
  let r (k : Nat) : Word := c.win[(4 * w.val + k) % 16]
  let base := 8 * bits (r 0) 18 3
  let lim := 8 * bits (r 1) 19 3
  decide (base ≤ off ∧ off + n ≤ lim) && (bits (r 2) 3 0 &&& rights) = rights && winAdmits (r 3) launch req

/-- BUF of a buffer (07 R148). -/
def bufCode : SP → Nat
  | .a => 1 | .c => 2 | .w => 3 | _ => 0

/-- Does a tile window cover n bytes of a buffer with rights (07 R148, R149)? The buffers take no tagged access
and no atomic. -/
def Tile.windowPasses (t : Tile) (w : Fin 4) (sp : SP) (off n rights launch req : Nat) : Bool :=
  let r (k : Nat) : Word := t.twin[(4 * w.val + k) % 16]
  let base := 8 * bits (r 0) 20 3
  let lim := 8 * bits (r 1) 21 3
  bits (r 2) 5 4 = bufCode sp && decide (base ≤ off ∧ off + n ≤ lim)
  && (bits (r 2) 1 0 &&& rights) = rights && winAdmits (r 3) launch req

/-- The windows of a tile are closed: its launch has taken a fatal fault, or has completed (07 R150). -/
def State.windowsClosed (s : State) (t : Nat) : Bool :=
  match (s.tileAt t).launch with
  | none => true
  | some l => (s.launchAt l).closed

/-- The window test at the owner (07 R149, R150): the WINDOW subcode, or none where the access is accepted. -/
def State.windowRefusal (s : State) (req : Nat) (l : Loc) (n rights : Nat) : Option Nat :=
  let t := l.tile
  let launch := (s.slotAt req).launch
  if l.sp = .ctx then
    if s.level req = 2 then none
    else if s.windowsClosed t then some 1
    else if (s.tileAt t).launch = some launch ∧ launch ≠ 0 then none
    else some 0
  else if s.windowsClosed t then some 1
  else
    let pass := (List.finRange 4).any fun w =>
      if l.sp = .g then (s.coreAt l.unit).windowPasses w l.off n rights launch req
      else (s.tileAt t).windowPasses w l.sp l.off n rights launch req
    if pass then none else some 0

/-! ## The race checker -/

/-- The checked ranges of a store. -/
def State.rangesOf (s : State) (l : Loc) : List (Nat × Nat) :=
  match l.sp with
  | .g => (s.coreAt l.unit).ranges
  | .a => (s.tileAt l.unit).aRanges
  | .c => (s.tileAt l.unit).cRanges
  | _ => []

/-- Replaces the checked ranges of a store. -/
def State.setRanges (s : State) (l : Loc) (r : List (Nat × Nat)) : State :=
  match l.sp with
  | .g => s.setCore l.unit { s.coreAt l.unit with ranges := r }
  | .a => s.setTile l.unit { s.tileAt l.unit with aRanges := r }
  | .c => s.setTile l.unit { s.tileAt l.unit with cRanges := r }
  | _ => s

/-- The launch that a store's tile is allotted to. -/
def State.ownerLaunch (s : State) (l : Loc) : Nat :=
  if isOrdinary (64 * l.tile) then ((s.tileAt l.tile).launch).getD 0 else (s.slotAt (16 * l.unit)).launch

/-- The full-phase of a granule: of the launch's group in its region, 0 without one (07 R154). -/
def State.fullPhase (s : State) (l : Loc) : Nat :=
  let lc := s.launchAt (s.ownerLaunch l)
  match lc.groups.find? fun g => g.region = regionOf l.tile with
  | some g => g.full.toNat % 2 ^ 24
  | none => 0

/-- The key of a granule's stamp. -/
def granuleKey (l : Loc) : Nat := l.key - l.key % 64

/-- The empty stamp of a phase (07 R153). -/
def emptyStamp (p : Nat) : Word := word (p * 2 ^ 40)

/-- One granule's test (07 R155): the stamp after, or the RACE subcode. -/
def raceStamp (st : Word) (p t : Nat) (wr : Bool) : Except Nat Word :=
  let st := if bits st 63 40 ≠ p then emptyStamp p else st
  if bit st 39 ∧ bits st 31 16 ≠ t then .error (if wr then 1 else 0)
  else if wr then
    if bit st 38 ∧ (bit st 37 ∨ bits st 15 0 ≠ t) then .error 2
    else .ok (setBits (setBits st 39 39 1) 31 16 t)
  else if !bit st 38 then .ok (setBits (setBits st 38 38 1) 15 0 t)
  else if bits st 15 0 ≠ t then .ok (setBits st 37 37 1)
  else .ok st

/-- The granules of n bytes at a location that a range covers. -/
def State.checkedGranules (s : State) (l : Loc) (n : Nat) : List Loc :=
  let rs := s.rangesOf l
  if rs = [] then []
  else
    (((List.range ((l.off % 64 + n + 63) / 64)).map fun i => l.off - l.off % 64 + 64 * i).filter fun g =>
      rs.any fun r => decide (r.1 ≤ g ∧ g < r.1 + r.2)).map fun g => { l with off := g }

/-- Tests granules in order; the first that raises gives the subcode and its offset (07 R155). -/
def State.raceGranules (s : State) (p t : Nat) (wr : Bool) : List Loc → Except (Nat × Nat) State
  | [] => .ok s
  | g :: r =>
    match raceStamp (look (emptyStamp p) s.stamps (granuleKey g)) p t wr with
    | .error sub => .error (sub, g.off)
    | .ok st => ({ s with stamps := put s.stamps (granuleKey g) st } : State).raceGranules p t wr r

/-- The race check of an access of n bytes by slot `who` (07 R155): the state with its stamps, or the subcode and
the offset of the first byte of the first offending granule. Nothing is checked of a launch without the checked mode
(07 R156). -/
def State.raceCheck (s : State) (who : Nat) (l : Loc) (n : Nat) (wr : Bool) : Except (Nat × Nat) State :=
  if !(s.launchOf who).isChecked then .ok s
  else s.raceGranules (s.fullPhase l) (s.slotAt who).logSlot.toNat wr (s.checkedGranules l n)

/-! ## Tags -/

/-- The order in which logical slot numbers rank (20 R347): slots of the launch before pump-class slots. -/
def State.rank (s : State) (n : Nat) : Nat :=
  (if isOrdinary n then 0 else 0x10000) + (s.slotAt n).logSlot.toNat

/-- The slots that wait for a word's tag with one operation. -/
def State.tagWaiters (s : State) (l : Loc) (op : TagOp) : List Nat :=
  (s.slots.filter fun p =>
    match p.2.wait with
    | some (.tagged o _ w _ _) => o = op && w = l
    | _ => false).map (·.1)

/-- The waiter of the lowest logical slot number; of two with one number, from different launches, the one of the lower global
slot number, which the rule does not order (07 R144; DESIGN CHOICE, log 56). -/
def State.firstOf (s : State) : List Nat → Option Nat
  | [] => none
  | n :: r => some (r.foldl (fun a b => if s.rank b < s.rank a then b else a) n)

/-- The register of a tagged wait. -/
def State.waitReg (s : State) (n : Nat) : Reg :=
  match (s.slotAt n).wait with
  | some (.tagged _ r _ _ _) => r
  | _ => 0

/-- The effective address of a tagged wait. -/
def State.waitAddr (s : State) (n : Nat) : Word :=
  match (s.slotAt n).wait with
  | some (.tagged _ _ _ ea _) => ea
  | _ => 0

/-- A waiting LDF or LDE of slot n takes the word, or consumes its poison (13 R266); it issues again after the present cycle. -/
def State.takeWord (s : State) (l : Loc) (n : Nat) : State :=
  if s.poisoned l 8 then s.consume n 0 (s.waitAddr n)
  else (s.setGOf n (s.waitReg n) (word (s.read l 8))).served n 8

/-- Serves the requests that wait on a word after its tag has changed (07 R144); each round completes at least one. -/
def State.serve (s : State) (l : Loc) : Nat → State
  | 0 => s
  | f + 1 =>
    if s.tagFull l then
      let fs := s.tagWaiters l .ldf
      let s := fs.foldl (fun s n => s.takeWord l n) s
      match s.firstOf (s.tagWaiters l .lde) with
      | some n => if s.poisoned l 8 then (s.takeWord l n).serve l f else ((s.takeWord l n).setTag l false).serve l f
      | none => s
    else
      match s.firstOf (s.tagWaiters l .stf) with
      | some n =>
        let s := s.write l 8 (s.gOf n (s.waitReg n)).toNat
        ((s.served n 8).setTag l true).serve l f
      | none => s

/-- Sets a word's tag and serves its waiters. -/
def State.changeTag (s : State) (l : Loc) (full : Bool) : State :=
  let s := s.setTag l full
  s.serve l (s.slots.length + 1)

/-- The place of a tagged request among those that reach a word in one cycle, which are served as if all had waited: LDF before
the others, and each by its logical slot number (07 R144). -/
def State.tagPlace (s : State) (op : TagOp) (n : Nat) : Nat := (if op = .ldf then 0 else 0x20000) + s.rank n

/-- Has the controller taken, in its present cycle, a request on the word that stands after this one (07 R144)? -/
def State.tagLate (s : State) (op : TagOp) (l : Loc) (n : Nat) : Bool :=
  let c := s.coreAt l.unit
  c.tagCycle = s.now (16 * l.unit) && decide (s.tagPlace op n < look 0 c.tagSeen (wordKey l.key))

/-- Notes that the controller takes a request on a word in its present cycle. -/
def State.tagTaken (s : State) (op : TagOp) (l : Loc) (n : Nat) : State :=
  let c := s.coreAt l.unit
  let now := s.now (16 * l.unit)
  s.setCore l.unit
    { c with tagCycle := now, tagSeen := put (if c.tagCycle = now then c.tagSeen else []) (wordKey l.key) (s.tagPlace op n) }

/-- May a tagged operation proceed now (07 R143)? -/
def State.tagReady (s : State) (op : TagOp) (l : Loc) : Bool :=
  match op with
  | .ldf | .lde => s.tagFull l
  | .stf => !s.tagFull l

/-- The waiting tagged operation of an access. -/
def AccessOp.tagOp : AccessOp → Option TagOp
  | .ldf => some .ldf | .lde => some .lde | .stf => some .stf | _ => none

/-! ## The operation at the owner -/

/-- Reads an element for slot n: the CONTEXT space through the register cache (05 R98), any other store as it is. -/
def State.readElem (s : State) (l : Loc) (e : Nat) : Nat :=
  if l.sp = .ctx then s.ctxRead l.unit l.off e else s.read l e

/-- Writes an element for slot n. -/
def State.writeElem (s : State) (n : Nat) (l : Loc) (e x : Nat) : State :=
  (if l.sp = .ctx then s.ctxWrite l.unit l.off e x (s.level n) else s.write l e x).unpoison l e

/-- Element i of an access. -/
def Access.elem (a : Access) (i : Nat) : Loc := { a.loc with off := a.loc.off + i * a.bytes }

/-- Writes the elements of a store in ascending order. -/
def State.storeElems (s : State) (n : Nat) (a : Access) : State :=
  ((List.range a.count).foldl (fun s i => s.writeElem n (a.elem i) a.bytes (a.data.getD i 0).toNat) s).unpoison
    a.loc (a.bytes * a.count)

/-- Sets the tags of consecutive words in ascending order (07 R162). -/
def State.setTags (s : State) (a : Access) (full : Bool) : State :=
  (List.range a.count).foldl (fun s i => s.changeTag (a.elem i) full) s

/-- Does the access read a word, so that poison is consumed (13 R266)? -/
def AccessOp.reads : AccessOp → Bool
  | .store => false
  | _ => true

/-- Performs the access of slot n at its location: the register values it answers, or poison (07 R159 to R164).
LDF, LDE and STF are performed here only where they can proceed. -/
def State.perform (s : State) (n : Nat) (a : Access) : Reply × State :=
  if a.op.reads && s.poisoned a.loc (a.bytes * a.count) then (.poison, s)
  else
    match a.op with
    | .load sg => (.done ((List.range a.count).map fun i => extend sg (8 * a.bytes) (s.readElem (a.elem i) a.bytes)), s)
    | .store => (.done [], s.storeElems n a)
    | .ldf => (.done [word (s.read a.loc 8)], s)
    | .lde => (.done [word (s.read a.loc 8)], s.changeTag a.loc false)
    | .stf | .stff => (.done [], (s.write a.loc 8 (s.gOf n a.reg).toNat).changeTag a.loc true)
    | .tagq => (.done [if s.tagFull a.loc then 1 else 0], s)
    | .tagset full => (.done [], s.setTags a full)
    | .amo op =>
      let w := widthOfBytes a.bytes
      let old := word (s.read a.loc a.bytes)
      (.done [sextBits w.bits old.toNat], s.write a.loc a.bytes (aopValue op w old (a.data.getD 0 0)))
    | .cas x =>
      let w := widthOfBytes a.bytes
      let old := s.read a.loc a.bytes
      (.done [sextBits w.bits old],
        if old = uval w x then s.write a.loc a.bytes (a.data.getD 0 0).toNat else s)

/-- Writes the values of a reply to the registers from the access's on. -/
def State.putReply (s : State) (n : Nat) (r : Reg) (vals : List Word) : State :=
  (List.range vals.length).foldl (fun s i => s.setGOf n (regPlus r i) (vals.getD i 0)) s

/-- Is the access race-checked (07 R156)? -/
def AccessOp.checked : AccessOp → Bool
  | .load _ | .store => true
  | _ => false

/-- The turns a TAGSET forfeits (07 R162). -/
def AccessOp.stallOf (op : AccessOp) (count : Nat) : Nat :=
  match op with
  | .tagset _ => ceilDiv (count - 64) 64
  | _ => 0

/-- The UNCORR subcode of a poisoned location (13 R267); a CONTEXT word is one of a register line (05 R98; DEDUCED, log 29). -/
def poisonSub (sp : SP) : Nat :=
  match sp with
  | .g => 0
  | .ctx => 2
  | _ => 1

/-- Withdraws a tagged wait and raises WAITLIMIT at it (07 R147). -/
def State.waitExpire (s : State) (n : Nat) (op : TagOp) (ea : Word) : State :=
  let sub := match op with | .ldf => 0 | .lde => 1 | .stf => 2
  s.raisePaired n 0x0D sub ea none

/-- Has a count of rotation edges passed slot n's LIMIT (07 R146, R147)? -/
def State.pastLimit (s : State) (n edges : Nat) : Bool :=
  let lim := bits (s.img n).waitlim 31 0
  lim ≠ 0 && decide (lim < edges)

/-- The tagged wait of slot n that has expired: its operation and effective address (07 R147; 15 R280). -/
def State.expiredWait (s : State) (n : Nat) : Option (TagOp × Word) :=
  match (s.slotAt n).wait with
  | some (.expired op ea) => some (op, ea)
  | some (.tagged op _ _ ea edges) => if s.pastLimit n edges then some (op, ea) else none
  | some (.globalOut a edges) =>
    match a.op.tagOp with
    | some op => if s.pastLimit n edges then some (op, a.ea) else none
    | none => none
  | _ => none

/-- The tagged wait of slot n that has expired and whose request is withdrawn (07 R147). -/
def State.withdrawnWait (s : State) (n : Nat) : Option (TagOp × Word) :=
  match (s.slotAt n).wait with
  | some (.expired op ea) => some (op, ea)
  | _ => none

/-- The withdrawn wait of slot n raises WAITLIMIT at its turn (07 R147; 15 R280). -/
def State.checkWaitLimit (s : State) (n : Nat) : State :=
  match s.withdrawnWait n with
  | some (op, ea) => if s.turnDue n then (s.openTurn n).waitExpire n op ea else s
  | none => s

/-- The expired request of slot n is withdrawn: from the end of the cycle of its expiry on it can no longer proceed (07 R147). -/
def State.withdrawExpired (s : State) (n : Nat) : State :=
  match s.expiredWait n with
  | some (op, ea) => s.block n (.expired op ea)
  | none => s

end Sys2Proof.Machine
end

