-- ==== Sys2Proof/Machine/Slots.lean ====
section
/-! DEFINITION. Slot control and the region work queue, opcodes 0x3A, 0x3B, 0x51, 0x52 and 0x6B to 0x6F
(04 R82 to R93), and the steps that start a slot and return a spilled record. -/
namespace Sys2Proof.Machine
open Sys2Proof

/-- Timing(): does it trap with SEALED here (03 R423, 13 R252)? -/
def State.sealedHere (s : State) : Bool := s.isSealed s.cur && s.level s.cur = 0
/-- The SEALED trap (13 R277). -/
def State.trapSealed (s : State) : State := s.trap 0x07 0 0
/-- Writes a status to g[D] and retires the instruction; it completes a wait where there was one. -/
def State.answer (s : State) (d : Reg) (x : Word) : State := (s.setG d x).finish 8
/-- Writes a status to g[D] and retires a blocking instruction, whose completion is a progress point (04 R81). -/
def State.answerBlocking (s : State) (d : Reg) (x : Word) : State := (s.setG d x).finishBlocking 8

/-- The logical number of a sibling slot: as R79 on an ordinary core, 16p + s on a pump-class core
(20 R348). -/
def State.logicalOf (s : State) (n : Nat) : BitVec 16 :=
  if isOrdinary n then .ofNat 16 ((s.tileAt (tileOf n)).logTile * 64 + n % 64) else .ofNat 16 (n - 0x10000)

/-- The matrix binding of a tile is held by some slot other than n (04 R78). -/
def State.matrixHeld (s : State) (n : Nat) : Bool :=
  (List.range 64).any fun k =>
    let m := 64 * tileOf n + k
    m ≠ n && (s.slotAt m).state ≠ .free && (s.slotAt m).engine = .matrix

/-- BindingAllowed (04 R78). -/
def State.bindingAllowed (s : State) (n : Nat) (e : Engine) : Bool :=
  if isOrdinary n then
    match e with
    | .vector => decide (n % 4 = coreOf n % 4)
    | .matrix => !s.matrixHeld n
    | _ => true
  else e = .scalar || e = .copy

/-- A pump-class slot that a thread has started acts for the thread's launch (20 R348). -/
def State.noteBegun (s : State) (l n : Nat) : State :=
  if isOrdinary n || l = 0 || decide (n ∈ (s.launchAt l).pumpSlots) then s
  else s.setLaunch l { s.launchAt l with begun := (s.launchAt l).begun ++ [n] }

/-- TSTART (04 R85). The first issue falls two full rotations after the rotation of the issue. -/
def execTstart (e : Engine) (d a b c : Reg) (s : State) : Out :=
  issue (.tstart e d a b c) s fun s =>
    let x := s.g a
    let pc := s.g b
    let n := s.cur + x.toNat
    if x.toNat < 1 ∨ 15 < x.toNat ∨ bits pc 1 0 ≠ 0 then s.answer d (neg 3)
    else if (s.slotAt n).state ≠ .free ∨ s.imageTaken n (slotIdx n) then s.answer d (neg 1)
    else if !s.bindingAllowed n e then s.answer d (neg 2)
    else
      let arg := s.g c
      let log := s.logicalOf n
      let edge := s.now s.cur - s.now s.cur % 16
      let l := (s.slotAt s.cur).launch
      let t := s.setSlot n { s.slotAt n with launch := l, logSlot := log }
      ((t.startSlot n e pc (word log.toNat) arg (edge + 48 + x.toNat)).noteBegun l n).answer d 0

/-- The started slot reaches its first turn (04 R85): from here on it takes its turns like any other. -/
def State.firstTurn (s : State) (n : Nat) : State :=
  let sl := s.slotAt n
  if sl.state = .live ∧ sl.turnFrom ≤ s.now n then s.setSlot n { sl with starting := false } else s

/-- SLOT_START (04 R85). -/
def execSlotStart (slot : Nat) (s : State) : Out := .next (s.firstTurn slot)

/-- TSTOP (04 R86): the sibling stops at its boundary, which is at once unless an access or a copy chunk of it or of its partner is on
its way, or a capture or a resumption is under way; TSTOP waits until then. -/
def execTstop (d a : Reg) (s : State) : Out :=
  issue (.tstop d a) s fun s =>
    let x := s.g a
    let n := s.cur + x.toNat
    if x.toNat < 1 ∨ 15 < x.toNat then s.answer d (neg 3)
    else if (s.slotAt n).state ≠ .live then s.answer d 1
    else if s.sealedHere then s.trapSealed
    else if s.stopHeld n then
      (s.setSlot n { s.slotAt n with stopDue := true }).block s.cur (.tstop d n)
    else (s.stopSlot n).answer d 0

/-- Frees a slot that TREAP has reclaimed. -/
def State.freeSlot (s : State) (n : Nat) : State := s.setSlot n { s.slotAt n with state := .free }

/-- The state of a slot as TREAP finds it: HALT is a release of the thread's accesses to the TREAP that returns 0, so that one with
accesses still to be performed counts as LIVE (08 R172). -/
def State.reapState (s : State) (n : Nat) : SlotState :=
  let st := (s.slotAt n).state
  if st = .halted && s.outstanding n then .live else st

/-- TREAP (04 R87). -/
def execTreap (nowait : Bool) (d a : Reg) (s : State) : Out :=
  issue (.treap nowait d a) s fun s =>
    let x := s.g a
    let n := s.cur + x.toNat
    let two (s : State) (st v : Word) : State :=
      let s := (s.setG d st).setG (regPlus d 1) v
      if nowait then s.finish 8 else s.finishBlocking 8
    if x.toNat < 1 ∨ 15 < x.toNat then two s (neg 3) 0
    else
      let s := if (s.slotAt n).state = .halted then s.landOwn n else s
      match s.reapState n with
      | .live =>
        if nowait then (if s.sealedHere then s.trapSealed else two s (neg 1) 0) else s.block s.cur .poll
      | .halted => two (s.freeSlot n) 0 (s.slotAt n).exitVal
      | .stopped => two (s.freeSlot n) 1 0
      | .parked => two s 2 0
      | .free => two s (neg 2) 0

/-- The code of an engine in TSTAT and TSELF (04 R78). -/
def engineCode : Engine → Nat
  | .scalar => 0 | .vector => 1 | .matrix => 2 | .copy => 3

/-- STATE as TSTAT shows it: 2 where a stop is requested or made (04 R88). -/
def Slot.stateCode (x : Slot) : Nat :=
  match x.state with
  | .free => 0 | .stopped => 2 | _ => if x.stopDue then 2 else 1

/-- What TSTAT returns for a slot (04 R88). A slot of a pair that has ended keeps PAIRED until it is started again or PAIR ends
the pairing: the spec names no other end of a pair (DESIGN CHOICE, log 53). -/
def State.tstatOf (s : State) (n : Nat) : Word :=
  let sl := s.slotAt n
  word (sl.starts.toNat * 2 ^ 32 + (if (s.partner n).isSome then 128 else 0) + (if sl.bound then 64 else 0)
    + engineCode sl.engine * 16 + sl.stateCode)

/-- TSTAT (04 R88). -/
def execTstat (d a : Reg) (s : State) : Out :=
  issue (.tstat d a) s fun s =>
    let x := s.g a
    let v := if x.toNat < 1 ∨ 15 < x.toNat then neg 1 else s.tstatOf (s.cur + x.toNat)
    (s.setG d v).retire 8

/-- What TSELF reads (04 R89; pump-class slots 20 R348). -/
def State.selfValue (s : State) (f : SelfForm) : Word :=
  match f with
  | .log => word (s.slotAt s.cur).logSlot.toNat
  | .bind =>
    word (engineCode (s.slotAt s.cur).engine + 4 * (if isOrdinary s.cur then coreOf s.cur % 4 else 0)
      + 16 * slotIdx s.cur)
  | .phys => word s.cur

/-- TSELF (04 R89). -/
def execTself (f : SelfForm) (d : Reg) (s : State) : Out :=
  issue (.tself f d) s fun s => (s.setG d (s.selfValue f)).retire 8

/-- HALT (04 R91). -/
def execHalt (a : Reg) (s : State) : Out :=
  issue (.halt a) s fun s => s.haltSlot s.cur (s.g a)

/-! ## Work queue -/

/-- The region of a slot; a pump-class core lies in none, and gets a number of its own beyond them. -/
def ownRegion (n : Nat) : Nat := if isOrdinary n then regionOf (tileOf n) else 64 + coreOf n

/-- A launch's share of a region (04 R82). -/
def State.shareAt (s : State) (r l : Nat) : Share := look {} (s.regionAt r).shares l
/-- Replaces a share. -/
def State.setShare (s : State) (r l : Nat) (x : Share) : State :=
  s.setRegion r { s.regionAt r with shares := put (s.regionAt r).shares l x }

/-- Terminated: closed, with records and spillway consumed (04 R83). -/
def Share.terminated (x : Share) : Bool := x.closed && x.recs = [] && x.spilled = []

/-- A share that no record can enter directly: full, or with earlier records in the spillway (04 R82, R83). -/
def Share.isFull (x : Share) : Bool := x.size ≤ x.recs.length || x.spilled ≠ []

/-- Takes the oldest record of a share. -/
def State.takeRecord (s : State) (r l : Nat) : Option (List Word × State) :=
  let x := s.shareAt r l
  match x.recs with
  | [] => none
  | w :: rest => if (s.regionAt r).withheld then none else some (w, s.setShare r l { x with recs := rest })

/-- Gives the issuing slot a record in the registers from r on. A record that came back from the spillway with poisoned words
has their mask as its fifth word, and those registers are poisoned (13 R266; DESIGN CHOICE, log 60). -/
def State.giveRecord (s : State) (r : Reg) (w : List Word) : State :=
  (List.range 4).foldl (fun s k =>
    let s := s.setG (regPlus r k) (w.getD k 0)
    if bit (w.getD 4 0) k then s.taintG s.cur (regPlus r k) else s) s

/-- WQPOP (04 R92). -/
def execWqpop (nowait : Bool) (d : Reg) (s : State) : Out :=
  issue (.wqpop nowait d) s fun s =>
    let r := ownRegion s.cur
    let l := (s.slotAt s.cur).launch
    let answer (s : State) (x : Word) : State := if nowait then s.answer d x else s.answerBlocking d x
    if (s.shareAt r l).terminated then answer s 1
    else
      match s.takeRecord r l with
      | some (w, s) =>
        answer (s.giveRecord (regPlus d 1) w) 0
      | none => if nowait then s.answer d (neg 1) else s.block s.cur .poll

/-- The spillway entries of a launch in use, over its regions. -/
def State.spillUsed (s : State) (l : Nat) : List Nat := s.regions.flatMap fun r => (look {} r.2.shares l).spilled
/-- The entries of a launch's spillway (04 R64). -/
def Launch.spillEntries (l : Launch) : Nat := if l.record.spill = 0 then 0 else l.record.spillsize / 32

/-- The spillway entry that the next spilled record takes: the first free one from the ring's position on
(DEDUCED, log 20). -/
def State.spillSlot (s : State) (l : Nat) : Option Nat :=
  let lc := s.launchAt l
  let used := s.spillUsed l
  ((List.range (used.length + 1)).map fun k => (lc.spillNext + k) % (max 1 lc.spillEntries)).find? fun e =>
    decide (e < lc.spillEntries) && !decide (e ∈ used)

/-- The partition address of a spillway entry. -/
def Launch.spillAddr (l : Launch) (e : Nat) : Nat := l.record.spill + 32 * e

/-- The physical address of a spillway entry: an aperture address of this module is the module's own memory (23 R411). -/
def State.ringPa (s : State) (pa : Nat) : Nat := (s.localPa pa).getD pa
/-- Writes a record to physical memory. -/
def State.putRecord (s : State) (pa : Nat) (w : List Word) : State :=
  (List.range 4).foldl (fun s k => s.physWrite (s.ringPa pa + 8 * k) 8 (w.getD k 0).toNat) s
/-- The mask of the words of a record in physical memory that read as poisoned (13 R266; 20 R351). -/
def State.badRecord (s : State) (pa : Nat) : Nat :=
  (List.range 4).foldl (fun m k => if s.physPoisoned (s.ringPa pa + 8 * k) 8 then m + 2 ^ k else m) 0
/-- Reads a record from physical memory, with the mask of its poisoned words where it has some. -/
def State.getRecord (s : State) (pa : Nat) : List Word :=
  (List.range 4).map (fun k => word (s.physRead (s.ringPa pa + 8 * k) 8))
  ++ if s.badRecord pa = 0 then [] else [word (s.badRecord pa)]

/-- Accept, with the page and the ring's room decided (04 R93): the state after and the status. -/
def State.pushRecord (s : State) (r l : Nat) (w : List Word) : State × Word :=
  let x := s.shareAt r l
  let lc := s.launchAt l
  if x.closed then (s, neg 3)
  else if !x.isFull then (s.setShare r l { x with recs := x.recs ++ [w] }, 0)
  else
    match (if r < 64 then s.spillSlot l else none) with
    | none => (s, neg 1)
    | some e =>
      match s.translate lc.part (lc.spillAddr e) .w with
      | .error sub => (s.report lc.part ⟨s.cur, sub * 256 + 0x0C, word (lc.spillAddr e), 0⟩, neg 2)
      | .ok pa =>
        let s := s.putRecord pa w
        let s := s.setLaunch l { lc with spillNext := e + 1 }
        (s.setShare r l { x with spilled := x.spilled ++ [e] }, 0)

/-- WQPUSH (04 R93). -/
def execWqpush (far close : Bool) (d a b : Reg) (s : State) : Out :=
  issue (.wqpush far close d a b) s fun s =>
    let l := (s.slotAt s.cur).launch
    let lt := (s.g b).toNat
    if far && s.tilesOf s.cur ≤ lt then s.answer d (neg 4)
    else
      let r := if far then regionOf (s.placeOf s.cur lt) else ownRegion s.cur
      if close then
        let x := s.shareAt r l
        if x.closed then s.answer d (neg 3) else (s.setShare r l { x with closed := true }).answer d 0
      else
        let w := (List.range 4).map fun k => s.g (regPlus a k)
        let res := s.pushRecord r l w
        res.1.answer d res.2

/-- SPILLWAY_RETURN (04 R83): the oldest spilled record of a share comes back when an entry is free. A record
whose page is no longer mapped stays where it is. -/
def execSpillwayReturn (region launch : Nat) (s : State) : Out :=
  .next <|
    let x := s.shareAt region launch
    let lc := s.launchAt launch
    match x.spilled with
    | [] => s
    | e :: rest =>
      if x.size ≤ x.recs.length then s
      else
        match s.translate lc.part (lc.spillAddr e) .r with
        | .error _ => s
        | .ok pa => s.setShare region launch { x with recs := x.recs ++ [s.getRecord pa], spilled := rest }

end Sys2Proof.Machine
end

