-- ==== Sys2Proof/Machine/Memory.lean ====
section
/-! DEFINITION. Loads, stores, tagged accesses, atomics and race marking, opcodes 0x40 to 0x4B and 0x4D
(07 R157 to R166), FENCE (08 R184 to R186), and the steps of an access on its way (07 R138, R147, R149;
09 R197). -/
namespace Sys2Proof.Machine
open Sys2Proof

/-- An access by alias, performed at issue (07 R138, R139 step 7). A store through CONTEXT to the thread's own loop stack at a loop's END is
performed before the store's own end test, which then counts the written COUNT: the spec does not order the two (05 R98; DESIGN
CHOICE, log 85). -/
def State.aliasAccess (s : State) (a : Access) : State :=
  let n := s.cur
  match (if a.op.checked then s.raceCheck n a.loc (a.bytes * a.count) (a.op = .store) else .ok s) with
  | .error (sub, off) => s.raiseHere 0x0E sub (a.ea - word a.loc.off + word off) 8
  | .ok s =>
    match a.op.tagOp with
    | some op =>
      if s.poisoned a.loc 8 then s.consume n 0 a.ea
      else if s.tagReady op a.loc then
        let r := (s.tagTaken op a.loc n).perform n a
        match r.1 with
        | .done vals => (r.2.putReply n a.reg vals).retire 8
        | _ => s
      else s.block n (.tagged op a.reg a.loc a.ea 0)
    | none =>
      let r := s.perform n a
      match r.1 with
      | .done vals => ((r.2.putReply n a.reg vals).retire 8).stall n (a.op.stallOf a.count)
      | _ => s.consume n (poisonSub a.loc.sp) a.ea

/-- An access of the issuing slot: by alias at once, by GLOBAL out of the rotation until the owner's reply
(07 R138). -/
def State.access (s : State) (sp : SP) (a : Access) : State :=
  if sp = .glob then s.block s.cur (.globalOut a 0) else s.aliasAccess a

/-- Resolves and makes an access: `al` is its alignment. -/
def State.memory (s : State) (k : MemKind) (sp : SP) (ea : Word) (op : AccessOp) (bytes count : Nat) (reg : Reg)
    (data : List Word) : State :=
  match s.resolve k sp ea (bytes * count) bytes with
  | .error (c, sub) => s.trap c sub ea
  | .ok l => s.access sp ⟨op, bytes, count, reg, data, ea, l⟩

/-! ## Counted stores -/

/-- Grid position of a logical tile in its block (09 R195). -/
def gridPos (t : Nat) : Nat × Nat :=
  let u := t % 16
  let q := u / 4
  let j := u % 4
  (2 * (q % 2) + j % 2, 2 * (q / 2) + j / 2)

/-- The hop count between two logical tiles (09 R195). -/
def hops (a b : Nat) : Nat :=
  let p := gridPos a
  let q := gridPos b
  (max p.1 q.1 - min p.1 q.1) + (max p.2 q.2 - min p.2 q.2)

/-- The cycle V at which a counted store issued now becomes visible, where a counted window promises it
(09 R196, R197). -/
def State.countedDue (s : State) (l : Loc) : Option Nat :=
  match s.membership s.cur with
  | none => none
  | some (lid, g, i) =>
    if !(s.launchAt lid).isLevel then none
    else
      match g.edges.getD i none with
      | none => none
      | some e =>
        let c := s.now s.cur
        let v := c + 20 + 4 * hops (s.tileAt (tileOf s.cur)).logTile (s.tileAt l.tile).logTile
        if e ≤ c ∧ c ≤ e + 4095 ∧ v ≤ e + 4095 then some v else none

/-- The number of matrix instructions that slot n has issued on its tile (08 R177). -/
def State.matrixIssued (s : State) (n : Nat) : Nat :=
  if isOrdinary n ∧ (s.slotAt n).engine = .matrix then
    let u := (s.tileAt (tileOf n)).mx
    u.done + u.queue.length
  else 0

/-- A counted store (09 R197): it leaves on the culvert, and the thread goes on. One to a G store's offsets from 0x7_0000, the context
area of 05 R95, is taken as one to plain bytes that no context image shows: 09 R197 lets it go to the G store and 07 R139
bounds it at the whole store, and neither says what it does there (DESIGN CHOICE, log 66). -/
def State.countedStore (s : State) (w : Width) (d : Reg) (ea : Word) : State :=
  let e := w.bits / 8
  match s.resolve .counted .glob ea e e with
  | .error (c, sub) => s.trap c sub ea
  | .ok l =>
    let x : Counted :=
      { slot := s.cur, cls := 6, tile := tileOf s.cur, due := s.countedDue l, loc := l, data := leBytes e (s.g d).toNat
        counted := true, mx := s.matrixIssued s.cur }
    ({ s with culvert := s.culvert ++ [x] } : State).retire 8

/-- May entry `index` be performed now: its cycle is reached, and nothing that it must follow is outstanding? -/
def State.mayLand (s : State) (index : Nat) (x : Counted) : Bool :=
  s.countedReady x && !(s.culvert.take index).any x.follows

/-- Performs entry `index` where that may be. -/
def State.landAt (s : State) (index : Nat) : State :=
  match s.culvert[index]? with
  | some x => if s.mayLand index x then ({ s with culvert := s.culvert.eraseIdx index } : State).land x else s
  | none => s

/-- COUNTED_STORE_VISIBLE (09 R197): entry `index` of the culvert becomes visible. -/
def execCountedStoreVisible (index : Nat) (s : State) : Out :=
  .next (if (s.culvert[index]?).any fun x => x.counted then s.landAt index else s)

/-- Is a store one whose promised cycle on a tile has come (09 R197)? -/
def State.dueNow (s : State) (t : Nat) (x : Counted) : Bool :=
  x.tile = t && match x.due with
    | some v => decide (v ≤ (s.tileAt t).cycle)
    | none => false

/-- The outstanding stores, those marked that are due on a tile now, and what their threads issued before them (08 R177; 09 R197). -/
def State.dueMarks (s : State) (t : Nat) : List (Counted × Bool) :=
  s.culvert.foldr (fun x acc => (x, s.dueNow t x || acc.any fun y => y.2 && y.1.slot = x.slot) :: acc) []

/-- Every counted store of a tile that is due at its present cycle lands, and before it what its thread issued earlier, but for an
earlier one whose own promised cycle is still to come: each is visible exactly at its V (09 R197), and by the cycle in which one
that has met the later can issue again the earlier is visible too (08 R177; DEDUCED, log 61). -/
def State.landDue (s : State) (t : Nat) : State :=
  if s.culvert = [] then s else s.landMarked s.countedReady (s.dueNow t) (s.dueMarks t)

/-! ## The instructions -/

/-- The source values of a store, read at issue. -/
def State.sources (s : State) (d : Reg) (n : Nat) : List Word := (List.range n).map fun i => s.g (regPlus d i)

/-- LD (07 R159). -/
def execLd (w : Width) (sg : Bool) (o : Ord) (sp : SP) (d : Reg) (m : Addr) (s : State) : Out :=
  issue (.ld w sg o sp d m) s fun s => s.memory .plain sp (s.effAddr m) (.load sg) (w.bits / 8) 1 d []

/-- ST (07 R159; counted 09 R197). -/
def execSt (w : Width) (o : Ord) (sp : SP) (d : Reg) (m : Addr) (s : State) : Out :=
  issue (.st w o sp d m) s fun s =>
    if o = .counted then s.countedStore w d (s.effAddr m)
    else s.memory .plain sp (s.effAddr m) .store (w.bits / 8) 1 d (s.sources d 1)

/-- LDM (07 R159). -/
def execLdm (w : Width) (sg : Bool) (o : Ord) (sp : SP) (d : Reg) (m : Addr) (s : State) : Out :=
  issue (.ldm w sg o sp d m) s fun s => s.memory .plain sp (s.effAddr m) (.load sg) (w.bits / 8) 4 d []

/-- STM (07 R159). -/
def execStm (w : Width) (o : Ord) (sp : SP) (d : Reg) (m : Addr) (s : State) : Out :=
  issue (.stm w o sp d m) s fun s =>
    s.memory .plain sp (s.effAddr m) .store (w.bits / 8) 4 d (s.sources d 4)

/-- LDF (07 R160). -/
def execLdf (sp : SP) (d : Reg) (m : Addr) (s : State) : Out :=
  issue (.ldf sp d m) s fun s => s.memory .tagged sp (s.effAddr m) .ldf 8 1 d []

/-- LDE (07 R160). -/
def execLde (sp : SP) (d : Reg) (m : Addr) (s : State) : Out :=
  issue (.lde sp d m) s fun s => s.memory .tagged sp (s.effAddr m) .lde 8 1 d []

/-- STF (07 R160). -/
def execStf (sp : SP) (d : Reg) (m : Addr) (s : State) : Out :=
  issue (.stf sp d m) s fun s => s.memory .tagged sp (s.effAddr m) .stf 8 1 d []

/-- STFF (07 R160). -/
def execStff (sp : SP) (d : Reg) (m : Addr) (s : State) : Out :=
  issue (.stff sp d m) s fun s => s.memory .tagged sp (s.effAddr m) .stff 8 1 d []

/-- TAGQ (07 R161). -/
def execTagq (sp : SP) (d : Reg) (m : Addr) (s : State) : Out :=
  issue (.tagq sp d m) s fun s => s.memory .tagged sp (s.effAddr m) .tagq 8 1 d []

/-- TAGSET (07 R162). -/
def execTagset (sp : SP) (d : Reg) (m : Addr) (s : State) : Out :=
  issue (.tagset sp d m) s fun s =>
    let c := bits (s.g d) 62 0
    if c = 0 then s.retire 8
    else s.memory .tagged sp (s.effAddr m) (.tagset (bit (s.g d) 63)) 8 c d []

/-- AMO (07 R163). -/
def execAmo (w : Width) (o : Ord) (op : Aop) (sp : SP) (d a b : Reg) (off : BitVec 24) (s : State) : Out :=
  issue (.amo w o op sp d a b off) s fun s =>
    s.memory .atomic sp (s.effAddrAB a off) (.amo op) (w.bits / 8) 1 d [s.g b]

/-- CAS (07 R164). -/
def execCas (w : Width) (o : Ord) (sp : SP) (d a b : Reg) (off : BitVec 24) (s : State) : Out :=
  issue (.cas w o sp d a b off) s fun s =>
    s.memory .atomic sp (s.effAddrAB a off) (.cas (s.g d)) (w.bits / 8) 1 d [s.g b]

/-- Notes which launch's threads have marked the ranges of a G store, so that the launch's completion frees them (07 R153). -/
def State.noteMarks (s : State) (l : Loc) (f : List (Nat × (Nat × Nat)) → List (Nat × (Nat × Nat))) : State :=
  if l.sp = .g then s.setCore l.unit { s.coreAt l.unit with marks := f (s.coreAt l.unit).marks } else s

/-- RACEM's clearing of the ranges that lie wholly inside a range (07 R153). -/
def State.clearRanges (s : State) (l : Loc) (n : Nat) : State :=
  let out (r : Nat × Nat) : Bool := !decide (l.off ≤ r.1 ∧ r.1 + r.2 ≤ l.off + n)
  (s.setRanges l ((s.rangesOf l).filter out)).noteMarks l fun m => m.filter fun p => out p.2

/-- RACEM's marking of a range (07 R153): a free entry is taken, and the stamps of its granules become empty. -/
def State.markRange (s : State) (l : Loc) (n : Nat) : State :=
  let s := (s.setRanges l (s.rangesOf l ++ [(l.off, n)])).noteMarks l fun m => m ++ [((s.slotAt s.cur).launch, (l.off, n))]
  let lo := l.key
  { s with stamps := s.stamps.filter fun p => p.1 < lo || lo + n ≤ p.1 }

/-- RACEM (07 R165). With n = 0 at an address beyond the space no byte lies outside it; ADDR of Resolve still comes before ALIGN, which the
spec leaves open (DESIGN CHOICE, log 86). -/
def execRacem (sp : SP) (d : Reg) (m : Addr) (s : State) : Out :=
  issue (.racem sp d m) s fun s =>
    let x := s.effAddr m
    let n := bits (s.g d) 62 0
    match s.resolve .race sp x n 1 with
    | .error (c, sub) => s.trap c sub x
    | .ok l =>
      if bits x 5 0 ≠ 0 ∨ n % 64 ≠ 0 ∨ n = 0 then s.trap 0x08 0x01 x
      else if !(s.launchOf s.cur).isChecked then s.retire 8
      else if bit (s.g d) 63 then
        (s.clearRanges l n).retire 8
      else if 4 ≤ (s.rangesOf l).length then s.trap 0x09 0x08 x
      else (s.markRange l n).retire 8

/-! ## FENCE -/

/-- Must a FENCE of some classes still wait (08 R185; 19 R333)? Every other access of the model's threads is
performed, accepted or arrived when its instruction retires, or stands in the culvert (DESIGN CHOICE, log 5). -/
def State.fenceWaits (s : State) (classes : BitVec 8) : Bool :=
  (classes.getLsbD 3 && s.matrixBusy s.cur)
  || s.culvert.any fun x => x.slot = s.cur && classes.getLsbD x.cls

/-- FENCE (08 R185). -/
def execFence (classes : BitVec 8) (scope : Scope) (s : State) : Out :=
  issue (.fence classes scope) s fun s =>
    if s.fenceWaits classes then s.block s.cur .poll else s.finish 8

/-! ## Accesses on their way -/

/-- May a store by the GLOBAL route be accepted before it is performed (07 R138, R141; 08 R176)? It is a plain store of a thread
that posts its stores, outside a pair and while no word is poisoned (DESIGN CHOICE, log 5). -/
def State.postsGlobal (s : State) (n : Nat) (a : Access) : Bool :=
  a.op = .store && (s.slotAt n).posting && (s.partner n).isNone && s.poison = [] && a.loc.sp ≠ .ctx

/-- The entries of a store that the owner's controller has accepted. -/
def State.globalEntries (_ : State) (n : Nat) (a : Access) : List Counted :=
  (List.range a.count).map fun i =>
    { slot := n, cls := 6, tile := tileOf n, loc := a.elem i, data := leBytes a.bytes (a.data.getD i 0).toNat }

/-- The owner's controller serialises its requests: the stores that it has accepted are performed before a later request is served
at one of their words (07 R138). -/
def State.landAccepted (s : State) (l : Loc) (n : Nat) : State :=
  if s.culvert = [] then s
  else s.landAll fun x => x.cls = 6 && !x.counted && decide (wordKey x.loc.key ∈ wordsTouched l.key n)

/-- A GLOBAL access of slot n reaches its owner's controller (07 R138, R149, R155): it is refused, raises RACE, meets
poison, waits for the word's tag, or is performed. `edges` are those counted on its way. -/
def State.ownerServes (s : State) (n : Nat) (a : Access) (edges : Nat) : State :=
  match s.windowRefusal n a.loc (a.bytes * a.count) a.op.rights with
  | some sub => s.block n (.globalIn a (.window sub))
  | none =>
    let s := s.landAccepted a.loc (a.bytes * a.count)
    match (if a.op.checked then s.raceCheck n a.loc (a.bytes * a.count) (a.op = .store) else .ok s) with
    | .error (sub, off) => s.block n (.globalIn a (.race sub (a.ea - word a.loc.off + word off)))
    | .ok s =>
      match a.op.tagOp with
      | some op =>
        if s.poisoned a.loc 8 then s.block n (.globalIn a .poison)
        else if s.tagReady op a.loc then
          let r := (s.tagTaken op a.loc n).perform n a
          r.2.block n (.globalIn a r.1)
        else s.block n (.tagged op a.reg a.loc a.ea edges)
      | none =>
        let r := s.perform n a
        if s.postsGlobal n a then
          ({ r.2 with mem := s.mem, culvert := s.culvert ++ s.globalEntries n a } : State).block n (.globalIn a r.1)
        else r.2.block n (.globalIn a r.1)

/-- Does a request stand before one that the owner has taken in this cycle, so that it cannot arrive in it (07 R144)? -/
def State.requestLate (s : State) (n : Nat) (a : Access) : Bool :=
  match a.op.tagOp with
  | some op => s.tagLate op a.loc n
  | none => false

/-- GLOBAL_REQUEST (07 R149): the request arrives, unless it is withdrawn (07 R147) or stands before one taken in the cycle. A stop
that its thread has been asked for takes place where it now waits (04 R86). -/
def execGlobalRequest (slot : Nat) (s : State) : Out :=
  .next <|
    match (s.slotAt slot).wait with
    | some (.globalOut a edges) => if s.requestLate slot a then s else (s.ownerServes slot a edges).takeStop slot
    | _ => s

/-- The owner's reply reaches slot n (07 R138). -/
def State.replyArrives (s : State) (n : Nat) (a : Access) (r : Reply) : State :=
  match r with
  | .done vals => ((s.putReply n a.reg vals).complete n 8).stall n (a.op.stallOf a.count)
  | .window sub => s.takeTrap n 0x0A sub a.ea false
  | .race sub v => s.raisePaired n 0x0E sub v (some 8)
  | .poison => s.consume n (poisonSub a.loc.sp) a.ea

/-- GLOBAL_REPLY (07 R138); a stop that the thread has been asked for takes place after it (04 R86). -/
def execGlobalReply (slot : Nat) (s : State) : Out :=
  .next <|
    match (s.slotAt slot).wait with
    | some (.globalIn a r) => (s.replyArrives slot a r).takeStop slot
    | _ => s

/-- WAITLIMIT (07 R147; 15 R280): raised at the thread's turn, once its request is withdrawn: in the cycle of the expiry itself the
request may still proceed. A pair's leader raises it in its own turn (13 R268). -/
def execWaitlimit (slot : Nat) (s : State) : Out := .next (if (s.partner slot).isSome then s else s.checkWaitLimit slot)

/-- A rotation edge passes for the tagged request of a slot, on its way or at the controller (07 R147). -/
def State.countEdge (s : State) (n : Nat) : State :=
  match (s.slotAt n).wait with
  | some (.tagged op r l ea e) => s.block n (.tagged op r l ea (e + 1))
  | some (.globalOut a e) => s.block n (.globalOut a (e + 1))
  | _ => s

end Sys2Proof.Machine
end

