-- ==== Sys2Proof/Machine/Messages.lean ====
section
/-! DEFINITION. Messages, arms, the ready queue, semaphores and mailboxes, opcodes 0x62 to 0x6A (11 R208 to R227;
20 R347 to R349; 23 R410), and the acceptance of a message. -/
namespace Sys2Proof.Machine
open Sys2Proof

/-! ## Names -/

/-- Is a value a sender name for slot n (11 R210; 23 R410)? -/
def State.isSenderName (s : State) (n : Nat) (x : Word) : Bool :=
  if bit x 63 then bits x 62 27 = 0
  else bits x 62 17 = 0
    && (if bit x 16 then decide (bits x 15 0 < 4864) else decide (bits x 15 0 < 64 * s.tilesOf n))

/-- The name of slot n as a sender on this module (11 R210; 20 R347). -/
def State.nameOf (s : State) (n : Nat) : Word :=
  if isOrdinary n then word (s.slotAt n).logSlot.toNat else word (0x10000 + (n - 0x10000))

/-- The name of slot n as a sender over the fabric (23 R410). -/
def State.fabricName (s : State) (n : Nat) : Word := word (2 ^ 63 + s.crest.self * 2 ^ 17) ||| s.nameOf n

/-- A pump-class core acts for some launch of a partition (20 R349). -/
def State.pumpActsFor (s : State) (p part : Nat) : Bool :=
  (List.range 16).any fun k =>
    let sl := s.slotAt (0x10000 + 16 * p + k)
    sl.launch ≠ 0 && (s.launchAt sl.launch).part = part

/-- A logical core of a launch. -/
def Launch.coreOf (l : Launch) (x : Nat) : Option Nat :=
  if x / 4 < l.record.tiles then some (4 * l.place.getD (x / 4) 0 + x % 4) else none

/-- The slots of every launch of a partition, as those that may receive a message. -/
def partReach (part : Nat) : Nat := 0x10000 + part

/-- Where a destination stands: a core of this module, with the launch whose slots may receive there (0 where those of every
launch may, and `partReach` where those of a partition's launches may); a core of a launch that is switched out; or another module. -/
inductive Target
  | core (c launch : Nat)
  | out
  | away
deriving DecidableEq, Repr

/-- Is a partition of this module linked with a partition of a module (23 R410)? A partition is linked with itself (DEDUCED,
log 59). -/
def State.isLinked (s : State) (own fid part : Nat) : Bool :=
  decide ((own, fid, part) ∈ s.linked) || (fid = s.crest.self && own = part)

/-- A core of a launch of this module as a destination of messages of a partition of a module (23 R410); none where the launch
does not run, is not linked or has no such core. -/
def State.launchTarget (s : State) (l core fid part : Nat) : Option Target :=
  let lc := s.launchAt l
  if !s.isLinked lc.part fid part || l = 0 then none
  else
    match lc.phase with
    | .running => (lc.coreOf core).map fun c => .core c l
    | .saved => if core / 4 < lc.record.tiles then some .out else none
    | _ => none

/-- FarDestination (20 R349; 23 R410): none where the value names no destination. At a pump-class core a pump-class slot's message is for
every launch of its partition there, since a receiver names such a sender without a launch; a thread's is for its own launch,
since [16] = 0 of a sender name is 'a thread of the launch' (11 R210; DEDUCED, log 89). Bits [59:58] of a destination of another module's port
core, which R410 does not list, must be zero (DESIGN CHOICE, log 68). -/
def State.farDestination (s : State) (n : Nat) (x : Word) : Option Target :=
  let part := (s.launchOf n).part
  match bits x 63 60 with
  | 2 =>
    if bits x 59 9 = 0 ∧ bits x 8 0 < 304 ∧ s.pumpActsFor (bits x 8 0) part then
      some (.core (4096 + bits x 8 0) (if isOrdinary n then (s.slotAt n).launch else partReach part))
    else none
  | 3 =>
    if bits x 59 58 ≠ 0 ∨ bits x 31 12 ≠ 0 then none
    else if bits x 57 48 = s.crest.self then s.launchTarget (bits x 47 32) (bits x 11 0) s.crest.self part
    else some .away
  | 4 =>
    if bits x 59 58 ≠ 0 ∨ bits x 47 9 ≠ 0 ∨ 304 ≤ bits x 8 0 then none
    else if bits x 57 48 = s.crest.self then
      if s.pumpActsFor (bits x 8 0) part then some (.core (4096 + bits x 8 0) 0) else none
    else some .away
  | _ => none

/-- The destination that a SEND of slot n names (11 R210, R220; 20 R349; 23 R410). -/
def State.destination (s : State) (n : Nat) (far : Bool) (x : Word) : Option Target :=
  if far then s.farDestination n x
  else if bits x 63 12 ≠ 0 then none
  else ((s.launchOf n).coreOf x.toNat).map fun c => .core c (s.slotAt n).launch

/-- The channel of slot n to a destination, by one name of the destination's core: two names of one core are one channel
(11 R208, R210). -/
def State.channelOf (s : State) (n : Nat) (far : Bool) (x : Word) : Word :=
  if !far then x
  else if bits x 63 60 = 3 ∧ bits x 57 48 = s.crest.self ∧ bits x 47 32 = (s.slotAt n).launch then word (bits x 11 0)
  else if bits x 63 60 = 4 ∧ bits x 57 48 = s.crest.self then word (2 * 2 ^ 60 + bits x 8 0)
  else x

/-! ## The ready queue -/

/-- The slots of a core. -/
def coreSlots (c : Nat) : List Nat := (List.range 16).map (16 * c + ·)

/-- The highest non-empty priority of a core's ready queue, and its oldest entry. -/
def Core.readyHead (c : Core) : Option (Fin 4 × Word) :=
  (List.finRange 4).findSome? fun p => c.ready[p].head?.map fun x => (p, x.2)

/-- Removes the oldest entry of a priority. -/
def Core.readyTake (c : Core) (p : Fin 4) : Core := { c with ready := c.ready.set p (c.ready[p].drop 1) }

/-- Appends an entry of a launch at a priority. -/
def Core.readyPush (c : Core) (l : Nat) (p : Fin 4) (x : Word) : Core := { c with ready := c.ready.set p (c.ready[p] ++ [(l, x)]) }

/-- Makes the held arm pushes for which there is room, in ascending arm index (11 R213, R214). -/
def Core.pushHeld (c : Core) : Core :=
  (List.range 16).foldl (fun c i =>
    match c.arms.find? fun a => a.1 = i && a.2.held with
    | some (_, a) =>
      if c.ready[a.pri].length < 16 then
        { c.readyPush a.launch a.pri a.value with arms := c.arms.filter fun b => b.1 ≠ i }
      else c
    | none => c) c

/-- The slots of a core that wait in RQPOP since an earlier cycle: an entry that is pushed in the cycle in which an RQPOP issues is not
taken by it (14 R278). -/
def State.popWaiters (s : State) (c : Nat) : List Nat :=
  (coreSlots c).filter fun n => match (s.slotAt n).wait with | some (.rqpop _ since) => decide (since < s.now n) | _ => false

/-- Gives slot n an entry of the ready queue. -/
def State.giveEntry (s : State) (n : Nat) (d : Reg) (p : Fin 4) (x : Word) : State :=
  (s.setGOf n d (word p.val)).setGOf n (regPlus d 1) x

/-- Serves the slots that wait in RQPOP while there are entries (11 R214). -/
def State.serveReady (s : State) (c : Nat) : Nat → State
  | 0 => s
  | f + 1 =>
    match s.firstOf (s.popWaiters c), (s.coreAt c).readyHead with
    | some n, some (p, x) =>
      let d : Reg := match (s.slotAt n).wait with | some (.rqpop d _) => d | _ => 0
      let s := s.setCore c ((s.coreAt c).readyTake p).pushHeld
      ((s.giveEntry n d p x).served n 8).serveReady c f
    | _, _ => s

/-- Serves RQPOP for every slot of a core. -/
def State.serveQueue (s : State) (c : Nat) : State := s.serveReady c 32

/-- RQPUSH (11 R223). -/
def execRqpush (pri : Fin 4) (nowait : Bool) (d a : Reg) (s : State) : Out :=
  issue (.rqpush pri nowait d a) s fun s =>
    let c := s.coreAt (coreOf s.cur)
    let x := s.g a
    if 16 ≤ c.ready[pri].length then
      if nowait then (s.setG d (neg 1)).retire 8 else s.trap 0x1C pri.val x
    else
      let s := s.setCore (coreOf s.cur) (c.readyPush (s.slotAt s.cur).launch pri x)
      ((s.setG d 0).retire 8).serveQueue (coreOf s.cur)

/-- RQPOP (11 R224). An RQPOP.try that takes an entry is a progress point, as the RQPOP that takes one at once is, and one that answers -1
is none: 11 R209 speaks of the blocking instructions only (DESIGN CHOICE, log 78). -/
def execRqpop (nowait : Bool) (d : Reg) (s : State) : Out :=
  issue (.rqpop nowait d) s fun s =>
    let c := s.coreAt (coreOf s.cur)
    match c.readyHead with
    | some (p, x) =>
      let s := s.setCore (coreOf s.cur) (c.readyTake p).pushHeld
      (s.giveEntry s.cur d p x).complete s.cur 8
    | none => if nowait then (s.setG d (neg 1)).retire 8 else s.block s.cur (.rqpop d (s.now s.cur))

/-! ## Arms -/

/-- May slots of launch `l` receive a message for the slots of launch `dst` (0: of every launch; or those of a partition) (11 R210; 20
R349)? -/
def State.reaches (s : State) (dst l : Nat) : Bool :=
  dst = 0 || dst = l || (l ≠ 0 && dst = partReach (s.launchAt l).part)

/-- The oldest arm, not held, that a message of a sender for the slots of a launch fires (11 R213); an arm of a launch that is switched
out waits for its restore (R218). -/
def State.armFor (s : State) (core launch : Nat) (sender : Word) : Option (Nat × Arm) :=
  (s.coreAt core).arms.find? fun a => a.2.sender = sender && s.reaches launch a.2.launch && !a.2.held
    && (s.launchAt a.2.launch).phase ≠ .saved

/-- Fires an arm: its value is pushed, or held where its priority is full (11 R213). -/
def Core.fireArm (c : Core) (i : Nat) (a : Arm) : Core :=
  if c.ready[a.pri].length < 16 then
    { c.readyPush a.launch a.pri a.value with arms := c.arms.filter fun b => b.1 ≠ i }
  else { c with arms := c.arms.map fun b => if b.1 = i then (i, { a with held := true }) else b }

/-- The free arm entry that RARM takes: the lowest. The spec says only 'a free entry', whose index then orders its pushes (11 R213,
R214; DESIGN CHOICE, log 67). -/
def Core.freeArm (c : Core) : Option Nat := (List.range 16).find? fun i => !(c.arms.any fun a => a.1 = i)

/-- Is a message one of a channel that slots of launch `l` receive under a sender name? -/
def State.isOf (s : State) (m : Msg) (l : Nat) (sender : Word) : Bool := m.sender = sender && s.reaches m.launch l

/-- Marks the oldest of the messages that a test selects as one that has fired an arm. -/
def markFired (p : Msg → Bool) : List Msg → List Msg
  | [] => []
  | m :: r => if p m then { m with fired := true } :: r else m :: markFired p r

/-- RARM (11 R222). -/
def execRarm (pri : Fin 4) (d a b : Reg) (s : State) : Out :=
  issue (.rarm pri d a b) s fun s =>
    let c := s.coreAt (coreOf s.cur)
    let who := s.g a
    let v := s.g b
    let l := (s.slotAt s.cur).launch
    if !s.isSenderName s.cur who then s.trap 0x23 0x02 who
    else
      match c.freeArm with
      | none => (s.setG d (neg 1)).retire 8
      | some i =>
        let fits (m : Msg) : Bool := s.isOf m l who && !m.fired
        if c.rx.any fits then
          let c := { c with rx := markFired fits c.rx }
          let c := if c.ready[pri].length < 16 then c.readyPush l pri v
            else { c with arms := c.arms ++ [(i, ⟨l, who, v, pri, true⟩)] }
          (((s.setCore (coreOf s.cur) c).setG d 1).retire 8).serveQueue (coreOf s.cur)
        else
          ((s.setCore (coreOf s.cur) { c with arms := c.arms ++ [(i, ⟨l, who, v, pri, false⟩)] }).setG d 0).retire 8

/-! ## Sending and receiving -/

/-- The next sequence number of a slot's channel to a destination, by the channel's name (11 R208, R210). -/
def State.seqOf (s : State) (n : Nat) (dst : Word) : BitVec 16 :=
  match (s.coreAt (coreOf n)).seqs.find? fun p => p.1 = (n, dst) with
  | some p => p.2
  | none => 0

/-- Moves a channel's sequence number on. -/
def State.bumpSeq (s : State) (n : Nat) (dst : Word) : State :=
  let c := s.coreAt (coreOf n)
  s.setCore (coreOf n)
    { c with seqs := (c.seqs.filter fun p => p.1 ≠ (n, dst)) ++ [((n, dst), s.seqOf n dst + 1)] }

/-- SEND (11 R220). -/
def execSend (count : Fin 4) (far : Bool) (a b : Reg) (s : State) : Out :=
  issue (.send count far a b) s fun s =>
    let x := s.g b
    match s.destination s.cur far x with
    | none => s.trap 0x23 0x00 x
    | some _ =>
      let pay := (List.range (count.val + 1)).map fun i => s.g (regPlus a i)
      s.block s.cur (.send ⟨x, far, far && bits x 63 60 ≠ 2, pay⟩)

/-- The slots of a core that wait in RECV for a sender's message to the slots of a launch. -/
def State.recvWaiters (s : State) (c launch : Nat) (sender : Word) : List Nat :=
  (coreSlots c).filter fun n =>
    s.reaches launch (s.slotAt n).launch && match (s.slotAt n).wait with | some (.recv w _) => w = sender | _ => false

/-- The sequence number that a fabric channel expects next. -/
def Core.expected (c : Core) (m : Msg) : BitVec 16 :=
  match c.expect.find? fun p => p.1 = (m.launch, m.sender) with | some p => p.2 | none => 0

/-- Is a fabric message out of its channel's sequence (11 R221; 23 R410)? Messages that loop back on this module are accepted
in the order of their sending. -/
def State.outOfSequence (s : State) (c : Core) (m : Msg) : Bool :=
  bit m.sender 63 && bits m.sender 26 17 ≠ s.crest.self && c.expected m ≠ m.seq

/-- Removes a message, noting the sequence of a fabric channel. -/
def Core.dropMsg (c : Core) (m : Msg) : Core :=
  { c with
    rx := c.rx.eraseP fun x => x = m
    expect := if bit m.sender 63 then
        (c.expect.filter fun p => p.1 ≠ (m.launch, m.sender)) ++ [((m.launch, m.sender), m.seq + 1)]
      else c.expect }

/-- Writes a message's header and payload (11 R221). -/
def State.putMsg (s : State) (n : Nat) (d : Reg) (m : Msg) : State :=
  (List.range 4).foldl (fun s i => s.setGOf n (regPlus d (i + 1)) (m.payload.getD i 0))
    (s.setGOf n d (word (m.seq.toNat * 2 ^ 16 + m.payload.length)))

/-- Gives slot n the message that its RECV names (11 R221). -/
def State.deliverMsg (s : State) (n : Nat) (d : Reg) (m : Msg) : State :=
  let c := s.coreAt (coreOf n)
  if s.outOfSequence c m then s.takeTrap n 0x23 0x01 m.sender false
  else ((s.setCore (coreOf n) (c.dropMsg m)).putMsg n d m).complete n 8

/-- RECV (11 R221). A RECV.try that takes a message is a progress point, as the RECV that takes one at once is, and one that answers -1 is
none: 11 R209 speaks of the blocking instructions only (DESIGN CHOICE, log 78). -/
def execRecv (nowait : Bool) (d a : Reg) (s : State) : Out :=
  issue (.recv nowait d a) s fun s =>
    let who := s.g a
    if !s.isSenderName s.cur who then s.trap 0x23 0x02 who
    else
      match (s.coreAt (coreOf s.cur)).rx.find? fun m => s.isOf m (s.slotAt s.cur).launch who with
      | some m => s.deliverMsg s.cur d m
      | none => if nowait then (s.setG d (neg 1)).retire 8 else s.block s.cur (.recv who d)

/-- Shared entries of a receive buffer in use (11 R211). -/
def Core.sharedUsed (c : Core) : Nat := c.rx.countP fun m => m.seat.isNone

/-- The entry that takes a message at a core (11 R211): a shared one, or the free reserve entry of a slot that waits for it, of several
the one of the lowest logical slot number; none where there is none. -/
def State.seatFor (s : State) (core launch : Nat) (sender : Word) : Option (Option Nat) :=
  let c := s.coreAt core
  if c.sharedUsed < 48 then some none
  else (s.firstOf ((s.recvWaiters core launch sender).filter fun n => !c.rx.any fun m => m.seat = some n)).map some

/-- Would the arm that a message fires stand before one that has fired in the core's present cycle, so that the message cannot
be accepted in it (11 R214)? -/
def State.armLate (s : State) (core launch : Nat) (sender : Word) : Bool :=
  let c := s.coreAt core
  match s.armFor core launch sender with
  | some (i, _) => c.armCycle = s.now (16 * core) && decide (i + 1 < c.armSeen)
  | none => false

/-- Gives the buffered messages of a channel, the oldest first, to the slots that wait for them, the lowest logical slot number
first (11 R212); one that a slot finds out of sequence stays buffered. -/
def State.serveRecv (s : State) (core launch : Nat) (sender : Word) : Nat → State
  | 0 => s
  | f + 1 =>
    match s.firstOf (s.recvWaiters core launch sender) with
    | none => s
    | some n =>
      match (s.slotAt n).wait, (s.coreAt core).rx.find? (fun m => s.isOf m (s.slotAt n).launch sender) with
      | some (.recv _ d), some m => ((s.awake n).deliverMsg n d m).serveRecv core launch sender f
      | _, _ => s

/-- Puts a message for the slots of a launch into the entry of a core's buffer that takes it: the arm it fires, and the RECV that takes
it (11 R211 to R213). -/
def State.enterMsg (s : State) (core launch : Nat) (sender : Word) (seq : BitVec 16) (payload : List Word) (seat : Option Nat) : State :=
  let c := s.coreAt core
  let m : Msg := ⟨launch, sender, seq, payload, (s.armFor core launch sender).isSome, seat⟩
  let c := match s.armFor core launch sender with
    | some (i, a) => { c.fireArm i a with armCycle := s.now (16 * core), armSeen := i + 1 }
    | none => c
  ((s.setCore core { c with rx := c.rx ++ [m] }).serveQueue core).serveRecv core launch sender 16

/-- Accepts a message for the slots of a launch at a core (11 R211 to R214); none where it cannot be accepted now. -/
def State.acceptMsg (s : State) (core launch : Nat) (sender : Word) (seq : BitVec 16) (payload : List Word) : Option State :=
  (if s.armLate core launch sender then none else s.seatFor core launch sender).map (s.enterMsg core launch sender seq payload)

/-- The arms of launch `l` that the buffered messages of a core fire, by index, and the messages with those marked: each message that has
fired none fires the oldest arm for its sender (11 R213). -/
def State.lateArms (s : State) (c : Core) (l : Nat) : List Nat × List Msg :=
  c.rx.foldl (fun r m =>
    match (if m.fired then none else c.arms.find? fun a =>
      a.2.sender = m.sender && a.2.launch = l && s.reaches m.launch l && !a.2.held && !decide (a.1 ∈ r.1)) with
    | some (i, _) => (r.1 ++ [i], r.2 ++ [{ m with fired := true }])
    | none => (r.1, r.2 ++ [m])) ([], [])

/-- The arms of a launch whose messages came while it was switched out fire, in ascending arm index (11 R214, R218). -/
def State.fireLate (s : State) (l core : Nat) : State :=
  let c := s.coreAt core
  let p := s.lateArms c l
  s.setCore core ((List.range 16).foldl (fun c i =>
    match c.arms.find? fun a => a.1 = i && decide (i ∈ p.1) with
    | some (_, a) => c.fireArm i a
    | none => c) { c with rx := p.2 })

/-- A SEND of slot n that waits is accepted at its destination as it stands now, if it can be (11 R211, R220); where its
destination is none any more, it traps (23 R410). A message to another module is accepted, refused or lost with its link as
`remote` says (23 R410, R411). -/
def State.sendAccepted (s : State) (n : Nat) (m : Outgoing) (remote : Remote) : State :=
  let ch := s.channelOf n m.far m.dst
  match s.destination n m.far m.dst with
  | none => s.takeTrap n 0x23 0x00 m.dst false
  | some .out => s
  | some (.core c l) =>
    match s.acceptMsg c l (if m.fabric then s.fabricName n else s.nameOf n) (s.seqOf n ch) m.payload with
    | some s => (s.bumpSeq n ch).served n 8
    | none => s
  | some .away =>
    match remote with
    | .data _ => (s.bumpSeq n ch).served n 8
    | .refused => s.takeTrap n 0x23 0x00 m.dst false
    | .linkDown => s.takeTrap n 0x23 0x04 m.dst false

/-- MESSAGE_ACCEPT (11 R211). -/
def execMessageAccept (slot : Nat) (remote : Remote) (s : State) : Out :=
  .next <|
    match (s.slotAt slot).wait with
    | some (.send m) => s.sendAccepted slot m remote
    | _ => s

/-! ## Semaphores -/

/-- The slots of a tile that wait in SEMW on a semaphore. -/
def State.semWaiters (s : State) (t : Nat) (k : Fin 16) : List Nat :=
  ((List.range 64).map (64 * t + ·)).filter fun n =>
    match (s.slotAt n).wait with | some (.semw j) => j = k | _ => false

/-- Sets a semaphore's count. -/
def State.setSem (s : State) (t : Nat) (k : Fin 16) (x : BitVec 8) : State :=
  s.setTile t { s.tileAt t with sems := (s.tileAt t).sems.set k x }

/-- Serves the waiting SEMWs while the count is not zero (11 R216). -/
def State.serveSem (s : State) (t : Nat) (k : Fin 16) : Nat → State
  | 0 => s
  | f + 1 =>
    let x := (s.tileAt t).sems[k]
    match s.firstOf (s.semWaiters t k) with
    | some n => if x = 0 then s else ((s.setSem t k (x - 1)).served n 8).serveSem t k f
    | none => s

/-- Adds to a semaphore and serves its waiters; none where the count would pass 255 (11 R216). -/
def State.addSem (s : State) (t : Nat) (k : Fin 16) (n : Nat) : Option State :=
  let x := (s.tileAt t).sems[k].toNat
  if 255 < x + n then none else some ((s.setSem t k (.ofNat 8 (x + n))).serveSem t k 64)

/-- SEMV (11 R225). -/
def execSemv (sem : Fin 16) (n : BitVec 8) (s : State) : Out :=
  issue (.semv sem n) s fun s =>
    if !isOrdinary s.cur then s.trap 0x23 0x05 (word sem.val)
    else
      let t := tileOf s.cur
      match s.addSem t sem n.toNat with
      | none => s.trap 0x1B 0x00 (word (sem.val + 256 * (s.tileAt t).sems[sem].toNat + 65536 * n.toNat))
      | some s => s.retire 8

/-- SEMW (11 R225). -/
def execSemw (sem : Fin 16) (s : State) : Out :=
  issue (.semw sem) s fun s =>
    if !isOrdinary s.cur then s.trap 0x23 0x05 (word sem.val)
    else
      let t := tileOf s.cur
      let x := (s.tileAt t).sems[sem]
      if x = 0 then s.block s.cur (.semw sem) else (s.setSem t sem (x - 1)).complete s.cur 8

/-! ## Mailboxes -/

/-- MBX (11 R226). -/
def execMbx (d : Reg) (w : Fin 8) (s : State) : Out :=
  issue (.mbx d w) s fun s => (s.setG d (s.coreAt (coreOf s.cur)).mailbox[w]).retire 8

/-- MBXW (11 R226). -/
def execMbxw (a b : Reg) (w : Fin 8) (s : State) : Out :=
  issue (.mbxw a b w) s fun s =>
    let x := s.g a
    match (if bits x 63 12 ≠ 0 then none else (s.launchOf s.cur).coreOf x.toNat) with
    | none => s.trap 0x23 0x00 x
    | some c =>
      if !isOrdinary s.cur ∨ regionOf (c / 4) ≠ regionOf (tileOf s.cur) then s.trap 0x23 0x03 x
      else (s.setCore c { s.coreAt c with mailbox := (s.coreAt c).mailbox.set w (s.g b) }).retire 8

end Sys2Proof.Machine
end

