-- ==== Sys2Proof/Machine/Copies.lean ====
section
/-! DEFINITION. Copies, opcodes 0xD0 to 0xD5, and pump-class DRAM access, 0x4E to 0x50 (20 R356 to R370): requests,
chunks, page faults, completion and cancellation, TLBI and XLAT, and the DRAM's own steps. -/
namespace Sys2Proof.Machine
open Sys2Proof

/-! ## Requests -/

/-- STRSEL bit 0: the source is strided (20 R357). -/
def Copy.srcStrided (c : Copy) : Bool := bit c.w2 40
/-- STRSEL bit 1: the destination is strided. -/
def Copy.dstStrided (c : Copy) : Bool := bit c.w2 41
/-- RBYTES. -/
def Copy.rbytes (c : Copy) : Nat := bits c.w2 39 16
/-- ROWS. -/
def Copy.rows (c : Copy) : Nat := bits c.w2 15 0
/-- The stride of the source: RBYTES where it is not strided. -/
def Copy.sstride (c : Copy) : Nat := if c.srcStrided then bits c.w3 39 16 else c.rbytes
/-- The stride of the destination. -/
def Copy.dstride (c : Copy) : Nat := if c.dstStrided then bits c.w3 63 40 else c.rbytes
/-- HANDLE. -/
def Copy.handle (c : Copy) : Bool := bit c.w3 8
/-- SEM. -/
def Copy.sem (c : Copy) : Fin 16 := Fin.ofNat 16 (bits c.w3 7 4)
/-- SIG. -/
def Copy.sig (c : Copy) : Bool := bit c.w3 3
/-- TAGFULL. -/
def Copy.tagfull (c : Copy) : Bool := bit c.w3 2
/-- Every row is done. -/
def Copy.moved (c : Copy) : Bool := c.rows ≤ c.rowsDone

/-- A side of a copy: a DRAM partition address, or a location of a local store (20 R357). -/
inductive Side
  | dram (va : Nat)
  | loc (l : Loc)
deriving DecidableEq, Repr

/-- Is a value a DRAM partition address (20 R352)? -/
def isDramAddr (x : Word) : Bool := bits x 63 57 = 0

/-- Step 2 of 20 R358 for one address. -/
def State.sideAtIssue (s : State) (x : Word) : Except (Nat × Nat) Side :=
  if isDramAddr x then .ok (.dram x.toNat)
  else match s.globalLoc x with
    | .error e => .error e
    | .ok l => .ok (.loc l)

/-- The side of a copy in flight, by the placement of its launch (05 R113). -/
def State.sideOf (s : State) (launch : Nat) (x : Word) : Side :=
  if isDramAddr x then .dram x.toNat
  else
    let t := if bits x 63 60 = 8 then bits x 59 50 else (s.launchAt launch).place.getD (bits x 59 50) 0
    let sp := spOfCode (bits x 47 44)
    .loc ⟨sp, if sp = .g ∨ sp = .ctx then 4 * t + bits x 49 48 else t, bits x 43 0⟩

/-- Step 1 of 20 R358: the first word that is malformed. -/
def Copy.badWord (c : Copy) : Option Nat :=
  if bits c.w2 63 42 ≠ 0 ∨ c.rows = 0 ∨ c.rbytes = 0 then some 2
  else if bits c.w3 15 9 ≠ 0 ∨ (if c.srcStrided then bits c.w3 39 16 < c.rbytes else bits c.w3 39 16 ≠ 0)
      ∨ (if c.dstStrided then bits c.w3 63 40 < c.rbytes else bits c.w3 63 40 ≠ 0) then some 3
  else none

/-- Does some row of a side pass its space (20 R358 step 5)? -/
def Side.overruns (x : Side) (rows stride rbytes : Nat) : Bool :=
  match x with
  | .dram _ => false
  | .loc l => spSize l.sp < l.off + (rows - 1) * stride + rbytes

/-- Is a side in DRAM? -/
def Side.isDram : Side → Bool
  | .dram _ => true
  | .loc _ => false

/-- Steps 4 to 6 of 20 R358 on the two sides: cause, subcode and TVAL. -/
def Copy.sideFault (c : Copy) (src dst : Side) : Option (Nat × Nat × Word) :=
  let inW : Bool := match src with | .loc l => l.sp = .w | _ => false
  let tagOk : Bool := match dst with
    | .loc l => l.sp = .g && (l.off + (c.rows - 1) * c.dstride + c.rbytes) % 8 = 0
    | .dram _ => false
  if inW then some (0x09, 0x01, c.w0)
  else if src.overruns c.rows c.sstride c.rbytes then some (0x09, 0x24, c.w0)
  else if dst.overruns c.rows c.dstride c.rbytes then some (0x09, 0x24, c.w1)
  else if c.tagfull && !tagOk then some (0x22, 0x00, 3)
  else if c.sig && dst.isDram then some (0x22, 0x00, 3)
  else none

/-- The checks of CPY at issue (20 R358): cause, subcode and TVAL of the first that fails. -/
def State.copyFault (s : State) (c : Copy) : Option (Nat × Nat × Word) :=
  match c.badWord with
  | some k => some (0x22, 0x00, word k)
  | none =>
    match s.sideAtIssue c.w0, s.sideAtIssue c.w1 with
    | .error (k, sub), _ => some (k, sub, c.w0)
    | .ok _, .error (k, sub) => some (k, sub, c.w1)
    | .ok src, .ok dst =>
      if isOrdinary s.cur && src.isDram then some (0x0B, 0x01, c.w0)
      else if isOrdinary s.cur && dst.isDram then some (0x0B, 0x01, c.w1)
      else c.sideFault src dst

/-- The request that g[D] to g[D+3] hold. -/
def State.copyRequest (s : State) (d : Reg) : Copy :=
  let w3 := s.g (regPlus d 3)
  { w0 := s.g d, w1 := s.g (regPlus d 1), w2 := s.g (regPlus d 2), w3 := w3, id := 0, ch := Fin.ofNat 4 (bits w3 1 0)
    slot := s.cur, launch := (s.slotAt s.cur).launch, level := s.level s.cur }

/-- A copy of slot n that is accepted reads nothing before the outstanding stores at or before the slot's last release are performed
(08 R178). -/
def State.followStores (s : State) (n : Nat) (ch : Fin 4) (id : Nat) : State :=
  if s.culvert = [] then s
  else { s with culvert := (s.beforeRelease n).map fun x => if x.2 then { x.1 with copies := x.1.copies ++ [(ch, id)] } else x.1 }

/-- Accepts a copy (20 R364): its id, and its handle where it has one. -/
def State.acceptCopy (s : State) (d : Reg) (c : Copy) : State :=
  let core := s.coreAt (coreOf s.cur)
  let x := core.chans[c.ch]
  let s := s.followStores s.cur c.ch x.nextId
  let s := s.setCore (coreOf s.cur)
    { core with
      chans := core.chans.set c.ch { x with nextId := x.nextId + 1 }
      fifo := core.fifo ++ [{ c with id := x.nextId }] }
  let s := s.setG d (word x.nextId)
  if c.handle then s.setG (regPlus d 1) (word (c.ch.val * 2 ^ 62 + x.nextId)) else s

/-- CPY (20 R364). -/
def execCpy (nowait : Bool) (d : Reg) (s : State) : Out :=
  issue (.cpy nowait d) s fun s =>
    let c := s.copyRequest d
    match s.copyFault c with
    | some (k, sub, v) => s.trap k sub v
    | none =>
      if 16 ≤ (s.coreAt (coreOf s.cur)).fifo.length then
        if nowait then s.answer d (neg 1) else s.block s.cur .poll
      else (s.acceptCopy d c).finish 8

/-- CPYW (20 R365). -/
def execCpyw (scope : Scope) (ch : Fin 4) (a : Reg) (s : State) : Out :=
  issue (.cpyw scope ch a) s fun s =>
    let core := s.coreAt (coreOf s.cur)
    let x := core.chans[ch]
    let n := (s.g a).toNat
    if x.nextId ≤ n then s.trap 0x22 0x02 (s.g a)
    else if n < core.completedOf ch then s.finishBlocking 8
    else if chanFailed x ∧ bits x.error 55 0 ≤ n then s.trap 0x22 0x01 x.error
    else s.block s.cur .poll

/-- CPYQ (20 R366). -/
def execCpyq (err : Bool) (ch : Fin 4) (d : Reg) (s : State) : Out :=
  issue (.cpyq err ch d) s fun s =>
    let core := s.coreAt (coreOf s.cur)
    (s.setG d (if err then core.chans[ch].error else word (core.completedOf ch))).retire 8

/-- Asks the engine to stop some copies of a channel (08 R181): they make no further write. -/
def State.stopCopies (s : State) (core : Nat) (ch : Fin 4) (ids : List Nat) : State :=
  let c := s.coreAt core
  s.setCore core
    { c with fifo := c.fifo.map fun x => if x.ch = ch ∧ x.id ∈ ids then { x with stopping := true } else x }

/-- CPYX (20 R367). -/
def execCpyx (f : CpyxForm) (d a : Reg) (s : State) : Out :=
  issue (.cpyx f d a) s fun s =>
    let n := coreOf s.cur
    let core := s.coreAt n
    match f with
    | .handle =>
      let h := s.g a
      let ch : Fin 4 := Fin.ofNat 4 (bits h 63 62)
      let id := bits h 55 0
      if bits h 61 56 ≠ 0 ∨ id = 0 ∨ core.chans[ch].nextId ≤ id then s.trap 0x22 0x03 h
      else
        match core.fifo.find? fun x => x.ch = ch && x.id = id with
        | none => s.answer d 1
        | some c =>
          if !c.handle then s.answer d (neg 2)
          else (s.stopCopies n ch [id]).block s.cur (.cpyx d ch false [id])
    | .reset ch =>
      let ids := (core.fifo.filter fun x => x.ch = ch).map (·.id)
      if ids = [] then
        (s.setCore n { core with chans := core.chans.set ch { core.chans[ch] with error := 0 } }).answer d 0
      else (s.stopCopies n ch ids).block s.cur (.cpyx d ch true ids)

/-- Drops the pending PAGE of a copy (20 R367). -/
def State.dropPage (s : State) (c : Copy) : State :=
  match c.fault with
  | some (_, va) =>
    let sl := s.slotAt c.slot
    s.setSlot c.slot { sl with pending := sl.pending.filter fun p => !(p.cause = 0x0C && p.val = va) }
  | none => s

/-- Cancels some copies of a channel (20 R367). -/
def State.cancelIds (s : State) (core : Nat) (ch : Fin 4) (ids : List Nat) : State :=
  ids.foldl (fun s id =>
    match (s.coreAt core).fifo.find? fun x => x.ch = ch && x.id = id with
    | some c => let s := s.dropPage c; s.setCore core ((s.coreAt core).cancelCopy ch id)
    | none => s) s

/-- Is a copy of a core stopped for a CPYX that a slot of the core waits in? -/
def State.stopAwaited (s : State) (core : Nat) (c : Copy) : Bool :=
  (coreSlots core).any fun n =>
    match (s.slotAt n).wait with
    | some (.cpyx _ ch _ ids) => c.ch = ch && decide (c.id ∈ ids)
    | _ => false

/-- The engine acknowledges the stopped copies of a core whose CPYX waits no more, because its thread was stopped or parked: they are
cancelled as well (08 R181; 20 R367; DEDUCED, log 84). -/
def State.cancelOrphans (s : State) (core : Nat) : State :=
  ((s.coreAt core).fifo.filter fun c => c.stopping && !s.stopAwaited core c).foldl (fun s c => s.cancelIds core c.ch [c.id]) s

/-- COPY_CANCEL_ACK (08 R181; 20 R367): the stopped copies are gone, and CPYX completes, where the slot still waits in it. -/
def execCopyCancelAck (slot : Nat) (s : State) : Out :=
  .next <|
    let s := s.cancelOrphans (coreOf slot)
    match (s.slotAt slot).wait with
    | some (.cpyx d ch reset ids) =>
      let n := coreOf slot
      let s := s.cancelIds n ch ids
      let c := s.coreAt n
      if reset then
        ((s.setCore n { c with chans := c.chans.set ch { c.chans[ch] with error := 0 } }).setGOf slot d
          (word ids.length)).complete slot 8
      else (s.setGOf slot d 0).complete slot 8
    | _ => s

/-! ## The engine -/

/-- The copy that a channel runs: its lowest id in flight (20 R359). -/
def Core.running (c : Core) (ch : Fin 4) : Option Copy :=
  let id := c.completedOf ch
  c.fifo.find? fun x => x.ch = ch && x.id = id

/-- Replaces a copy in flight. -/
def State.setCopy (s : State) (core : Nat) (x : Copy) : State :=
  let c := s.coreAt core
  s.setCore core { c with fifo := c.fifo.map fun y => if y.ch = x.ch ∧ y.id = x.id then x else y }

/-- Has the failure of a page fault been dealt with, so that the copy resumes (20 R360): the trap was given, and its
handler has returned? -/
def State.faultReturned (s : State) (c : Copy) : Bool :=
  let sl := s.slotAt c.slot
  c.told && sl.state = .live && sl.hold.isNone && !(sl.pending.any fun p => p.cause = 0x0C)
    && !bit (s.img c.slot).tstatus 4

/-- May the engine work on a copy now? It waits for the stores that its reads follow (08 R178). -/
def State.copyGoes (s : State) (core : Nat) (c : Copy) : Bool :=
  !c.stopping && !chanFailed (s.coreAt core).chans[c.ch]
  && !s.culvert.any (fun x => x.slot = c.slot && decide ((c.ch, c.id) ∈ x.copies))
  && (c.launch = 0 || decide ((s.launchAt c.launch).phase = .running))
  && (c.fault.isNone || s.faultReturned c)

/-- The address of a side at a row and byte. -/
def Side.at_ (x : Side) (d : Nat) : Side :=
  match x with
  | .dram va => .dram (va + d)
  | .loc l => .loc { l with off := l.off + d }

/-- How far a side lets a chunk go: to the next 4 KiB boundary of DRAM (20 R359). -/
def Side.room : Side → Nat
  | .dram va => 4096 - va % 4096
  | .loc _ => 4096

/-- The address of a side by which its 64-bit words are told apart. -/
def Side.low : Side → Nat
  | .dram va => va
  | .loc l => l.off

/-! ## What one step of a copy moves (08 R176; 20 R359) -/

/-- A part of one chunk: its row, its first byte in the row, and its length. -/
structure Piece where
  row : Nat
  col : Nat
  len : Nat
deriving DecidableEq, Repr

/-- The source of a copy at a row and byte of it. -/
def Copy.srcAt (c : Copy) (src : Side) (row col : Nat) : Side := src.at_ (row * c.sstride + col)
/-- The destination at a row and byte. -/
def Copy.dstAt (c : Copy) (dst : Side) (row col : Nat) : Side := dst.at_ (row * c.dstride + col)

/-- The length of the chunk that begins at a row and byte (20 R359). -/
def Copy.chunkLen (c : Copy) (src dst : Side) (row col : Nat) : Nat :=
  min (min (c.rbytes - col) 4096) (min (c.srcAt src row col).room (c.dstAt dst row col).room)

/-- The row and byte that follow n bytes from a row and byte. -/
def Copy.after (c : Copy) (row col n : Nat) : Nat × Nat := if c.rbytes ≤ col + n then (row + 1, 0) else (row, col + n)

/-- The parts of chunks, from a row and byte on, that lie in 64-bit word `w` of the destination. -/
def Copy.wordPieces (c : Copy) (src dst : Side) (w : Nat) : Nat → Nat → Nat → List Piece
  | 0, _, _ => []
  | f + 1, row, col =>
    let d := (c.dstAt dst row col).low
    if c.rows ≤ row ∨ d / 8 ≠ w then []
    else
      let n := min (c.chunkLen src dst row col) (8 * w + 8 - d)
      let next := c.after row col n
      ⟨row, col, n⟩ :: c.wordPieces src dst w f next.1 next.2

/-- What the engine moves in one step: a chunk, less the word at its end that a later chunk writes too; or, where the chunk has
no word before that one, what all chunks write of the word. So no 64-bit word of the destination is written in two steps (08
R176, R181). -/
def Copy.unit (c : Copy) (src dst : Side) : List Piece :=
  let row := c.rowsDone
  let col := c.bytesDone
  let n := c.chunkLen src dst row col
  let d := (c.dstAt dst row col).low
  let last := (d + n - 1) / 8
  let next := c.after row col n
  if c.rows ≤ next.1 ∨ (c.dstAt dst next.1 next.2).low / 8 ≠ last then [⟨row, col, n⟩]
  else if d / 8 < last then [⟨row, col, 8 * last - d⟩]
  else c.wordPieces src dst last 8 row col

/-- Translates a side for a right (20 R359 step 1): a location, or the PAGE subcode and the address that failed. -/
def State.placeSide (s : State) (core part : Nat) (x : Side) (need : Right) : Except (Nat × Word) Loc × State :=
  match x with
  | .loc l => (.ok l, s)
  | .dram va =>
    match s.tlbTranslate core part va need with
    | (.ok pa, s) => (.ok ⟨.dram, 0, pa⟩, s)
    | (.error sub, s) => (.error (0x10 + sub, word va), s)

/-- Fails a copy (20 R361). -/
def State.failCopy (s : State) (core : Nat) (c : Copy) (reason : Nat) : State :=
  let k := s.coreAt core
  let x := k.chans[c.ch]
  s.setCore core
    { k with
      chans := k.chans.set c.ch
        { x with error := (x.error &&& 0x4000000000000000) ||| word (2 ^ 63 + reason * 2 ^ 56 + c.id) } }

/-- The window refusal of a side (20 R359 step 2). -/
def State.sideRefusal (s : State) (c : Copy) (l : Loc) (n rights : Nat) : Option Nat :=
  if l.sp = .dram then none else s.windowRefusal c.slot l n rights

/-- Who performs an access of a copy's launch to n bytes of a side (23 R411). -/
def State.copyServer (s : State) (c : Copy) (l : Loc) (n : Nat) : Server :=
  if l.sp = .dram then s.serverOf (s.launchAt c.launch).part l.off n else .here l.off

/-- One byte of a store. -/
def State.byteOf (s : State) (l : Loc) : Byte :=
  if l.sp = .ctx then .ofNat 8 (s.ctxRead l.unit l.off 1) else byteAt s.mem l.key

/-- The parts of n bytes from an offset by 64-bit word: offset of the part from the first byte, and length. -/
def wordParts (off n : Nat) : List (Nat × Nat) :=
  (List.range ((off % 8 + n + 7) / 8)).map fun i =>
    let a := max off (off - off % 8 + 8 * i)
    (a - off, min (off - off % 8 + 8 * i + 8) (off + n) - a)

/-- A part of a chunk with its sides placed. `low` is the source's first byte as its side names it, by which its words are told
apart. -/
structure Move where
  src : Loc
  dst : Loc
  len : Nat
  low : Nat
deriving DecidableEq, Repr

/-- What is written of a part: where, the bytes, and which of them come from poisoned words, as offsets and lengths. -/
structure Written where
  at_ : Loc
  data : List Byte
  bad : List (Nat × Nat)
deriving DecidableEq, Repr

/-! ### Source words, each read whole and once (08 R176) -/

/-- The 64-bit word at a location as a copy reads it, and whether it is poisoned; a stack that is shut down reads as poisoned (13 R266;
20 R351). -/
def State.wordOf (s : State) (l : Loc) : List Byte × Bool :=
  ((List.range 8).map fun i => s.byteOf { l with off := l.off + i }, (l.sp = .dram && s.stackShut l.off) || s.poisoned l 8)

/-- A copy that holds a word of its source: the word at a location, under its side's name, unless it holds that already. -/
def State.holdWord (s : State) (c : Copy) (k : Nat) (l : Loc) : Copy :=
  if c.held.any fun p => p.1 = k then c else { c with held := c.held ++ [(k, s.wordOf l)] }

/-- The copy with every word held that a part reads of this module's stores. -/
def State.holdPart (s : State) (c : Copy) (m : Move) : Copy :=
  match s.copyServer c m.src m.len with
  | .here a =>
    (List.range ((a % 8 + m.len + 7) / 8)).foldl
      (fun c i => s.holdWord c (m.low - m.low % 8 + 8 * i) { m.src with off := a - a % 8 + 8 * i }) c
  | _ => c

/-- The copy with every word held that some parts read. -/
def State.holdParts (s : State) (c : Copy) (ms : List Move) : Copy := ms.foldl s.holdPart c

/-- The word of a copy's source that holds a byte. -/
def Copy.heldWord (c : Copy) (x : Nat) : List Byte × Bool := look ([], false) c.held (x - x % 8)

/-- The bytes of a part's source, as the words held give them. -/
def Copy.heldBytes (c : Copy) (m : Move) : List Byte :=
  (wordParts m.low m.len).flatMap fun p => ((c.heldWord (m.low + p.1)).1.drop ((m.low + p.1) % 8)).take p.2

/-- The parts of a part's source that come from poisoned words, as offsets and lengths. -/
def Copy.heldBad (c : Copy) (m : Move) : List (Nat × Nat) :=
  (wordParts m.low m.len).filter fun p => (c.heldWord (m.low + p.1)).2

/-- The words that a copy holds on: that of its last byte read, where the next byte of the source, as its side names it, stands in the
same word. -/
def Copy.letGo (c : Copy) (last next : Nat) : Copy :=
  { c with held := if c.moved then [] else c.held.filter fun p => p.1 = last - last % 8 && p.1 = next - next % 8 }

/-- What is to be written of some parts, whose source words the copy holds; `remote` holds the bytes of another module, in order, each
of its words whole (log 5). A part for another module, or for a stack that is shut down, writes nothing here (20 R351). -/
def State.gather (s : State) (c : Copy) : List Move → List Byte → List Written
  | [], _ => []
  | m :: r, remote =>
    let rest := s.gather c r (remote.drop m.len)
    match s.copyServer c m.dst m.len with
    | .here b =>
      if m.dst.sp = .dram && s.stackShut b then rest
      else
        match s.copyServer c m.src m.len with
        | .here _ => ⟨{ m.dst with off := b }, c.heldBytes m, c.heldBad m⟩ :: rest
        | _ => ⟨{ m.dst with off := b }, (List.range m.len).map fun i => remote.getD i 0, []⟩ :: rest
    | _ => rest

/-- Writes bytes within one 64-bit word of a store, for a copy of a level, at once; in the context area the word takes its new
value whole (05 R424). -/
def State.putWord (s : State) (level : Nat) (ps : List (Loc × List Byte)) : State :=
  match ps with
  | [] => s
  | (l, _) :: _ =>
    if l.sp = .ctx then
      let w := l.off - l.off % 8
      s.ctxStore l.unit w level (ps.foldl (fun x p =>
        setBits x (8 * (p.1.off % 8 + p.2.length) - 1) (8 * (p.1.off % 8)) (leNat p.2)) (s.ctxWord l.unit w))
    else { s with mem := ps.foldl (fun m p => storeBytes m p.1.key p.2) s.mem }

/-- The bytes of a part by word. -/
def Written.words (x : Written) : List (Loc × List Byte) :=
  (wordParts x.at_.off x.data.length).map fun p => ({ x.at_ with off := x.at_.off + p.1 }, (x.data.drop p.1).take p.2)

/-- Writes what a step of a copy moves, but for the words written already: the parts of one word together, and the words of one
part each for itself. The words that poisoned bytes reach become poisoned, the others that are covered are whole (13 R266). -/
def State.putAll (s : State) (level : Nat) (early : List Nat) (ws : List Written) : State :=
  let fresh (k : Nat) : Bool := !decide (wordKey k ∈ early)
  let t : State := match ws with
    | [x] => (x.words.filter fun p => fresh p.1.markKey).foldl (fun s p => s.putWord level [p]) s
    | _ => s.putWord level (ws.map fun x => (x.at_, x.data))
  let t := t.heal ((ws.flatMap fun x => (List.range x.data.length).map (x.at_.markKey + ·)).filter fresh)
  let bad := ws.flatMap fun x => x.bad.flatMap fun p => wordsTouched (x.at_.markKey + p.1) p.2
  { t with poison := (bad.filter fresh).foldl addTo t.poison }

/-- Advances a copy's place by a part. -/
def Copy.advance (c : Copy) (n : Nat) : Copy :=
  let next := c.after c.rowsDone c.bytesDone n
  { c with rowsDone := next.1, bytesDone := next.2, fault := none, told := false, early := [] }

/-- Does another module perform one of the sides of a part, and does this module's reeve refuse one (23 R411)? -/
def State.moveFar (s : State) (c : Copy) (m : Move) : Bool × Bool :=
  let a := s.copyServer c m.src m.len
  let b := s.copyServer c m.dst m.len
  (a = .away || b = .away, a = .refused || b = .refused)

/-- A copy that has moved some parts: its place, and the word of its source that it may need again. -/
def State.movedOn (s : State) (c : Copy) (ms : List Move) : Copy :=
  let done := ms.foldl (fun c m => c.advance m.len) c
  let last := match ms.getLast? with | some m => m.low + m.len - 1 | none => 0
  done.letGo last (done.srcAt (s.sideOf c.launch c.w0) done.rowsDone done.bytesDone).low

/-- The parts themselves, with their sides placed (20 R359). What another module holds comes with `remote` (23 R411). -/
def State.moveUnit (s : State) (core : Nat) (c : Copy) (ms : List Move) (remote : Remote) : State :=
  match ms.findSome? fun m => (s.sideRefusal c m.src m.len 1).or (s.sideRefusal c m.dst m.len 2) with
  | some reason => s.failCopy core c reason
  | none =>
    let c := s.holdParts c ms
    let done := s.movedOn c ms
    if ms.any fun m => (s.moveFar c m).2 then s.failCopy core c 2
    else if ms.any fun m => (s.moveFar c m).1 then
      match remote with
      | .refused => s.failCopy core c 2
      | .linkDown => s.failCopy core c 3
      | .data bs => (s.putAll c.level c.early (s.gather c ms bs)).setCopy core done
    else (s.putAll c.level c.early (s.gather c ms [])).setCopy core done

/-- Places the sides of some parts, source first; or the PAGE subcode and address of the first translation that fails (20
R359). -/
def State.placePieces (s : State) (core part : Nat) (c : Copy) (src dst : Side) :
    List Piece → Except (Nat × Word) (List Move) × State
  | [] => (.ok [], s)
  | p :: r =>
    match s.placeSide core part (c.srcAt src p.row p.col) .r with
    | (.error f, s) => (.error f, s)
    | (.ok a, s) =>
      match s.placeSide core part (c.dstAt dst p.row p.col) .w with
      | (.error f, s) => (.error f, s)
      | (.ok b, s) =>
        match s.placePieces core part c src dst r with
        | (.ok ms, s) => (.ok (⟨a, b, p.len, (c.srcAt src p.row p.col).low⟩ :: ms), s)
        | (.error f, s) => (.error f, s)

/-- The sides of a copy in flight. -/
def State.sidesOf (s : State) (c : Copy) : Side × Side := (s.sideOf c.launch c.w0, s.sideOf c.launch c.w1)

/-- One step of a copy (20 R359): the sides are translated; a failed translation stops the copy here. -/
def State.doChunk (s : State) (core : Nat) (c : Copy) (remote : Remote) : State :=
  let sides := s.sidesOf c
  match s.placePieces core (s.launchAt c.launch).part c sides.1 sides.2 (c.unit sides.1 sides.2) with
  | (.error f, s) => s.setCopy core { c with fault := some f, told := false }
  | (.ok ms, s) => s.moveUnit core c ms remote

/-- The copy of a killed launch is cancelled once its chunk is done; a stop that its thread has been asked for takes place then (04
R68, R86). -/
def State.afterChunk (s : State) (core : Nat) (c : Copy) : State :=
  (if c.cancelled then s.setCore core ((s.coreAt core).cancelCopy c.ch c.id) else s).takeStop c.slot

/-- COPY_CHUNK (20 R359). -/
def execCopyChunk (core : Nat) (ch : Fin 4) (remote : Remote) (s : State) : Out :=
  .next <|
    match (s.coreAt core).running ch with
    | some c =>
      if s.copyGoes core c && !c.moved then (s.doChunk core c remote).afterChunk core c else s
    | none => s

/-- Part i of a chunk by words of its destination. -/
def Move.part (m : Move) (i : Nat) : Option Move :=
  (wordParts m.dst.off m.len)[i]?.map fun p =>
    ⟨{ m.src with off := m.src.off + p.1 }, { m.dst with off := m.dst.off + p.1 }, p.2, m.low + p.1⟩

/-- Word i of the chunk that a channel is to move is written ahead of the others: the writes of a copy are performed in no
promised order (08 R178; 24 R417). What another module holds comes with `remote`, and what it takes is written there; not where its
words and the destination's do not fall together, so that none of them comes in two parts (R176). -/
def State.copyWord (s : State) (core : Nat) (ch : Fin 4) (i : Nat) (remote : Remote) : State :=
  match (s.coreAt core).running ch with
  | none => s
  | some c =>
    if !s.copyGoes core c || c.moved then s
    else
      let sides := s.sidesOf c
      match s.placePieces core (s.launchAt c.launch).part c sides.1 sides.2 (c.unit sides.1 sides.2) with
      | (.ok [m], t) =>
        match m.part i with
        | none => s
        | some w =>
          let k := wordKey w.dst.markKey
          if (t.sideRefusal c w.src w.len 1).isSome || (t.sideRefusal c w.dst w.len 2).isSome || decide (k ∈ c.early)
              || (t.moveFar c w).2 || (t.copyServer c w.src w.len = .away && w.src.off % 8 ≠ w.dst.off % 8) then s
          else
            let c := t.holdPart c w
            let put (bs : List Byte) : State := (t.putAll c.level [] (t.gather c [w] bs)).setCopy core { c with early := k :: c.early }
            if (t.moveFar c w).1 then (match remote with | .data bs => put bs | _ => s) else put []
      | _ => s

/-- The last 64-bit word of a copy's destination (08 R179). -/
def Copy.lastWord (c : Copy) (l : Loc) : Loc :=
  { l with off := l.off + (c.rows - 1) * c.dstride + c.rbytes - 8 }

/-- TAGFULL at completion. -/
def State.copyTag (s : State) (c : Copy) : State :=
  match s.sideOf c.launch c.w1 with
  | .loc l => if c.tagfull then s.changeTag (c.lastWord l) true else s
  | .dram _ => s

/-- SIG at completion; a signal past 255 sets SOVF (20 R359). -/
def State.copySignal (s : State) (core : Nat) (c : Copy) : State :=
  match s.sideOf c.launch c.w1 with
  | .dram _ => s
  | .loc l =>
    if !c.sig then s
    else
      match s.addSem l.tile c.sem 1 with
      | some s => s
      | none =>
        let k := s.coreAt core
        let x := k.chans[c.ch]
        s.setCore core { k with chans := k.chans.set c.ch { x with error := x.error ||| 0x4000000000000000 } }

/-- Takes a completed copy off the FIFO; COMPLETED rises (20 R359). -/
def State.copyDone (s : State) (core : Nat) (c : Copy) : State :=
  let k := s.coreAt core
  s.setCore core (({ k with fifo := k.fifo.filter fun x => !(x.ch = c.ch && x.id = c.id) } : Core).settleChan c.ch)

/-- COPY_COMPLETE (20 R359): the tag, the signal, then COMPLETED. -/
def execCopyComplete (core : Nat) (ch : Fin 4) (s : State) : Out :=
  .next <|
    match (s.coreAt core).running ch with
    | some c =>
      if s.copyGoes core c && c.moved then ((s.copyTag c).copySignal core c).copyDone core c else s
    | none => s

/-- Is the wait of slot n one that a page fault leaves standing (20 R360)? Such is the wait at the sluice and of SLEEP, and that
for the reply to an access that its owner has served, which completes (07 R147). -/
def keepsWait : Option Wait → Bool
  | none => true
  | some (.sluice _ _ _) => true
  | some (.sleep _) => true
  | some (.globalIn _ _) => true
  | some _ => false

/-- A page fault of a copy whose thread is LIVE: the PAGE trap is pending at its next instruction boundary, and a wait
other than WAIT's and SLEEP's is withdrawn (20 R360). -/
def State.tellPage (s : State) (core : Nat) (c : Copy) (sub : Nat) (va : Word) : State :=
  let sl := s.slotAt c.slot
  let s := if keepsWait sl.wait then s else s.setSlot c.slot { sl with wait := none }
  (s.pend c.slot ⟨0x0C, sub, va⟩).setCopy core { c with told := true }

/-- Does the address of a page fault translate now, for the side that failed? -/
def State.pageThere (s : State) (c : Copy) (va : Word) : Bool :=
  let sides := s.sidesOf c
  let src := (c.unit sides.1 sides.2).any fun p => c.srcAt sides.1 p.row p.col = .dram va.toNat
  match s.translate (s.launchAt c.launch).part va.toNat (if src then .r else .w) with
  | .ok _ => true
  | .error _ => false

/-- The reeve's record of a page fault of a copy whose thread is not LIVE (13 R256; 20 R360), and its end. -/
def State.setPageRecord (s : State) (n : Nat) (h : Option Hold) : State := s.setSlot n { s.slotAt n with pageRecord := h }

/-- A page fault of a copy whose thread is not LIVE (20 R360): the reeve first receives the fault; then it resumes the copy where
the page is there and fails it with REASON 4 where it is not. -/
def State.reevePage (s : State) (core : Nat) (c : Copy) (sub : Nat) (va : Word) : State :=
  if (s.slotAt c.slot).pageRecord.isNone then s.setPageRecord c.slot (some ⟨0x0C, sub, va, s.pcOf c.slot, true⟩)
  else
    let s := s.setPageRecord c.slot none
    if s.pageThere c va then s.setCopy core { c with fault := none, told := false }
    else (s.report (s.launchAt c.launch).part ⟨c.slot, sub * 256 + 0x0C, va, 0⟩).failCopy core c 4

/-- PAGE (20 R360): the fault of a stopped copy reaches its thread, or, where that is not LIVE, the reeve. -/
def execPage (core : Nat) (ch : Fin 4) (s : State) : Out :=
  .next <|
    match (s.coreAt core).running ch with
    | some c =>
      match c.fault with
      | some (sub, va) =>
        if c.stopping || chanFailed (s.coreAt core).chans[ch] then s
        else if (s.slotAt c.slot).state = .live then
          if c.told || (s.slotAt c.slot).hold.isSome then s else s.tellPage core c sub va
        else s.reevePage core c sub va
      | none => s
    | none => s

/-! ## TLBI and XLAT -/

/-- Removes entries of a TLB. -/
def Core.tlbDrop (c : Core) (f : TlbEntry → Bool) : Core := { c with tlb := c.tlb.filter fun e => !f e }

/-- The TLBs that a TLBI names, by core: its own, or every pump-class one (20 R369). -/
def tlbNamed (f : TlbiForm) (own core : Nat) : Bool :=
  match f with
  | .bcast => decide (4096 ≤ core ∧ core < 4400)
  | _ => core = own

/-- Is an entry one that a TLBI removes (20 R369)? -/
def tlbRemoves (f : TlbiForm) (part va : Nat) (e : TlbEntry) : Bool :=
  e.part = part && (match f with | .all => true | _ => decide (e.va ≤ va ∧ va < e.va + e.size))

/-- TLBI (20 R369). It issues once the thread's earlier accesses are performed and no chunk of the core is under way (Machine/Order.lean). -/
def execTlbi (f : TlbiForm) (a : Reg) (s : State) : Out :=
  issue (.tlbi f a) s fun s =>
    if isOrdinary s.cur then s.trap 0x0B 0x02 (words01 (.tlbi f a))
    else
      let rem := tlbRemoves f (s.partOf s.cur) (s.g a).toNat
      ({ s with cores := s.cores.map fun p => if tlbNamed f (coreOf s.cur) p.1 then (p.1, p.2.tlbDrop rem) else p } :
        State).retire 8

/-- The code of a page size in XLAT's result (20 R369). -/
def sizeCode (n : Nat) : Nat := if n = 2 ^ 30 then 2 else if n = 2 ^ 21 then 1 else 0

/-- XLAT (20 R369): the walk fills the TLB. -/
def execXlat (write : Bool) (d a : Reg) (s : State) : Out :=
  issue (.xlat write d a) s fun s =>
    if isOrdinary s.cur then s.trap 0x0B 0x02 (words01 (.xlat write d a))
    else
      let va := (s.g a).toNat
      let part := s.partOf s.cur
      match s.walk part va with
      | .fail _ => (s.setG d (neg 1)).retire 8
      | .leaf pa size r w at_ =>
        if !(if write then w else r) then (s.setG d (neg 1)).retire 8
        else
          let c := s.coreAt (coreOf s.cur)
          let s := if (c.tlbHit part va).isSome then s
            else s.setCore (coreOf s.cur) { c with tlb := (⟨part, va - va % size, size, pa, r, w, at_⟩ :: c.tlb).take 256 }
          let b (x : Bool) (n : Nat) : Nat := if x then 2 ^ n else 0
          (s.setG d (word (sizeCode size * 2 ^ 60 + b at_ 58 + b w 57 + b r 56 + (pa + va % size) % 2 ^ 56))).retire 8

/-! ## DLD, DST and DAMO -/

/-- A pump-class access of the issuing slot at a partition address (20 R368): the translation, the alignment, and then the
wait for the channel controller's reply. -/
def State.dramAccess (s : State) (ea : Word) (op : AccessOp) (right : Right) (bytes : Nat) (reg : Reg)
    (data : List Word) : State :=
  if isOrdinary s.cur then s.trap 0x0B 0x00 ea
  else
    match s.tlbTranslate (coreOf s.cur) (s.partOf s.cur) ea.toNat right with
    | (.error sub, s) => s.trap 0x0C sub ea
    | (.ok pa, s) =>
      if ea.toNat % bytes ≠ 0 then s.trap 0x08 0x00 ea
      else s.block s.cur (.dram ⟨op, bytes, 1, reg, data, ea, ⟨.dram, 0, pa⟩⟩)

/-- DLD (20 R368). -/
def execDld (w : Width) (sg : Bool) (o : Ord) (d : Reg) (m : Addr) (s : State) : Out :=
  issue (.dld w sg o d m) s fun s => s.dramAccess (s.effAddr m) (.load sg) .r (w.bits / 8) d []

/-- DST (20 R368). -/
def execDst (w : Width) (o : Ord) (d : Reg) (m : Addr) (s : State) : Out :=
  issue (.dst w o d m) s fun s => s.dramAccess (s.effAddr m) .store .w (w.bits / 8) d [s.g d]

/-- DAMO (20 R368). -/
def execDamo (w : Width) (o : Ord) (op : Aop) (d a b : Reg) (off : BitVec 24) (s : State) : Out :=
  issue (.damo w o op d a b off) s fun s =>
    s.dramAccess (s.effAddrAB a off) (.amo op) .at_ (w.bits / 8) d [s.g b]

/-- The register values of an access on `old`, and the value it stores (20 R368). -/
def dramResult (a : Access) (old : Nat) : List Word × Option Nat :=
  match a.op with
  | .load sg => ([extend sg (8 * a.bytes) old], none)
  | .store => ([], some (a.data.getD 0 0).toNat)
  | .amo op =>
    let w := widthOfBytes a.bytes
    ([sextBits w.bits old], some (aopValue op w (word old) (a.data.getD 0 0)))
  | _ => ([], none)

/-- The channel controller serialises its accesses: the stores that it has accepted are performed before a later access at one of their
words (20 R368). -/
def State.landDram (s : State) (pa n : Nat) : State :=
  if s.culvert = [] then s else s.landAll fun x => x.cls = 5 && decide (wordKey x.loc.key ∈ wordsTouched pa n)

/-- May a DST be accepted before it is performed (20 R368, R369; 24 R417)? It is one of a thread that posts its stores, outside a pair and
while no word is poisoned (DESIGN CHOICE, log 5). -/
def State.postsDram (s : State) (n : Nat) (a : Access) : Bool :=
  a.op = .store && (s.slotAt n).posting && (s.partner n).isNone && s.poison = []

/-- A store is performed at its channel controller, or accepted there. -/
def State.dramStore (s : State) (n : Nat) (a : Access) (pa x : Nat) : State :=
  if s.postsDram n a && !s.stackShut pa then
    { s with culvert := s.culvert ++ [{ slot := n, cls := 5, tile := tileOf n, loc := ⟨.dram, 0, pa⟩, data := leBytes a.bytes x }] }
  else s.physWrite pa a.bytes x

/-- The access of slot n at its channel controller, on this module (20 R368). -/
def State.dramHere (s : State) (n : Nat) (a : Access) (pa : Nat) : State :=
  let s := s.landDram pa a.bytes
  if a.op.reads && s.physPoisoned pa a.bytes then s.consume n 4 a.ea
  else
    let r := dramResult a (s.physRead pa a.bytes)
    let s := match r.2 with | some x => s.dramStore n a pa x | none => s
    (s.putReply n a.reg r.1).complete n 8

/-- The reply of another module to an access of slot n (23 R411). -/
def State.dramThere (s : State) (n : Nat) (a : Access) (remote : Remote) : State :=
  match remote with
  | .refused => s.takeTrap n 0x0A 0x02 a.ea false
  | .linkDown => s.takeTrap n 0x0A 0x03 a.ea false
  | .data bs => (s.putReply n a.reg (dramResult a (leNat (bs.take a.bytes))).1).complete n 8

/-- DRAM_REPLY (20 R368; 23 R411): the controller performs the access of a waiting thread and answers; an access through the
fabric aperture to this module that its reeve has not granted is refused. A stop that the thread has been asked for takes
place after it (04 R86). -/
def execDramReply (slot : Nat) (remote : Remote) (s : State) : Out :=
  .next <|
    match (s.slotAt slot).wait with
    | some (.dram a) =>
      match s.serverOf (s.partOf slot) a.loc.off a.bytes with
      | .here pa => (s.dramHere slot a pa).takeStop slot
      | .refused => (s.dramThere slot a .refused).takeStop slot
      | .away => (s.dramThere slot a remote).takeStop slot
    | _ => s

/-- Another module's access to this module's DRAM (23 R411), at its channel controller: what the reply holds. -/
def State.fabricServe (s : State) (pa : Nat) (op : FabricOp) : List Byte × State :=
  match op with
  | .read n => (leBytes n (s.physRead pa n), s)
  | .write bs => ([], if s.stackShut pa then s else ({ s with mem := storeBytes s.mem pa bs } : State).unpoison ⟨.dram, 0, pa⟩ bs.length)
  | .amo w op x =>
    let n := w.bits / 8
    let old := s.physRead pa n
    (leBytes n old, s.physWrite pa n (aopValue op w (word old) x))

/-- How many bytes an access of another module concerns. -/
def FabricOp.size : FabricOp → Nat
  | .read n => n
  | .write bs => bs.length
  | .amo w _ _ => w.bits / 8

/-- An access of a partition of module `fid` to n bytes of this module's memory: the reeve accepts only what it has granted (23
R411). -/
def State.fabricAccess (s : State) (fid part pa : Nat) (op : FabricOp) : State :=
  if !s.granted fid part pa op.size then { s with fabricReply := none }
  else
    let r := (s.landDram pa op.size).fabricServe pa op
    { r.2 with fabricReply := some r.1 }

/-- The reeve grants a range to a partition of a module, or takes it back (23 R411). -/
def State.setGrant (s : State) (fid part base len : Nat) (on : Bool) : State :=
  let rest := s.grants.filter fun g => g ≠ (fid, part, base, len)
  { s with grants := if on then (fid, part, base, len) :: rest else rest }

/-- DRAM_REFRESH (20 R351): a channel counts a refresh and the cycles that it stalled requests. -/
def execDramRefresh (die ch stalled : Nat) (s : State) : Out :=
  .next <|
    let d := s.dieAt die
    let x := look (0, 0, 0) d.chanStats ch
    s.setDie die { d with chanStats := put d.chanStats ch (x.1 + 1, x.2.1 + stalled, x.2.2) }

/-- A channel counts the cycles that requests stalled for its bandwidth (20 R351; 22 R401). -/
def State.dramStall (s : State) (die ch cycles : Nat) : State :=
  let d := s.dieAt die
  let x := look (0, 0, 0) d.chanStats ch
  s.setDie die { d with chanStats := put d.chanStats ch (x.1, x.2.1, x.2.2 + cycles) }

end Sys2Proof.Machine
end

