-- ==== Sys2Proof/Machine/Control.lean ====
section
/-! DEFINITION. Control flow, opcodes 0x30 to 0x39 (06 R127 to R134), and the step that ends a SLEEP. -/
namespace Sys2Proof.Machine
open Sys2Proof

/-- NOP (06 R128). -/
def execNop (s : State) : Out := issue .nop s fun s => s.retire 8

/-- BR (06 R129): the low W bits of g[A] and g[B] under the condition, always where there is none. -/
def execBr (w : Width) (c : Option Cond) (a b : Reg) (off : BitVec 32) (s : State) : Out :=
  issue (.br w c a b off) s fun s =>
    let taken := match c with
      | none => true
      | some c => condHolds c w (s.g a) (s.g b)
    if taken then s.transfer true (s.pcOf s.cur + off.signExtend 64) else s.retire 8

/-- CALL (06 R130). -/
def execCall (d : Reg) (off : BitVec 32) (s : State) : Out :=
  issue (.call d off) s fun s =>
    let t := s.pcOf s.cur + off.signExtend 64
    (s.setG d (s.pcOf s.cur + 8)).transfer false t

/-- JR (06 R130). -/
def execJr (a : Reg) (s : State) : Out :=
  issue (.jr a) s fun s =>
    let t := s.g a
    if bits t 1 0 ≠ 0 then s.trap 0x08 0x10 t else s.transfer true t

/-- CALLR (06 R130): the target is read before the link is written. -/
def execCallr (d a : Reg) (s : State) : Out :=
  issue (.callr d a) s fun s =>
    let t := s.g a
    if bits t 1 0 ≠ 0 then s.trap 0x08 0x10 t
    else (s.setG d (s.pcOf s.cur + 8)).transfer false t

/-- LOOP and LOOPI (06 R131): push a level, or skip the body where the count is zero. -/
def State.enterLoop (s : State) (len : Nat) (off : BitVec 32) (count : Word) : State :=
  let pc := s.pcOf s.cur
  let stop := pc + off.signExtend 64
  if s.codelim s.cur ≤ stop.toNat then s.trap 0x04 0x02 stop
  else if count = 0 then s.retireTo s.cur (stop + word (s.lengthAt s.cur stop))
  else
    let im := s.img s.cur
    if 4 ≤ im.loops.length then s.trap 0x11 0x00 stop
    else (s.setImg s.cur { im with loops := ⟨pc + word len, stop, count⟩ :: im.loops, pc := pc + word len }).tickRetired
      s.cur

/-- LOOP (06 R131). -/
def execLoop (a : Reg) (off : BitVec 32) (s : State) : Out :=
  issue (.loop a off) s fun s => s.enterLoop 8 off (s.g a)

/-- LOOPI (06 R131). -/
def execLoopi (off count : BitVec 32) (s : State) : Out :=
  issue (.loopi off count) s fun s => s.enterLoop 12 off (count.setWidth 64)

/-- LBRK (06 R132). -/
def execLbrk (s : State) : Out :=
  issue .lbrk s fun s =>
    let im := s.img s.cur
    match im.loops with
    | [] => s.trap 0x11 0x01 0
    | l :: r =>
      (s.setImg s.cur { im with loops := r }).retireTo s.cur (l.stop + word (s.lengthAt s.cur l.stop))

/-- The tick that a SLEEP waits for (06 R133): sums are exact, then clamped. -/
def sleepTick (s : State) (abs : Bool) (a : Reg) (imm : BitVec 32) : Nat :=
  let t := (s.g a).toNat + imm.toNat
  min (if abs then t else s.tide.toNat + t) (2 ^ 64 - 1)

/-- SLEEP (06 R133): out of the rotation until the tick; a tick that has passed lets the next turn issue. -/
def execSleep (abs : Bool) (a : Reg) (imm : BitVec 32) (s : State) : Out :=
  issue (.sleep abs a imm) s fun s =>
    let t := sleepTick s abs a imm
    if t ≤ s.tide.toNat then s.complete s.cur 8 else s.block s.cur (.sleep t)

/-- SLEEP_WAKE (06 R133): the tide has reached the tick that a slot sleeps for. -/
def State.wake (s : State) (n : Nat) : State :=
  match (s.slotAt n).wait with
  | some (.sleep t) => if t ≤ s.tide.toNat then s.complete n 8 else s
  | _ => s

/-- SLEEP_WAKE as a step of its own. -/
def execSleepWake (slot : Nat) (s : State) : Out := .next (s.wake slot)

/-- WDOG (06 R134): zeroes the watchdog count, a progress point (04 R81). -/
def execWdog (s : State) : Out := issue .wdog s fun s => (s.progress s.cur).retire 8

/-- YIELD (04 R90): a progress point. -/
def execYield (s : State) : Out := issue .yield s fun s =>
    let s := (s.progress s.cur).retire 8
    s.setSlot s.cur { s.slotAt s.cur with yielded := true }

end Sys2Proof.Machine
end

