-- ==== Sys2Proof/Machine/Crest.lean ====
section
/-! DEFINITION. The crest group (21 R385 to R397): limits in force and pending changes, the crest at a tide, what
programs see of it, and the messages of the group, received and sent. -/
namespace Sys2Proof.Machine
open Sys2Proof

/-! ## Limits -/

/-- One millisecond of tide. -/
def ms : Nat := 1000000

/-- A member's limit at a tide: its pending change takes force at its bite (21 R388). -/
def Member.limitAt (m : Member) (t : Nat) : Nat :=
  match m.pend with
  | some (l, b) => if b ≤ t then l else m.limit
  | none => m.limit

/-- A member's limit in force at a tide that may lie in the past, of which the ended limits are kept for 1 ms (21 R389). -/
def Member.inForceAt (m : Member) (t : Nat) : Nat :=
  match m.past.find? fun p => decide (t < p.2) with
  | some p => p.1
  | none => m.limitAt t

/-- Notes that the limit in force ends at a tide. -/
def Member.ended (m : Member) (t : Nat) : Member :=
  { m with past := (m.past.filter fun p => decide (t < p.2 + ms)) ++ [(m.limit, t)] }

/-- Is a module a member at a tide, from its effective tide of joining to that of leaving (21 R394)? -/
def Member.isMember (m : Member) (t : Nat) : Bool :=
  m.standing = .member && (match m.joinAt with | some e => decide (e ≤ t) | none => true)
  && (match m.leaveAt with | some e => decide (t < e) | none => true)

/-- Did the limit at a tide come by EMERGENCY (21 R396)? -/
def Member.emergAt (m : Member) (t : Nat) : Bool :=
  match m.pend with
  | some (_, b) => !decide (b ≤ t) && m.emerg
  | none => m.emerg

/-- Does a module's limit count at a tide: it is a member, and a leaver's counts until the crest without it takes force
as a raise, 1 ms after its effective tide (21 R393, R394)? -/
def Member.counts (m : Member) (t : Nat) : Bool :=
  m.standing = .member && (match m.joinAt with | some e => decide (e ≤ t) | none => true)
  && (match m.leaveAt with | some e => decide (t < e + ms) | none => true)

/-- Applies a pending change that is due. -/
def Member.settle (m : Member) (t : Nat) : Member :=
  match m.pend with
  | some (l, b) => if b ≤ t then { m.ended b with limit := l, emerg := false, pend := none } else m
  | none => m

/-- The module's own entry. -/
def Crest.own (c : Crest) : Member := look {} c.members c.self

/-- The members whose limits count at a tide: the module's own always, and the others' while the module itself counts (21 R394). -/
def Crest.counting (c : Crest) (t : Nat) : List Member :=
  (c.members.filter fun p => p.1 = c.self || (p.2.counts t && c.own.counts t)).map (·.2)

/-- The smallest limit in force at a tide, below the ceilings that hold then (21 R388). -/
def Crest.lowest (c : Crest) (t : Nat) : Nat :=
  let m := (c.counting t).foldl (fun m x => min m (x.limitAt t)) 60
  c.caps.foldl (fun m p => if t < p.2 then min m p.1 else m) m

/-- A limit that came into force by EMERGENCY is among the minima (21 R396). -/
def Crest.emergHolds (c : Crest) (t : Nat) : Bool :=
  let ms := c.counting t
  let low := ms.foldl (fun m x => min m (x.limitAt t)) 60
  ms.any fun x => x.emergAt t && x.limitAt t = low

/-- The group holds the safe crest: a member is silent, the module was expelled, or a reference is lost (21 R385, R392,
R393). -/
def State.safeHolds (s : State) : Bool :=
  s.crest.expelled || (s.crest.members.any fun p => p.1 ≠ s.crest.self && p.2.silent && p.2.isMember s.tide.toNat)
  || s.dies.any fun p => p.2.refLost

/-- The crest at a tide, as far as it is known now (21 R388). -/
def State.crestPoint (s : State) (t : Nat) : Nat :=
  if s.safeHolds then min 24 (s.crest.lowest t) else s.crest.lowest t

/-- The crest at a tide in CRESTNOW's layout (21 R396). -/
def State.crestWord (s : State) (t : Nat) : Word :=
  let p := s.crestPoint t
  word ((600 + 25 * p) * 2 ^ 16 + (if s.safeHolds then 128 else 0) + (if s.crest.emergHolds t then 64 else 0) + p)

/-- The tides at which the crest may change. -/
def Crest.tides (c : Crest) : List Nat :=
  c.members.flatMap (fun p =>
    (match p.2.pend with | some (_, b) => [b] | none => [])
    ++ (match p.2.joinAt with | some e => [e] | none => [])
    ++ (match p.2.leaveAt with | some e => [e + ms] | none => []))
  ++ c.caps.map (·.2)

/-- The earliest later tide at which the computed crest differs from the present one (21 R396). -/
def State.crestChange (s : State) (t : Nat) : Option Nat :=
  let p := s.crestPoint t
  (s.crest.tides.filter fun x => decide (t < x) && s.crestPoint x ≠ p).foldl
    (fun m x => match m with | some y => some (min x y) | none => some x) none

/-- Makes CREST pending in every LIVE thread of the module that has enabled it, in a slot, switched out or saved (21 R397). -/
def State.raiseCrest (s : State) (sub : Nat) (v : Word) : State :=
  (s.slots.filter fun p => p.2.state = .live && bit (s.img p.1).effen 0x18).foldl
    (fun s p => s.pend p.1 ⟨0x18, sub, v⟩) (s.pendAway (fun _ => true) (fun im => bit im.effen 0x18) ⟨0x18, sub, v⟩)

/-- Takes pending changes that are due into force, and forgets what is past (21 R388). -/
def Crest.settle (c : Crest) (t : Nat) : Crest :=
  { c with
    members := c.members.map fun p => (p.1, p.2.settle t)
    caps := c.caps.filter fun p => decide (t < p.2) }

/-- Computes the three registers anew and raises CREST where they change; `sub` is the subcode of a change of CRESTNOW:
1 for a bite, 2 for an emergency, a silence or a loss of reference (21 R396, R397). -/
def State.recrest (s : State) (sub : Nat) : State :=
  let t := s.tide.toNat
  let s : State := { s with crest := s.crest.settle t }
  let now := s.crestWord t
  let ch := s.crestChange t
  let at_ := word (ch.getD 0)
  let next := match ch with | some x => s.crestWord x | none => now
  if now = s.crest.now ∧ next = s.crest.next ∧ at_ = s.crest.at_ then s
  else
    let changed := now ≠ s.crest.now
    let s : State := { s with crest := { s.crest with now := now, next := next, at_ := at_ } }
    if changed then s.raiseCrest sub now else s.raiseCrest 0 next

/-- CREST_BITE (21 R388): changes that are due take force. -/
def execCrestBite (s : State) : Out := .next (s.recrest 1)

/-! ## Changing members -/

/-- Replaces a member's entry. -/
def State.setMember (s : State) (j : Nat) (m : Member) : State :=
  { s with crest := { s.crest with members := put s.crest.members j m } }

/-- Sends a crest message (21 R387). -/
def State.sendCrest (s : State) (typ : BitVec 8) (byte1 : BitVec 8) (point : Nat) (concerned : BitVec 8) (bite : Nat)
    (pendLimit : BitVec 8) : State :=
  match s.crest.group with
  | none => s
  | some g =>
    let m : CrestMsg := ⟨typ, byte1, g, s.crest.self, point, concerned, s.tide.toNat, bite, pendLimit, true⟩
    { s with crest := { s.crest with outbox := s.crest.outbox ++ [m] } }

/-- Adds a ceiling until a tide. -/
def State.capUntil (s : State) (point till : Nat) : State :=
  { s with crest := { s.crest with caps := s.crest.caps ++ [(point, till)] } }

/-- The present crest. -/
def State.crestNow (s : State) : Nat := bits s.crest.now 5 0

/-- The module announces a limit of its own with a bite (21 R390). -/
def State.announceOwn (s : State) (limit bite : Nat) : State :=
  ((s.setMember s.crest.self { s.crest.own with pend := some (limit, bite) }).sendCrest 1 0 limit 0 bite 0).recrest 1

/-- The module drops to a limit at once and broadcasts EMERGENCY with the limit `told` (21 R385, R391). -/
def State.dropOwn (s : State) (limit told : Nat) : State :=
  ((s.setMember s.crest.self { s.crest.own with limit := limit, emerg := true, pend := none }).sendCrest 7 0 told 0 0
    0).recrest 2

/-! ## Messages received -/

/-- The member that ACCEPT and EXPEL concern (21 R387). -/
def crestAbout (m : CrestMsg) : Nat := m.byte1.toNat % 4 * 256 + m.concerned.toNat

/-- Is a received message of a type not to be discarded (21 R387)? -/
def State.crestValid (s : State) (m : CrestMsg) (typ : BitVec 8) : Bool :=
  let names : Bool := typ = 4 || typ = 6
  m.typ = typ && s.crest.group = some m.group && m.tailZero && decide (m.sender < 1024 ∧ m.sender ≠ s.crest.self)
  && (if names then decide (m.byte1.toNat < 4) else m.byte1 = 0 && m.concerned = 0)
  && (typ = 2 || m.pendLimit = 0) && ((typ ≠ 3 && typ ≠ 7) || m.bite = 0) && decide (m.point ≤ 60) && ((typ ≠ 5 && typ ≠ 6) || m.point = 0)

/-- A crest message as its 32 bytes (21 R387). -/
def CrestMsg.bytes (m : CrestMsg) : List Byte :=
  leBytes 1 m.typ.toNat ++ leBytes 1 m.byte1.toNat ++ leBytes 2 m.group ++ leBytes 2 m.sender ++ leBytes 1 m.point
  ++ leBytes 1 m.concerned.toNat ++ leBytes 8 m.sent ++ leBytes 8 m.bite ++ leBytes 1 m.pendLimit.toNat ++ leBytes 7 0

/-- Does a message of module j end a silence (21 R392)? -/
def State.endsSilence (s : State) (j : Nat) : Bool :=
  match find s.crest.members j with
  | some x => x.silent && x.standing ≠ .gone
  | none => false

/-- The subcode of a change of CRESTNOW at a message of module j: that of a silence where the message ends one (21 R397). -/
def State.heardSub (s : State) (j : Nat) : Nat := if s.endsSilence j then 2 else 1

/-- Every message of a member counts as a heartbeat; one that ends a silence lifts the safe crest 1 ms later (21 R392). -/
def State.hear (s : State) (j : Nat) : State :=
  match find s.crest.members j with
  | none => s
  | some x =>
    if x.standing = .gone then s
    else
      let s' := s.setMember j { x with lastHeard := s.tide.toNat, silent := false }
      if x.silent then s'.capUntil s.crestNow (s.tide.toNat + ms) else s'

/-- Is a sender one whose limit counts or will count? -/
def State.memberOf (s : State) (j : Nat) : Option Member :=
  match find s.crest.members j with
  | some x => if x.standing = .member then some x else none
  | none => none

/-- The bite a receiver uses for an ANNOUNCE: none where it treats the message as an EMERGENCY (21 R389). -/
def biteFor (notice sent inForce limit bite : Nat) : Option Nat :=
  if limit < inForce then (if sent + notice ≤ bite then some bite else none)
  else if inForce < limit then some (max bite (sent + ms))
  else some (max bite sent)

/-- A member's limit by EMERGENCY takes force at receipt, in place of its pending change (21 R391). -/
def State.emergencyOf (s : State) (j : Nat) (x : Member) (limit : Nat) : State :=
  let t := s.tide.toNat
  (s.setMember j { ((x.settle t).ended t) with limit := limit, emerg := true, pend := none }).recrest 2

/-- ANNOUNCE (21 R389). -/
def execAnnounce (m : CrestMsg) (s : State) : Out :=
  .next <|
    if !s.crestValid m 1 then s
    else
      let sub := s.heardSub m.sender
      let s := s.hear m.sender
      match s.memberOf m.sender with
      | none => s.recrest sub
      | some x =>
        match biteFor (1000 * s.crest.notice) m.sent (x.inForceAt m.sent) m.point m.bite with
        | some b => ((s.setMember m.sender { x.settle s.tide.toNat with pend := some (m.point, b) }).recrest sub)
        | none => s.emergencyOf m.sender x m.point

/-- HEARTBEAT (21 R392). A member that this module does not know yet becomes known with its limit and pending change. -/
def execHeartbeat (m : CrestMsg) (s : State) : Out :=
  .next <|
    if !s.crestValid m 2 then s
    else
      match find s.crest.members m.sender with
      | some _ => (s.hear m.sender).recrest 2
      | none =>
        let p : Option (Nat × Nat) := if m.bite = 0 then none else some (m.pendLimit.toNat, m.bite)
        (s.setMember m.sender { limit := m.point, pend := p, lastHeard := s.tide.toNat }).recrest 1

/-- The effective tide of a JOIN (21 R394). -/
def joinTide (sent notice : Nat) (below : Bool) : Nat :=
  if below then ceilDiv (sent + notice) ms * ms else (sent / ms + 1) * ms

/-- Is this module the lowest-numbered of the present members that are not silent (21 R393, R394)? `but` is left out. -/
def State.isLowest (s : State) (but : Nat) : Bool :=
  let t := s.tide.toNat
  s.crest.own.isMember t && s.crest.members.all fun p => p.1 = but || p.2.silent || !p.2.isMember t || s.crest.self ≤ p.1

/-- Does an answer to a JOIN stand after one that concerns module j and is sent now: it is sent now too, and concerns a higher
member id (21 R394)? -/
def answersAfter (a : CrestMsg) (j now : Nat) : Bool :=
  (a.typ = 4 || a.typ = 6) && a.sent = now && decide (j < crestAbout a)

/-- Answers the JOIN of module j with ACCEPT or EXPEL: of several JOINs at one tide, in ascending order of member id (21 R394). -/
def State.answerJoin (s : State) (typ : BitVec 8) (j point effective : Nat) : State :=
  let t := s.sendCrest typ (.ofNat 8 (j / 256)) point (.ofNat 8 j) effective 0
  let late := fun a : CrestMsg => answersAfter a j s.tide.toNat
  let old := s.crest.outbox
  { t with crest := { t.crest with
      outbox := (old.filter fun a => !late a) ++ t.crest.outbox.drop old.length ++ old.filter late } }

/-- What a module leaves behind that asks to join anew: one that was silent ends its silence, and the limit of one that has left
counts until 1 ms after its effective tide (21 R392, R394). -/
def State.keepLeaver (s : State) (j : Nat) : State :=
  let t := s.tide.toNat
  let x : Member := look {} s.crest.members j
  let s := s.hear j
  match x.leaveAt with
  | some e => if e ≤ t ∧ t < e + ms then s.capUntil (x.limitAt t) (e + ms) else s
  | none => s

/-- JOIN (21 R394) of a module configured with a notice of so many μs: the joiner is noted with its limit, and the
lowest-numbered member answers with ACCEPT; a joiner of another notice it answers with EXPEL, effective when sent. -/
def execJoin (m : CrestMsg) (notice : Nat) (s : State) : Out :=
  .next <|
    if !s.crestValid m 3 then s
    else if notice ≠ s.crest.notice then
      if s.isLowest m.sender && !s.crest.expelled then
        s.answerJoin 6 m.sender 0 s.tide.toNat
      else s
    else
      let sub := s.heardSub m.sender
      let s := s.keepLeaver m.sender
      let e := joinTide m.sent (1000 * s.crest.notice) (m.point < s.crestNow)
      let x : Member := { limit := m.point, lastHeard := s.tide.toNat, standing := .asked }
      if s.isLowest m.sender && !s.crest.expelled then
        ((s.setMember m.sender { x with standing := .member, joinAt := some e }).answerJoin 4 m.sender s.crestNow e).recrest sub
      else (s.setMember m.sender x).recrest sub

/-- ACCEPT (21 R394): the joiner is a member from the effective tide; until then a joiner runs at the lower of its own
limit and the crest that the message carries. -/
def execAccept (m : CrestMsg) (s : State) : Out :=
  .next <|
    if !s.crestValid m 4 then s
    else
      let sub := s.heardSub m.sender
      let s := s.hear m.sender
      let j := crestAbout m
      if j = s.crest.self then
        let s := s.setMember j { s.crest.own with joinAt := some m.bite, leaveAt := none, standing := .member }
        (({ s with crest := { s.crest with expelled := false } } : State).capUntil m.point m.bite).recrest 2
      else
        match find s.crest.members j with
        | some x =>
          if x.standing = .asked then (s.setMember j { x with standing := .member, joinAt := some m.bite }).recrest sub
          else s.recrest sub
        | none => s.recrest sub

/-- LEAVE (21 R394). -/
def execLeave (m : CrestMsg) (s : State) : Out :=
  .next <|
    if !s.crestValid m 5 then s
    else
      let sub := s.heardSub m.sender
      let s := s.hear m.sender
      match s.memberOf m.sender with
      | none => s.recrest sub
      | some x => (s.setMember m.sender { x with leaveAt := some m.bite }).recrest sub

/-- Removes an expelled member: the crest without it takes force as a raise (21 R393). -/
def State.removeMember (s : State) (j effective : Nat) : State :=
  match s.memberOf j with
  | none => s
  | some x =>
    ((s.setMember j { x with standing := .gone, silent := false, pend := none }).capUntil s.crestNow
      (effective + ms)).recrest 2

/-- EXPEL ends the wait of a module that has asked to join (21 R394). -/
def State.refuseJoin (s : State) (j : Nat) : State :=
  match find s.crest.members j with
  | some x => if x.standing = .asked then s.setMember j { x with standing := .gone } else s
  | none => s

/-- EXPEL (21 R393): the named module is removed at receipt; the module itself then holds the safe crest. -/
def execExpel (m : CrestMsg) (s : State) : Out :=
  .next <|
    if !s.crestValid m 6 then s
    else
      let s := s.hear m.sender
      if crestAbout m = s.crest.self then ({ s with crest := { s.crest with expelled := true } } : State).recrest 2
      else ((s.refuseJoin (crestAbout m)).removeMember (crestAbout m) m.bite).recrest 2

/-- EMERGENCY (21 R391). -/
def execEmergency (m : CrestMsg) (s : State) : Out :=
  .next <|
    if !s.crestValid m 7 then s
    else
      let s := s.hear m.sender
      match s.memberOf m.sender with
      | none => s.recrest 2
      | some x => s.emergencyOf m.sender x m.point

/-! ## Heartbeats and silence -/

/-- A HEARTBEAT is due: 50 μs after the last, of a member or of a module that was expelled (21 R392). -/
def State.beatDue (s : State) : Bool :=
  s.crest.group.isSome && (s.crest.expelled || s.crest.own.isMember s.tide.toNat)
  && decide (s.crest.lastBeat + 50000 ≤ s.tide.toNat)

/-- HEARTBEAT_SEND (21 R392). A module that was expelled asks to join instead (21 R393, R394). -/
def State.sendBeat (s : State) : State :=
  if !s.beatDue then s
  else
    let t := s.tide.toNat
    let own := s.crest.own.settle t
    let s : State := { s with crest := { s.crest with lastBeat := t } }
    if s.crest.expelled then s.sendCrest 3 0 own.limit 0 0 0
    else
      match own.pend with
      | some (l, b) => s.sendCrest 2 0 own.limit 0 b (.ofNat 8 l)
      | none => s.sendCrest 2 0 own.limit 0 0 0

/-- HEARTBEAT_SEND as a step. -/
def execHeartbeatSend (s : State) : Out := .next s.sendBeat

/-- Has a member gone silent to this one: nothing heard of it for 200 μs of its membership (21 R392)? -/
def State.silentDue (s : State) (j : Nat) : Bool :=
  let t := s.tide.toNat
  match s.memberOf j with
  | none => false
  | some x => decide (j ≠ s.crest.self) && !x.silent && x.isMember t && (s.crest.own.isMember t || s.crest.expelled)
      && decide (max x.lastHeard (x.joinAt.getD 0) + 200000 ≤ t)

/-- Counts a member as silent (21 R392). -/
def State.silence (s : State) (j : Nat) : State :=
  if s.silentDue j then (s.setMember j { look {} s.crest.members j with silent := true }).recrest 2 else s

/-- MEMBER_SILENT (21 R392). -/
def execMemberSilent (mem : Nat) (s : State) : Out := .next (s.silence mem)

/-- Does this module count itself as silent to the others? One that hears no member counts them all as silent and holds the safe crest on
its own side, so that it expels nobody (21 R392, R393; DEDUCED, log 22). -/
def State.cutOff (s : State) : Bool :=
  let others := s.crest.members.filter fun p => p.1 ≠ s.crest.self && p.2.isMember s.tide.toNat
  others ≠ [] && others.all fun p => p.2.silent

/-- Expels a member that has been silent for 2 ms, where this module is the lowest-numbered that is not silent itself
(21 R393). -/
def State.expelDue (s : State) (j : Nat) : State :=
  match s.memberOf j with
  | none => s
  | some x =>
    let t := s.tide.toNat
    if x.silent && decide (x.lastHeard + 2 * ms ≤ t) && s.isLowest j && !s.cutOff && !s.crest.expelled then
      (s.sendCrest 6 (.ofNat 8 (j / 256)) 0 (.ofNat 8 j) t 0).removeMember j t
    else s

/-- EXPEL_TIMEOUT (21 R393). -/
def execExpelTimeout (mem : Nat) (s : State) : Out := .next (s.expelDue mem)

/-- Members that have left, or all others where this module has left, are silent to it no longer: the safe crest lifts as a
raise (21 R392, R394). -/
def State.departures (s : State) : State :=
  let t := s.tide.toNat
  let gone (m : Member) : Option Nat := match m.leaveAt with | some e => if e ≤ t then some e else none | none => none
  s.crest.members.foldl (fun s p =>
    if p.1 = s.crest.self || !p.2.silent then s
    else
      match (gone s.crest.own).or (gone p.2) with
      | some e => ((s.setMember p.1 { p.2 with silent := false }).capUntil s.crestNow (e + ms)).recrest 2
      | none => s) s

/-- What the crest does of itself at a tide: members depart, changes bite, members fall silent and are expelled, and the module's
heartbeat is sent (21 R388, R392, R393). -/
def State.crestTick (s : State) : State :=
  let js := (s.crest.members.map (·.1)).filter (· ≠ s.crest.self)
  let s := s.departures
  let s := if s.crest.tides.any fun x => decide (x ≤ s.tide.toNat) then s.recrest 1 else s
  let s := js.foldl (fun s j => (s.silence j).expelDue j) s
  s.sendBeat

end Sys2Proof.Machine
end

