-- ==== Sys2Proof/Machine/Records.lean ====
section
/-! DEFINITION. Partition memory as the reeve reads and writes it, launch records and their sub-tables (04 R64,
R65; 09 R188), the reeve's checks (04 R66; 09 R187, R189; 11 R215), and the completion record (04 R69). -/
namespace Sys2Proof.Machine
open Sys2Proof

/-! ## Partition memory -/

/-- The byte at a partition address; 0 where it is not mapped readable or lies in another module. -/
def State.partByte (s : State) (part va : Nat) : Byte :=
  match s.translate part va .r with
  | .ok pa => match s.localPa pa with
    | some pa => byteAt s.mem pa
    | none => 0
  | .error _ => 0

/-- `n` bytes from a partition address as one number. -/
def State.partNat (s : State) (part va : Nat) : Nat → Nat
  | 0 => 0
  | n + 1 => (s.partByte part va).toNat + 256 * s.partNat part (va + 1) n

/-- Is every byte of a range mapped with a right (20 R353)? -/
def State.mapped (s : State) (part va n : Nat) (x : Right) : Bool :=
  n = 0 || (List.range ((va % 65536 + n + 65535) / 65536)).all fun i =>
    match s.translate part (va - va % 65536 + 65536 * i) x with
    | .ok _ => true
    | .error _ => false

/-- The reeve's copy of `n` bytes between two ranges of keys; poison goes with its words (13 R266), and every word of a stack that
is shut down reads as poisoned (20 R351). -/
def State.haul (s : State) (src dst n : Nat) : State :=
  let bad := if s.stackShut src then wordsTouched src n
    else s.poison.filter fun k => decide (src < k + 8 ∧ k < src + n)
  let t : State := { s with
    mem := copyMem s.mem src dst n
    poison := s.poison.filter fun k => !decide (dst ≤ k ∧ k + 8 ≤ dst + n) }
  bad.foldl (fun t k =>
    let a := max k src
    { t with poison := (wordsTouched (dst + (a - src)) (min (k + 8) (src + n) - a)).foldl addTo t.poison }) t

/-- Copies `n` bytes from partition memory to a range of keys, page by page; a page that is no longer mapped leaves
its bytes as they were. -/
def State.haulIn (s : State) (part va dst : Nat) : Nat → Nat → State
  | _, 0 => s
  | n, f + 1 =>
    if n = 0 then s
    else
      let k := min n (65536 - va % 65536)
      let t := match s.translate part va .r with
        | .ok pa => match s.localPa pa with
          | some pa => s.haul pa dst k
          | none => s
        | .error _ => s
      t.haulIn part (va + k) (dst + k) (n - k) f

/-- Copies `n` bytes within partition memory, page by page on both sides (04 R65). -/
def State.haulPart (s : State) (part va dst : Nat) : Nat → Nat → State
  | _, 0 => s
  | n, f + 1 =>
    if n = 0 then s
    else
      let k := min n (min (65536 - va % 65536) (65536 - dst % 65536))
      let t := match s.translate part va .r, s.translate part dst .w with
        | .ok a, .ok b => match s.localPa a, s.localPa b with
          | some a, some b => if s.stackShut b then s else s.haul a b k
          | _, _ => s
        | _, _ => s
      t.haulPart part (va + k) (dst + k) (n - k) f

/-- Writes 8 bytes at a partition address. -/
def State.partWrite8 (s : State) (part va : Nat) (x : Word) : State :=
  match s.translate part va .w with
  | .ok pa => match s.localPa pa with
    | some pa => s.physWrite pa 8 x.toNat
    | none => s
  | .error _ => s

/-! ## The record -/

/-- The fields of a launch record (04 R64). -/
def State.readRecord (s : State) (part a : Nat) : LaunchRec :=
  let f (off n : Nat) : Nat := s.partNat part (a + off) n
  { tiles := f 0x00 2, mode := .ofNat 8 (f 0x02 1), prio := f 0x03 1, codelen := f 0x04 4, code := f 0x08 8
    binds := f 0x10 8, nbinds := f 0x18 4, wqshare := f 0x1C 4, spill := f 0x20 8, spillsize := f 0x28 8
    groups := f 0x30 8, ngroups := f 0x38 4, nmbox := f 0x3C 4, mboxes := f 0x40 8, tasks := f 0x48 8
    ntasks := f 0x50 4, nout := f 0x54 4, outs := f 0x58 8, arg := word (f 0x60 8), quota := f 0x68 8
    images := f 0x70 8, done := f 0x78 8 }

/-- The logical tile, core and slot that a binding word or a table word names, as tile × 4 + core, and the slot. -/
def bindCore (e : Word) : Nat := bits e 31 20
/-- The slot of a binding. -/
def bindSlot (e : Word) : Nat := bits e 19 16
/-- The logical slot number of a binding (04 R79). -/
def bindLog (e : Word) : Nat := bits e 31 16
/-- The engine of a binding. -/
def bindEngine (e : Word) : Engine :=
  match bits e 15 14 with
  | 0 => .scalar | 1 => .vector | 2 => .matrix | _ => .copy

/-- Entry i of a table of 16-byte entries. -/
def State.entry16 (s : State) (part table i : Nat) : Word × Word :=
  (word (s.partNat part (table + 16 * i) 8), word (s.partNat part (table + 16 * i + 8) 8))

/-- Entry i of the binding table. -/
def State.bindAt (s : State) (part : Nat) (r : LaunchRec) (i : Nat) : Word := word (s.partNat part (r.binds + 8 * i) 8)

/-- Entry i of a barrier program (09 R188). -/
def State.barrierAt (s : State) (part prog i : Nat) : Barrier :=
  let f (off n : Nat) : Nat := s.partNat part (prog + 16 * i + off) n
  let fl := f 0x0A 1
  { mask := .ofNat 64 (f 0 8), count := f 8 2, link := fl.testBit 0, loop := fl.testBit 1, endloop := fl.testBit 2
    stop := fl.testBit 3, tag := f 0x0C 2 % 4096 }

/-- The group of descriptor i, as it stands at launch start (04 R64; 09 R187); its region is set at dispatch. -/
def State.groupAt (s : State) (part : Nat) (r : LaunchRec) (i : Nat) : Group :=
  let d := r.groups + 32 * i
  let f (off n : Nat) : Nat := s.partNat part (d + off) n
  let cnt := min (f 1 1) 64
  let mt := f 8 8
  { num := f 0 1, members := (List.range cnt).map fun k => s.partNat part (mt + 2 * k) 2
    prog := (List.range (min (f 24 4) 1024)).map fun k => s.barrierAt part (f 16 8) k
    region := 0, phase := List.replicate cnt 0, edges := List.replicate cnt none }

/-- Entry i of the image table (04 R65). -/
def State.imageEntryAt (s : State) (part table i : Nat) : ImageEntry :=
  let f (off n : Nat) : Nat := s.partNat part (table + 32 + 32 * i + off) n
  ⟨word (f 0 8), f 8 4, f 0x0C 1, f 0x10 8⟩

/-- The number of entries of the image table. -/
def State.imageCount (s : State) (part : Nat) (r : LaunchRec) : Nat :=
  if r.images = 0 then 0 else s.partNat part r.images 8

/-- The sub-tables of a record (04 R64). -/
def State.readPlan (s : State) (part : Nat) (r : LaunchRec) : Plan :=
  { binds := (List.range r.nbinds).map fun i => s.bindAt part r i
    groups := (List.range r.ngroups).map fun i => s.groupAt part r i
    mboxes := (List.range r.nmbox).map fun i => s.entry16 part r.mboxes i
    tasks := (List.range r.ntasks).map fun i => s.entry16 part r.tasks i
    outs := (List.range r.nout).map fun i => s.entry16 part r.outs i
    images := (List.range (s.imageCount part r)).map fun i => s.imageEntryAt part r.images i }

/-! ## Locators -/

/-- The size of the user part of a store by its SP code (05 R112; 04 R65). -/
def userSize (code : Nat) : Nat := if code = 0 then 0x70000 else spSize (spOfCode code)

/-- Is a value the locator of a range of n bytes of a launch of some tiles (04 R65, R74)? -/
def locatorOk (tiles : Nat) (x : Word) (n : Nat) : Bool :=
  let code := bits x 63 60
  if code = 5 then bits x 59 57 = 0 && decide (bits x 56 0 + n ≤ 2 ^ 57)
  else
    decide (code ≤ 3 ∧ bits x 59 50 < tiles ∧ bits x 47 0 + n ≤ userSize code) && (code = 0 || bits x 49 48 = 0)

/-! ## The reeve's checks -/

/-- A detail word of a refusal (04 R66). -/
def refusal (kind group entry off : Nat) : Nat := kind * 2 ^ 56 + group * 2 ^ 48 + entry * 2 ^ 16 + off

/-- A failing field of the record itself. -/
def demand (ok : Bool) (d : Nat) : Option Nat := if ok then none else some d

/-- The checks of the binding table, entries in ascending index (04 R64, R78). The spec states no rule for a table that names a
slot twice, and the second entry is refused (DESIGN CHOICE, log 51). A table of more than 65,536 entries names some slot
twice, so that no entry beyond the first 65,537 is ever reached. An entry PC at or beyond CODELEN, or not a multiple of 4, is not refused
here: the table says only that it is an offset within the code, and the thread's first fetch traps (DESIGN CHOICE, log 74). -/
def State.bindFault (s : State) (part : Nat) (r : LaunchRec) : Option Nat :=
  if !s.mapped part r.binds (8 * r.nbinds) .r then some (refusal 0 0 0 0x10)
  else
    let es := (List.range (min r.nbinds 65537)).map fun i => s.bindAt part r i
    let bad (i : Nat) (e : Word) : Bool :=
      bits e 13 0 ≠ 0 || r.tiles ≤ bits e 31 22
      || (es.take i).any (fun f => bindLog f = bindLog e)
      || (bindEngine e = .vector && bindSlot e % 4 ≠ bits e 21 20)
      || (bindEngine e = .matrix
          && (es.take i).any fun f => bindEngine f = .matrix && bits f 31 22 = bits e 31 22)
    (List.range es.length).findSome? fun i => demand (!bad i (es.getD i 0)) (refusal 1 0 i 0x10)

/-- The unit of tiles that no placement splits over regions: a block of 16 in a level launch, else a quad (09 R195;
19 R327). -/
def placeUnit (level : Bool) (log : Nat) : Nat := log / 64 / (if level then 16 else 4)

/-- How many such units lie in one region. -/
def unitsPerRegion (level : Bool) : Nat := if level then 1 else 4

/-- The check of one member of a group: a slot of the launch, in no group yet, and in a region that can hold the whole group and
no other (09 R187). `earlier` are the members of the groups before, `own` those before it in this one. -/
def memberOk (tiles : Nat) (level : Bool) (earlier own : List Nat) (m : Nat) : Bool :=
  decide (m < 64 * tiles) && !decide (m ∈ earlier) && !decide (m ∈ own)
  && !(earlier.any fun x => placeUnit level x = placeUnit level m)
  && decide ((((m :: own).map (placeUnit level)).eraseDups).length ≤ unitsPerRegion level)

/-- The state of the loops before entry i of a program: is one open (09 R189)? -/
def loopOpen (es : List Barrier) : Bool :=
  es.foldl (fun o e => if e.endloop then false else o || e.loop) false

/-- The check of entry i of a barrier program (09 R188, R189). `pad` says whether its reserved bits are zero. -/
def barrierOk (members : Nat) (es : List Barrier) (pad : Bool) (i : Nat) (e : Barrier) : Bool :=
  let open_ := loopOpen (es.take i)
  pad && e.mask ≠ 0 && decide (e.mask.toNat < 2 ^ members)
  && (e.stop == decide (i + 1 = es.length))
  && ((e.count ≠ 0) == e.loop) && ((e.tag ≠ 0) == e.link)
  && !(e.loop && open_) && (!e.endloop || open_ || e.loop)

/-- The occurrences of a tag in a group's sequence. -/
def Group.tagCount (g : Group) (t : Nat) : Nat := countBelow (fun e => e.link && e.tag = t) g.seq (seqLen g.seq)

/-- Do a group's link tags agree with the other groups of the launch (09 R189)? -/
def linksOk (gs : List Group) (i : Nat) (g : Group) : Bool :=
  g.prog.all fun e =>
    !e.link ||
      (let others := ((List.range gs.length).filter (· ≠ i)).filterMap fun j =>
          (gs[j]?).bind fun h => if h.prog.any (fun f => f.link && f.tag = e.tag) then some h else none
       others ≠ [] && others.all fun h => h.tagCount e.tag = g.tagCount e.tag)

/-- The checks of a program as a whole (09 R189). -/
def programOk (gs : List Group) (i : Nat) (g : Group) : Bool :=
  !loopOpen g.prog && (List.range g.members.length).all (fun k => g.prog.any fun e => e.holds k)
  && decide (seqLen g.seq ≤ 2 ^ 32 - 1) && linksOk gs i g

/-- The checks of group descriptor i: the descriptor, its members, its program entry by entry, then the program as a
whole (04 R66). The spec does not say what two descriptors of one group number are; the second is refused (DESIGN CHOICE,
log 51). -/
def State.groupFault (s : State) (part : Nat) (r : LaunchRec) (gs : List Group) (i : Nat) : Option Nat :=
  let d := r.groups + 32 * i
  let f (off n : Nat) : Nat := s.partNat part (d + off) n
  let g := gs.getD i { num := 0, members := [], prog := [], region := 0 }
  let cnt := f 1 1
  let ne := f 24 4
  let bp := f 16 8
  let level := r.mode.getLsbD 1
  let earlier := (gs.take i).flatMap (·.members)
  let descOk : Bool :=
    decide (f 0 1 ≤ 3 ∧ 1 ≤ cnt ∧ cnt ≤ 64 ∧ 1 ≤ ne ∧ ne ≤ 1024) && bp % 16 = 0 && f 2 6 = 0 && f 28 4 = 0
    && !((gs.take i).any fun h => h.num = g.num)
    && s.mapped part (f 8 8) (2 * cnt) .r && s.mapped part bp (16 * ne) .r
  (demand descOk (refusal 1 0 i 0x30)).or
  (((List.range cnt).findSome? fun k =>
      demand (memberOk r.tiles level earlier (g.members.take k) (g.members.getD k 0)) (refusal 2 i k 0x30)).or
  (((List.range ne).findSome? fun k =>
      let a := bp + 16 * k
      let pad := s.partNat part (a + 0x0A) 1 < 16 && s.partNat part (a + 0x0B) 1 = 0
        && s.partNat part (a + 0x0C) 4 < 4096
      demand (barrierOk cnt g.prog pad k (s.barrierAt part bp k)) (refusal 3 i k 0x30)).or
  (demand (programOk gs i g) (refusal 4 i 0 0x30))))

/-- The checks of the group table. -/
def State.groupsFault (s : State) (part : Nat) (r : LaunchRec) : Option Nat :=
  if !s.mapped part r.groups (32 * r.ngroups) .r then some (refusal 0 0 0 0x30)
  else
    let k := min r.ngroups 5
    let gs := (List.range k).map fun i => s.groupAt part r i
    (List.range k).findSome? fun i => s.groupFault part r gs i

/-- The check of a mailbox or task address word: only the tile, the core and the bits of `low` may be set. -/
def coreWordOk (tiles low : Nat) (x : Word) : Bool :=
  bits x 63 32 = 0 && bits x 19 0 ≤ low && bits x 31 22 < tiles

/-- The checks of MBOXES. -/
def State.mboxFault (s : State) (part : Nat) (r : LaunchRec) : Option Nat :=
  if !s.mapped part r.mboxes (16 * r.nmbox) .r then some (refusal 0 0 0 0x40)
  else (List.range r.nmbox).findSome? fun i =>
    demand (coreWordOk r.tiles 7 (s.entry16 part r.mboxes i).1) (refusal 1 0 i 0x40)

/-- The checks of TASKS, with the limit of 16 values a core (11 R215). -/
def State.taskFault (s : State) (part : Nat) (r : LaunchRec) : Option Nat :=
  if !s.mapped part r.tasks (16 * r.ntasks) .r then some (refusal 0 0 0 0x48)
  else
    let core (i : Nat) : Nat := bindCore (s.entry16 part r.tasks i).1
    (List.range r.ntasks).findSome? fun i =>
      demand (coreWordOk r.tiles 0 (s.entry16 part r.tasks i).1
        && decide (((List.range i).filter fun j => core j = core i).length < 16)) (refusal 1 0 i 0x48)

/-- The checks of OUTS. A range in a G store ends at the user part's end, 0x70000, and a start that is no multiple of 8 is refused: 04 R64
and R74 state no such limits for OUTS (DESIGN CHOICE, log 65). -/
def State.outFault (s : State) (part : Nat) (r : LaunchRec) : Option Nat :=
  if !s.mapped part r.outs (16 * r.nout) .r then some (refusal 0 0 0 0x58)
  else (List.range r.nout).findSome? fun i =>
    let e := s.entry16 part r.outs i
    demand (e.2 ≠ 0 && e.2.toNat % 8 = 0 && e.1.toNat % 8 = 0 && locatorOk r.tiles e.1 e.2.toNat) (refusal 1 0 i 0x58)

/-- The check of one image entry (04 R65). -/
def State.imageOk (s : State) (part tiles table i : Nat) : Bool :=
  let e := s.imageEntryAt part table i
  let f (off n : Nat) : Nat := s.partNat part (table + 32 + 32 * i + off) n
  decide (1 ≤ e.length ∧ e.length ≤ 0x1000000 ∧ e.tags < 4) && f 0x0D 3 = 0 && f 0x18 8 = 0
  && (e.tags = 0 || bits e.target 63 60 = 0) && locatorOk tiles e.target e.length
  && s.mapped part e.source e.length .r
  && (bits e.target 63 60 ≠ 5 || s.mapped part (bits e.target 56 0) e.length .w)

/-- The checks of the image table (04 R65). -/
def State.imageFault (s : State) (part : Nat) (r : LaunchRec) : Option Nat :=
  if r.images = 0 then none
  else
    let n := s.partNat part r.images 8
    if r.images % 32 ≠ 0 || !s.mapped part r.images 32 .r || s.partNat part (r.images + 8) 24 ≠ 0
        || !s.mapped part (r.images + 32) (32 * n) .r then
      some (refusal 0 0 0 0x70)
    else (List.range n).findSome? fun i => demand (s.imageOk part r.tiles r.images i) (refusal 1 0 i 0x70)

/-- The reeve's checks of a record in ascending OFFSET: the detail word of the first that fails (04 R66). The spec gives CODE
only its alignment; a code image that is not mapped readable is refused at its OFFSET (DESIGN CHOICE, log 51). -/
def State.recordFault (s : State) (part : Nat) (r : LaunchRec) : Option Nat :=
  let f (ok : Bool) (off : Nat) : Option Nat := demand ok off
  [f (decide (1 ≤ r.tiles ∧ r.tiles ≤ 1024)) 0x00,
   f (decide (r.mode.toNat < 16)) 0x02,
   f (decide (r.prio ≤ 3)) 0x03,
   f (decide (r.codelen % 32 = 0 ∧ 32 ≤ r.codelen ∧ r.codelen ≤ 0x1000000)) 0x04,
   f (r.code % 32 = 0 && s.mapped part r.code r.codelen .r) 0x08,
   s.bindFault part r,
   f (decide (1 ≤ r.nbinds ∧ r.nbinds ≤ 65536)) 0x18,
   f (decide (r.wqshare % 16 = 0 ∧ r.wqshare ≤ 256)) 0x1C,
   f (decide (r.spill % 65536 = 0 ∧ r.spill < 2 ^ 57)) 0x20,
   f (decide (r.spillsize % 65536 = 0)) 0x28,
   s.groupsFault part r,
   f (decide (r.ngroups ≤ 4)) 0x38,
   s.mboxFault part r,
   s.taskFault part r,
   f (decide (r.nout ≤ 64)) 0x54,
   s.outFault part r,
   s.imageFault part r,
   f (decide (r.done % 64 = 0 ∧ r.done < 2 ^ 57)) 0x78].findSome? id

/-! ## The completion record -/

/-- A 128-bit value as two words whose bytes in memory stand most significant first. -/
def swapped (x : BitVec 64) : Word :=
  (List.range 8).foldl (fun r i => r <<< (8 : Nat) ||| (x >>> (8 * i) &&& 0xFF)) 0

/-- Writes a completion record at DONE (04 R69). A DONE that is not 64-byte aligned names no place for it. -/
def State.writeDone (s : State) (l : Launch) (status : Nat) (dispatched : Bool) (detail : Nat) (a b : BitVec 128) : State :=
  if l.record.done % 64 ≠ 0 then s
  else
    let ws : List Word :=
      [word (status + if dispatched then 2 ^ 32 else 0), word detail,
       swapped (a.extractLsb' 64 64), swapped (a.extractLsb' 0 64),
       swapped (b.extractLsb' 64 64), swapped (b.extractLsb' 0 64), 0, 0]
    (List.range 8).foldl (fun s i => s.partWrite8 l.part (l.record.done + 8 * i) (ws.getD i 0)) s

end Sys2Proof.Machine
end

