-- ==== Sys2Proof/Machine/System.lean ====
section
/-! DEFINITION. System instructions, opcodes 0x79 to 0x7F (13 R271 to R277); the reeve calls that act on a
partition (R273, R257, R267; 20 R352; 23 R403); the release of held slots (13 R256); context writes (05 R424),
FPXSUM (13 R261) and poison (R266). -/
namespace Sys2Proof.Machine
open Sys2Proof

/-! ## SRD and SWR -/

/-- SRD (13 R272). -/
def execSrd (d : Reg) (r : BitVec 12) (s : State) : Out :=
  issue (.srd d r) s fun s => (s.setG d (s.sysRead s.cur r.toNat)).retire 8

/-- SWR (13 R272). The write that sets TICKSET is not counted (12 R240). -/
def execSwr (f : SwrForm) (d a : Reg) (r : BitVec 12) (s : State) : Out :=
  issue (.swr f d a r) s fun s =>
    let n := s.cur
    let old := s.sysRead n r.toNat
    let x := s.g a
    let new := swrNew f old x
    match s.sysRefuses n r.toNat new with
    | some .field => s.trap 0x02 15 new
    | some .hstack => s.trap 0x12 0x04 new
    | none =>
      let s := (s.sysWrite n r.toNat new x).setG d old
      if r = 0x022 then s.settle n (s.pcOf n + 8) else s.retire 8

/-- The record of a rotation in FPXSUM (13 R261): the lowest thread and the union of the subcodes. -/
def fpxRecord (l : List (Nat × Nat)) : Word :=
  let low := l.foldl (fun m p => min m p.1) 63
  let fl := l.foldl (fun m p => m ||| p.2) 0
  word (2 ^ 31 + l.length * 2 ^ 16 + (fl % 32) * 2 ^ 11 + low)

/-- FPXSUM at the end of a rotation (13 R261). -/
def Tile.updateFpx (t : Tile) : Tile :=
  if t.fpxNow = [] then t
  else
    { t with
      fpxNow := []
      fpxsum := if bit t.fpxsum 31 then t.fpxsum ||| 0x40000000 else fpxRecord t.fpxNow }

/-- FPXSUM_UPDATE (13 R261): at the end of a rotation, in its last cycle; what is left to record is recorded at the edge. -/
def execFpxsumUpdate (tile : Nat) (s : State) : Out :=
  .next <| if (s.tileAt tile).cycle % 16 = 15 then s.setTile tile (s.tileAt tile).updateFpx else s

/-- Does the reeve arm the TICKSET of image i of a core (13 R256)? A member of a level group it pre-empts only with its group, at a
safe point (09 R201). -/
def State.reeveArms (s : State) (core i : Nat) : Bool :=
  s.mayArmTick core i
  && match s.imageOwner core i with
    | some n => (match s.membership n with | some (l, _, _) => !(s.launchAt l).isLevel | none => true)
    | none => true

/-- CONTEXT_WRITE (05 R424): a write of the reeve, at hypervisor level, to a word of a core's context area. It makes none that would
arm TICKSET where it does not arm it (13 R256). -/
def execContextWrite (core off : Nat) (w : Width) (v : Word) (s : State) : Out :=
  .next <|
    if off % (w.bits / 8) ≠ 0 ∨ 0x10000 ≤ off then s
    else
      let t := s.ctxWrite core off (w.bits / 8) (v.toNat % 2 ^ w.bits) 2
      let i := off / 0x1000
      if off % 0x1000 / 8 = 0x2D ∧ bits (t.imageAt (16 * core + i)).tickset 31 0 ≠ 0 ∧ !s.reeveArms core i then s else t

/-! ## Calls -/

/-- SVC (13 R273). -/
def execSvc (n : BitVec 32) (s : State) : Out :=
  issue (.svc n) s fun s => s.trap 0x1F 0x00 (n.setWidth 64)

/-- HVC (13 R273). -/
def execHvc (n : BitVec 32) (s : State) : Out :=
  issue (.hvc n) s fun s => s.trap 0x20 0x00 (n.setWidth 64)

/-- The arguments of a reeve call: the partition and g5 to g8; none where the caller makes no such call (13 R273). -/
def State.callArgs (s : State) (num : Nat) (c : Caller) : Option (Nat × Word × Word × Word × Word) :=
  match c with
  | .slot n =>
    match (s.slotAt n).hold with
    | some h =>
      if h.cause = 0x20 ∧ h.val = word num then
        some ((s.launchOf n).part, s.gOf n 5, s.gOf n 6, s.gOf n 7, s.gOf n 8)
      else none
    | none => none
  | .image p a b c d => if (s.partAt p).started then some (p, a, b, c, d) else none

/-- The results of a reeve call: into the slot's registers, which is then released with HCTL 2, or into g5 to g8 of the
partition's image, of which those that the call does not name keep the image's values (13 R273). -/
def State.callReturn (s : State) (c : Caller) (res : List (Reg × Word)) : State :=
  match c with
  | .slot n => (res.foldl (fun s r => s.setGOf n r.1 r.2) s).hctl2 n
  | .image p a b c d =>
    let r (k : Nat) (x : Word) : Word := match res.find? fun y => y.1.val = k with | some y => y.2 | none => x
    s.setPart p { s.partAt p with results := [r 5 a, r 6 b, r 7 c, r 8 d] }

/-- SETVEC (13 R257). -/
def execSetvec (c : Caller) (s : State) : Out :=
  .next <|
    match s.callArgs 0x10 c with
    | none => s
    | some (p, image, off, _, _) =>
      if bits off 1 0 ≠ 0 then s.callReturn c [(5, neg 1)]
      else
        let pt := s.partAt p
        let v := if off = 0 then drop pt.vecs image.toNat else put pt.vecs image.toNat off
        (s.setPart p { pt with vecs := v }).callReturn c [(5, 0)]

/-- UNPARK (13 R267). -/
def execUnpark (c : Caller) (s : State) : Out :=
  .next <|
    match s.callArgs 0x11 c with
    | none => s
    | some (p, x, _, _, _) =>
      let n := x.toNat
      if slotExists n ∧ (s.slotAt n).state = .parked ∧ (s.slotAt n).launch ≠ 0 ∧ (s.launchOf n).part = p then
        ((s.setSlot n { s.slotAt n with state := .stopped }).answerStop n).callReturn c [(5, 0)]
      else s.callReturn c [(5, neg 1)]

/-- SETROOT (20 R352; 13 R273). -/
def execSetroot (c : Caller) (s : State) : Out :=
  .next <|
    match s.callArgs 0x12 c with
    | none => s
    | some (p, x, _, _, _) =>
      let pt := s.partAt p
      if x.toNat % 4096 = 0 ∧ pt.allots x.toNat 4096 then
        (s.setPart p { pt with root := some x.toNat }).callReturn c [(5, 0)]
      else s.callReturn c [(5, neg 1)]

/-- DBPOP (23 R403; 13 R273). -/
def execDbpop (c : Caller) (s : State) : Out :=
  .next <|
    match s.callArgs 0x14 c with
    | none => s
    | some (p, _, _, _, _) =>
      match (s.partAt p).doorbell with
      | x :: r => (s.setPart p { s.partAt p with doorbell := r }).callReturn c [(5, x), (6, 0)]
      | [] => s.callReturn c [(6, neg 1)]

/-! ## TRET, TKILL -/

/-- TRET (13 R274). -/
def execTret (next : Bool) (s : State) : Out :=
  issue (.tret next) s fun s =>
    let n := s.cur
    let s := s.setImg n (s.img n).leave
    if next then s.skipAt n else s

/-- TKILL (13 R275). -/
def execTkill (d a : Reg) (s : State) : Out :=
  issue (.tkill d a) s fun s =>
    let x := (s.g a).toNat
    let n := 16 * coreOf s.cur + x
    if 15 < x ∨ n = s.cur then s.answer d (neg 3)
    else if (s.slotAt n).state = .parked then s.answer d 1
    else if (s.slotAt n).state ≠ .live then s.answer d (neg 1)
    else
      let t := s.killSlot n
      if t.isLive t.cur then t.answer d 0 else t

/-! ## PAIR -/

/-- The first turn of slot n after two empty ones from its next turn on (13 R276). -/
def State.twoRotations (s : State) (n : Nat) : Nat :=
  let c := s.now n
  c + (slotIdx n + 16 - c % 16) % 16 + 32

/-- Pairs the leader n with the slot 8 above (13 R276). Its two empty turns count for its watchdog (04 R81), and a trailer on a
pump-class core acts for the launch, as a slot that its thread has started (20 R348). -/
def State.pairOn (s : State) (n : Nat) : State :=
  let m := n + 8
  let im := s.img n
  let first := s.twoRotations n
  let s := s.setImg n { im with paircfg := word (32 + slotIdx m) }
  let s := s.setImg m { im with paircfg := word (16 + slotIdx n) }
  let s := s.setSlot n { s.slotAt n with pairDue := none, issueFrom := first }
  (s.noteBegun (s.slotAt n).launch m).setSlot m
    { s.slotAt m with
      state := .live, engine := (s.slotAt n).engine, launch := (s.slotAt n).launch
      logSlot := s.logicalOf m, wait := none, hold := none, pending := [], turnFrom := first + 8, issueFrom := 0, starting := false
      mirror := none }

/-- Ends the pair that n leads (13 R276). -/
def State.pairOff (s : State) (n : Nat) : State :=
  let m := n + 8
  let s := s.setImg n { s.img n with paircfg := 0 }
  let s := s.setImg m { s.img m with paircfg := 0 }
  let s := s.setSlot n { s.slotAt n with pairDue := none }
  s.leaveRotation m .stopped

/-- Slot n stands between two instructions. -/
def State.betweenInstrs (s : State) (n : Nat) : Bool :=
  let sl := s.slotAt n
  sl.state = .live && sl.hold.isNone && sl.wait.isNone && decide (sl.issueFrom ≤ s.now n)

/-- Makes a pairing or its end that was asked for, once slot n stands at a boundary. -/
def State.pairBoundary (s : State) (n : Nat) : State :=
  match (s.slotAt n).pairDue with
  | none => s
  | some on =>
    if s.betweenInstrs n then
      let s := s.settleSnap n
      if on then s.pairOn n else s.pairOff n
    else s

/-- PAIR (13 R276). -/
def execPair (off : Bool) (d a : Reg) (s : State) : Out :=
  issue (.pair off d a) s fun s =>
    let k := (s.g a).toNat
    let n := s.cur + k
    if k < 1 ∨ 7 < k then s.answer d (neg 3)
    else if off then
      if bit (s.img n).paircfg 5 then
        ((s.setSlot n { s.slotAt n with pairDue := some false }).answer d 0).pairBoundary n
      else s.answer d (neg 1)
    else if (s.slotAt n).state ≠ .live ∨ (s.slotAt (n + 8)).state ≠ .free ∨ s.imageTaken (n + 8) (s.imageKey (n + 8) % 16) ∨ (s.partner n).isSome then
      s.answer d (neg 1)
    else if (s.slotAt n).engine = .matrix then s.answer d (neg 2)
    else ((s.setSlot n { s.slotAt n with pairDue := some true }).answer d 0).pairBoundary n

/-! ## The reeve and a held slot -/

/-- The reeve's own TICK for time-sharing (13 R256). -/
def State.reeveTick (s : State) (n : Nat) (h : Hold) : Bool :=
  h.cause = 0x16 && (s.slotAt n).tickByReeve && !(s.slotAt n).tickWritten

/-- The slot was held by a double trap (13 R254). -/
def State.doubleTrap (s : State) (n : Nat) : Bool := s.level n = 1 && bit (s.img n).tstatus 4

/-- The numbers of the reeve calls (13 R273). -/
def isCall (x : Word) : Bool := decide (0x10 ≤ x.toNat ∧ x.toNat ≤ 0x16)

/-- HCTL_RESUME (13 R256): after a cause that the reeve owns and has dealt with, its own TICK or a PAGE that it pages; a
trap that reached it as a double trap alone is not resumed. -/
def execHctlResume (slot : Nat) (s : State) : Out :=
  .next <|
    match (s.slotAt slot).hold with
    | some h =>
      if (s.reeveTick slot h ∨ h.cause = 0x0C)
          ∧ ((s.img slot).tvec = 0 ∨ bit (s.img slot).tdeleg h.cause ∨ !s.doubleTrap slot) then s.writeHctl slot 1
      else s
    | none => s

/-- HCTL_NEXT (13 R256, R273): after an HVC with an unknown number, which returns g5 = −1. -/
def execHctlNext (slot : Nat) (s : State) : Out :=
  .next <|
    match (s.slotAt slot).hold with
    | some h => if h.cause = 0x20 ∧ !isCall h.val then (s.setGOf slot 5 (neg 1)).writeHctl slot 2 else s
    | none => s

/-- HCTL_REFLECT (13 R256): a delegated cause that the reeve does not own. -/
def execHctlReflect (slot : Nat) (s : State) : Out :=
  .next <|
    match (s.slotAt slot).hold with
    | some h =>
      if (s.img slot).tvec ≠ 0 ∧ h.cause ≠ 0x20 ∧ bit (s.img slot).tdeleg h.cause ∧ !s.reeveTick slot h
          ∧ !s.doubleTrap slot then s.writeHctl slot 3
      else s
    | none => s

/-- HCTL_PARK (13 R256). -/
def execHctlPark (slot : Nat) (s : State) : Out := .next (s.writeHctl slot 4)

/-- HCTL_FAULT (13 R256; 07 R150): without a vector every cause that the reeve does not own, and a double trap. -/
def execHctlFault (slot : Nat) (s : State) : Out :=
  .next <|
    match (s.slotAt slot).hold with
    | some h =>
      if h.cause ≠ 0x20 ∧ !s.reeveTick slot h ∧ ((s.img slot).tvec = 0 ∨ s.doubleTrap slot) then s.writeHctl slot 5
      else s
    | none => s

/-! ## Poison -/

/-- The key of the 64-bit word that a place names (13 R266). -/
def Place.key (p : Place) : Nat :=
  wordKey (match p with
    | .g core off => (gLoc core off).key
    | .a t off => (⟨.a, t, off⟩ : Loc).key
    | .c t off => (⟨.c, t, off⟩ : Loc).key
    | .w t off => (⟨.w, t, off⟩ : Loc).key
    | .dram pa => pa
    | .code l off => codeKey l + off)

/-- Die, region, tile and core of a place in an error record (23 R412). A first-tier pump-class core and a stack stand on a die (20
R347, R350). -/
def Place.bytes : Place → List Nat
  | .g core _ =>
    if core < 4096 then [core / 1024, core / 64 % 16, core / 4 % 16, core % 4, 255]
    else [(pumpDie (core - 4096)).getD 255, 255, 255, 255, 255]
  | .dram pa => [if pa < stackTop then stackDie pa else 255, 255, 255, 255, 255]
  | .a t _ | .c t _ | .w t _ => [t / 256, t / 16 % 16, t % 16, 255, 255]
  | _ => [255, 255, 255, 255, 255]

/-- The offset or address of a place. -/
def Place.addr : Place → Nat
  | .g _ off | .a _ off | .c _ off | .w _ off | .code _ off => off
  | .dram pa => pa

/-- POISON (13 R266; 23 R412): a word cannot be corrected; the error record has the subcode of its store and the syndrome. -/
def execPoison (p : PoisonEvent) (s : State) : Out :=
  .next (({ s with poison := addTo s.poison (Place.key p.place) } : State).errorRecord 1 (Place.bytes p.place) 0x1D p.sub.toNat
    p.syn (word (Place.addr p.place)) 0)

end Sys2Proof.Machine
end

