-- ==== Sys2Proof/Machine/Launch.lean ====
section
/-! DEFINITION. Launches (04 R67 to R74, R79; 22 R399, R400): the reeve calls SUBMIT, CANCEL and PUMPRUN, placement,
dispatch, launch start, completion, witness mode and the output digest, and context switches (04 R80). -/
namespace Sys2Proof.Machine
open Sys2Proof

/-! ## Finding launches -/

/-- The newest launch of a partition's record address that has not completed (04 R68; 22 R399). -/
def State.launchOfRecord (s : State) (part a : Nat) : Option Nat :=
  (s.launches.foldl (fun (m : Option (Nat × Nat)) p =>
    if p.2.part = part ∧ p.2.recAddr = a ∧ p.2.phase ≠ .done then
      match m with
      | some (_, o) => if o ≤ p.2.order then some (p.1, p.2.order) else m
      | none => some (p.1, p.2.order)
    else m) none).map (·.1)

/-- The place in the order of submission of the next record. -/
def State.nextOrder (s : State) : Nat := s.launches.foldl (fun m p => max m (p.2.order + 1)) 1

/-- Is a launch id free: never used, or its launch has completed? -/
def State.idFree (s : State) (l : Nat) : Bool :=
  match find s.launches l with
  | some lc => lc.phase = .done
  | none => true

/-- The id of the next launch: 16 bits and not 0, the first free one from `nextLaunch` on (13 R259). -/
def State.newId (s : State) : Option Nat :=
  ((List.range 65535).map fun k => (s.nextLaunch - 1 + k) % 65535 + 1).find? s.idFree

/-- The oldest queued record of a launch queue (04 R67). -/
def State.queueHead (s : State) (prio : Nat) : Option Nat :=
  (s.launches.foldl (fun (m : Option (Nat × Nat)) p =>
    if p.2.phase = .queued ∧ p.2.record.prio = prio then
      match m with
      | some (_, o) => if p.2.order < o then some (p.1, p.2.order) else m
      | none => some (p.1, p.2.order)
    else m) none).map (·.1)

/-! ## SUBMIT and CANCEL -/

/-- Queues a record, or refuses it with its completion record (04 R66): the state after and SUBMIT's status. -/
def State.submitAt (s : State) (part a : Nat) : State × Word :=
  if a % 64 ≠ 0 ∨ !s.mapped part a 128 .r then (s, neg 1)
  else
    let r := s.readRecord part a
    let held := s.launches.countP fun p => p.2.phase = .queued && p.2.part = part && p.2.record.prio = r.prio
    if r.prio ≤ 3 ∧ 256 ≤ held then (s, neg 2)
    else
      match s.newId with
      | none => (s, neg 2)
      | some l =>
        let lc : Launch := { part := part, recAddr := a, record := r, order := s.nextOrder }
        match s.recordFault part r with
        | some d => (s.writeDone { lc with phase := .done } 6 false d 0 0, 1)
        | none => ({ s.setLaunch l lc with nextLaunch := l % 65535 + 1 }, 0)

/-- SUBMIT (13 R273; 04 R66, R67). -/
def execSubmit (c : Caller) (s : State) : Out :=
  .next <|
    match s.callArgs 0x15 c with
    | none => s
    | some (p, a, _, _, _) =>
      let r := s.submitAt p a.toNat
      r.1.callReturn c [(5, r.2)]

/-- Cancels a launch (04 R68). -/
def State.cancelLaunch (s : State) (l : Nat) : State :=
  let lc := s.launchAt l
  match lc.phase with
  | .queued => (s.setLaunch l { lc with phase := .done }).writeDone lc 2 false 0 0 0
  | .done => s
  | _ => s.killLaunch l

/-- CANCEL (13 R273; 04 R68). -/
def execCancel (c : Caller) (s : State) : Out :=
  .next <|
    match s.callArgs 0x16 c with
    | none => s
    | some (p, a, _, _, _) =>
      match s.launchOfRecord p a.toNat with
      | none => s.callReturn c [(5, neg 1)]
      | some l => (s.cancelLaunch l).callReturn c [(5, 0)]

/-! ## Pump-class slots of a launch -/

/-- Starts a pump-class slot for a launch (22 R399): at user level, bound to copy, with its number in g5. From then on it acts for that
launch, and for no other whose thread had started it (20 R348). -/
def State.startPump (s : State) (l : Nat) (b : PumpBind) : State :=
  let n := 0x10000 + b.slot
  let s : State := { s with launches := s.launches.map fun p => (p.1, if p.1 = l then p.2 else { p.2 with begun := delFrom p.2.begun n }) }
  let s := s.setSlot n { launch := l, logSlot := .ofNat 16 b.slot, bound := true }
  s.startSlot n .copy b.entry (word b.slot) b.arg (s.now n - s.now n % 16 + 32 + slotIdx n)

/-- Is a pump-class slot bound to a launch that has not completed (22 R399)? One that a thread of a launch has started, and that is not
FREE, acts for that launch and counts as bound to it (20 R348; DEDUCED, log 81); so does one whose image another slot uses (log 73). -/
def State.pumpBound (s : State) (x : Nat) : Bool :=
  let n := 0x10000 + x
  (s.launches.any fun p => p.2.phase ≠ .done
    && (p.2.pumps.any (fun b => b.slot = x) || (decide (n ∈ p.2.begun) && (s.slotAt n).state ≠ .free)))
  || s.imageTaken n (slotIdx n)

/-- Does a pump-class slot stand on a die that is shut down, out of service until module reset (20 R351)? -/
def State.pumpShut (s : State) (x : Nat) : Bool :=
  match pumpDie (x / 16) with
  | some d => (s.dieAt d).shut
  | none => false

/-- Has a launch been killed, or ended by a fatal fault, so that it runs no more threads (04 R68, R69)? -/
def Launch.ending (l : Launch) : Bool := l.killed || (l.fault.isSome && l.closed)

/-- The status of PUMPRUN and the launch it binds to (22 R399). A slot on a die that is shut down is taken as one that is not allotted
(20 R351; DESIGN CHOICE, log 72), and a launch that a kill or a fatal fault ends as one that does not run. -/
def State.pumpCheck (s : State) (part : Nat) (a x entry : Word) : Word × Nat :=
  if 4864 ≤ x.toNat ∨ x.toNat ∉ (s.partAt part).pumpSlots ∨ s.pumpBound x.toNat ∨ s.pumpShut x.toNat then (neg 1, 0)
  else
    match s.launchOfRecord part a.toNat with
    | none => (neg 2, 0)
    | some l =>
      let lc := s.launchAt l
      if lc.ending then (neg 2, 0)
      else if entry.toNat % 4 ≠ 0 ∨ lc.record.codelen ≤ entry.toNat then (neg 3, 0)
      else if 16 ≤ lc.pumps.length then (neg 4, 0)
      else (0, l)

/-! ## Placement -/

/-- The column of a logical tile's place, less that of its quad's block (09 R195; 19 R327). -/
def quadX (t : Nat) : Nat := t % 2
/-- The row of a logical tile's place within its quad's block. -/
def quadY (t : Nat) : Nat := t % 4 / 2

/-- The tile index within a region of position j of the block at (bx, by) (01 R6; 09 R195). -/
def blockTile (bx by_ t : Nat) : Nat := 4 * (2 * by_ + quadY t) + 2 * bx + quadX t

/-- Does logical tile t stand where a quad puts it: in the region and on the 2 × 2 block of its quad's first tile
(19 R327)? -/
def quadOk (place : List Nat) (t : Nat) : Bool :=
  let p := place.getD t 0
  let f := place.getD (t - t % 4) 0 % 16
  regionOf p = regionOf (place.getD (t - t % 4) 0) && p % 16 = blockTile (f % 4 / 2) (f / 8) t

/-- Does logical tile t stand where a level launch puts it (09 R195)? -/
def levelOk (place : List Nat) (t : Nat) : Bool :=
  let q := t % 16 / 4
  let p := place.getD t 0
  regionOf p = regionOf (place.getD (t - t % 16) 0) && p % 16 = blockTile (q % 2) (q / 2) t

/-- The regions of a placement. -/
def regionsOf (place : List Nat) : List Nat := (place.map regionOf).eraseDups

/-- The region of a group under a placement. -/
def groupRegion (place : List Nat) (g : Group) : Nat := regionOf (place.getD (g.members.headD 0 / 64) 0)

/-- Work-queue entries of a region given to launches (04 R82). -/
def Region.shared (r : Region) : Nat := (r.shares.map fun p => p.2.size).sum

/-- Sluice groups of running launches in a region (09 R187). -/
def State.groupsIn (s : State) (r : Nat) : Nat :=
  (s.launches.map fun p => if p.2.phase = .saved then 0 else p.2.groups.countP fun g => g.region = r).sum

/-- May a launch stand on a placement now (04 R71; 09 R187, R195; 19 R327; 20 R351; 21 R374)? -/
def State.placeOk (s : State) (lc : Launch) (gs : List Group) (place : List Nat) : Bool :=
  decide (place.length = lc.record.tiles) && decide place.Nodup
  && place.all (fun p => decide (p < 1024) && (s.tileAt p).launch.isNone && !(s.regionAt (regionOf p)).outOfService
      && !(s.dieAt (dieOf p)).shut)
  && lc.pumps.all (fun b => !s.pumpShut b.slot)
  && (List.range place.length).all (fun t => quadOk place t && (!lc.isLevel || levelOk place t))
  && gs.all (fun g => g.members.all fun m => regionOf (place.getD (m / 64) 0) = groupRegion place g)
  && decide (gs.map (groupRegion place)).Nodup
  && (regionsOf place).all (fun r => decide ((s.regionAt r).shared + lc.record.wqshare ≤ 256
      ∧ s.groupsIn r + (gs.filter fun g => groupRegion place g = r).length ≤ 4))

/-! ## Which record is dispatched -/

/-- The room that a region has for a launch: the free blocks that hold a whole unit of its placement, those that hold only its
last, incomplete unit, and whether a sluice context is free. -/
structure Room where
  full : Nat := 0
  part : Nat := 0
  grp : Bool := false
deriving DecidableEq, Repr

/-- The blocks of a region that a unit of a placement takes, each in the order of the unit's tiles: the four 2 × 2 blocks, or in a
level launch the whole region (09 R195; 19 R327). -/
def unitBlocks (level : Bool) : List (List Nat) :=
  let quad (q : Nat) : List Nat := (List.range 4).map fun j => blockTile (q % 2) (q / 2) j
  if level then [(List.range 4).flatMap quad] else (List.range 4).map quad

/-- The room that region r has for a launch now. -/
def State.roomAt (s : State) (lc : Launch) (r : Nat) : Room :=
  let g := s.regionAt r
  let last := lc.record.tiles % (if lc.isLevel then 16 else 4)
  let free (ts : List Nat) : Bool := ts.all fun t => (s.tileAt (16 * r + t)).launch.isNone
  if g.outOfService || (s.dieAt (r / 16)).shut || decide (256 < g.shared + lc.record.wqshare) then {}
  else
    { full := (unitBlocks lc.isLevel).countP free
      part := if last = 0 then 0 else (unitBlocks lc.isLevel).countP fun b => !free b && free (b.take last)
      grp := decide (s.groupsIn r < 4) }

/-- Takes whole units and the incomplete one (0 or 1) out of a region's room; none where it does not hold them. -/
def Room.take (r : Room) (full part : Nat) : Option Room :=
  if full ≤ r.full ∧ part ≤ r.part then some { full := r.full - full, part := r.part - part }
  else if full + part ≤ r.full then some { full := r.full - full - part, part := r.part }
  else none

/-- Do the groups' units, each group in a region of its own, and then the other units fit into some regions? -/
def unitsFit : List (Nat × Nat) → Nat × Nat → List Room → Bool
  | [], rest, rs =>
    let f := (rs.map (·.full)).sum
    let p := (rs.map (·.part)).sum
    if rest.2 ≤ p then decide (rest.1 ≤ f) else decide (rest.1 + rest.2 ≤ f)
  | g :: gs, rest, rs =>
    rs.eraseDups.any fun r =>
      match (if r.grp then r.take g.1 g.2 else none) with
      | some x => unitsFit gs rest (x :: rs.erase r)
      | none => false

/-- Can a launch be placed at once (04 R67)? -/
def State.placeable (s : State) (lc : Launch) (gs : List Group) : Bool :=
  let n := if lc.isLevel then 16 else 4
  let whole := lc.record.tiles / n
  let split (us : List Nat) : Nat × Nat := (us.countP fun u => decide (u < whole), us.countP fun u => decide (whole ≤ u))
  let units := gs.map fun g => (g.members.map (placeUnit lc.isLevel)).eraseDups
  let taken := units.flatten
  lc.pumps.all (fun b => !s.pumpShut b.slot) && unitsFit (units.map split) (split ((List.range ((lc.record.tiles + n - 1) / n)).filter fun u => !decide (u ∈ taken)))
    ((List.range 64).map (s.roomAt lc))

/-! ## Setting a launch up -/

/-- The place of a byte of tile t's stores within the tile, by key; none where the key lies elsewhere. -/
def tileRel (t k : Nat) : Option Nat :=
  let g := (⟨.g, 4 * t, 0⟩ : Loc).key
  let a := (⟨.a, t, 0⟩ : Loc).key
  let c := (⟨.c, t, 0⟩ : Loc).key
  let w := (⟨.w, t, 0⟩ : Loc).key
  if g ≤ k ∧ k < g + 0x200000 then some (k - g)
  else if a ≤ k ∧ k < a + 0x200000 then some (0x200000 + (k - a))
  else if c ≤ k ∧ k < c + 0x100000 then some (0x400000 + (k - c))
  else if w ≤ k ∧ k < w + 0x100000 then some (0x500000 + (k - w))
  else none

/-- The key of a place within tile t. -/
def tileKey (t r : Nat) : Nat :=
  if r < 0x200000 then (⟨.g, 4 * t, 0⟩ : Loc).key + r
  else if r < 0x400000 then (⟨.a, t, 0⟩ : Loc).key + (r - 0x200000)
  else if r < 0x500000 then (⟨.c, t, 0⟩ : Loc).key + (r - 0x400000)
  else (⟨.w, t, 0⟩ : Loc).key + (r - 0x500000)

/-- Zeroes the stores of a tile and makes every G word full and every word whole; stamps are forgotten (04 R65). -/
def State.clearTile (s : State) (t : Nat) : State :=
  let out (k : Nat) : Bool := (tileRel t k).isNone
  { s with
    mem := s.mem.filter fun p => out p.1
    empties := s.empties.filter out
    poison := s.poison.filter out
    stamps := s.stamps.filter fun p => out p.1 }

/-- The key of a locator of a launch, for a right of its partition where it lies in DRAM (04 R74). -/
def State.locatorKey (s : State) (l : Launch) (x : Word) (right : Right) : Option Nat :=
  let code := bits x 63 60
  if code = 5 then
    match s.translate l.part (bits x 56 0) right with
    | .ok pa => s.localPa pa
    | .error _ => none
  else
    let t := l.place.getD (bits x 59 50) 0
    some (⟨spOfCode code, if code = 0 then 4 * t + bits x 49 48 else t, bits x 47 0⟩ : Loc).key

/-- Applies one image entry (04 R65). -/
def State.applyImage (s : State) (l : Launch) (e : ImageEntry) : State :=
  let fuel := 2 * (e.length / 65536) + 4
  if bits e.target 63 60 = 5 then s.haulPart l.part e.source (bits e.target 56 0) e.length fuel
  else
    match s.locatorKey l e.target .w with
    | none => s
    | some k =>
      let s := s.haulIn l.part e.source k e.length fuel
      if e.tags.testBit 0 then
        (wordsTouched k e.length).foldl (fun s w =>
          { s with empties := if e.tags.testBit 1 then delFrom s.empties w else addTo s.empties w }) s
      else s

/-- Clears the launch's stores and applies its images (04 R65). -/
def State.loadStores (s : State) (l : Nat) : State :=
  let lc := s.launchAt l
  lc.plan.images.foldl (fun s e => s.applyImage lc e) (lc.place.foldl (fun s t => s.clearTile t) s)

/-- The launch's shares of its regions' work queues, empty (04 R82). -/
def State.giveShares (s : State) (l : Nat) : State :=
  let lc := s.launchAt l
  (regionsOf lc.place).foldl (fun s r => s.setShare r l { size := lc.record.wqshare }) s

/-- The launch's groups at their start, in their regions (09 R187, R188). -/
def State.giveGroups (s : State) (l : Nat) : State :=
  let lc := s.launchAt l
  s.setLaunch l
    { lc with groups := lc.plan.groups.map fun g => { g with region := groupRegion lc.place g }, spillNext := 0 }

/-- The code region of a launch: the CODELEN bytes of its image (06 R118). -/
def State.loadCode (s : State) (l : Nat) : State :=
  let lc := s.launchAt l
  let k := codeKey l
  let s : State := { s with
    mem := clearMem s.mem k (k + 0x1000000)
    poison := s.poison.filter fun w => !decide (k ≤ w ∧ w < k + 0x1000000) }
  s.haulIn lc.part lc.record.code k lc.record.codelen (lc.record.codelen / 65536 + 2)

/-- Allots the tiles of a placement to a launch (04 R71). The windows stay closed until launch start. -/
def State.allot (s : State) (l : Nat) (place : List Nat) (plan : Plan) : State :=
  let s := s.setLaunch l { s.launchAt l with phase := .dispatched, place := place, plan := plan, closed := true }
  let s : State := { s with everDispatched := true }
  (List.range place.length).foldl (fun s i =>
    let t := place.getD i 0
    s.setTile t { s.tileAt t with launch := some l, logTile := i }) s

/-- An output word of a launch: its locator and its value (04 R73, R74). The spec does not say the value of one whose page is not
mapped readable; it is 0 (DESIGN CHOICE, log 52). -/
def State.outWord (s : State) (l : Launch) (x : Word) : Word :=
  match s.locatorKey l x .r with
  | some k => word (loadNat s.mem k 8)
  | none => 0

/-- The words of the output ranges by locator, ascending, each once (04 R74). -/
def State.outWords (s : State) (l : Launch) : List (Nat × Word) :=
  l.plan.outs.foldl (fun m e =>
    (List.range (e.2.toNat / 8)).foldl (fun m i =>
      let x := e.1 + word (8 * i)
      put m x.toNat (s.outWord l x)) m) []

/-- Saves the contents of the output ranges (04 R73). -/
def State.saveOuts (s : State) (l : Nat) : State :=
  let lc := s.launchAt l
  if lc.isWitness then s.setLaunch l { lc with outsSaved := (s.outWords lc).map fun p => (word p.1, p.2) } else s

/-- Restores the saved contents of the output ranges (04 R73). -/
def State.restoreOuts (s : State) (l : Nat) : State :=
  let lc := s.launchAt l
  lc.outsSaved.foldl (fun s p =>
    if bits p.1 63 60 = 5 then s.partWrite8 lc.part (bits p.1 56 0) p.2
    else
      match s.locatorKey lc p.1 .w with
      | some k => { s with mem := storeNat s.mem k 8 p.2.toNat, poison := delFrom s.poison k }
      | none => s) s

/-- Is the oldest record of a queue one that can be placed at once (04 R67)? -/
def State.headFits (s : State) (prio : Nat) : Bool :=
  match s.queueHead prio with
  | none => false
  | some l => s.placeable (s.launchAt l) (s.readPlan (s.launchAt l).part (s.launchAt l).record).groups

/-- May a queued launch be dispatched on a placement: is it the oldest of its queue, can it stand there, and can no higher queue's
oldest record be placed at once (04 R67)? -/
def State.canDispatch (s : State) (l : Nat) (plan : Plan) (place : List Nat) : Bool :=
  let lc := s.launchAt l
  lc.phase = .queued && s.queueHead lc.record.prio = some l && s.placeOk lc plan.groups place
  && !(List.range lc.record.prio).any s.headFits

/-- DISPATCH (04 R65, R67, R71): the reeve takes the oldest record of a queue and gives it its tiles; it loads the code
region, clears the stores and applies the images. -/
def execDispatch (launch : Nat) (placement : List Nat) (s : State) : Out :=
  .next <|
    let lc := s.launchAt launch
    let plan := s.readPlan lc.part lc.record
    if s.canDispatch launch plan placement then
      let s := ((s.allot launch placement plan).loadCode launch).loadStores launch
      ((s.giveShares launch).giveGroups launch).saveOuts launch
    else s

/-! ## Launch start -/

/-- WINnQ of a launch's own windows (07 R148; 22 R400): its id, PUMP, and every die and region. -/
def ownQ (l : Nat) : Word := word (l % 65536 * 2 ^ 32 + 2 ^ 20 + 0xFFFFF)

/-- The core windows at launch start (07 R148). -/
def startWin (l : Nat) : Vector Word 16 :=
  (((Vector.replicate 16 (0 : Word)).set 1 0x70000).set 2 0xF).set 3 (ownQ l)

/-- The tile windows at launch start (22 R400): 0 covers A, 1 covers W and 2 covers C. -/
def startTwin (l : Nat) : Vector Word 16 :=
  let v : Vector Word 16 := .replicate 16 0
  let v := ((v.set 1 0x200000).set 2 0x13).set 3 (ownQ l)
  let v := ((v.set 5 0x100000).set 6 0x33).set 7 (ownQ l)
  ((v.set 9 0x100000).set 10 0x23).set 11 (ownQ l)

/-- The mailbox of a logical core at launch start (11 R208). -/
def Plan.mailboxOf (p : Plan) (core : Nat) : Vector Word 8 :=
  p.mboxes.foldl (fun v e => if bindCore e.1 = core then v.set (Fin.ofNat 8 (bits e.1 2 0)) e.2 else v)
    (.replicate 8 0)

/-- The task list of a logical core (11 R215). -/
def Plan.tasksOf (p : Plan) (core : Nat) : List Word := (p.tasks.filter fun e => bindCore e.1 = core).map (·.2)

/-- A core of a launch at its start (07 R148; 11 R208, R215; 20 R356). -/
def startCore (l : Nat) (p : Plan) (core : Nat) : Core :=
  { win := startWin l
    mailbox := p.mailboxOf core
    ready := (Vector.replicate 4 ([] : List (Nat × Word))).set 3 ((p.tasksOf core).map fun x => (l, x)) }

/-- A tile of a launch at its start edge, as logical tile i (04 R76; 13 R261; 17 R320; 19 R326, R327; 22 R400); its
polder keeps its operating point. -/
def startTile (l i : Nat) (t : Tile) : Tile :=
  { launch := some l, logTile := i, twin := startTwin l
    mx := { mconf := .ofNat 10 (i % 4 * 16 + 2 ^ (i % 4)) }
    point := t.point, droop := t.droop, droopAt := t.droopAt, volt := t.volt }

/-- The reset state of a tile's unbound slots: FREE, at their own images (04 R77; 05 R96). -/
def State.freeSlots (s : State) (l i t : Nat) : State :=
  let s := (List.range 64).foldl (fun s k =>
    s.setSlot (64 * t + k) { launch := l, logSlot := .ofNat 16 (64 * i + k) }) s
  { s with images := s.images.filter fun p => p.1 / 64 ≠ t }

/-- Sets logical tile i of a launch to its start (04 R73, R76). -/
def State.startTileAt (s : State) (l i : Nat) : State :=
  let lc := s.launchAt l
  let t := lc.place.getD i 0
  let s := s.setTile t (startTile l i (s.tileAt t))
  let s := (List.range 4).foldl (fun s c => s.setCore (4 * t + c) (startCore l lc.plan (4 * i + c))) s
  s.freeSlots l i t

/-- Starts one slot of BINDS: its first instruction issues at E + 32 + s (04 R79). -/
def State.startBind (s : State) (l : Nat) (e : Word) : State :=
  let lc := s.launchAt l
  let n := lc.slotOf (bindLog e)
  let s := s.setSlot n { s.slotAt n with bound := true }
  s.startSlot n (bindEngine e) (word (bits e 63 32)) (word (bindLog e)) lc.record.arg (32 + bindSlot e)

/-- Does another running launch use a pump-class core, given by its core number (04 R73)? -/
def State.pumpCoreShared (s : State) (l c : Nat) : Bool :=
  s.launches.any fun q => q.1 ≠ l && (q.2.phase = .running || q.2.phase = .saved) && q.2.pumpSlots.any fun n => coreOf n = c

/-- A core without what it holds for the threads of one launch: messages, arms, ready entries, sequences and checked ranges (07 R153; 11
R208). -/
def State.withoutLaunch (s : State) (l : Nat) (c : Core) : Core :=
  { c with
    rx := c.rx.filter fun m => m.launch ≠ l
    arms := c.arms.filter fun a => a.2.launch ≠ l
    ready := c.ready.map fun q => q.filter fun x => x.1 ≠ l
    ranges := ((c.marks.filter fun m => m.1 = l).map (·.2)).foldl List.erase c.ranges
    marks := c.marks.filter fun m => m.1 ≠ l
    seqs := c.seqs.filter fun p => (s.slotAt p.1.1).launch ≠ l
    expect := c.expect.filter fun p => p.1.1 ≠ l }

/-- A shared core without what it holds for one launch; the room in its ready queue goes to the arms of others that wait for it, and to
the slots that wait in RQPOP (11 R213, R214). -/
def State.thinCore (s : State) (l c : Nat) : State := (s.setCore c (s.withoutLaunch l (s.coreAt c)).pushHeld).serveQueue c

/-- A core without message resources, ready entries and checked ranges (07 R153; 11 R208). -/
def Core.emptied (c : Core) : Core :=
  { c with rx := [], arms := [], ready := .replicate 4 [], ranges := [], marks := [], seqs := [], expect := [] }

/-- A pump-class core that acts for no other running launch returns to its start, with its windows set for the launch; a shared
one loses what it holds for the launch's own threads (04 R73; 07 R148). -/
def State.startPumpCore (s : State) (l c : Nat) : State :=
  let k := s.coreAt c
  if s.pumpCoreShared l c then s.thinCore l c
  else s.setCore c { k.emptied with win := startWin l, chans := .replicate 4 {}, fifo := [] }

/-- Binds a pump-class slot to a launch, and starts it where the launch runs, on a core that is as at the launch's start where no slot of
the launch stood on it (04 R73; 22 R399). -/
def State.bindPump (s : State) (l : Nat) (b : PumpBind) : State :=
  let lc := s.launchAt l
  let c := coreOf (0x10000 + b.slot)
  let s := s.setLaunch l { lc with pumps := lc.pumps ++ [b] }
  if lc.phase = .running ∨ lc.phase = .saved then
    (if lc.pumpSlots.any fun n => coreOf n = c then s else s.startPumpCore l c).startPump l b
  else s

/-- PUMPRUN (13 R273; 22 R399). -/
def execPumprun (c : Caller) (s : State) : Out :=
  .next <|
    match s.callArgs 0x13 c with
    | none => s
    | some (p, a, x, entry, arg) =>
      let r := s.pumpCheck p a x entry
      if r.1 = 0 then (s.bindPump r.2 ⟨x.toNat, entry, arg⟩).callReturn c [(5, 0)]
      else s.callReturn c [(5, r.1)]

/-- Starts a launch (04 R79). -/
def State.startLaunch (s : State) (l : Nat) : State :=
  let lc := s.launchAt l
  let s := s.setLaunch l { lc with phase := .running, closed := false }
  let s := (List.range lc.place.length).foldl (fun s i => s.startTileAt l i) s
  let s := lc.plan.binds.foldl (fun s e => s.startBind l e) s
  let s := ((lc.pumpSlots.map coreOf).eraseDups).foldl (fun s c => s.startPumpCore l c) s
  (lc.pumps.foldl (fun s b => s.startPump l b) s).evenPoints l

/-- LAUNCH_START (04 R76, R79). A launch that a cancel killed after its dispatch does not start (04 R68). -/
def execLaunchStart (launch : Nat) (s : State) : Out :=
  .next <|
    let lc := s.launchAt launch
    if lc.phase = .dispatched && !lc.killed && lc.fault.isNone then s.startLaunch launch else s

/-! ## The output digest -/

/-- The product with H in GF(2^128), in the bit order of GCM (04 R74). -/
def gfMulH (x : BitVec 128) : BitVec 128 :=
  ((List.range 128).foldl (fun (p : BitVec 128 × BitVec 128) i =>
    (if x.getMsbD i then p.1 ^^^ p.2 else p.1,
     if p.2.getLsbD 0 then p.2 >>> 1 ^^^ 0xE1000000000000000000000000000000 else p.2 >>> 1))
    (0, 0x6A0B3C5D8E1F2471C3A596E80B7D4F29)).1

/-- The digest of locators and words in order (04 R74). -/
def digestOf (ws : List (Nat × Word)) : BitVec 128 :=
  gfMulH ((ws.foldl (fun y p => gfMulH (y ^^^ BitVec.ofNat 128 (p.1 * 2 ^ 64 + p.2.toNat))) 0)
    ^^^ BitVec.ofNat 128 ws.length)

/-! ## Completion -/

/-- The cores that a launch's threads issue from. -/
def Launch.cores (l : Launch) : List Nat :=
  l.place.flatMap (fun t => (List.range 4).map (4 * t + ·)) ++ l.pumpSlots.map Sys2Proof.Machine.coreOf

/-- The oldest copy of a launch that stands on a failed channel, by its issuing slot (20 R361): the failed one, or one that waits
behind another launch's. -/
def State.failedCopy (s : State) (l : Nat) : Option Nat :=
  (s.launchAt l).cores.findSome? fun c =>
    let k := s.coreAt c
    (k.fifo.find? fun x => x.launch = l && chanFailed k.chans[x.ch]).map (·.slot)

/-- Every slot of the launch has ended, its stores are performed, every matrix instruction that has started is complete, and every copy
has completed or stands on a failed channel (04 R70; 19 R335; 20 R361). -/
def State.launchIdle (s : State) (l : Nat) : Bool :=
  let lc := s.launchAt l
  lc.slots.all (fun n =>
    match (s.slotAt n).state with
    | .free | .halted | .stopped => true
    | _ => (s.slotAt n).launch ≠ l)
  && (lc.cores.all fun c =>
    let k := s.coreAt c
    k.fifo.all fun x => x.launch ≠ l || chanFailed k.chans[x.ch])
  && (lc.place.all fun t => (s.tileAt t).mx.left.isNone) && s.culvert.all fun x => (s.slotAt x.slot).launch ≠ l

/-- How a run ended: its status and detail word (04 R69; 09 R203; 20 R361). -/
def State.verdict (s : State) (l : Nat) : Nat × Nat :=
  let lc := s.launchAt l
  if lc.killed then (3, 0)
  else
    match lc.fault with
    | some (n, c) => (4, n * 2 ^ 32 + c % 65536)
    | none =>
      match s.failedCopy l with
      | some n => (4, n * 2 ^ 32 + 0x0122)
      | none =>
        match lc.breach with
        | some (g, i) => (5, g * 256 + i)
        | none => (0, 0)

/-- Frees a core that a launch's threads issued from: what it holds for them, or all of it where it serves no other running launch (04
R70; 07 R153; 11 R208). -/
def State.leaveCore (s : State) (l c : Nat) : State :=
  if s.pumpCoreShared l c then s.thinCore l c else s.setCore c (s.coreAt c).emptied

/-- The waiting access of a tagged operation. -/
def TagOp.access : TagOp → AccessOp
  | .ldf => .ldf | .lde => .lde | .stf => .stf

/-- Refuses slot n's access that waits at a word of some tiles, whose stores are released: it traps with WINDOW, subcode 0x01, when the
answer reaches it (07 R150; DEDUCED, log 80). -/
def State.refuseWait (s : State) (tiles : List Nat) (n : Nat) : State :=
  match (s.slotAt n).wait with
  | some (.tagged op r l ea _) =>
    if l.tile ∈ tiles then s.block n (.globalIn ⟨op.access, 8, 1, r, [], ea, l⟩ (.window 1)) else s
  | _ => s

/-- A launch's stores are released: those that their controllers have accepted are performed, and every access of another launch that
waits at one of their words is refused, so that none reads a store that has been reused (07 R150). -/
def State.quitStores (s : State) (l : Nat) : State :=
  let tiles := (s.launchAt l).place
  let s := if s.culvert = [] then s else s.landAll fun x => x.loc.sp ≠ .dram && decide (x.loc.tile ∈ tiles)
  ((s.slots.filter fun p => p.2.launch ≠ l).map (·.1)).foldl (fun s n => s.refuseWait tiles n) s

/-- Frees a launch's tile: its checked ranges, and the matrix instructions that have not started, with the token held for them (04
R70; 07 R153; 19 R335). -/
def State.leaveTile (s : State) (t : Nat) : State :=
  let s := s.clearQueue t
  s.setTile t { s.tileAt t with launch := none, logTile := 0, aRanges := [], cRanges := [] }

/-- Releases a launch's tiles, slots, shares, groups, message resources and windows (04 R70, R77). -/
def State.releaseLaunch (s : State) (l : Nat) : State :=
  let s := s.quitStores l
  let lc := s.launchAt l
  let own := s.slotsOf l
  let s := (lc.cores.eraseDups).foldl (fun s c => s.leaveCore l c) s
  let s := own.foldl (fun s n => s.setSlot n {}) s
  let s := lc.place.foldl State.leaveTile s
  let s : State := { s with
    regions := s.regions.map fun p => (p.1, { p.2 with shares := drop p.2.shares l })
    residues := s.residues.filter fun p => p.2.launch ≠ l
    savedImages := s.savedImages.filter fun p => p.2.2.launch ≠ l }
  s.setLaunch l
    { lc with phase := .done, closed := true, groups := [], savedTiles := [], savedShares := [], begun := [], inbox := [] }

/-- Ends a launch with its completion record (04 R69, R70). -/
def State.endLaunch (s : State) (l status detail : Nat) (a b : BitVec 128) : State :=
  (s.writeDone (s.launchAt l) status true detail a b).releaseLaunch l

/-- The first run of a witness launch has ended as COMPLETE (04 R73). The power tokens that its tiles hold go back (19 R332; 21 R377). -/
def State.endFirstRun (s : State) (l : Nat) : State :=
  let s := s.quitStores l
  let lc := s.launchAt l
  let s := lc.place.foldl State.clearQueue s
  s.setLaunch l { lc with phase := .between, run := 1, closed := true, digestA := digestOf (s.outWords lc) }

/-- The end of a run (04 R70, R73). -/
def State.endRun (s : State) (l : Nat) : State :=
  let lc := s.launchAt l
  let v := s.verdict l
  if !lc.isWitness then s.endLaunch l v.1 v.2 0 0
  else if v.1 ≠ 0 then s.endLaunch l v.1 v.2 lc.digestA 0
  else if lc.run = 0 then s.endFirstRun l
  else
    let b := digestOf (s.outWords lc)
    s.endLaunch l (if lc.digestA = b then 0 else 1) 0 lc.digestA b

/-- May the run end now (04 R70)? One that a kill or a fault ended may end before its start or while it is saved. -/
def State.runOver (s : State) (l : Nat) : Bool :=
  let lc := s.launchAt l
  match lc.phase with
  | .running => s.launchIdle l
  | .dispatched | .between | .saved => (lc.killed || lc.fault.isSome) && s.launchIdle l
  | .queued | .done => false

/-- LAUNCH_COMPLETE (04 R70). -/
def execLaunchComplete (launch : Nat) (s : State) : Out :=
  .next <| if s.runOver launch then s.endRun launch else s

/-- Seeds the dike rings of a launch's regions: the tile from which the ring order goes on (04 R73; 19 R332). -/
def State.seedRings (s : State) (l seed : Nat) : State :=
  (regionsOf (s.launchAt l).place).foldl (fun s r => s.setRegion r { s.regionAt r with lastHolder := seed % 16 }) s

/-- WITNESS_SECOND_RUN (04 R73): outputs restored, every other resource as at launch start, and another seed of the dike rings;
LAUNCH_START then starts the run from new edges. -/
def execWitnessSecondRun (run : SecondRun) (s : State) : Out :=
  .next <|
    let launch := run.launch
    let lc := s.launchAt launch
    if lc.phase = .between && !lc.killed && lc.fault.isNone then
      let own := (s.slotsOf launch).filter fun n => decide (n ∈ lc.begun)
      let s := ((lc.pumpSlots.map coreOf).eraseDups).foldl (fun s c => s.leaveCore launch c) s
      let s := own.foldl (fun s n => s.setSlot n {}) s
      let s := s.setLaunch launch { lc with phase := .dispatched, breach := none, begun := [] }
      ((((s.loadStores launch).giveShares launch).giveGroups launch).restoreOuts launch).seedRings launch run.seed
    else s

/-! ## Time-sharing a slot -/

/-- No member's counted window is open and no decided release remains (09 R201). -/
def State.groupSafe (s : State) (lc : Launch) (g : Group) : Bool :=
  g.decided = [] && (!lc.isLevel || (List.range g.edges.length).all fun i =>
    match g.edges.getD i none with
    | some e => decide (e + 4096 ≤ s.memberCycle lc g i)
    | none => true)

/-- A wait that is withdrawn, so that the instruction issues again (07 R147; 08 R185; 11 R218). -/
def withdrawable : Option Wait → Bool
  | none | some .poll | some .order | some (.tagged ..) | some (.send _) | some (.recv ..) | some (.rqpop ..)
  | some (.semw _) => true
  | _ => false

/-- A wait that a save withdraws or that survives it (09 R201; 13 R263): nothing of it is under way elsewhere. -/
def saveable : Option Wait → Bool
  | some (.sluice ..) | some (.sleep _) => true
  | w => withdrawable w

/-- A slot stands between two instructions, and in no snapshot or resumption (12 R236; 13 R264). -/
def State.slotSafe (s : State) (n : Nat) : Bool :=
  let sl := s.slotAt n
  sl.state ≠ .live || (saveable sl.wait && decide (sl.issueFrom ≤ s.now n))

/-- The slot's group is at a group safe point, between instructions of every member (09 R201). -/
def State.atGroupSafe (s : State) (n : Nat) : Bool :=
  match s.membership n with
  | some (l, g, _) =>
    s.groupSafe (s.launchAt l) g && g.members.all fun m => s.slotSafe ((s.launchAt l).slotOf m)
  | none => false

/-- Does a slot's thread stand between two instructions, in no pair, with no stop asked of it and no store of it outstanding, so that
another may take its place (04 R80)? -/
def State.standsStill (s : State) (n : Nat) : Bool :=
  let sl := s.slotAt n
  sl.state = .live && saveable sl.wait && decide (sl.issueFrom ≤ s.now n) && (s.partner n).isNone && sl.pairDue.isNone
  && !sl.stopDue && !s.culvert.any fun x => x.slot = n

/-- Does a slot's thread stand at YIELD, at a TICK trap, or at a trap taken to the reeve (04 R80)? -/
def State.atSwitchPoint (s : State) (n : Nat) : Bool :=
  let sl := s.slotAt n
  sl.hold.isSome || sl.yielded
  || (bit (s.img n).tstatus 4 && bits (s.img n).cause 7 0 = 0x16 && s.pcOf n = (s.img n).tvec)

/-- May the reeve switch the slot's context now (04 R80; 13 R263)? A member of a sluice group is switched with its whole group only, at
the group's safe point (09 R201). -/
def State.canSwitch (s : State) (n : Nat) : Bool :=
  s.standsStill n && (if (s.membership n).isSome then s.atGroupSafe n else s.atSwitchPoint n)

/-- Withdraws a slot's wait, but for WAIT's and SLEEP's (13 R263; 09 R201). -/
def Slot.withdraw (x : Slot) : Slot := if withdrawable x.wait then { x with wait := none } else x

/-- What of a slot's thread stands outside its image. -/
def Slot.residue (x : Slot) : Residue :=
  { launch := x.launch, wait := x.withdraw.wait, hold := x.hold, tickDue := x.tickDue, wdDue := x.wdDue, pending := x.pending
    tickWritten := x.tickWritten, tickByReeve := x.tickByReeve }

/-- A slot that goes on with the thread of a residue; it issues at its first turn after the present cycle. -/
def Slot.resumeAs (x : Slot) (r : Residue) : Slot :=
  { x with
    wait := r.wait, hold := r.hold, tickDue := r.tickDue, wdDue := r.wdDue, pending := r.pending
    tickWritten := r.tickWritten, tickByReeve := r.tickByReeve, snap := none, resuming := false, yielded := false }

/-- Points a slot at image `i` of its core (05 R96; 13 R263). What stands outside the image of the thread that leaves is kept for it, and
what stands outside the other's returns (R265). -/
def State.pointAt (s : State) (n i : Nat) : State :=
  let s := s.finishSnap n
  let sl := s.slotAt n
  let to_ := 16 * coreOf n + i
  let rs := put s.residues (s.imageKey n) sl.residue
  let t : State := { s with residues := drop rs to_ }
  (t.setSlot n { sl.resumeAs (look {} rs to_) with sel := Fin.ofNat 16 (i + 16 - slotIdx n) }).awake n

/-- The number of the image that a slot is pointed at. -/
def State.imageNum (s : State) (n : Nat) : Nat := s.imageKey n % 16

/-- The members of a group whose threads a switch takes out or brings back, each as the logical slot, its physical slot and the image that it is
pointed at then: with member `n` every LIVE member moves on by as many images, or each returns to its own (09 R201). -/
def State.groupMoves (s : State) (lc : Launch) (g : Group) (n i : Nat) : List (Nat × Nat × Nat) :=
  if g.out = [] then
    (g.members.filter fun m => s.isLive (lc.slotOf m)).map fun m =>
      (m, lc.slotOf m, (s.imageNum (lc.slotOf m) + i + 16 - s.imageNum n) % 16)
  else g.out.map fun p => (p.1, lc.slotOf p.1, p.2)

/-- The group that a slot's place is in, whether it is in or switched out. -/
def State.groupOf (s : State) (n : Nat) : Option (Nat × Group) :=
  let l := (s.slotAt n).launch
  ((s.launchAt l).groups.find? fun g => decide ((s.slotAt n).logSlot.toNat ∈ g.members)).map fun g => (l, g)

/-- Is a switch of slot n to image i one of its whole group (09 R201): the group is in, with n's thread its member, or out and i is n's
own image? -/
def State.groupSwitch (s : State) (n i : Nat) : Option (Nat × Group) :=
  match s.groupOf n with
  | none => none
  | some (l, g) =>
    if ((s.membership n).isSome && i ≠ s.imageNum n) || decide (((s.slotAt n).logSlot.toNat, i) ∈ g.out) then some (l, g) else none

/-- Withdraws the readiness of a group's LINK entries, and notes the entries whose members all wait, which fire or become ready on the first
edge after the restore (09 R201, R202). -/
def Group.withdrawLinks (g : Group) : Group :=
  { g with
    ready := []
    withdrawn := (g.window.filter fun p => g.canFire p.1 p.2).foldl (fun w p => addTo w p.1)
      (g.ready.foldl (fun w r => addTo w r.1) g.withdrawn) }

/-- The reeve takes a sluice group out or brings it back, every member at once (09 R201, R202). -/
def State.switchGroup (s : State) (l : Nat) (g : Group) (n i : Nat) : State :=
  let ms := s.groupMoves (s.launchAt l) g n i
  let able := ms.all fun m => s.standsStill m.2.1 && (g.out = [] || s.atSwitchPoint m.2.1)
    && !s.imageHeld (coreOf m.2.1) m.2.2 (ms.map fun k => k.2.1)
  if able then
    let out := if g.out = [] then ms.map fun m => (m.1, s.imageNum m.2.1) else []
    let s := s.setGroup l { (if g.out = [] then g.withdrawLinks else g) with out := out }
    ms.foldl (fun s m => s.pointAt m.2.1 m.2.2) s
  else s

/-- CONTEXT_SWITCH (04 R80; 05 R96; 13 R263): the slot is pointed at another image, and with a member of a sluice group the whole group's
slots are (09 R201). -/
def execContextSwitch (slot : Nat) (selector : Fin 16) (s : State) : Out :=
  .next <|
    if s.canSwitch slot && !s.imageShared slot selector.val then
      match s.groupSwitch slot selector.val with
      | some (l, g) => s.switchGroup l g slot selector.val
      | none => s.pointAt slot selector.val
    else s

/-- No slot of its core is pointed at an image (05 R96). -/
def State.imageAside (s : State) (key : Nat) : Bool := decide (key < 16 * 4408) && !s.imageHeld (key / 16) (key % 16) []

/-- The reeve copies out an image that no slot is pointed at, complete as it stands (05 R99; 13 R263). -/
def State.imageOut (s : State) (key name : Nat) : State :=
  if s.imageAside key then { s with savedImages := put s.savedImages name (s.imageAt key, look {} s.residues key) } else s

/-- The reeve stores an image that it has copied out, in a place that no slot is pointed at (13 R263). -/
def State.imageIn (s : State) (key name : Nat) : State :=
  match find s.savedImages name with
  | some (im, r) =>
    if s.imageAside key then ({ s with residues := put s.residues key r } : State).setImage key im else s
  | none => s

end Sys2Proof.Machine
end

