-- ==== Sys2Proof/Machine/Flags.lean ====
section
/-! DEFINITION. Number formats, rounding and the floating-point flags (16 R282 to R295): exact values as
signed dyadic numbers, RoundTo and Narrow, and the exact operations. A quotient and a square root are kept
to at least 64 bits with a last bit that is set where they are inexact: every rounding of the formats lies
above that bit. -/
namespace Sys2Proof.Machine
open Sys2Proof

/-! ## Values and formats -/

/-- An exact value: a NaN, an infinity, or (−1)^neg · m · 2^e. -/
inductive Num
  | nan (sig : Bool)
  | inf (neg : Bool)
  | fin (neg : Bool) (m : Nat) (e : Int)
deriving DecidableEq, Repr

/-- A floating-point format (16 R283, R285): its width, its precision in bits, the exponent of its smallest
subnormal, MaxFinite as big · 2^bigE, whether it has infinities, and whether it has signalling NaNs. -/
structure Fmt where
  width : Nat
  prec : Nat
  emin : Int
  big : Nat
  bigE : Int
  infs : Bool
  sigs : Bool
deriving DecidableEq, Repr

/-- IEEE binary32. -/
def fmtF32 : Fmt := ⟨32, 24, -149, 0xFFFFFF, 104, true, true⟩
/-- IEEE binary16. -/
def fmtF16 : Fmt := ⟨16, 11, -24, 0x7FF, 5, true, true⟩
/-- bf16. -/
def fmtBf16 : Fmt := ⟨16, 8, -133, 0xFF, 120, true, true⟩
/-- OCP E4M3. -/
def fmtE4m3 : Fmt := ⟨8, 4, -9, 14, 5, false, false⟩
/-- OCP E5M2. -/
def fmtE5m2 : Fmt := ⟨8, 3, -16, 7, 13, true, false⟩
/-- The element of an MXFP4 block (16 R285). -/
def fmtE2m1 : Fmt := ⟨4, 2, -1, 3, 1, false, false⟩

/-- A format: integers of a width, or floating point (16 R282, R283). -/
inductive Form
  | int (sg : Bool) (w : Nat)
  | flt (f : Fmt)
deriving DecidableEq, Repr

/-- The format of an element type (03 R55). -/
def formOf : ET → Form
  | .i8 => .int true 8 | .i16 => .int true 16 | .i32 => .int true 32
  | .n8 => .int false 8 | .n16 => .int false 16 | .n32 => .int false 32
  | .bf16 => .flt fmtBf16 | .f16 => .flt fmtF16 | .f32 => .flt fmtF32
  | .e4m3 => .flt fmtE4m3 | .e5m2 => .flt fmtE5m2

/-- The sign bit of a format. -/
def Fmt.signBit (f : Fmt) (neg : Bool) : Nat := if neg then 2 ^ (f.width - 1) else 0
/-- The bits of +∞: the exponent all ones. -/
def Fmt.infBits (f : Fmt) : Nat := 2 ^ (f.width - 1) - 2 ^ (f.prec - 1)
/-- The canonical NaN (16 R283). -/
def Fmt.nanBits (f : Fmt) : Nat := if f.infs then f.infBits + 2 ^ (f.prec - 2) else 2 ^ (f.width - 1) - 1

/-- The bits of q · 2^lsb, where q has at most prec + 1 bits and lsb is emin or q has prec bits. -/
def Fmt.encode (f : Fmt) (neg : Bool) (q : Nat) (lsb : Int) : Nat :=
  let r : Nat × Int := if 2 ^ f.prec ≤ q then (q / 2, lsb + 1) else (q, lsb)
  let e := if r.1 < 2 ^ (f.prec - 1) then 0 else (r.2 - f.emin + 1).toNat
  f.signBit neg + e * 2 ^ (f.prec - 1) + r.1 % 2 ^ (f.prec - 1)

/-- MaxFinite with a sign. -/
def Fmt.maxBits (f : Fmt) (neg : Bool) : Nat := f.encode neg f.big f.bigE

/-- The value of the bits of a floating-point format (16 R283, R284). -/
def Fmt.decode (f : Fmt) (x : Nat) : Num :=
  let neg := decide (x / 2 ^ (f.width - 1) % 2 = 1)
  let e := x / 2 ^ (f.prec - 1) % 2 ^ (f.width - f.prec)
  let fr := x % 2 ^ (f.prec - 1)
  let top := 2 ^ (f.width - f.prec) - 1
  if f.infs && e = top then
    if fr = 0 then .inf neg else .nan (f.sigs && fr < 2 ^ (f.prec - 2))
  else if !f.infs && f.width = 8 && e = top && fr = 2 ^ (f.prec - 1) - 1 then .nan false
  else if e = 0 then .fin neg fr f.emin
  else .fin neg (2 ^ (f.prec - 1) + fr) (f.emin + (e - 1 : Nat))

/-- Are the bits a subnormal number? -/
def Fmt.isSub (f : Fmt) (x : Nat) : Bool :=
  x / 2 ^ (f.prec - 1) % 2 ^ (f.width - f.prec) = 0 && x % 2 ^ (f.prec - 1) ≠ 0

/-- Bits of a width as an integer, signed or not. -/
def intOf (sg : Bool) (w x : Nat) : Int :=
  let u := x % 2 ^ w
  if sg && 2 ^ w ≤ 2 * u then (u : Int) - 2 ^ w else u

/-- An integer as an exact value. -/
def numOfInt (x : Int) : Num := .fin (x < 0) x.natAbs 0

/-- The exact value of a lane. -/
def Form.value : Form → Nat → Num
  | .int sg w, x => numOfInt (intOf sg w x)
  | .flt f, x => f.decode x

/-- Is a lane a subnormal floating-point number? -/
def Form.isSub : Form → Nat → Bool
  | .int _ _, _ => false
  | .flt f, x => f.isSub x

/-! ## Flags -/

/-- NV (16 R292). -/
def flagNV : BitVec 5 := 16
/-- DZ. -/
def flagDZ : BitVec 5 := 8
/-- OF. -/
def flagOF : BitVec 5 := 4
/-- UF. -/
def flagUF : BitVec 5 := 2
/-- NX. -/
def flagNX : BitVec 5 := 1

/-! ## Rounding -/

/-- The magnitude m · 2^−k rounded to an integer, and whether that is exact (16 R288). -/
def roundShift (rm : RM) (neg : Bool) (m k : Nat) : Nat × Bool :=
  let q := m / 2 ^ k
  let r := m % 2 ^ k
  if r = 0 then (q, true)
  else
    let up : Bool := match rm with
      | .rtz => false
      | .rup => !neg
      | .rdn => neg
      | _ => 2 ^ k < 2 * r || (2 * r = 2 ^ k && q % 2 = 1)
    (if up then q + 1 else q, false)

/-- m · 2^e on the grid of multiples of 2^lsb. -/
def roundAt (rm : RM) (neg : Bool) (m : Nat) (e lsb : Int) : Nat × Bool :=
  if lsb ≤ e then (m * 2 ^ (e - lsb).toNat, true) else roundShift rm neg m (lsb - e).toNat

/-- The exponent of the last place of m · 2^e at a precision, without a lower bound. -/
def lastPlace (prec m : Nat) (e : Int) : Int := e + Nat.log2 m + 1 - prec

/-- m · 2^e is greater than n · 2^f. -/
def dyadGt (m : Nat) (e : Int) (n : Nat) (f : Int) : Bool :=
  if f ≤ e then n < m * 2 ^ (e - f).toNat else n * 2 ^ (f - e).toNat < m

/-- A lane's result: its bits and the flags it raises. -/
structure Res where
  bits : Nat
  flags : BitVec 5
deriving DecidableEq, Repr

/-- Narrow to a floating-point format (16 R289, R290). -/
def Fmt.narrow (f : Fmt) (v : Num) (rm : RM) (sat : Bool) : Res :=
  match v with
  | .nan _ => ⟨f.nanBits, 0⟩
  | .inf neg =>
    if sat then ⟨f.maxBits neg, flagNX⟩
    else if !f.infs then ⟨f.nanBits, flagNV⟩
    else ⟨f.signBit neg + f.infBits, 0⟩
  | .fin neg m e =>
    if m = 0 then ⟨f.signBit neg, 0⟩
    else
      let lsb := max (lastPlace f.prec m e) f.emin
      let r := roundAt rm neg m e lsb
      if dyadGt r.1 lsb f.big f.bigE then
        let toInf : Bool := match rm with
          | .rtz => false | .rup => !neg | .rdn => neg | _ => true
        let fl := flagOF ||| flagNX
        if sat || !toInf then ⟨f.maxBits neg, fl⟩
        else if !f.infs then ⟨f.nanBits, fl⟩
        else ⟨f.signBit neg + f.infBits, fl⟩
      else if r.2 then ⟨f.encode neg r.1 lsb, 0⟩
      else
        let free := lastPlace f.prec m e
        let tiny := dyadGt 1 (f.emin + (f.prec - 1 : Nat)) (roundAt rm neg m e free).1 free
        ⟨f.encode neg r.1 lsb, if tiny then flagUF ||| flagNX else flagNX⟩

/-- Narrow to an integer format (16 R290). -/
def narrowInt (sg : Bool) (w : Nat) (v : Num) (rm : RM) : Res :=
  let lo : Int := if sg then -(2 ^ (w - 1)) else 0
  let hi : Int := if sg then 2 ^ (w - 1) - 1 else 2 ^ w - 1
  let bitsOf (x : Int) : Nat := (x % 2 ^ w).toNat
  match v with
  | .nan _ => ⟨0, flagNV⟩
  | .inf neg => ⟨bitsOf (if neg then lo else hi), flagNV⟩
  | .fin neg m e =>
    let r := roundAt rm neg m e 0
    let x : Int := if neg then -r.1 else r.1
    if x < lo then ⟨bitsOf lo, flagNV⟩
    else if hi < x then ⟨bitsOf hi, flagNV⟩
    else ⟨bitsOf x, if r.2 then 0 else flagNX⟩

/-- Narrow(fmt, v, rm, sat) (16 R290). -/
def Form.narrow (t : Form) (v : Num) (rm : RM) (sat : Bool) : Res :=
  match t with
  | .int sg w => narrowInt sg w v rm
  | .flt f => f.narrow v rm sat

/-- The rounding mode of an RM code for slot n, read at issue (03 R57; 16 R288). -/
def State.roundMode (s : State) (n : Nat) (rm : RM) : RM :=
  match rm with
  | .dyn => match bits (s.img n).rmode 1 0 with | 0 => .rne | 1 => .rtz | 2 => .rup | _ => .rdn
  | r => r

/-! ## Exact operations -/

/-- A value and the flags that its operation raises. -/
abbrev Exact := Num × BitVec 5

/-- Is the value a NaN? -/
def Num.isNan : Num → Bool
  | .nan _ => true
  | _ => false
/-- Is it a signalling NaN? -/
def Num.signals : Num → Bool
  | .nan sig => sig
  | _ => false
/-- Is it a zero? -/
def Num.isZero : Num → Bool
  | .fin _ m _ => m = 0
  | _ => false
/-- Its sign. -/
def Num.negative : Num → Bool
  | .inf neg => neg
  | .fin neg _ _ => neg
  | .nan _ => false
/-- The value with a sign. -/
def Num.withSign (neg : Bool) : Num → Num
  | .inf _ => .inf neg
  | .fin _ m e => .fin neg m e
  | x => x

/-- NV where an operand signals (16 R284). -/
def sigFlags (xs : List Num) : BitVec 5 := if xs.any Num.signals then flagNV else 0

/-- The result of an operation on operands: the canonical NaN where one is a NaN (16 R284). -/
def orNan (xs : List Num) (r : Exact) : Exact := if xs.any Num.isNan then (.nan false, sigFlags xs) else r

/-- A finite magnitude on the grid of 2^e, signed. -/
def signedAt (neg : Bool) (m : Nat) (e base : Int) : Int :=
  let x : Int := m * 2 ^ (e - base).toNat
  if neg then -x else x

/-- The exact sum (16 R284, R289). -/
def sumOf (rm : RM) (a b : Num) : Exact :=
  match a, b with
  | .inf x, .inf y => if x = y then (.inf x, 0) else (.nan false, flagNV)
  | .inf x, _ => (.inf x, 0)
  | _, .inf y => (.inf y, 0)
  | .fin x m e, .fin y n f =>
    let base := min e f
    let t := signedAt x m e base + signedAt y n f base
    if t = 0 then (.fin (if x = y then x else rm = .rdn) 0 base, 0) else (.fin (t < 0) t.natAbs base, 0)
  | _, _ => (.nan false, 0)

/-- The exact product. -/
def mulOf (a b : Num) : Exact :=
  let neg := a.negative != b.negative
  match a, b with
  | .inf _, y => if y.isZero then (.nan false, flagNV) else (.inf neg, 0)
  | x, .inf _ => if x.isZero then (.nan false, flagNV) else (.inf neg, 0)
  | .fin _ m e, .fin _ n f => (.fin neg (m * n) (e + f), 0)
  | _, _ => (.nan false, 0)

/-- The quotient m ÷ n to 64 bits and more, with a last bit for what remains. -/
def quotient (m n : Nat) : Nat × Int :=
  let k := 66 + Nat.log2 n
  let x := m * 2 ^ k
  (2 * (x / n) + (if x % n = 0 then 0 else 1), -(k : Int) - 1)

/-- The exact quotient (16 R289, R295). -/
def divOf (a b : Num) : Exact :=
  let neg := a.negative != b.negative
  match a, b with
  | .inf _, .inf _ => (.nan false, flagNV)
  | .inf _, _ => (.inf neg, 0)
  | _, .inf _ => (.fin neg 0 0, 0)
  | .fin _ m e, .fin _ n f =>
    if n = 0 then (if m = 0 then (.nan false, flagNV) else (.inf neg, flagDZ))
    else
      let q := quotient m n
      (.fin neg q.1 (q.2 + e - f), 0)
  | _, _ => (.nan false, 0)

/-- The integer square root of x, bit by bit from bit i − 1 on. -/
def sqrtFrom (x : Nat) : Nat → Nat → Nat
  | 0, r => r
  | i + 1, r => if (r + 2 ^ i) * (r + 2 ^ i) ≤ x then sqrtFrom x i (r + 2 ^ i) else sqrtFrom x i r

/-- The exact square root. -/
def sqrtOf (a : Num) : Exact :=
  match a with
  | .inf neg => if neg then (.nan false, flagNV) else (.inf false, 0)
  | .fin neg m e =>
    if m = 0 then (.fin neg 0 0, 0)
    else if neg then (.nan false, flagNV)
    else
      let k : Nat := 128 + (e % 2).toNat
      let x := m * 2 ^ k
      let r := sqrtFrom x (Nat.log2 x / 2 + 1) 0
      (.fin false (2 * r + (if r * r = x then 0 else 1)) ((e - k) / 2 - 1), 0)
  | .nan _ => (.nan false, 0)

/-- a orders below b, −0 below +0 (16 R284). -/
def below (a b : Num) : Bool :=
  match a, b with
  | .inf x, .inf y => x && !y
  | .inf x, _ => x
  | _, .inf y => !y
  | .fin x m e, .fin y n f =>
    let base := min e f
    let p := signedAt x m e base
    let q := signedAt y n f base
    p < q || (p = q && x && !y)
  | _, _ => false

/-- a is less than b, −0 = +0 (17 R310). -/
def lessThan (a b : Num) : Bool := below a b && !(a.isZero && b.isZero)

/-- a + b. -/
def fpAdd (rm : RM) (a b : Num) : Exact := orNan [a, b] (sumOf rm a b)
/-- a − b. -/
def fpSub (rm : RM) (a b : Num) : Exact := orNan [a, b] (sumOf rm a (b.withSign !b.negative))
/-- a × b. -/
def fpMul (a b : Num) : Exact := orNan [a, b] (mulOf a b)
/-- a ÷ b. -/
def fpDiv (a b : Num) : Exact := orNan [a, b] (divOf a b)
/-- √a. -/
def fpSqrt (a : Num) : Exact := orNan [a] (sqrtOf a)
/-- The smaller (16 R284). -/
def fpMin (a b : Num) : Exact := orNan [a, b] (if below b a then b else a, 0)
/-- The larger (16 R284). -/
def fpMax (a b : Num) : Exact := orNan [a, b] (if below a b then b else a, 0)
/-- |a| (17 R309). -/
def fpAbs (a : Num) : Exact := orNan [a] (a.withSign false, 0)
/-- −a (17 R309). -/
def fpNeg (a : Num) : Exact := orNan [a] (a.withSign !a.negative, 0)
/-- a × b + c, exact before its rounding; 0 × ∞ raises NV whatever c is (16 R289). -/
def fpFma (rm : RM) (a b c : Num) : Exact :=
  let p := if a.isNan || b.isNan then ((.nan false, 0) : Exact) else mulOf a b
  let r := if p.1.isNan then ((.nan false, 0) : Exact) else sumOf rm p.1 c
  let z := orNan [a, b, c] r
  (z.1, z.2 ||| p.2)

/-- The one rounding of an operation (16 R289). -/
def Form.deliver (t : Form) (v : Exact) (rm : RM) (sat : Bool) : Res :=
  let r := t.narrow v.1 rm sat
  ⟨r.bits, v.2 ||| r.flags⟩

/-- A conversion of a lane's value (16 R290, R291). -/
def Form.convert (t : Form) (x : Num) (rm : RM) (sat : Bool) : Res := t.deliver (x, sigFlags [x]) rm sat

/-! ## The flags of an instruction -/

/-- Marks that the issuing thread takes FPX in this rotation (13 R261). -/
def State.noteFpx (s : State) (sub : Nat) : State :=
  let t := s.tileAt (tileOf s.cur)
  s.setTile (tileOf s.cur) { t with fpxNow := t.fpxNow ++ [(s.cur % 64, sub)] }

/-- Enters the tile's normaliser (16 R294): the thread's next instruction issues at turn T + 3 + n, where n operations
are inside. -/
def State.normalise (s : State) : State :=
  let t := s.tileAt (tileOf s.cur)
  let c := s.now s.cur
  let inside := t.norm.filter fun x => c ≤ x
  let n := inside.length
  let s := s.setTile (tileOf s.cur) { t with norm := inside ++ [c + 16 * (2 + n)] }
  let sl := s.slotAt s.cur
  s.setSlot s.cur { sl with issueFrom := max sl.issueFrom (c + 16 * (3 + n)) }

/-- The lowest lane that raised one of some flags. -/
def lowestLane (fs : List (Nat × BitVec 5)) (en : BitVec 5) : Nat :=
  match (fs.filter fun p => p.2 &&& en ≠ 0).map (·.1) with
  | [] => 0
  | a :: r => r.foldl min a

/-- The union of the flags of some lanes. -/
def unionFlags (fs : List (Nat × BitVec 5)) : BitVec 5 := fs.foldl (fun a p => a ||| p.2) 0

/-- Ends a vector instruction (16 R293, R294): an enabled flag raises FPX and nothing is written; otherwise the flags
go into FPFLAGS, the results are written and the instruction retires. `sub` marks a subnormal among its active lanes. -/
def State.vcommit (s : State) (fs : List (Nat × BitVec 5)) (sub : Bool) (write : State → State) : State :=
  let n := s.cur
  let u := unionFlags fs
  let en := u &&& (s.img n).fptrap.setWidth 5
  let t :=
    if en ≠ 0 then (s.noteFpx en.toNat).raiseHere 0x0F en.toNat (word (lowestLane fs en)) 8
    else
      let s := s.setImg n { s.img n with fpflags := (s.img n).fpflags ||| u.setWidth 64 }
      (write s).retire 8
  if sub then t.normalise else t

end Sys2Proof.Machine
end

