-- ==== Sys2Proof/Machine/Lines.lean ====
section
/-! DEFINITION. Poisoned register lines (13 R266, R267): which words of its image an instruction reads, where a thread that
reads a poisoned one is parked, and which poisoned words a step writes anew. -/
namespace Sys2Proof.Machine
open Sys2Proof

/-! ## Words of an image, by their offset in it (05 R95) -/

/-- The word of a general register; g0 has no word that is read. -/
def gWord (r : Reg) : List Nat := if r = 0 then [] else [8 * r.val]
/-- The words of a mask register; k0 has none that is read. -/
def kWords (r : KReg) : List Nat := if r = 0 then [] else [0x280 + 16 * r.val, 0x288 + 16 * r.val]
/-- The words of a vector register. -/
def vWords (r : VReg) : List Nat := (List.range 16).map fun j => 0x800 + 128 * r.val + 8 * j
/-- The word of a system register of the image. -/
def sysWords (r : Nat) : List Nat := match sysIndex r with | some k => [0x100 + 8 * k] | none => []
/-- The words of the levels of a loop stack of some depth (06 R126). -/
def loopWords (depth : Nat) : List Nat :=
  (List.range depth).flatMap fun i => [0x200 + 32 * i, 0x208 + 32 * i, 0x210 + 32 * i]

/-- The register words of a parameter that is substituted (03 R49). -/
def substWords (p : Params) : List Nat :=
  (List.range 4).flatMap fun i => if p.subst.getLsbD i && !badSubst p i then gWord (rg (rawParam p i)) else []

/-- The general registers that an instruction reads. -/
def gReads (i : Instr) : List Reg :=
  let up (d : Reg) (n : Nat) : List Reg := (List.range n).map (regPlus d)
  match i with
  | .add _ _ a b | .sub _ _ a b | .mul _ _ _ a b | .div _ _ _ a b | .rem _ _ _ a b | .and _ _ a b | .or _ _ a b
  | .xor _ _ a b | .andn _ _ a b | .shl _ _ a b | .shr _ _ _ a b | .rot _ _ _ a b | .min _ _ _ a b | .max _ _ _ a b
  | .cmp _ _ _ a b | .adds _ _ _ a b | .subs _ _ _ a b => [a, b]
  | .addi _ _ a _ | .andi _ _ a _ | .ori _ _ a _ | .xori _ _ a _ | .shli _ _ a _ | .shri _ _ _ a _ | .clz _ _ a
  | .ctz _ _ a | .popc _ _ a | .cmpi _ _ _ a _ | .ext _ _ a _ _ | .bswap _ _ a | .abs _ _ a | .sext _ _ a | .zext _ _ a => [a]
  | .ins d a _ _ => [d, a]
  | .sel _ _ a b c | .madd _ _ a b c => [a, b, c]
  | .lea _ m => [m.a, m.b]
  | .gaddr _ self _ _ a _ => if self then [] else [a]
  | .localq _ a => [a]
  | .br _ (some _) a b _ => [a, b]
  | .jr a | .callr _ a | .loop a _ | .sleep _ a _ | .halt a => [a]
  | .ld _ _ _ _ _ m | .ldm _ _ _ _ _ m | .ldf _ _ m | .lde _ _ m | .tagq _ _ m | .dld _ _ _ _ m => [m.a, m.b]
  | .st _ _ _ d m | .stf _ d m | .stff _ d m | .tagset _ d m | .racem _ d m | .dst _ _ d m => [d, m.a, m.b]
  | .stm _ _ _ d m => up d 4 ++ [m.a, m.b]
  | .amo _ _ _ _ _ a b _ | .damo _ _ _ _ a b _ => [a, b]
  | .cas _ _ _ d a b _ => [d, a, b]
  | .wqpush _ _ _ a b => up a 4 ++ [b]
  | .send n _ a b => b :: up a (n.val + 1)
  | .recv _ _ a | .rqpush _ _ _ a | .tstop _ a | .treap _ _ a | .tstat _ a => [a]
  | .rarm _ _ a b | .mbxw a b _ => [a, b]
  | .tstart _ _ a b c => [a, b, c]
  | .handle .. => [2]
  | .perform (.imm _) | .vperform .. => up 1 31
  | .perform (.reg a) => a :: up 1 31
  | .resume a b | .resumec a b => [a, b]
  | .discard a | .tokq _ a => [a]
  | .swr _ _ a _ | .tkill _ a => [a]
  | .pair _ _ a => [a]
  | .hvc call =>
    match call.toNat with
    | 0x10 => [5, 6]
    | 0x11 | 0x12 | 0x15 | 0x16 => [5]
    | 0x13 => [5, 6, 7, 8]
    | _ => []
  | .vquant _ _ _ _ gs _ _ _ _ ga | .vdeq _ _ _ _ gs _ _ _ ga => if gs then [ga] else []
  | .vbcast _ fromLane _ _ _ ga => if fromLane then [] else [ga]
  | .vmovg _ ins _ _ ga => if ins then [ga] else []
  | .vslide _ _ _ fromG _ _ _ ga => if fromG then [ga] else []
  | .vtcfg _ ga | .vld _ _ _ _ ga | .vst _ _ _ _ _ ga | .vgath _ _ _ _ _ ga | .vscat _ _ _ _ _ _ ga | .kset _ _ ga => [ga]
  | .kmovg put _ _ ga => if put then [ga] else []
  | .mzero a b => [a, b]
  | .cpy _ d => up d 4
  | .cpyw _ _ a | .tlbi _ a | .xlat _ _ a => [a]
  | .cpyx f _ a => match f with | .handle => [a] | .reset _ => []
  | _ => []

/-- The mask registers that an instruction reads. -/
def kReads (i : Instr) : List KReg :=
  match i with
  | .vperform _ _ k _ => [k]
  | .vadd _ _ _ x _ _ | .vsub _ _ _ x _ _ | .vmul _ _ _ x _ _ | .vfma _ _ x _ _ _ | .vdiv _ _ x _ _ | .vsqrt _ _ x _
  | .vmin _ x _ _ | .vmax _ x _ _ | .vabs _ x _ | .vneg _ x _ | .vand _ x _ _ | .vor _ x _ _ | .vxor _ x _ _ | .vshl _ x _ _
  | .vshr _ x _ _ | .vcvt _ _ _ _ _ x _ | .vquant _ _ _ _ _ _ x _ _ _ | .vdeq _ _ _ _ _ x _ _ _ | .vscan _ _ _ x _
  | .vbcast _ _ _ x _ _ | .vshuf _ x _ _ _ | .vslide _ _ _ _ x _ _ _ | .viota _ _ x | .vtlu _ _ _ _ _ x _
  | .vld _ _ _ x _ | .vgath _ _ _ x _ _ | .vunpk _ _ _ _ x _ => [x.k]
  | .vcmp _ _ _ k _ _ _ | .vclass _ _ _ k _ _ | .vsel _ _ k _ _ | .vred _ _ _ _ _ k _ _ | .vst _ _ _ _ k _
  | .vscat _ _ _ _ k _ _ => [k]
  | .kand _ a b | .kor _ a b | .kxor _ a b => [a, b]
  | .knot _ a | .kpop _ a _ | .kfirst _ a _ => [a]
  | .kmovg put _ k _ => if put then [] else [k]
  | _ => []

/-- The vector registers that an instruction reads; the data of a vector store is not among them (13 R266). -/
def vReads (i : Instr) : List VReg :=
  match i with
  | .vadd _ _ _ _ a b | .vsub _ _ _ _ a b | .vmul _ _ _ _ a b | .vdiv _ _ _ a b | .vmin _ _ a b | .vmax _ _ a b
  | .vand _ _ a b | .vor _ _ a b | .vxor _ _ a b | .vshl _ _ a b | .vshr _ _ a b | .vcmp _ _ _ _ _ a b | .vsel _ _ _ a b => [a, b]
  | .vfma _ _ _ a b c => [a, b, c]
  | .vsqrt _ _ _ a | .vabs _ _ a | .vneg _ _ a | .vcvt _ _ _ _ _ _ a | .vred _ _ _ _ _ _ a _ | .vscan _ _ _ _ a
  | .vtlu _ _ _ _ _ _ a | .vpack _ _ _ _ _ a | .vunpk _ _ _ _ _ a | .vclass _ _ _ _ _ a => [a]
  | .vquant _ _ _ _ gs _ _ a b _ | .vdeq _ _ _ _ gs _ a b _ => if gs then [a] else [a, b]
  | .vbcast _ fromLane _ _ a _ => if fromLane then [a] else []
  | .vmovg _ ins _ v _ => if ins then [] else [v]
  | .vshuf _ _ a b c => [a, b, c]
  | .vslide _ _ _ _ _ a c _ => [a, c]
  | .vgath _ _ _ _ b _ => [b]
  | .vscat _ _ _ _ _ b _ => [b]
  | _ => []

/-- RMODE, where the rounding mode of an instruction is dynamic (03 R57). -/
def modeWords (rm : RM) : List Nat := if rm = .dyn then sysWords 0x032 else []

/-- The words of the image's system registers that an instruction reads by name or for its effect: FPTRAP and RMODE (16 R290, R293), the
handler stack's and the records' (12 R228 to R247), and what TRET returns to (13 R274). -/
def sysReads (i : Instr) : List Nat :=
  let float (rm : RM) : List Nat := sysWords 0x031 ++ modeWords rm
  match i with
  | .srd _ r => sysWords r.toNat
  | .swr _ _ _ r => sysWords r.toNat
  | .vadd _ rm _ _ _ _ | .vsub _ rm _ _ _ _ | .vmul _ rm _ _ _ _ | .vfma _ rm _ _ _ _ | .vdiv _ rm _ _ _ | .vsqrt _ rm _ _
  | .vcvt _ _ rm _ _ _ _ | .vquant _ _ rm _ _ _ _ _ _ _ | .vdeq _ _ rm _ _ _ _ _ _ | .vred _ rm _ _ _ _ _ _ | .vscan _ rm _ _ _
  | .vtlu _ _ rm _ _ _ _ | .vpack _ rm _ _ _ _ | .vunpk _ rm _ _ _ _ => float rm
  | .vmin .. | .vmax .. | .vcmp .. => sysWords 0x031
  | .handle .. => sysWords 0x010 ++ sysWords 0x011
  | .endh | .perform _ | .vperform .. | .hexit | .resume .. | .resumec .. | .discard _ | .tokq .. =>
    sysWords 0x010 ++ sysWords 0x012 ++ sysWords 0x013
  | .tret _ => sysWords 0x002 ++ (List.range 8).flatMap fun k => sysWords (0x100 + k)
  | _ => []

/-- The words of its image that an instruction reads: its operands, the status and the live loop levels. -/
def lineReads (i : Instr) (depth : Nat) : List Nat :=
  (gReads i).flatMap gWord ++ (kReads i).flatMap kWords ++ (vReads i).flatMap vWords ++ sysReads i
  ++ (match i with | .mldb p | .mmul p | .mout p | .mred p => substWords p | _ => [])
  ++ sysWords 0x003 ++ loopWords depth

/-! ## Poisoned words -/

/-- The poisoned word of lowest address that instruction i of slot n reads, as an offset in its G store (13 R266, R267). -/
def State.linePoison (s : State) (n : Nat) (i : Instr) : Option Word :=
  if s.poison = [] then none
  else
    let key := s.imageKey n
    let rm := match i with | .mout p => modeWords (rmd (fieldOf (s.param p 3) 6 4)) | _ => []
    let ws := (lineReads i (s.img n).loops.length ++ rm).filter fun o => decide (imageBase key + o ∈ s.poison)
    (ws.foldl (fun m o => match m with | some y => some (min o y) | none => some o) none).map fun o =>
      word (0x70000 + 0x1000 * (key % 16) + o)

/-- The image of which a poisoned word is a register's or a loop level's, with the word's offset. -/
def lineOf (k : Nat) : Option (Nat × Nat) :=
  let x := k - (gLoc 0 0).key
  let o := x % 0x80000 % 0x1000
  if k < (gLoc 0 0).key ∨ x / 0x80000 ≥ 4408 ∨ x % 0x80000 < 0x70000 ∨ (0x300 ≤ o ∧ o < 0x800) ∨ (0x1D8 ≤ o ∧ o < 0x200) then none
  else some (16 * (x / 0x80000) + (x % 0x80000 - 0x70000) / 0x1000, o)

/-- A register word of an image as it stands. -/
def Image.lineWord (im : Image) (o : Nat) : Word :=
  if o < 0x100 then im.g[o / 8 % 32]
  else if o < 0x200 then im.sysWord ((o - 0x100) / 8)
  else if o < 0x280 then
    let l := loopAt im.loops ((o - 0x200) / 32)
    match o / 8 % 4 with
    | 0 => l.start | 1 => l.stop | 2 => l.count | _ => 0
  else if o < 0x300 then (im.k[(o - 0x280) / 16 % 8]).extractLsb' (64 * (o / 8 % 2)) 64
  else (im.v[(o - 0x800) / 128 % 16]).extractLsb' (64 * (o / 8 % 16)) 64

/-- An image with every bit of word k of its system registers replaced; the pair's configuration stays, since only PAIR writes
it. -/
def Image.setSysWord (im : Image) (k : Nat) (x : Word) : Image :=
  match k with
  | 0 => { im with cause := x } | 1 => { im with tval := x } | 2 => { im with trappc := x } | 3 => { im with tstatus := x }
  | 4 => { im with tvec := x } | 5 => { im with tscratch := x } | 6 => { im with hsp := x } | 7 => { im with hlimit := x }
  | 8 => { im with contbase := x } | 9 => { im with contslots := x } | 10 => { im with effen := x }
  | 11 => { im with waitlim := x } | 12 => { im with wdlimit := x } | 13 => { im with tickset := x }
  | 14 => { im with fpflags := x } | 15 => { im with fptrap := x } | 16 => { im with rmode := x }
  | 17 => { im with tloopS := im.tloopS.set 0 x } | 18 => { im with tloopC := im.tloopC.set 0 x }
  | 19 => { im with tloopS := im.tloopS.set 1 x } | 20 => { im with tloopC := im.tloopC.set 1 x }
  | 21 => { im with tloopS := im.tloopS.set 2 x } | 22 => { im with tloopC := im.tloopC.set 2 x }
  | 23 => { im with tloopS := im.tloopS.set 3 x } | 24 => { im with tloopC := im.tloopC.set 3 x }
  | 25 => { im with tdeleg := x } | 26 => { im with wdCount := x.setWidth 32 }
  | _ => im

/-- An image with a register word complemented. -/
def Image.flipWord (im : Image) (o : Nat) : Image :=
  let x := ~~~ im.lineWord o
  if o < 0x100 then { im with g := im.g.set (Fin.ofNat 32 (o / 8)) x }
  else if o < 0x200 then im.setSysWord ((o - 0x100) / 8) x
  else if o < 0x280 then
    let i := im.loops.length - 1 - (o - 0x200) / 32
    if (o - 0x200) / 32 < im.loops.length then
      { im with loops := im.loops.modify i fun l =>
          match o / 8 % 4 with
          | 0 => { l with start := x } | 1 => { l with stop := x } | 2 => { l with count := x } | _ => l }
    else im
  else if o < 0x300 then
    let j := Fin.ofNat 8 ((o - 0x280) / 16)
    { im with k := im.k.set j (putPart im.k[j] (o / 8 % 2) x) }
  else
    let j := Fin.ofNat 16 ((o - 0x800) / 128)
    { im with v := im.v.set j (putPart im.v[j] (o / 8 % 16) x) }

/-- The module with every poisoned register word complemented. -/
def State.flipLines (s : State) : State :=
  s.poison.foldl (fun s k =>
    match lineOf k with
    | some (key, o) => s.setImage key ((s.imageAt key).flipWord o)
    | none => s) s

/-- Are there poisoned register words? -/
def State.hasLines (s : State) : Bool := s.poison.any fun k => (lineOf k).isSome

/-- Has a step from `before` written a register word: one whose value after it is the same in both of its runs, or that of a loop
level which has come up? -/
def wroteLine (before t u : State) (k : Nat) : Bool :=
  match lineOf k with
  | some (key, o) =>
    let a := before.imageAt key
    let b := t.imageAt key
    let up : Bool := 0x200 ≤ o && o < 0x280 && decide (a.loops.length ≤ (o - 0x200) / 32 ∧ (o - 0x200) / 32 < b.loops.length)
    up || ((a.flipWord o).lineWord o ≠ a.lineWord o && b.lineWord o = (u.imageAt key).lineWord o)
  | none => false

/-- A register word that is poisoned is whole again once it is written (13 R266). No thread goes on that reads such a word, so
that a step from `before` has written it where its value after the step, `t`, does not depend on what it held: it is the
same after a step, `u`, from the state with the word complemented. What the step itself poisoned stays so. -/
def State.healLines (before t u : State) : State :=
  { t with poison := (before.poison.filter (wroteLine before t u)).foldl List.erase t.poison }

end Sys2Proof.Machine
end

