-- ==== Sys2Proof/Machine/Vector.lean ====
section
/-! DEFINITION. The vector unit, opcodes 0x80 to 0x9A, 0x9D to 0xA7, 0xAA and 0xAB (17 R303 to R319): lanes, masks,
element-wise arithmetic, comparison, conversion, reductions, lane movement, memory and mask instructions. The
table engine and the block records stand in Machine/Tables.lean. -/
namespace Sys2Proof.Machine
open Sys2Proof

/-! ## Lanes -/

/-- Lane i of a vector of lanes of a width (17 R304). -/
def laneOf (w x i : Nat) : Nat := x / 2 ^ (w * i) % 2 ^ w

/-- `n` lanes from lane i on as one number. -/
def lanesFrom (w : Nat) (f : Nat → Nat) (i : Nat) : Nat → Nat
  | 0 => 0
  | n + 1 => f i % 2 ^ w + 2 ^ w * lanesFrom w f (i + 1) n

/-- Every lane of a 1,024-bit register. -/
def vecOf (t : ET) (f : Nat → Nat) : BitVec 1024 := .ofNat 1024 (lanesFrom t.bits f 0 t.lanes)

/-- A lane of a vector register of the issuing slot. -/
def State.lane (s : State) (t : ET) (r : VReg) (i : Nat) : Nat := laneOf t.bits (s.vOf s.cur r).toNat i

/-- The active lanes of the issuing slot under a mask register (17 R305). -/
def State.activeLanes (s : State) (t : ET) (k : KReg) : List Nat :=
  (List.range t.lanes).filter fun i => (s.kOf s.cur k).getLsbD i

/-- Is a lane active? -/
def State.active (s : State) (k : KReg) (i : Nat) : Bool := (s.kOf s.cur k).getLsbD i

/-- The new register of a masked write: an active lane takes its value, an inactive one is zeroed or kept (17 R305). -/
def State.merged (s : State) (t : ET) (x : VDst) (f : Nat → Nat) : BitVec 1024 :=
  vecOf t fun i => if s.active x.k i then f i else if x.zm then 0 else s.lane t x.d i

/-- The new mask of a masked write of a k register (17 R304, R305). -/
def State.mergedMask (s : State) (t : ET) (kd k : KReg) (zm : Bool) (f : Nat → Bool) : BitVec 128 :=
  .ofNat 128 (lanesFrom 1 (fun i =>
    if (if s.active k i then f i else !zm && s.active kd i) then 1 else 0) 0 t.lanes)

/-- A low part of a general register, as a lane of a type. -/
def State.gLane (s : State) (t : ET) (r : Reg) : Nat := (s.g r).toNat % 2 ^ t.bits

/-- A lane's bits as a general register holds them (17 R315, R316). -/
def laneWord (t : ET) (x : Nat) : Word := if t.isSigned then sextBits t.bits x else word x

/-- Writes a vector register of the issuing slot and retires. -/
def State.putV (s : State) (d : VReg) (x : BitVec 1024) : State := (s.setVOf s.cur d x).retire 8

/-- Writes a mask register of the issuing slot and retires. -/
def State.putK (s : State) (d : KReg) (x : BitVec 128) : State := (s.setKOf s.cur d x).retire 8

/-! ## Element-wise instructions -/

/-- A lane's result with its use of the normaliser. -/
structure LaneRes where
  res : Res
  sub : Bool
deriving DecidableEq, Repr

/-- An exact integer result narrowed modulo 2^w. -/
def wrapLane (t : ET) (x : Int) : LaneRes := ⟨⟨(x % 2 ^ t.bits).toNat, 0⟩, false⟩

/-- A floating-point result: one rounding, with the operands and the result looked at for subnormals where the
instruction uses the normaliser. -/
def floatLane (t : ET) (rm : RM) (norm : Bool) (xs : List Nat) (v : Exact) : LaneRes :=
  let f := formOf t
  let r := f.deliver v rm false
  ⟨r, norm && ((r.bits :: xs).any f.isSub)⟩

/-- A lane as an integer of its type. -/
def intLane (t : ET) (x : Nat) : Int := intOf t.isSigned t.bits x
/-- A lane as an exact value. -/
def numLane (t : ET) (x : Nat) : Num := (formOf t).value x

/-- Element-wise results over the active lanes, committed together (17 R305, R309). -/
def State.elementwise (s : State) (t : ET) (x : VDst) (f : Nat → LaneRes) : State :=
  let act := s.activeLanes t x.k
  s.vcommit (act.map fun i => (i, (f i).res.flags)) (act.any fun i => (f i).sub) fun u =>
    u.setVOf u.cur x.d (s.merged t x fun i => (f i).res.bits)

/-- A two-operand instruction with an integer and a floating-point form. -/
def State.binary (s : State) (t : ET) (rm : RM) (norm : Bool) (x : VDst) (a b : VReg) (fi : Int → Int → Int)
    (ff : RM → Num → Num → Exact) : State :=
  let m := s.roundMode s.cur rm
  s.elementwise t x fun i =>
    let p := s.lane t a i
    let q := s.lane t b i
    if t.isI then wrapLane t (fi (intLane t p) (intLane t q))
    else floatLane t m norm [p, q] (ff m (numLane t p) (numLane t q))

/-- A one-operand instruction with an integer and a floating-point form. -/
def State.unary (s : State) (t : ET) (rm : RM) (norm : Bool) (x : VDst) (a : VReg) (fi : Int → Int)
    (ff : Num → Exact) : State :=
  let m := s.roundMode s.cur rm
  s.elementwise t x fun i =>
    let p := s.lane t a i
    if t.isI then wrapLane t (fi (intLane t p)) else floatLane t m norm [p] (ff (numLane t p))

/-- A bitwise instruction on lanes of any type. -/
def State.bitwise (s : State) (t : ET) (x : VDst) (a b : VReg) (f : Nat → Nat → Nat) : State :=
  s.putV x.d (s.merged t x fun i => f (s.lane t a i) (s.lane t b i))

/-- The clamp of VADD and VSUB with `.sat` (17 R309). -/
def clampLane (t : ET) (sat : Bool) (x : Int) : Int :=
  if !sat then x
  else if t.isSigned then max (-(2 ^ (t.bits - 1))) (min x (2 ^ (t.bits - 1) - 1))
  else max 0 (min x (2 ^ t.bits - 1))

/-- VADD (17 R309). -/
def execVadd (et : ET) (rm : RM) (sat : Bool) (x : VDst) (a b : VReg) (s : State) : Out :=
  issue (.vadd et rm sat x a b) s fun s =>
    s.binary et rm true x a b (fun p q => clampLane et sat (p + q)) fun m p q => fpAdd m p q

/-- VSUB (17 R309). -/
def execVsub (et : ET) (rm : RM) (sat : Bool) (x : VDst) (a b : VReg) (s : State) : Out :=
  issue (.vsub et rm sat x a b) s fun s =>
    s.binary et rm true x a b (fun p q => clampLane et sat (p - q)) fun m p q => fpSub m p q

/-- VMUL (17 R309). -/
def execVmul (et : ET) (rm : RM) (hi : Bool) (x : VDst) (a b : VReg) (s : State) : Out :=
  issue (.vmul et rm hi x a b) s fun s =>
    s.binary et rm true x a b (fun p q => if hi then p * q / 2 ^ et.bits else p * q) fun _ p q => fpMul p q

/-- VFMA (17 R309). The product, which is held in no format, counts as no subnormal intermediate: the spec does not say whether an exact
value below the smallest normal is one (16 R294; DESIGN CHOICE, log 82). -/
def execVfma (et : ET) (rm : RM) (x : VDst) (a b c : VReg) (s : State) : Out :=
  issue (.vfma et rm x a b c) s fun s =>
    let m := s.roundMode s.cur rm
    s.elementwise et x fun i =>
      let p := s.lane et a i
      let q := s.lane et b i
      let r := s.lane et c i
      if et.isI then wrapLane et (intLane et p * intLane et q + intLane et r)
      else floatLane et m true [p, q, r] (fpFma m (numLane et p) (numLane et q) (numLane et r))

/-- The lowest active lane with a zero divisor (17 R309). -/
def State.zeroDivisor (s : State) (t : ET) (k : KReg) (b : VReg) : Option Nat :=
  (s.activeLanes t k).find? fun i => s.lane t b i = 0

/-- VDIV (17 R309): a zero integer divisor in an active lane raises DIVZERO with that lane. -/
def execVdiv (et : ET) (rm : RM) (x : VDst) (a b : VReg) (s : State) : Out :=
  issue (.vdiv et rm x a b) s fun s =>
    match (if et.isI then s.zeroDivisor et x.k b else none) with
    | some i => s.raiseHere 0x10 2 (word i) 8
    | none => s.binary et rm true x a b truncDiv fun _ p q => fpDiv p q

/-- VSQRT (17 R309). -/
def execVsqrt (et : ET) (rm : RM) (x : VDst) (a : VReg) (s : State) : Out :=
  issue (.vsqrt et rm x a) s fun s => s.unary et rm true x a (fun p => p) fpSqrt

/-- VMIN (17 R309). -/
def execVmin (et : ET) (x : VDst) (a b : VReg) (s : State) : Out :=
  issue (.vmin et x a b) s fun s => s.binary et .rne false x a b (fun p q => min p q) fun _ p q => fpMin p q

/-- VMAX (17 R309). -/
def execVmax (et : ET) (x : VDst) (a b : VReg) (s : State) : Out :=
  issue (.vmax et x a b) s fun s => s.binary et .rne false x a b (fun p q => max p q) fun _ p q => fpMax p q

/-- VABS (17 R309). -/
def execVabs (et : ET) (x : VDst) (a : VReg) (s : State) : Out :=
  issue (.vabs et x a) s fun s => s.unary et .rne false x a (fun p => if p < 0 then -p else p) fpAbs

/-- VNEG (17 R309). -/
def execVneg (et : ET) (x : VDst) (a : VReg) (s : State) : Out :=
  issue (.vneg et x a) s fun s => s.unary et .rne false x a (fun p => -p) fpNeg

/-- VAND (17 R309). -/
def execVand (et : ET) (x : VDst) (a b : VReg) (s : State) : Out :=
  issue (.vand et x a b) s fun s => s.bitwise et x a b fun p q => p &&& q

/-- VOR (17 R309). -/
def execVor (et : ET) (x : VDst) (a b : VReg) (s : State) : Out :=
  issue (.vor et x a b) s fun s => s.bitwise et x a b fun p q => p ||| q

/-- VXOR (17 R309). -/
def execVxor (et : ET) (x : VDst) (a b : VReg) (s : State) : Out :=
  issue (.vxor et x a b) s fun s => s.bitwise et x a b fun p q => p ^^^ q

/-- VSHL (17 R309). -/
def execVshl (et : ET) (x : VDst) (a b : VReg) (s : State) : Out :=
  issue (.vshl et x a b) s fun s =>
    s.bitwise et x a b fun p n => if et.bits ≤ n then 0 else p * 2 ^ n % 2 ^ et.bits

/-- VSHR (17 R309). -/
def execVshr (et : ET) (x : VDst) (a b : VReg) (s : State) : Out :=
  issue (.vshr et x a b) s fun s =>
    s.bitwise et x a b fun p n =>
      if et.isSigned then (intLane et p / 2 ^ min n (et.bits - 1) % 2 ^ et.bits).toNat
      else if et.bits ≤ n then 0 else p / 2 ^ n

/-! ## Comparison, selection and class -/

/-- A comparison of integers. -/
def cmpInts (c : VCond) (p q : Int) : Bool :=
  match c with
  | .eq => p = q | .ne => p ≠ q | .lt => p < q | .le => p ≤ q | .gt => q < p | .ge => q ≤ p

/-- A comparison of numbers, and NV where a NaN raises it (17 R310). -/
def cmpNums (c : VCond) (p q : Num) : Bool × BitVec 5 :=
  if p.isNan || q.isNan then
    let ordered : Bool := match c with | .eq | .ne => false | _ => true
    (decide (c = .ne), if ordered then flagNV else sigFlags [p, q])
  else
    (match c with
      | .eq => !lessThan p q && !lessThan q p
      | .ne => lessThan p q || lessThan q p
      | .lt => lessThan p q | .le => !lessThan q p | .gt => lessThan q p | .ge => !lessThan p q, 0)

/-- VCMP's outcome in a lane. -/
def cmpLanes (t : ET) (c : VCond) (p q : Nat) : Bool × BitVec 5 :=
  if t.isI then (cmpInts c (intLane t p) (intLane t q), 0) else cmpNums c (numLane t p) (numLane t q)

/-- VCMP (17 R310). -/
def execVcmp (et : ET) (c : VCond) (kd k : KReg) (zm : Bool) (a b : VReg) (s : State) : Out :=
  issue (.vcmp et c kd k zm a b) s fun s =>
    let r (i : Nat) : Bool × BitVec 5 := cmpLanes et c (s.lane et a i) (s.lane et b i)
    s.vcommit ((s.activeLanes et k).map fun i => (i, (r i).2)) false fun u =>
      u.setKOf u.cur kd (s.mergedMask et kd k zm fun i => (r i).1)

/-- VSEL (17 R310): every lane is written. -/
def execVsel (et : ET) (d : VReg) (k : KReg) (a b : VReg) (s : State) : Out :=
  issue (.vsel et d k a b) s fun s =>
    s.putV d (vecOf et fun i => if s.active k i then s.lane et a i else s.lane et b i)

/-- The class of a value, as VCLASS numbers them (17 R310). -/
def classOf (sub : Bool) (x : Num) : Nat :=
  match x with
  | .nan sig => if sig then 8 else 9
  | .inf neg => if neg then 0 else 7
  | .fin neg m _ =>
    if m = 0 then (if neg then 3 else 4) else if sub then (if neg then 2 else 5) else if neg then 1 else 6

/-- VCLASS (17 R310). -/
def execVclass (et : ET) (classes : BitVec 10) (kd k : KReg) (zm : Bool) (a : VReg) (s : State) : Out :=
  issue (.vclass et classes kd k zm a) s fun s =>
    s.putK kd (s.mergedMask et kd k zm fun i =>
      let x := s.lane et a i
      classes.getLsbD (classOf ((formOf et).isSub x) (numLane et x)))

/-! ## Conversion, quantisation and dequantisation -/

/-- The destination lanes and their source lanes for a part h (17 R311). -/
def lanePairs (t t2 : ET) (h : Nat) : List (Nat × Nat) :=
  if t2.bits ≤ t.bits then (List.range t.lanes).map fun i => (i, i + t.lanes * h)
  else (List.range t2.lanes).map fun j => (j + t2.lanes * h, j)

/-- The source lane of a destination lane, where it is written (17 R311). -/
def sourceLane (t t2 : ET) (h d : Nat) : Option Nat :=
  if t2.bits ≤ t.bits then some (d + t.lanes * h)
  else if t2.lanes * h ≤ d ∧ d < t2.lanes * (h + 1) then some (d - t2.lanes * h) else none

/-- The frame of VCVT, VQUANT and VDEQ: `f` gives the result of a destination lane from its source lane. -/
def State.converts (s : State) (t t2 : ET) (h : Nat) (x : VDst) (f : Nat → Nat → LaneRes) : State :=
  let act := (lanePairs t t2 h).filter fun p => s.active x.k p.1
  s.vcommit (act.map fun p => (p.1, (f p.1 p.2).res.flags)) (act.any fun p => (f p.1 p.2).sub) fun u =>
    u.setVOf u.cur x.d (vecOf t fun i =>
      match sourceLane t t2 h i with
      | some j => if s.active x.k i then (f i j).res.bits else if x.zm then 0 else s.lane t x.d i
      | none => s.lane t x.d i)

/-- A converted lane, with the subnormals among its operands and its result. -/
def convLane (t : ET) (rm : RM) (sat : Bool) (v : Exact) (subs : Bool) : LaneRes :=
  let r := (formOf t).deliver v rm sat
  ⟨r, subs || (formOf t).isSub r.bits⟩

/-- Does a floating-point lane format hold every value of another, so that the conversion is exact (16 R291)? A format's conversion to
itself is taken as one (DESIGN CHOICE, log 70). -/
def holdsAll (t src : ET) : Bool :=
  t = src || (match t, src with
    | .f32, .bf16 | .f32, .f16 | .f32, .e4m3 | .f32, .e5m2 | .bf16, .e4m3 | .bf16, .e5m2 | .f16, .e4m3 | .f16, .e5m2 => true
    | _, _ => false)

/-- VCVT (17 R312): where the conversion is exact nothing saturates, and an infinity stays one (16 R291). -/
def execVcvt (et et2 : ET) (rm : RM) (part : Fin 4) (sat : Bool) (x : VDst) (a : VReg) (s : State) : Out :=
  issue (.vcvt et et2 rm part sat x a) s fun s =>
    let m := s.roundMode s.cur rm
    s.converts et et2 part.val x fun _ j =>
      let p := s.lane et2 a j
      let v := numLane et2 p
      convLane et m (sat && !holdsAll et et2) (v, sigFlags [v]) ((formOf et2).isSub p)

/-- VQUANT (17 R312): the scale has the source type. -/
def execVquant (et et2 : ET) (rm : RM) (part : Fin 4) (gs sat : Bool) (x : VDst) (a b : VReg) (ga : Reg) (s : State) :
    Out :=
  issue (.vquant et et2 rm part gs sat x a b ga) s fun s =>
    let m := s.roundMode s.cur rm
    s.converts et et2 part.val x fun _ j =>
      let p := s.lane et2 a j
      let q := if gs then s.gLane et2 ga else s.lane et2 b j
      convLane et m sat (fpDiv (numLane et2 p) (numLane et2 q)) ((formOf et2).isSub p || (formOf et2).isSub q)

/-- VDEQ (17 R312): the scale has the destination type. -/
def execVdeq (et et2 : ET) (rm : RM) (part : Fin 4) (gs : Bool) (x : VDst) (a b : VReg) (ga : Reg) (s : State) :
    Out :=
  issue (.vdeq et et2 rm part gs x a b ga) s fun s =>
    let m := s.roundMode s.cur rm
    s.converts et et2 part.val x fun i j =>
      let p := s.lane et2 a j
      let q := if gs then s.gLane et ga else s.lane et b i
      convLane et m false (fpMul (numLane et2 p) (numLane et q)) ((formOf et2).isSub p || (formOf et).isSub q)

/-! ## Reductions and scans -/

/-- A combination in a format (16 R301). -/
def combine (t : ET) (op : RedOp) (rm : RM) (p q : Nat) : LaneRes :=
  if t.isI then
    wrapLane t (match op with
      | .add => intLane t p + intLane t q
      | .min => min (intLane t p) (intLane t q)
      | .max => max (intLane t p) (intLane t q))
  else
    floatLane t rm true [p, q] (match op with
      | .add => fpAdd rm (numLane t p) (numLane t q)
      | .min => fpMin (numLane t p) (numLane t q)
      | .max => fpMax (numLane t p) (numLane t q))

/-- An absent root (16 R301). -/
def absentRoot (t : ET) (op : RedOp) : Nat :=
  match op, formOf t with
  | .add, _ => 0
  | .min, .int sg w => if sg then 2 ^ (w - 1) - 1 else 2 ^ w - 1
  | .max, .int sg w => if sg then 2 ^ (w - 1) else 0
  | .min, .flt f => f.infBits
  | .max, .flt f => f.signBit true + f.infBits

/-- A node of the reduction tree: its value, and the lowest active lane that feeds it. -/
abbrev Node := Option (Nat × Nat)

/-- What a reduction has raised so far, by lane, and whether it met a subnormal. -/
abbrev Raises := List (Nat × BitVec 5) × Bool

/-- One level of the tree (16 R301). -/
def reduceLevel (t : ET) (op : RedOp) (rm : RM) : List Node → Raises → List Node × Raises
  | some p :: some q :: r, acc =>
    let x := combine t op rm p.1 q.1
    let z := reduceLevel t op rm r (acc.1 ++ [(p.2, x.res.flags)], acc.2 || x.sub)
    (some (x.res.bits, p.2) :: z.1, z.2)
  | p :: q :: r, acc =>
    let z := reduceLevel t op rm r acc
    (p.or q :: z.1, z.2)
  | [p], acc => ([p], acc)
  | [], acc => ([], acc)

/-- The tree, level by level. -/
def reduceTree (t : ET) (op : RedOp) (rm : RM) : Nat → List Node → Raises → Node × Raises
  | 0, ns, acc => ((ns.head?).join, acc)
  | k + 1, ns, acc =>
    let z := reduceLevel t op rm ns acc
    reduceTree t op rm k z.1 z.2

/-- Level 0 of a reduction: the active lanes, converted to f32 in the wide forms, which may raise NV (16 R301). -/
def State.leaves (s : State) (t : ET) (wide : Bool) (k : KReg) (a : VReg) : List Node :=
  (List.range t.lanes).map fun i =>
    if s.active k i then
      let x := s.lane t a i
      some (if wide then ((formOf .f32).convert (numLane t x) .rne false).bits else x, i)
    else none

/-- What the leaves raise. -/
def State.leafRaises (s : State) (t : ET) (wide : Bool) (k : KReg) (a : VReg) : Raises :=
  let act := s.activeLanes t k
  (if wide then act.map fun i => (i, sigFlags [numLane t (s.lane t a i)]) else [],
   act.any fun i => (formOf t).isSub (s.lane t a i))

/-- VRED (17 R315). -/
def execVred (et : ET) (rm : RM) (op : RedOp) (wide : Bool) (d : VReg) (k : KReg) (a : VReg) (ga : Reg) (s : State) :
    Out :=
  issue (.vred et rm op wide d k a ga) s fun s =>
    let t := if wide then .f32 else et
    let z := reduceTree t op (s.roundMode s.cur rm) 7 (s.leaves et wide k a) (s.leafRaises et wide k a)
    let r := match z.1 with | some p => p.1 | none => absentRoot t op
    s.vcommit z.2.1 z.2.2 fun u =>
      (u.setVOf u.cur d (vecOf t fun i => if i = 0 then r else s.lane t d i)).setG ga (laneWord t r)

/-- The outputs of a scan over the active lanes in ascending order (16 R302). -/
def scanLanes (t : ET) (op : RedOp) (rm : RM) (x : Nat → Nat) : Option Nat → List Nat → List (Nat × LaneRes)
  | _, [] => []
  | none, i :: r => (i, ⟨⟨x i, 0⟩, (formOf t).isSub (x i)⟩) :: scanLanes t op rm x (some (x i)) r
  | some p, i :: r =>
    let c := combine t op rm p (x i)
    (i, c) :: scanLanes t op rm x (some c.res.bits) r

/-- VSCAN (17 R315). -/
def execVscan (et : ET) (rm : RM) (op : RedOp) (x : VDst) (a : VReg) (s : State) : Out :=
  issue (.vscan et rm op x a) s fun s =>
    let rs := scanLanes et op (s.roundMode s.cur rm) (fun i => s.lane et a i) none (s.activeLanes et x.k)
    s.vcommit (rs.map fun p => (p.1, p.2.res.flags)) (rs.any fun p => p.2.sub) fun u =>
      u.setVOf u.cur x.d (s.merged et x fun i => ((find rs i).map fun c => c.res.bits).getD 0)

/-! ## Lane movement -/

/-- VBCAST (17 R316). -/
def execVbcast (et : ET) (fromLane : Bool) (lane : BitVec 8) (x : VDst) (a : VReg) (ga : Reg) (s : State) : Out :=
  issue (.vbcast et fromLane lane x a ga) s fun s =>
    s.putV x.d (s.merged et x fun _ => if fromLane then s.lane et a lane.toNat else s.gLane et ga)

/-- VMOVG (17 R316). -/
def execVmovg (et : ET) (ins : Bool) (lane : BitVec 7) (v : VReg) (ga : Reg) (s : State) : Out :=
  issue (.vmovg et ins lane v ga) s fun s =>
    if ins then s.putV v (vecOf et fun i => if i = lane.toNat then s.gLane et ga else s.lane et v i)
    else (s.setG ga (laneWord et (s.lane et v lane.toNat))).retire 8

/-- VSHUF (17 R316). -/
def execVshuf (et : ET) (x : VDst) (a b c : VReg) (s : State) : Out :=
  issue (.vshuf et x a b c) s fun s =>
    s.putV x.d (s.merged et x fun i =>
      let j := s.lane et b i
      if j < et.lanes then s.lane et a j else if j < 2 * et.lanes then s.lane et c (j - et.lanes) else 0)

/-- VSLIDE (17 R316). -/
def execVslide (et : ET) (n : BitVec 8) (up fromG : Bool) (x : VDst) (a c : VReg) (ga : Reg) (s : State) : Out :=
  issue (.vslide et n up fromG x a c ga) s fun s =>
    let k := if fromG then min (s.g ga).toNat et.lanes else n.toNat
    s.putV x.d (s.merged et x fun i =>
      if up then (if k ≤ i then s.lane et a (i - k) else s.lane et c (et.lanes + i - k))
      else if i + k < et.lanes then s.lane et a (i + k) else s.lane et c (i + k - et.lanes))

/-- VIOTA (17 R316). -/
def execViota (et : ET) (idx : Bool) (x : VDst) (s : State) : Out :=
  issue (.viota et idx x) s fun s =>
    s.putV x.d (s.merged et x fun i => if idx then i else (List.range i).countP fun j => s.active x.k j)

/-! ## Vector memory access -/

/-- The space of a vector memory operand (17 R307). -/
def vecSpace (inC : Bool) : SP := if inC then .c else .a

/-- Resolves the active lanes in ascending order: the first that fails gives its cause, subcode and address
(17 R317, R323). An address of VLD or VST is an exact sum, which may lie beyond 64 bits (02 R33). -/
def State.resolveLanes (s : State) (sp : SP) (e : Nat) :
    List (Nat × Nat) → Except (Nat × Nat × Word) (List (Nat × Loc))
  | [] => .ok []
  | (i, x) :: r =>
    match (if x < 2 ^ 64 then s.resolve .plain sp (word x) e e else .error (0x09, 0x00)) with
    | .error (c, sub) => .error (c, sub, word x)
    | .ok l =>
      match s.resolveLanes sp e r with
      | .error f => .error f
      | .ok ls => .ok ((i, l) :: ls)

/-- Tests the granules of lanes in ascending lane order (17 R317; 07 R155). -/
def State.raceLanes (s : State) (e : Nat) (wr : Bool) : List (Nat × Loc) → Except (Nat × Nat) State
  | [] => .ok s
  | (_, l) :: r =>
    match s.raceCheck s.cur l e wr with
    | .error f => .error f
    | .ok s => s.raceLanes e wr r

/-- Makes a vector access of some lanes at their addresses: every check first, then `k` on the locations (17 R317). The address checks of
all lanes come before the race test of the first, an order that the spec leaves open (DESIGN CHOICE, log 71). -/
def State.vecAccess (s : State) (sp : SP) (e : Nat) (wr : Bool) (xs : List (Nat × Nat))
    (k : State → List (Nat × Loc) → State) : State :=
  match s.resolveLanes sp e xs with
  | .error (c, sub, x) => s.trap c sub x
  | .ok ls =>
    match s.raceLanes e wr ls with
    | .error (sub, off) => s.raiseHere 0x0E sub (word off) 8
    | .ok s =>
      match (if wr then none else ls.find? fun p => s.poisoned p.2 e) with
      | some p => s.consume s.cur 1 (word p.2.off)
      | none => k s ls

/-- Loads lanes. -/
def State.vecLoad (s : State) (t : ET) (sp : SP) (x : VDst) (xs : List (Nat × Nat)) : State :=
  let e := t.bits / 8
  s.vecAccess sp e false xs fun s ls =>
    s.putV x.d (s.merged t x fun i => match find ls i with | some l => s.read l e | none => 0)

/-- Is the register word that holds a lane of v[d] of the issuing slot poisoned? -/
def State.laneBad (s : State) (t : ET) (d : VReg) (i : Nat) : Bool :=
  decide (imageBase (s.imageKey s.cur) + (0x800 + 128 * d.val + i * t.bits / 64 * 8) ∈ s.poison)

/-- A vector store writes the words that poisoned lanes reach poisoned (13 R266). -/
def State.carryLanes (u s : State) (t : ET) (d : VReg) (ls : List (Nat × Loc)) : State :=
  if s.poison = [] then u
  else { u with poison := ls.foldl (fun m p => if s.laneBad t d p.1 then addTo m (wordKey p.2.key) else m) u.poison }

/-- Stores lanes in ascending order (17 R318). -/
def State.vecStore (s : State) (t : ET) (sp : SP) (d : VReg) (xs : List (Nat × Nat)) : State :=
  let e := t.bits / 8
  s.vecAccess sp e true xs fun s ls =>
    (((ls.foldl (fun u p => u.write p.2 e (s.lane t d p.1)) s).heal
      (ls.flatMap fun p => (List.range e).map fun j => p.2.key + j)).carryLanes s t d ls).retire 8

/-- The address of each active lane of VLD and VST (17 R317). -/
def State.unitAddrs (s : State) (t : ET) (k : KReg) (off : BitVec 14) (ga : Reg) : List (Nat × Nat) :=
  (s.activeLanes t k).map fun i => (i, (s.g ga + off.signExtend 64).toNat + i * (t.bits / 8))

/-- The address of each active lane of VGATH and VSCAT (17 R318). -/
def State.indexAddrs (s : State) (t : ET) (k : KReg) (b : VReg) (sh : Fin 4) (ga : Reg) : List (Nat × Nat) :=
  (s.activeLanes t k).map fun i => (i, (s.g ga + word (s.lane t b i * 2 ^ sh.val)).toNat)

/-- VLD (17 R317). -/
def execVld (et : ET) (inC : Bool) (off : BitVec 14) (x : VDst) (ga : Reg) (s : State) : Out :=
  issue (.vld et inC off x ga) s fun s => s.vecLoad et (vecSpace inC) x (s.unitAddrs et x.k off ga)

/-- VST (17 R317). -/
def execVst (et : ET) (inC : Bool) (off : BitVec 14) (d : VReg) (k : KReg) (ga : Reg) (s : State) : Out :=
  issue (.vst et inC off d k ga) s fun s => s.vecStore et (vecSpace inC) d (s.unitAddrs et k off ga)

/-- VGATH (17 R318). -/
def execVgath (et : ET) (inC : Bool) (sh : Fin 4) (x : VDst) (b : VReg) (ga : Reg) (s : State) : Out :=
  issue (.vgath et inC sh x b ga) s fun s => s.vecLoad et (vecSpace inC) x (s.indexAddrs et x.k b sh ga)

/-- VSCAT (17 R318). -/
def execVscat (et : ET) (inC : Bool) (sh : Fin 4) (d : VReg) (k : KReg) (b : VReg) (ga : Reg) (s : State) : Out :=
  issue (.vscat et inC sh d k b ga) s fun s => s.vecStore et (vecSpace inC) d (s.indexAddrs et k b sh ga)

/-! ## Masks -/

/-- KAND (17 R319). -/
def execKand (d a b : KReg) (s : State) : Out :=
  issue (.kand d a b) s fun s => s.putK d (s.kOf s.cur a &&& s.kOf s.cur b)

/-- KOR (17 R319). -/
def execKor (d a b : KReg) (s : State) : Out :=
  issue (.kor d a b) s fun s => s.putK d (s.kOf s.cur a ||| s.kOf s.cur b)

/-- KXOR (17 R319). -/
def execKxor (d a b : KReg) (s : State) : Out :=
  issue (.kxor d a b) s fun s => s.putK d (s.kOf s.cur a ^^^ s.kOf s.cur b)

/-- KNOT (17 R319). -/
def execKnot (d a : KReg) (s : State) : Out :=
  issue (.knot d a) s fun s => s.putK d (~~~ s.kOf s.cur a)

/-- KPOP (17 R319). -/
def execKpop (et : ET) (a : KReg) (ga : Reg) (s : State) : Out :=
  issue (.kpop et a ga) s fun s => (s.setG ga (word (s.activeLanes et a).length)).retire 8

/-- KSET (17 R319). -/
def execKset (et : ET) (d : KReg) (ga : Reg) (s : State) : Out :=
  issue (.kset et d ga) s fun s => s.putK d (.ofNat 128 (2 ^ min (s.g ga).toNat et.lanes - 1))

/-- KFIRST (17 R319). -/
def execKfirst (et : ET) (a : KReg) (ga : Reg) (s : State) : Out :=
  issue (.kfirst et a ga) s fun s =>
    (s.setG ga (match (s.activeLanes et a).head? with | some i => word i | none => neg 1)).retire 8

/-- A k register with one half replaced. -/
def putHalf (x : BitVec 128) (hi : Bool) (v : Word) : BitVec 128 :=
  if hi then v ++ x.extractLsb' 0 64 else x.extractLsb' 64 64 ++ v

/-- KMOVG (17 R319). -/
def execKmovg (put hi : Bool) (k : KReg) (ga : Reg) (s : State) : Out :=
  issue (.kmovg put hi k ga) s fun s =>
    let x := s.kOf s.cur k
    if put then s.putK k (putHalf x hi (s.g ga))
    else (s.setG ga (x.extractLsb' (if hi then 64 else 0) 64)).retire 8

end Sys2Proof.Machine
end

