-- ==== Sys2Proof/Machine/Tables.lean ====
section
/-! DEFINITION. The table engine, VTLU and VTCFG (17 R320 to R322), and the block records of VPACK and VUNPK
(16 R285 to R287; 17 R313, R314). -/
namespace Sys2Proof.Machine
open Sys2Proof

/-! ## The table engine -/

/-- A knot as an exact value. -/
def Table.knot (t : Table) (j : Nat) : Nat := (t.knots.getD j 0).toNat
/-- The number of knots. -/
def Table.size (t : Table) : Nat := t.knots.length

/-- An interpolation's f32 value, the flags of its roundings, and whether a subnormal came up. -/
structure Interp where
  y : Num
  flags : BitVec 5
  sub : Bool
deriving DecidableEq, Repr

/-- The value at a knot. A clamped knot that is a signalling NaN raises no NV, of which the spec says nothing (DESIGN CHOICE, log 70). -/
def Table.atKnot (t : Table) (j : Nat) : Interp := ⟨fmtF32.decode (t.knot j), 0, fmtF32.isSub (t.knot j)⟩

/-- The interpolation between knots j and j + 1 at an offset (17 R321). -/
def Table.between (t : Table) (j : Nat) (off : Num) : Interp :=
  let f : Form := .flt fmtF32
  let a := fmtF32.decode (t.knot j)
  let b := fmtF32.decode (t.knot (j + 1))
  let d := f.deliver (fpSub .rne b a) .rne false
  let p := f.deliver (fpMul off (fmtF32.decode d.bits)) .rne false
  let y := f.deliver (fpAdd .rne a (fmtF32.decode p.bits)) .rne false
  ⟨fmtF32.decode y.bits, d.flags ||| p.flags ||| y.flags,
    fmtF32.isSub d.bits || fmtF32.isSub p.bits || fmtF32.isSub y.bits⟩

/-- VTLU's function of x (17 R321), where x is no NaN: u = (x − x0) · 2^−e is exact, and the offset, which is held in no format, counts as no
subnormal intermediate (16 R294; DESIGN CHOICE, log 82). -/
def Table.eval (t : Table) (extend : Bool) (x : Num) : Interp :=
  let n := t.size
  match x with
  | .inf neg =>
    if extend then t.between (if neg then 0 else n - 2) (.inf neg) else t.atKnot (if neg then 0 else n - 1)
  | .fin neg m e =>
    match fmtF32.decode t.x0.toNat with
    | .fin neg0 m0 e0 =>
      let base := min e e0
      let dx := signedAt neg m e base - signedAt neg0 m0 e0 base
      let k := base - t.e.toInt
      let u (c : Nat) : Int := if 0 ≤ k then dx * 2 ^ k.toNat - c else dx - c * 2 ^ (-k).toNat
      let low : Int := if 0 ≤ k then dx * 2 ^ k.toNat else dx / 2 ^ (-k).toNat
      if !extend && dx ≤ 0 then t.atKnot 0
      else if !extend && (n - 1 : Nat) ≤ low then t.atKnot (n - 1)
      else
        let j := (max 0 (min low (n - 2 : Nat))).toNat
        let w := u j
        t.between j (.fin (w < 0) w.natAbs (min k 0))
    | _ => ⟨.nan false, flagNV, false⟩
  | .nan _ => ⟨.nan false, 0, false⟩

/-- VTLU on one lane: an empty slot and a NaN give the canonical NaN (17 R321). -/
def tableLane (t : ET) (rm : RM) (tab : Option Table) (extend : Bool) (x : Num) (xsub : Bool) : LaneRes :=
  let i : Interp := match tab with
    | none => ⟨.nan false, flagNV, false⟩
    | some tb => if x.isNan then ⟨.nan false, sigFlags [x], false⟩ else tb.eval extend x
  convLane t rm false (i.y, i.flags) (xsub || i.sub)

/-- The source lane of VTLU: lane i of v[VA] in the source type. Where the source register has no lane i, the spec
names no value, and a free one stands in that only the register and the lane determine (DESIGN CHOICE, log 17). -/
def State.tableSource (s : State) (t2 : ET) (a : VReg) (i : Nat) : Nat :=
  if i < t2.lanes then s.lane t2 a i else (Config.laneBeyond (s.vOf s.cur a) i).toNat % 2 ^ t2.bits

/-- VTLU (17 R321). -/
def execVtlu (et et2 : ET) (rm : RM) (slot : Fin 4) (extend : Bool) (x : VDst) (a : VReg) (s : State) : Out :=
  issue (.vtlu et et2 rm slot extend x a) s fun s =>
    let m := s.roundMode s.cur rm
    let tab := (s.tileAt (tileOf s.cur)).tables[slot]
    let f (i : Nat) : LaneRes :=
      let p := s.tableSource et2 a i
      tableLane et m tab extend (numLane et2 p) ((formOf et2).isSub p)
    let act := s.activeLanes et x.k
    s.vcommit (act.map fun i => (i, (f i).res.flags))
      (act.any fun i => (f i).sub) fun u => u.setVOf u.cur x.d (s.merged et x fun i => (f i).res.bits)

/-- The fields of a descriptor (17 R320). -/
structure Descriptor where
  x0 : Nat
  e : Nat
  zero5 : Nat
  n : Nat
  zero8 : Nat
deriving DecidableEq, Repr

/-- Reads a descriptor's fields. -/
def State.descriptor (s : State) (l : Loc) : Descriptor :=
  let at_ (o n : Nat) : Nat := s.read { l with off := l.off + o } n
  ⟨at_ 0 4, at_ 4 1, at_ 5 1, at_ 6 2, at_ 8 8⟩

/-- A malformed descriptor: x0 not finite, n outside 2 to 257, or a zero field that is not zero (17 R320). -/
def Descriptor.bad (d : Descriptor) : Bool :=
  (match fmtF32.decode d.x0 with | .fin .. => false | _ => true)
  || d.n < 2 || 257 < d.n || d.zero5 ≠ 0 || d.zero8 ≠ 0

/-- Loads a table slot from a descriptor. -/
def State.loadTable (s : State) (slot : Fin 4) (l : Loc) (d : Descriptor) : State :=
  let t := s.tileAt (tileOf s.cur)
  let ks := (List.range d.n).map fun j => BitVec.ofNat 32 (s.read { l with off := l.off + 16 + 4 * j } 4)
  s.setTile (tileOf s.cur) { t with tables := t.tables.set slot (some ⟨.ofNat 32 d.x0, .ofNat 8 d.e, ks⟩) }

/-- VTCFG (17 R320): the header's bounds, its alignment and its fields are checked, then the knots' extent, races and poison, and then the
slot is loaded. The spec gives these causes no order (DESIGN CHOICE, log 83). -/
def execVtcfg (slot : Fin 4) (ga : Reg) (s : State) : Out :=
  issue (.vtcfg slot ga) s fun s =>
    let x := s.g ga
    match s.resolve .plain .a x 16 16 with
    | .error (c, sub) => s.trap c sub x
    | .ok l =>
      let d := s.descriptor l
      let n := 16 + 4 * d.n
      if s.poisoned l 16 then s.consume s.cur 1 x
      else if d.bad then s.trap 0x09 0x10 x
      else if spSize .a < l.off + n then s.trap 0x09 0x00 (word (spSize .a))
      else
        match s.raceCheck s.cur l n false with
        | .error (sub, off) => s.raiseHere 0x0E sub (word off) 8
        | .ok s =>
          if s.poisoned l n then s.consume s.cur 1 x else (s.loadTable slot l d).retire 8

/-! ## Block records -/

/-- The magnitude bits of a ZB format (16 R286). -/
def BFmt.mag : BFmt → Nat
  | .zb2 => 2 | .zb4 => 4 | _ => 7

/-- The magnitudes of the E2M1 codes, doubled (16 R285). -/
def e2m1Twice (c : Nat) : Nat := [0, 1, 2, 3, 4, 6, 8, 12].getD (c % 8) 0

/-- Element i of a record, given as a number of its bytes: its value; the canonical NaN in a NaN block (16 R285
to R287). -/
def recordElem (f : BFmt) (x i : Nat) : Num :=
  let e := x % 256
  if e = 255 then .nan false
  else if f = .mxfp4 then
    let c := x / 2 ^ (16 + 4 * i) % 16
    .fin (8 ≤ c) (e2m1Twice c) ((e : Int) - 128)
  else
    let m := BFmt.mag f
    let c := x / 2 ^ (16 + i * (m + 1)) % 2 ^ (m + 1)
    let mu := x / 2 ^ (8 + i / 2) % 2
    .fin (c % 2 = 1) (c / 2) ((e : Int) - 127 - mu - (m - 1 : Nat))

/-- A packed block: its bits, and the flags that each element raises. -/
structure Packed where
  bits : Nat
  flags : List (BitVec 5)
deriving DecidableEq, Repr

/-- The floor of log2 of a nonzero finite value. -/
def Num.log2 : Num → Int
  | .fin _ m e => e + Nat.log2 m
  | _ => 0

/-- Is the value a nonzero number? -/
def Num.nonzero : Num → Bool
  | .fin _ m _ => m ≠ 0
  | _ => false

/-- The largest floor of log2 over the nonzero values, where there is one. -/
def topLog (xs : List Num) : Option Int :=
  match (xs.filter Num.nonzero).map Num.log2 with
  | [] => none
  | a :: r => some (r.foldl max a)

/-- An integer limited to a range. -/
def clampInt (lo hi x : Int) : Int := max lo (min x hi)

/-- One ZB element at a scale exponent: sign and magnitude as the record holds them, and its flags. -/
def packZbElem (m : Nat) (rm : RM) (scale : Int) (x : Num) : Res :=
  match x with
  | .fin neg n e =>
    let r := roundAt rm neg n (e + (m - 1 : Nat) - scale) 0
    let mag := min r.1 (2 ^ m - 1)
    let nx := !r.2 || 2 ^ m - 1 < r.1
    ⟨(if neg then 1 else 0) + 2 * mag,
      (if nx then flagNX else 0) ||| (if n ≠ 0 ∧ mag = 0 then flagUF else 0)⟩
  | _ => ⟨0, 0⟩

/-- Numbers side by side, `w` bits each, the first lowest. -/
def packBits (w : Nat) : List Nat → Nat
  | [] => 0
  | a :: r => a + 2 ^ w * packBits w r

/-- A block from its first two bytes and its elements. -/
def packedOf (w head : Nat) (rs : List Res) : Packed := ⟨head + 2 ^ 16 * packBits w (rs.map (·.bits)), rs.map (·.flags)⟩

/-- A ZB block (17 R313). -/
def packZb (m : Nat) (rm : RM) (xs : List Num) : Packed :=
  match topLog xs with
  | none => packedOf (m + 1) 0 (xs.map (packZbElem m rm 0))
  | some top =>
    let g := clampInt (-127) 127 top
    let small (x : Num) : Bool := !x.nonzero || x.log2 < g
    let mu (k : Nat) : Nat := if small (xs.getD (2 * k) (.fin false 0 0)) && small (xs.getD (2 * k + 1) (.fin false 0 0))
      then 1 else 0
    let mus := (List.range 8).foldl (fun a k => a + mu k * 2 ^ k) 0
    packedOf (m + 1) ((g + 127).toNat + 2 ^ 8 * mus)
      ((List.range 16).map fun i => packZbElem m rm (g - mu (i / 2)) (xs.getD i (.fin false 0 0)))

/-- One MXFP4 element: Narrow to E2M1 with saturation, and UF where a nonzero value packs to magnitude 0. -/
def packMxElem (rm : RM) (scale : Int) (x : Num) : Res :=
  match x with
  | .fin neg n e =>
    let r := fmtE2m1.narrow (.fin neg n (e - scale)) rm true
    ⟨r.bits, r.flags ||| (if n ≠ 0 ∧ r.bits % 8 = 0 then flagUF else 0)⟩
  | _ => ⟨0, 0⟩

/-- An MXFP4 block (17 R313). -/
def packMx (rm : RM) (xs : List Num) : Packed :=
  match topLog xs with
  | none => packedOf 4 0 (xs.map (packMxElem rm 0))
  | some top =>
    let x := clampInt 0 254 (top - 2 + 127)
    packedOf 4 x.toNat (xs.map (packMxElem rm (x - 127)))

/-- One block (17 R313): a NaN or an infinity makes a NaN block and raises NV. -/
def packBlock (f : BFmt) (rm : RM) (xs : List Num) : Packed :=
  let special (x : Num) : Bool := match x with | .fin .. => false | _ => true
  if xs.any special then ⟨255, xs.map fun x => if special x then flagNV else 0⟩
  else if f = .mxfp4 then packMx rm xs else packZb (BFmt.mag f) rm xs

/-- The blocks of VPACK, block 0 first. -/
def State.packBlocks (s : State) (t : ET) (rm : RM) (f : BFmt) (a : VReg) : List Packed :=
  let n := f.recordElems
  (List.range (t.lanes / n)).map fun b =>
    packBlock f rm ((List.range n).map fun i => numLane t (s.lane t a (b * n + i)))

/-- The bits of consecutive records. -/
def recordsOf (size : Nat) (ps : List Packed) : Nat := packBits (8 * size) (ps.map (·.bits))

/-- A subnormal E2M1 code (16 R285, R294). -/
def subE2m1 (c : Nat) : Bool := c % 8 = 1

/-- Does element i of a record hold a subnormal of its format: an E2M1 code in a block that is no NaN block? -/
def recordSub (f : BFmt) (x i : Nat) : Bool := f = .mxfp4 && x % 256 ≠ 255 && subE2m1 (x / 2 ^ (16 + 4 * i))

/-- VPACK (17 R313). A subnormal result of E2M1 uses the normaliser (16 R294). -/
def execVpack (et : ET) (rm : RM) (f : BFmt) (off : BitVec 8) (d a : VReg) (s : State) : Out :=
  issue (.vpack et rm f off d a) s fun s =>
    let m := s.roundMode s.cur rm
    let ps := s.packBlocks et m f a
    let fs := ps.flatMap (·.flags)
    let subs := (List.range et.lanes).any (fun j => (formOf et).isSub (s.lane et a j))
      || (f = .mxfp4 && ps.any fun p => (List.range 32).any fun j => subE2m1 (p.bits / 2 ^ (16 + 4 * j)))
    s.vcommit ((List.range fs.length).map fun j => (j, fs.getD j 0)) subs fun u =>
      let lo := 8 * off.toNat
      let len := 8 * f.recordBytes * ps.length
      let x := (s.vOf s.cur d).toNat
      u.setVOf u.cur d (.ofNat 1024
        (x % 2 ^ lo + 2 ^ lo * recordsOf f.recordBytes ps + 2 ^ (lo + len) * (x / 2 ^ (lo + len))))

/-- VUNPK (17 R314). -/
def execVunpk (et : ET) (rm : RM) (f : BFmt) (off : BitVec 8) (x : VDst) (a : VReg) (s : State) : Out :=
  issue (.vunpk et rm f off x a) s fun s =>
    let m := s.roundMode s.cur rm
    let n := f.recordElems
    let size := f.recordBytes
    s.elementwise et x fun j =>
      let r := laneOf (8 * size) ((s.vOf s.cur a).toNat / 2 ^ (8 * off.toNat)) (j / n)
      let v := recordElem f r (j % n)
      let l := floatLane et m true [] (v, if v.isNan then flagNV else 0)
      ⟨l.res, l.sub || recordSub f r (j % n)⟩

end Sys2Proof.Machine
end

