-- ==== Sys2Proof/Machine/Matrix.lean ====
section
/-! DEFINITION. The matrix unit, opcodes 0xC0 to 0xC7 (19 R326 to R346, R426): the checks at issue against the
issue view, the queue, admission (16 R296), block sums and accumulation (R298 to R300), the unit's queue turns,
and the dike ring (19 R332; 21 R377). The unit performs the instruction at the head of its queue in one step, or writes 64-bit words
of it in steps of their own before (08 R176). -/
namespace Sys2Proof.Machine
open Sys2Proof

/-! ## The issue view -/

/-- What the checks at issue see of the unit (19 R330). -/
structure View where
  act : Bool
  conf : BitVec 10
  bank0 : BFmt × Nat × Bool
  bank1 : BFmt × Nat × Bool
deriving DecidableEq, Repr

/-- The active bank of a view: format, K and V. -/
def View.active (v : View) : BFmt × Nat × Bool := if v.act then v.bank1 else v.bank0

/-- What an accepted instruction leaves of a view. -/
def View.after (v : View) : MatrixOp → View
  | .mcfg conf => { v with conf := conf }
  | .mswap => { v with act := !v.act }
  | .mldb _ k _ _ fmt _ =>
    if v.act then { v with bank0 := (fmt, k, true) } else { v with bank1 := (fmt, k, true) }
  | _ => v

/-- The issue view of a unit. -/
def MatrixUnit.view (u : MatrixUnit) : View :=
  u.queue.foldl View.after
    ⟨u.act, u.mconf, (u.bank0.fmt, u.bank0.k, u.bank0.v), (u.bank1.fmt, u.bank1.k, u.bank1.v)⟩

/-- The matrix unit of the issuing slot's tile. -/
def State.unit (s : State) : MatrixUnit := (s.tileAt (tileOf s.cur)).mx
/-- Replaces a tile's matrix unit. -/
def State.setUnit (s : State) (t : Nat) (u : MatrixUnit) : State := s.setTile t { s.tileAt t with mx := u }

/-- The quad position of a tile (19 R327). -/
def State.quadPos (s : State) (t : Nat) : Nat := (s.tileAt t).logTile % 4
/-- The physical tile at a quad position of a tile's quad, where the launch has it. -/
def State.quadTile (s : State) (t p : Nat) : Option Nat :=
  match (s.tileAt t).launch with
  | none => none
  | some l =>
    let x := (s.tileAt t).logTile - s.quadPos t + p
    if x < (s.launchAt l).record.tiles then some ((s.launchAt l).place.getD x 0) else none

/-- The positions of a mask, ascending. -/
def maskPositions (m : BitVec 4) : List Nat := (List.range 4).filter m.getLsbD

/-- QMASK of MCONF (19 R337). -/
def confMask (c : BitVec 10) : BitVec 4 := c.setWidth 4
/-- LEADER of MCONF. -/
def confLeader (c : BitVec 10) : Nat := c.toNat / 16 % 4
/-- AFMT of MCONF. -/
def confFmt (c : BitVec 10) : BFmt := bfmt (c.toNat / 64)

/-! ## Acceptance -/

/-- Accepts an instruction into the queue, or leaves the rotation while it is full (19 R328). -/
def State.acceptOp (s : State) (len : Nat) (op : MatrixOp) : State :=
  let u := s.unit
  if 4 ≤ u.queue.length then s.block s.cur .poll
  else (s.setUnit (tileOf s.cur) { u with queue := u.queue ++ [op] }).finish len

/-- Bytes of a column or a row of K elements in a format (19 R338). -/
def lineBytes (f : BFmt) (k : Nat) : Nat := k / f.recordElems * f.recordBytes

/-- The first byte of a range that lies beyond a buffer's size (19 R426). -/
def beyond (start stop size : Nat) : Option Nat := if size < stop then some (max start size) else none

/-- The lowest byte at or beyond a buffer's size of `n` lines of `len` bytes, `step` apart (19 R426): of the first line that passes the
size, its start or the size. Where gaps lie between the lines, the size itself may lie in one, which the instruction does not
access (DEDUCED, log 33). -/
def beyondLines (start step len n size : Nat) : Option Nat :=
  if size < start + len then some (max start size)
  else
    let i := (size - (start + len)) / step + 1
    if i < n ∧ step ≠ 0 then some (max (start + i * step) size) else none

/-- The semaphore that an instruction signals (19 R336). -/
def semOf (p : Params) : Option (Fin 16) := if p.sig then some p.sem else none

/-- The MATRIX trap (19 R346). -/
def State.matrixTrap (s : State) (sub v : Nat) : State := s.trap 0x21 sub (word v)

/-- MCFG (19 R337). -/
def execMcfg (qmask : BitVec 4) (leader : Fin 4) (afmt : BFmt) (s : State) : Out :=
  issue (.mcfg qmask leader afmt) s fun s =>
    let t := tileOf s.cur
    let fn := qmask.toNat + 16 * leader.val + 64 * afmt.code
    if !qmask.getLsbD (s.quadPos t) || !qmask.getLsbD leader.val
        || (maskPositions qmask).any fun p => (s.quadTile t p).isNone then s.matrixTrap 5 fn
    else s.acceptOp 8 (.mcfg (.ofNat 10 fn))

/-- MLDB (19 R338). -/
def execMldb (p : Params) (s : State) : Out :=
  issue (.mldb p) s fun s =>
    let off := s.param p 0
    let k := fieldOf (s.param p 1) 15 0
    let n := fieldOf (s.param p 1) 31 16
    let stride := s.param p 2
    let f := bfmt (s.param p 3)
    let size := lineBytes f k
    let step := if stride = 0 then size else stride
    if stride ≠ 0 ∧ stride < size then s.matrixTrap 0 stride
    else
      match beyondLines off step size n (spSize .w) with
      | some x => s.matrixTrap 0 x
      | none =>
        if f = .bf16 ∧ (off % 2 = 1 ∨ stride % 2 = 1) then s.trap 0x08 0 (word off)
        else s.acceptOp 24 (.mldb off k n step f (semOf p))

/-- MSWAP (19 R339). -/
def execMswap (s : State) : Out := issue .mswap s fun s => s.acceptOp 8 .mswap

/-- What stands against a co-operative MMUL (19 R341). -/
def coopBad (v : View) (lead : Bool) (p0 p1 p2 p3 : Nat) : Bool :=
  fieldOf p2 19 0 ≠ 0 || bfmt (fieldOf p2 23 20) ≠ confFmt v.conf
  || (if lead then fieldOf p0 10 0 = 0 else p0 ≠ 0 || p1 ≠ 0 || p3 ≠ 0)

/-- MMUL (19 R340, R341). -/
def execMmul (p : Params) (s : State) : Out :=
  issue (.mmul p) s fun s =>
    let p0 := s.param p 0
    let p1 := s.param p 1
    let p2 := s.param p 2
    let p3 := s.param p 3
    let m := fieldOf p0 10 0
    let c := fieldOf p2 19 0
    let fa := bfmt (fieldOf p2 23 20)
    let q : Bool := fieldOf p2 24 24 = 1
    let v := s.unit.view
    let fb := v.active.1
    let k := v.active.2.1
    let lead : Bool := !q || s.quadPos (tileOf s.cur) = confLeader v.conf
    let size := lineBytes fa k
    let step := if p3 = 0 then size else p3
    if !v.active.2.2 then s.matrixTrap 2 0
    else if (decide (fa = .i8) != decide (fb = .i8)) || (decide (fa = .mxfp4) && k % 32 != 0) then s.matrixTrap 1 (fa.code * 16 ||| fb.code)
    else if q && coopBad v lead p0 p1 p2 p3 then s.matrixTrap 3 p2
    else if c % 4 ≠ 0 then s.trap 0x08 0 (word c)
    else if fa = .bf16 ∧ p1 % 2 = 1 then s.trap 0x08 0 (word p1)
    else if fa = .bf16 ∧ p3 % 2 = 1 then s.trap 0x08 0 (word p3)
    else
      match (if lead then (beyondLines p1 step size m (spSize .a)).or
          (beyond c (c + 1024 * m) (spSize .c)) else none) with
      | some x => s.matrixTrap 0 x
      | none => s.acceptOp 24 (.mmul m p1 c fa q step (semOf p))

/-- MZERO (19 R342). -/
def execMzero (a b : Reg) (s : State) : Out :=
  issue (.mzero a b) s fun s =>
    let x := (s.g a).toNat
    let y := (s.g b).toNat
    if x % 128 ≠ 0 then s.trap 0x08 0 (s.g a)
    else if y % 128 ≠ 0 then s.trap 0x08 0 (s.g b)
    else
      match beyond x (x + y) (spSize .c) with
      | some z => s.matrixTrap 0 z
      | none => s.acceptOp 8 (.mzero x y)

/-- MOUT (19 R343): RM = 100 takes RMODE at issue. -/
def execMout (p : Params) (s : State) : Out :=
  issue (.mout p) s fun s =>
    let c := s.param p 0
    let a := s.param p 1
    let rows := fieldOf (s.param p 2) 10 0
    let n := fieldOf (s.param p 2) 24 16
    let p3 := s.param p 3
    let et := ety (fieldOf p3 3 0)
    let e := et.bits / 8
    if c % 4 ≠ 0 then s.trap 0x08 0 (word c)
    else if a % e ≠ 0 then s.trap 0x08 0 (word a)
    else
      match (beyondLines c 1024 (4 * n) rows (spSize .c)).or (beyond a (a + rows * n * e) (spSize .a)) with
      | some x => s.matrixTrap 0 x
      | none =>
        s.acceptOp 24 (.mout c a rows n et (s.roundMode s.cur (rmd (fieldOf p3 6 4)))
          (fieldOf p3 7 7 = 1) (fieldOf p3 8 8 = 1) (fieldOf p3 9 9 = 1) (semOf p))

/-- MRED (19 R345). -/
def execMred (p : Params) (s : State) : Out :=
  issue (.mred p) s fun s =>
    let src := s.param p 0
    let len := s.param p 1
    let p2 := s.param p 2
    let dst := s.param p 3
    let mask : BitVec 4 := .ofNat 4 (fieldOf p2 3 0)
    if (maskPositions mask).any fun q => (s.quadTile (tileOf s.cur) q).isNone then s.matrixTrap 4 p2
    else if src % 4 ≠ 0 then s.trap 0x08 0 (word src)
    else if len % 4 ≠ 0 then s.trap 0x08 0 (word len)
    else if dst % 4 ≠ 0 then s.trap 0x08 0 (word dst)
    else
      match (beyond src (src + len) (spSize .c)).or (beyond dst (dst + len) (spSize .c)) with
      | some x => s.matrixTrap 0 x
      | none => s.acceptOp 24 (.mred src len mask (fieldOf p2 4 4 = 1) dst (semOf p))

/-- MSTAT as a word (19 R344). -/
def MatrixUnit.stat (u : MatrixUnit) : Word :=
  let b (x : Bool) (n : Nat) : Nat := if x then 2 ^ n else 0
  word (u.bank1.fmt.code * 2 ^ 28 + u.bank0.fmt.code * 2 ^ 24 + u.flags.oflags.toNat * 2 ^ 16
    + b u.bank1.v 7 + b u.bank0.v 6 + b u.act 5 + b u.flags.sovf 3 + b u.flags.nan 2 + b u.flags.inf 1
    + b u.flags.sat 0)

/-- MSTAT (19 R344): it waits until every instruction accepted before it has finished. -/
def execMstat (f : MstatForm) (d : Reg) (s : State) : Out :=
  issue (.mstat f d) s fun s =>
    let u := s.unit
    if u.queue ≠ [] then s.block s.cur .poll
    else
      match f with
      | .read => s.answerBlocking d u.stat
      | .clr => (s.setUnit (tileOf s.cur) { u with flags := {} }).answerBlocking d u.stat
      | .cfg => s.answerBlocking d (u.mconf.setWidth 64)

/-! ## Admission -/

/-- Lane elements of one K-block, with the places below the leading one that admission keeps (16 R296). -/
def admitLanes (places : Nat) (xs : List Num) : Block :=
  if xs.any fun x => match x with | .fin .. => false | _ => true then ⟨true, 0, []⟩
  else
    match topLog xs with
    | none => ⟨false, 0, xs.map fun _ => 0⟩
    | some top =>
      let beta := top - (places : Int)
      ⟨false, beta, xs.map fun x =>
        match x with
        | .fin neg m e =>
          let q : Int := (roundAt .rne false m (e - beta) 0).1
          if neg then -q else q
        | _ => 0⟩

/-- Sixteen elements of a record from element i on (16 R296). -/
def admitRecord (f : BFmt) (x i : Nat) : Block :=
  let e := x % 256
  let sg (neg : Bool) (q : Nat) : Int := if neg then -(q : Int) else q
  if f = .mxfp4 then
    ⟨e = 255, (e : Int) - 128, (List.range 16).map fun j =>
      let c := x / 2 ^ (16 + 4 * (i + j)) % 16
      sg (8 ≤ c) (e2m1Twice c)⟩
  else
    let m := BFmt.mag f
    ⟨e = 255, (e : Int) - 127 - m, (List.range 16).map fun j =>
      let c := x / 2 ^ (16 + j * (m + 1)) % 2 ^ (m + 1)
      sg (c % 2 = 1) (if x / 2 ^ (8 + j / 2) % 2 = 1 then c / 2 else 2 * (c / 2))⟩

/-- The bytes of a store as a number. -/
def State.bytesAt (s : State) (sp : SP) (t off n : Nat) : Nat := s.read ⟨sp, t, off⟩ n

/-- The 16-element blocks of a column or row at an offset; `a` marks the A side (16 R296). A block of 32 MXFP4
elements comes as two of 16 with one scale. -/
def State.admitBytes (s : State) (sp : SP) (t off : Nat) (f : BFmt) (k : Nat) (a : Bool) : List Block :=
  (List.range (k / 16)).map fun b =>
    match f with
    | .mxfp4 => admitRecord f (s.bytesAt sp t (off + b / 2 * 18) 18) (16 * (b % 2))
    | .zb2 | .zb4 | .zb7 => admitRecord f (s.bytesAt sp t (off + b * f.recordBytes) f.recordBytes) 0
    | .i8 => ⟨false, 0, (List.range 16).map fun j => intOf true 8 (s.bytesAt sp t (off + 16 * b + j) 1)⟩
    | .e4m3 => admitLanes 7 ((List.range 16).map fun j => fmtE4m3.decode (s.bytesAt sp t (off + 16 * b + j) 1))
    | .e5m2 => admitLanes 7 ((List.range 16).map fun j => fmtE5m2.decode (s.bytesAt sp t (off + 16 * b + j) 1))
    | .bf16 => admitLanes (if a then 15 else 7)
        ((List.range 16).map fun j => fmtBf16.decode (s.bytesAt sp t (off + 32 * b + 2 * j) 2))

/-! ## Block sums and accumulation -/

/-- The sum of products of two lists; what one lacks counts as zero. -/
def dotInts : List Int → List Int → Int
  | a :: r, b :: q => a * b + dotInts r q
  | _, _ => 0

/-- A block sum: NaN or not, S and w (16 R298). -/
structure Sum where
  nan : Bool
  sum : Int
  w : Int
deriving DecidableEq, Repr

/-- The sum of two blocks of 16. -/
def blockSum (a b : Block) : Sum := ⟨a.nan || b.nan, dotInts a.els b.els, a.beta + b.beta⟩

/-- Joins neighbouring sums of 16 to those of K-blocks of 32 (16 R296). -/
def joinPairs : List Sum → List Sum
  | x :: y :: r => ⟨x.nan || y.nan, x.sum + y.sum, x.w⟩ :: joinPairs r
  | r => r

/-- The block sums of an output over the column's own K-blocks; A blocks beyond the stream's K are zero (19 R341). -/
def sumsOf (pair32 : Bool) (row col : List Block) : List Sum :=
  let xs := (List.range col.length).map fun i => blockSum (row.getD i ⟨false, 0, []⟩) (col.getD i ⟨false, 0, []⟩)
  if pair32 then joinPairs xs else xs

/-- The canonical f32 NaN. -/
def nan32 : Nat := 0x7FC00000
/-- Is it an infinity of f32? -/
def isInf32 (x : Nat) : Bool := x % 2 ^ 31 = 0x7F800000
/-- Is it a NaN of f32? -/
def isNan32 (x : Nat) : Bool := 0x7F800000 < x % 2 ^ 31

/-- One block add to an f32 accumulator (16 R299), with MSTAT's NAN and INF (19 R340). -/
def addBlock (c : Nat × MFlags) (b : Sum) : Nat × MFlags :=
  if b.nan then (nan32, { c.2 with nan := true })
  else if isNan32 c.1 then (nan32, c.2)
  else if b.sum = 0 then c
  else
    let x := fmtF32.decode c.1
    let r := (fmtF32.narrow (sumOf .rne x (.fin (b.sum < 0) b.sum.natAbs b.w)).1 .rne false).bits
    (r, if isInf32 r && !isInf32 c.1 then { c.2 with inf := true } else c.2)

/-- An i32 sum limited to its range, with MSTAT's SAT (16 R300). -/
def clamp32 (x : Int) (f : MFlags) : Nat × MFlags :=
  let y := clampInt (-(2 ^ 31)) (2 ^ 31 - 1) x
  ((y % 2 ^ 32).toNat, if y = x then f else { f with sat := true })

/-- One block add to an i32 accumulator (16 R300). -/
def addBlockInt (c : Nat × MFlags) (b : Sum) : Nat × MFlags := clamp32 (intOf true 32 c.1 + b.sum) c.2

/-- Every block add of an output, in ascending K. -/
def accumulate (int : Bool) (c : Nat × MFlags) (bs : List Sum) : Nat × MFlags :=
  bs.foldl (if int then addBlockInt else addBlock) c

/-- The active bank of a unit. -/
def MatrixUnit.active (u : MatrixUnit) : Bank := if u.act then u.bank1 else u.bank0

/-- One output of a row. Sticky fields go to the tile's unit. -/
def State.output (s : State) (t c n : Nat) (int pair32 : Bool) (row col : List Block) : State :=
  let l : Loc := ⟨.c, t, c + 4 * n⟩
  let u := (s.tileAt t).mx
  let r := accumulate int (s.read l 4, u.flags) (sumsOf pair32 row col)
  (s.write l 4 r.1).setUnit t { u with flags := r.2 }

/-- One row over the active bank of a tile: outputs 0 to N − 1; the others' sums are zero (19 R340). -/
def State.outputRow (s : State) (t c : Nat) (fa : BFmt) (row : List Block) : State :=
  let b := (s.tileAt t).mx.active
  (List.range b.n).foldl (fun s n =>
    s.output t c n (fa = .i8) (fa = .mxfp4 && b.fmt = .mxfp4) row (b.cols.getD n [])) s

/-- An MMUL's rows from the leader's A over the active bank of tile t, accumulated into its C (19 R340, R341). -/
def State.mulInto (s : State) (t : Nat) (rows : List (List Block)) (c : Nat) (fa : BFmt) : State :=
  (List.range rows.length).foldl (fun s r => s.outputRow t (c + 1024 * r) fa (rows.getD r [])) s

/-- The admitted rows of an MMUL whose A lies in tile t. -/
def State.rowsOf (s : State) (t m a step : Nat) (fa : BFmt) : List (List Block) :=
  let k := (s.tileAt t).mx.active.k
  (List.range m).map fun r => s.admitBytes .a t (a + r * step) fa k true

/-! ## The unit's queue turns -/

/-- Signals a semaphore of a tile; a signal past 255 is lost and marked (19 R334). -/
def State.signal (s : State) (t : Nat) (sem : Option (Fin 16)) : State :=
  match sem with
  | none => s
  | some k =>
    match s.addSem t k 1 with
    | some s => s
    | none =>
      let u := (s.tileAt t).mx
      s.setUnit t { u with flags := { u.flags with sovf := true } }

/-- Takes the finished instruction off a tile's queue. -/
def State.popOp (s : State) (t : Nat) : State :=
  let u := (s.tileAt t).mx
  s.setUnit t { u with queue := u.queue.drop 1, done := u.done + 1 }

/-- The instruction that a tile's unit works on: the head of its queue, while its launch runs (19 R329, R335). -/
def State.workOp (s : State) (t : Nat) : Option MatrixOp :=
  match (s.tileAt t).launch with
  | none => none
  | some l => if (s.launchAt l).phase = .running then (s.tileAt t).mx.queue.head? else none

/-- The instruction that a tile's unit may start. -/
def State.headOp (s : State) (t : Nat) : Option MatrixOp := if (s.tileAt t).mx.left.isNone then s.workOp t else none

/-- The semaphore that a matrix instruction signals. -/
def MatrixOp.sem : MatrixOp → Option (Fin 16)
  | .mldb _ _ _ _ _ sem | .mmul _ _ _ _ _ _ sem | .mout _ _ _ _ _ _ _ _ _ sem | .mred _ _ _ _ _ sem => sem
  | _ => none

/-- The turn of a tile's matrix unit for an instruction of its queue (19 R329). -/
def matrixTurn (t : Nat) : MatrixOp → Instr
  | .mcfg _ => .mcfgTurn t
  | .mldb .. => .mldbTurn t
  | .mswap => .mswapTurn t
  | .mmul .. => .mmulTurn t
  | .mzero .. => .mzeroTurn t
  | .mout .. => .moutTurn t
  | .mred .. => .mredTurn t

/-- Writes the words that a started instruction has left. -/
def State.putLeft (s : State) (ws : List (Nat × List Byte)) : State :=
  ws.foldl (fun s w => ({ s with mem := storeBytes s.mem w.1 w.2 } : State).heal ((List.range w.2.length).map (w.1 + ·))) s

/-- MCFG_TURN (19 R337). -/
def execMcfgTurn (tile : Nat) (s : State) : Out :=
  .next <|
    match s.headOp tile with
    | some (.mcfg conf) => (s.setUnit tile { (s.tileAt tile).mx with mconf := conf }).popOp tile
    | _ => s

/-- A bank loaded from W (19 R338). -/
def State.bankFrom (s : State) (t off k n step : Nat) (f : BFmt) : Bank :=
  ⟨f, k, n, true, (List.range n).map fun i => s.admitBytes .w t (off + i * step) f k false⟩

/-- MLDB_TURN (19 R338): the standby bank is loaded. -/
def execMldbTurn (tile : Nat) (s : State) : Out :=
  .next <|
    match s.headOp tile with
    | some (.mldb off k n step f sem) =>
      let u := (s.tileAt tile).mx
      let b := s.bankFrom tile off k n step f
      ((s.setUnit tile (if u.act then { u with bank0 := b } else { u with bank1 := b })).popOp tile).signal tile sem
    | _ => s

/-- MSWAP_TURN (19 R339). -/
def execMswapTurn (tile : Nat) (s : State) : Out :=
  .next <|
    match s.headOp tile with
    | some .mswap =>
      let u := (s.tileAt tile).mx
      (s.setUnit tile { u with act := !u.act }).popOp tile
    | _ => s

/-- The tiles that run the MMUL at the head of a tile's queue together, the leader first; none while a member of a
co-operative MMUL is not ready (19 R341). -/
def State.mulMembers (s : State) (t : Nat) : Option (List Nat) :=
  match s.headOp t with
  | some (.mmul _ _ _ _ coop _ _) =>
    let u := (s.tileAt t).mx
    if !coop then some [t]
    else
      let ms := (maskPositions (confMask u.mconf)).map fun p => s.quadTile t p
      let ready (m : Option Nat) : Bool :=
        match m with
        | none => false
        | some x =>
          match s.headOp x with
          | some (.mmul _ _ _ _ c _ _) => c && (s.tileAt x).mx.mconf = u.mconf && (s.tileAt x).mx.coops = u.coops
          | _ => false
      if ms.all ready then
        let xs := ms.filterMap fun m => m
        match s.quadTile t (confLeader u.mconf) with
        | some l => some (l :: xs.filter (· ≠ l))
        | none => none
      else none
  | _ => none

/-- Another tile of a region waits for a token (19 R332). -/
def State.tokenWaiters (s : State) (r : Nat) : List Nat :=
  ((List.range 16).map (16 * r + ·)).filter fun t => (s.mulMembers t).isSome && (s.tileAt t).mx.token.isNone

/-- An MMUL boundary of a tile: it keeps its token while a further MMUL is ready to start, unless it has held it for
65,536 cycles and another tile waits (19 R332). -/
def State.mulBoundary (s : State) (t : Nat) : State :=
  match (s.tileAt t).mx.token with
  | none => s
  | some since =>
    if (s.mulMembers t).isNone then s.returnToken t
    else if since + 65536 ≤ (s.tileAt t).cycle ∧ (s.tokenWaiters (regionOf t)) ≠ [] then s.returnToken t
    else s

/-- What one member does at the end of an MMUL: it leaves the queue and signals. -/
def State.mulDone (s : State) (t : Nat) : State :=
  match s.headOp t with
  | some (.mmul _ _ _ _ coop _ sem) =>
    let u := (s.tileAt t).mx
    let s := if coop then s.setUnit t { u with coops := u.coops + 1 } else s
    (s.popOp t).signal t sem
  | _ => s

/-- A tile's started instruction finishes in its turn: the words that it has left are written, and it leaves the queue (19 R329,
R335). -/
def State.endLeft (s : State) (t : Nat) (turn : Instr) : State :=
  match s.workOp t, (s.tileAt t).mx.left with
  | some op, some ws =>
    if matrixTurn t op ≠ turn then s
    else
      let s := (s.setUnit t { (s.tileAt t).mx with left := none }).putLeft ws
      match op with
      | .mmul .. => (s.mulDone t).mulBoundary t
      | _ => (s.popOp t).signal t op.sem
  | _, _ => s

/-- MMUL_TURN (19 R340, R341): every member that the instruction has runs it at once, when all are ready and hold
tokens. -/
def execMmulTurn (tile : Nat) (s : State) : Out :=
  .next <|
    match s.mulMembers tile with
    | none => s.endLeft tile (.mmulTurn tile)
    | some ms =>
      if ms.all fun t => (s.tileAt t).mx.token.isSome then
        let lead := ms.headD tile
        match s.headOp lead with
        | some (.mmul m a c fa coop step _) =>
          let rows := s.rowsOf lead m a step fa
          let s := ms.foldl (fun s t => s.mulInto t rows (if coop then 0 else c) fa) s
          let s := ms.foldl (fun s t => s.mulDone t) s
          ms.foldl (fun s t => s.mulBoundary t) s
        | _ => s
      else s

/-- MZERO_TURN (19 R342). -/
def execMzeroTurn (tile : Nat) (s : State) : Out :=
  .next <|
    match s.headOp tile with
    | some (.mzero off len) =>
      let l : Loc := ⟨.c, tile, off⟩
      (({ s with mem := clearMem s.mem l.key (l.key + len) } : State).unpoison l len).popOp tile
    | _ => s.endLeft tile (.mzeroTurn tile)

/-- Marks the words under some bytes as poisoned (13 R266). -/
def State.taint (s : State) (l : Loc) (n : Nat) : State :=
  { s with poison := (wordsTouched l.key n).foldl addTo s.poison }

/-- One element of MOUT (19 R343); a poisoned C word poisons the word that it is drained to (13 R266). -/
def State.drain (s : State) (src dst : Loc) (et : ET) (rm : RM) (sat clr int : Bool) : State :=
  let t := src.unit
  let x : Num := if int then numOfInt (intOf true 32 (s.read src 4)) else fmtF32.decode (s.read src 4)
  let r := (formOf et).convert x rm sat
  let bad := s.poisoned src 4
  let u := (s.tileAt t).mx
  let s := s.setUnit t { u with flags := { u.flags with oflags := u.flags.oflags ||| r.flags } }
  let s := s.write dst (et.bits / 8) r.bits
  let s := if clr then s.write src 4 0 else s
  if bad then s.taint dst (et.bits / 8) else s

/-- MOUT_TURN (19 R343). -/
def execMoutTurn (tile : Nat) (s : State) : Out :=
  .next <|
    match s.headOp tile with
    | some (.mout c a rows n et rm sat clr int sem) =>
      let e := et.bits / 8
      let s := s.unpoison ⟨.a, tile, a⟩ (rows * n * e)
      let s := (List.range (rows * n)).foldl (fun s i =>
        s.drain ⟨.c, tile, c + 1024 * (i / n) + 4 * (i % n)⟩ ⟨.a, tile, a + i * e⟩ et rm sat clr int) s
      (s.popOp tile).signal tile sem
    | _ => s.endLeft tile (.moutTurn tile)

/-- One add of MRED (19 R345). -/
def redAdd (int : Bool) (r : Nat × MFlags) (x : Nat) : Nat × MFlags :=
  if int then clamp32 (intOf true 32 r.1 + intOf true 32 x) r.2
  else
    let z := (fmtF32.narrow (fpAdd .rne (fmtF32.decode r.1) (fmtF32.decode x)).1 .rne false).bits
    (z, if isNan32 z then { r.2 with nan := true }
        else if isInf32 z && !isInf32 r.1 && !isInf32 x then { r.2 with inf := true } else r.2)

/-- The combined value of one word over the source tiles. -/
def State.redWord (s : State) (ts : List Nat) (off : Nat) (int : Bool) (f : MFlags) : Nat × MFlags :=
  match ts.map fun t => s.read ⟨.c, t, off⟩ 4 with
  | [] => (0, f)
  | x :: r => r.foldl (redAdd int) (x, f)

/-- The combined words, with the flags of all of them. -/
def State.redWords (s : State) (ts : List Nat) (src : Nat) (int : Bool) : Nat → MFlags → List Nat × MFlags
  | 0, f => ([], f)
  | n + 1, f =>
    let r := s.redWord ts src int f
    let z := s.redWords ts (src + 4) int n r.2
    (r.1 :: z.1, z.2)

/-- Writes words to C in ascending order. -/
def State.putWords (s : State) (t off : Nat) : List Nat → State
  | [] => s
  | x :: r => (s.write ⟨.c, t, off⟩ 4 x).putWords t (off + 4) r

/-- MRED_TURN (19 R345): every source word is read before a destination word is written. -/
def execMredTurn (tile : Nat) (s : State) : Out :=
  .next <|
    match s.headOp tile with
    | some (.mred src len mask int dst sem) =>
      let ts := (maskPositions mask).filterMap fun p => s.quadTile tile p
      let u := (s.tileAt tile).mx
      let r := s.redWords ts src int (len / 4) u.flags
      let bad := (List.range (len / 4)).filter fun i => ts.any fun t => s.poisoned ⟨.c, t, src + 4 * i⟩ 4
      let s := s.setUnit tile { u with flags := r.2 }
      let s := (s.unpoison ⟨.c, tile, dst⟩ len).putWords tile dst r.1
      let s := bad.foldl (fun s i => s.taint ⟨.c, tile, dst + 4 * i⟩ 4) s
      (s.popOp tile).signal tile sem
    | _ => s.endLeft tile (.mredTurn tile)

/-! ## Words that are written ahead -/

/-- The bytes of C and A that an MMUL, an MZERO, an MOUT or an MRED writes in tile t, as ranges of keys (19 R340 to R345). -/
def State.writes (s : State) (t : Nat) (op : MatrixOp) : List (Nat × Nat) :=
  let cKey (off : Nat) : Nat := (⟨.c, t, off⟩ : Loc).key
  match op with
  | .mmul m _ c _ coop _ _ => (List.range m).map fun r => (cKey ((if coop then 0 else c) + 1024 * r), 4 * (s.tileAt t).mx.active.n)
  | .mzero off len => [(cKey off, len)]
  | .mout c a rows n et _ _ clr _ _ =>
    ((⟨.a, t, a⟩ : Loc).key, rows * n * (et.bits / 8))
      :: (if clr then (List.range rows).map fun r => (cKey (c + 1024 * r), 4 * n) else [])
  | .mred _ len _ _ dst _ => [(cKey dst, len)]
  | _ => []

/-- The parts of 64-bit words in `n` bytes from `k`, with the bytes that stand there (08 R176). -/
def State.wordsIn (s : State) (k n : Nat) : List (Nat × List Byte) :=
  (wordsTouched k n).map fun w => (max w k, loadBytes s.mem (max w k) (min (w + 8) (k + n) - max w k))

/-- Its turn, where the instruction is one that writes C or A. -/
def State.writingTurn (s : State) (t : Nat) (op : MatrixOp) : Out :=
  match op with
  | .mmul .. => execMmulTurn t s
  | .mzero .. => execMzeroTurn t s
  | .mout .. => execMoutTurn t s
  | .mred .. => execMredTurn t s
  | _ => .next s

/-- The instruction at the head of tile t's queue starts, in every tile that runs it: what it reads has been read, its flags are set,
and the words that it writes are left to be written. An instruction that could meet a poisoned word is performed whole. -/
def State.startLeft (s : State) (t : Nat) : State :=
  match s.headOp t with
  | none => s
  | some own =>
    let ms := match own with | .mmul .. => (s.mulMembers t).getD [] | _ => [t]
    match (if s.poison = [] then s.headOp (ms.headD t) else none), s.writingTurn t own with
    | some op, .next u =>
      if (u.tileAt t).mx.done ≤ (s.tileAt t).mx.done then s
      else
        ms.foldl (fun s m =>
          let x := (s.tileAt m).mx
          s.setUnit m { x with
            flags := { (u.tileAt m).mx.flags with sovf := x.flags.sovf }
            left := some ((s.writes m op).flatMap fun r => u.wordsIn r.1 r.2) }) s
    | _, _ => s

/-- One 64-bit word of the instruction at the head of tile t's queue is written ahead of the others (08 R176; log 5). -/
def State.matrixWord (s : State) (t index : Nat) : State :=
  let s := s.startLeft t
  let u := (s.tileAt t).mx
  match u.left with
  | none => s
  | some ws => (s.setUnit t { u with left := some (ws.eraseIdx index) }).putLeft (ws[index]?).toList

/-! ## The dike ring -/

/-- Tokens of a region that no tile holds. -/
def State.freeTokens (s : State) (r : Nat) : Nat :=
  (s.regionAt r).tokens - (((List.range 16).map (16 * r + ·)).filter fun t => (s.tileAt t).mx.token.isSome).length

/-- The waiting tile that comes first in ring order after the last holder (19 R332). -/
def State.nextWaiter (s : State) (r : Nat) : Option Nat :=
  let last := (s.regionAt r).lastHolder
  ((List.range 16).map fun i => 16 * r + (last + 1 + i) % 16).find? fun t => decide (t ∈ s.tokenWaiters r)

/-- DIKE_RING_GRANT (19 R332; 21 R377): one grant every 256 cycles of the ring, to one tile or to every member of a
co-operative MMUL. -/
def execDikeRingGrant (region : Nat) (s : State) : Out :=
  .next <|
    let g := s.regionAt region
    match s.nextWaiter region with
    | none => s
    | some t =>
      let need := ((s.mulMembers t).getD []).filter fun m => (s.tileAt m).mx.token.isNone
      let early : Bool := match g.lastGrant with | some c => g.rcycle < c + 256 | none => false
      if early || s.freeTokens region < need.length then s
      else
        let s := need.foldl (fun s m => s.setUnit m { (s.tileAt m).mx with token := some (s.tileAt m).cycle }) s
        s.setRegion region
          { g with lastGrant := some g.rcycle, lastHolder := t % 16, returned := g.returned.drop need.length }

/-- BALLAST (21 R377): a token that no tile takes within 64 cycles starts the dummy load, which steps down to zero over
2 μs, 2,000 ticks of tide. Its energy goes to the reeve's own account (R381). -/
def execBallast (region : Nat) (s : State) : Out :=
  .next <|
    let g := s.regionAt region
    let s : State := if g.ballast = 0 then s else { s with house := s.house + Config.ballastEnergy g.ballast }
    match g.returned with
    | c :: rest =>
      if c + 64 ≤ g.rcycle then s.setRegion region { g with returned := rest, ballast := 2000 }
      else s.setRegion region { g with ballast := g.ballast - 1 }
    | [] => s.setRegion region { g with ballast := g.ballast - 1 }

end Sys2Proof.Machine
end

