-- ==== Sys2Proof/Machine/Preempt.lean ====
section
/-! DEFINITION. Pre-emption of a whole launch at a launch safe point and its restore on any placement that keeps 09
R195, R187 and 19 R327 (13 R263 to R265; 09 R201, R202; 11 R218; 20 R362; 21 R380). -/
namespace Sys2Proof.Machine
open Sys2Proof

/-! ## The safe point -/

/-- A launch safe point (13 R264): no matrix instruction has written a part of its words, and no copy a part of its chunk. -/
def State.launchSafe (s : State) (l : Nat) : Bool :=
  let lc := s.launchAt l
  (s.slotsOf l).all s.slotSafe && lc.groups.all (s.groupSafe lc)
  && s.culvert.all (fun c => (s.slotAt c.slot).launch ≠ l)
  && (lc.place.all fun t => (s.tileAt t).mx.left.isNone)
  && lc.cores.all fun c => (s.coreAt c).fifo.all fun x => !(x.launch = l && (x.stopping || x.early ≠ []))

/-! ## The save block of a core's channels (20 R362) -/

/-- The bytes of a FIFO entry: its request words, what names it, and its progress. -/
def Copy.block (x : Copy) : List Byte :=
  leBytes 8 x.w0.toNat ++ leBytes 8 x.w1.toNat ++ leBytes 8 x.w2.toNat ++ leBytes 8 x.w3.toNat
  ++ leBytes 8 (2 ^ 63 + (if x.fault.isSome then 2 ^ 62 else 0) + slotIdx x.slot * 2 ^ 58 + x.ch.val * 2 ^ 56 + x.id)
  ++ leBytes 8 (x.bytesDone * 2 ^ 16 + x.rowsDone)

/-- The save block: the four channels, and sixteen entries, of which those not in use are zero. -/
def Core.saveBlock (c : Core) : List Byte :=
  ((List.finRange 4).flatMap fun ch =>
    leBytes 8 c.chans[ch].nextId ++ leBytes 8 c.chans[ch].completed ++ leBytes 8 c.chans[ch].error.toNat ++ leBytes 8 0)
  ++ (List.range 16).flatMap fun e => match c.fifo[e]? with | some x => x.block | none => List.replicate 48 0

/-- The doubleword at an offset of a block. -/
def blockWord (bs : List Byte) (off : Nat) : Word := word (leNat ((bs.drop off).take 8))

/-- The channel that a block holds. -/
def blockChan (bs : List Byte) (ch : Nat) : Chan :=
  { nextId := (blockWord bs (32 * ch)).toNat, completed := (blockWord bs (32 * ch + 8)).toNat, error := blockWord bs (32 * ch + 16) }

/-- FIFO entry e of a block, where it is valid, on core `core`. The launch, the level and a pending fault's address, which the block
does not hold, are those of the record beside it (DEDUCED, log 16). -/
def blockEntry (bs : List Byte) (core e : Nat) (old : Copy) : Option Copy :=
  let o := 0x80 + 48 * e
  let m := blockWord bs (o + 32)
  let p := blockWord bs (o + 40)
  if bit m 63 then
    some { old with
      w0 := blockWord bs o, w1 := blockWord bs (o + 8), w2 := blockWord bs (o + 16), w3 := blockWord bs (o + 24)
      id := bits m 55 0, ch := Fin.ofNat 4 (bits m 57 56), slot := 16 * core + bits m 61 58
      rowsDone := bits p 15 0, bytesDone := bits p 39 16, fault := if bit m 62 then old.fault else none }
  else none

/-- A core whose channels are read back from a save block. -/
def Core.loadBlock (c : Core) (core : Nat) (bs : List Byte) : Core :=
  { c with
    chans := .ofFn fun ch => blockChan bs ch.val
    fifo := (List.range 16).filterMap fun e => (c.fifo[e]?).bind (blockEntry bs core e) }

/-! ## Saving -/

/-- What is saved of tile t (13 R264). A power token goes back to the ring. -/
def State.saveTile (s : State) (t : Nat) : TileSave :=
  let tile := s.tileAt t
  let cores := (List.range 4).map fun c => s.coreAt (4 * t + c)
  { from_ := t
    tile := { tile with mx := { tile.mx with token := none } }
    cores := cores
    blocks := cores.map Core.saveBlock
    slots := (List.range 64).map fun k => (s.slotAt (64 * t + k)).withdraw
    images := (List.range 64).map fun k => s.imageAt (64 * t + k)
    residues := (s.residues.filter fun p => p.1 / 64 = t).map fun p => (p.1 % 64, p.2)
    cells := s.mem.filterMap fun p => (tileRel t p.1).map fun r => (r, p.2)
    empties := s.empties.filterMap (tileRel t)
    poison := s.poison.filterMap (tileRel t)
    stamps := s.stamps.filterMap fun p => (tileRel t p.1).map fun r => (r, p.2) }

/-- Frees tile t: its slots and images return to their reset state, and its power token goes back. -/
def State.freeTile (s : State) (t : Nat) : State :=
  let s := s.returnToken t
  let s := s.setTile t { s.tileAt t with launch := none, logTile := 0, mx := {} }
  { s with
    slots := s.slots.filter fun p => p.1 / 64 ≠ t
    images := s.images.filter fun p => p.1 / 64 ≠ t
    residues := s.residues.filter fun p => p.1 / 64 ≠ t
    cores := s.cores.filter fun p => p.1 / 4 ≠ t }

/-- The first logical tile of a launch in a region. -/
def firstIn (place : List Nat) (r : Nat) : Nat := (place.findIdx? fun p => regionOf p = r).getD 0

/-- The shares of a launch by the first logical tile of their region. -/
def State.savedSharesOf (s : State) (l : Nat) : List (Nat × Share) :=
  let place := (s.launchAt l).place
  (regionsOf place).map fun r => (firstIn place r, s.shareAt r l)

/-- Does a thread of a launch that is switched out have QUOTA pending? It has not taken it as an effect (21 R380). -/
def State.quotaAside (s : State) (l : Nat) : Bool :=
  s.residues.any fun p => p.2.launch = l && p.2.pending.any fun r => r.cause = 0x17

/-- The LIVE threads of a launch: the two slots of a pair hold one. -/
def State.liveThreads (s : State) (l : Nat) : List Nat := (s.liveSlots l).filter fun n => !bit (s.img n).paircfg 4

/-- Is slot n still to take QUOTA at its next turn: it is pending there, and the slot is neither blocked nor held nor above user
level? -/
def State.takesQuota (s : State) (n : Nat) : Bool :=
  let sl := s.slotAt n
  sl.pending.any (fun p => p.cause = 0x17) && sl.wait.isNone && sl.hold.isNone && s.level n = 0

/-- QUOTA was raised in a launch, and a thread is still to take it, so that it is not known whether every one takes it as an effect. -/
def State.quotaOpen (s : State) (l : Nat) : Bool := (s.launchAt l).quotaHit && (s.liveThreads l).any s.takesQuota

/-- Is a launch to be pre-empted for its quota (21 R380): QUOTA was raised, no thread is still to take it, and some LIVE thread, as one
that is blocked, did not take it as an effect; or USED has reached twice the QUOTA; or this was so at a period boundary that has
passed? -/
def State.quotaDue (s : State) (l : Nat) : Bool :=
  let lc := s.launchAt l
  let live := s.liveThreads l
  lc.quotaOwed
  || lc.quotaHit
    && (decide (2 * lc.record.quota ≤ lc.used)
        || !live.any s.takesQuota && (live.any (fun n => !decide (n ∈ lc.quotaTook)) || s.quotaAside l))

/-! ### What a pump-class core holds of one launch (11 R218; 20 R362) -/

/-- A core's save for a launch: the block of its channels with the launch's copies, and the launch's messages, arms, ready entries and
fabric sequences. -/
def Core.savePump (k : Core) (l c : Nat) : PumpSave :=
  let own := k.fifo.filter fun x => x.launch = l
  { core := c
    block := ({ k with fifo := own } : Core).saveBlock
    copies := own
    rx := k.rx.filter fun m => m.launch = l
    arms := k.arms.filter fun a => a.2.launch = l
    ready := k.ready.map fun q => q.filter fun x => x.1 = l
    expect := k.expect.filter fun p => p.1.1 = l }

/-- The core without what its save for a launch holds. The room that it leaves goes to the arms that wait for room. -/
def Core.dropPump (k : Core) (l : Nat) : Core :=
  let k : Core := { k with
    fifo := k.fifo.filter fun x => x.launch ≠ l
    rx := k.rx.filter fun m => m.launch ≠ l
    arms := k.arms.filter fun a => a.2.launch ≠ l
    ready := k.ready.map fun q => q.filter fun x => x.1 ≠ l
    expect := k.expect.filter fun p => p.1.1 ≠ l }
  ((List.finRange 4).foldl Core.settleChan k).pushHeld

/-- An arm that returns to a core: to its own entry, or where that is in use to the lowest free one. -/
def Core.putArm (k : Core) (a : Nat × Arm) : Core :=
  let i := if k.arms.any fun b => b.1 = a.1 then k.freeArm.getD a.1 else a.1
  { k with arms := k.arms ++ [(i, a.2)] }

/-- A core with what a save holds put before what others have there now. The channels are the block's where no other running launch uses
the core; a shared one has gone on with its channels, in which the launch's copies take their places again (04 R73; DEDUCED, log
16). -/
def Core.loadPump (k : Core) (p : PumpSave) (shared : Bool) : Core :=
  let saved := ({ k with fifo := p.copies } : Core).loadBlock p.core p.block
  let k : Core := { k with
    chans := if shared then k.chans else saved.chans
    fifo := saved.fifo ++ k.fifo
    rx := p.rx ++ k.rx
    ready := .ofFn fun i => p.ready[i] ++ k.ready[i]
    expect := p.expect ++ k.expect }
  (List.finRange 4).foldl Core.settleChan (p.arms.foldl Core.putArm k)

/-- Has a core room for what a save holds? -/
def Core.hasRoom (k : Core) (p : PumpSave) : Bool :=
  decide (k.fifo.length + p.copies.length ≤ 16 ∧ k.arms.length + p.arms.length ≤ 16
    ∧ k.sharedUsed + (p.rx.countP fun m => m.seat.isNone) ≤ 48)
  && (List.finRange 4).all fun i => decide (k.ready[i].length + p.ready[i].length ≤ 16)

/-- The cores of a launch's pump-class slots. -/
def Launch.pumpCores (l : Launch) : List Nat := (l.pumpSlots.map Sys2Proof.Machine.coreOf).eraseDups

/-- Takes what a launch has on a pump-class core off it. -/
def State.dropPump (s : State) (l c : Nat) : State := (s.setCore c ((s.coreAt c).dropPump l)).serveQueue c

/-- Reads the save of a pump-class core back (20 R362). -/
def State.loadPump (s : State) (l : Nat) (p : PumpSave) : State :=
  s.setCore p.core ((s.coreAt p.core).loadPump p (s.pumpCoreShared l p.core))

/-- Saves a launch and frees its tiles. One that its quota pre-empts waits for a period in which it may go on (21 R380), and the
energy of the save is the launch's (R381). -/
def State.saveLaunch (s : State) (l : Nat) : State :=
  let s := s.quitStores l
  let lc := s.launchAt l
  let own := s.slotsOf l
  let s := s.setLaunch l
    { lc with
      phase := .saved, place := [], groups := lc.groups.map Group.withdrawLinks
      savedTiles := lc.place.map s.saveTile, savedShares := s.savedSharesOf l
      savedPumps := lc.pumpCores.map fun c => (s.coreAt c).savePump l c
      quotaPaused := s.quotaDue l, quotaOwed := false
      work := addCount lc.work Activity.save.index 1 }
  let s := own.foldl (fun s n => s.setSlot n (s.slotAt n).withdraw) s
  let s := lc.pumpCores.foldl (fun s c => s.dropPump l c) s
  let s : State := { s with regions := s.regions.map fun p => (p.1, { p.2 with shares := drop p.2.shares l }) }
  lc.place.foldl (fun s t => s.freeTile t) s

/-- LAUNCH_PREEMPT (13 R264): at a launch safe point the reeve saves a whole launch. -/
def execLaunchPreempt (launch : Nat) (s : State) : Out :=
  .next <| if (s.launchAt launch).phase = .running && s.launchSafe launch then s.saveLaunch launch else s

/-! ## Restoring -/

/-- A slot number of the old tile as one of the new. -/
def moveSlot (old new n : Nat) : Nat := if tileOf n = old ∧ isOrdinary n then 64 * new + n % 64 else n

/-- A saved core on its new tile: the slot numbers in it follow. -/
def Core.moved (c : Core) (old new : Nat) : Core :=
  { c with
    rx := c.rx.map fun m => { m with seat := m.seat.map (moveSlot old new) }
    seqs := c.seqs.map fun p => ((moveSlot old new p.1.1, p.1.2), p.2) }

/-- Core c of a saved tile on tile t: its slot numbers follow, and its channels are read back from their block (20 R362). -/
def TileSave.coreOn (x : TileSave) (t c : Nat) : Core :=
  ((x.cores.getD c {}).moved x.from_ t).loadBlock (4 * t + c) (x.blocks.getD c [])

/-- Puts a saved tile on tile t, as logical tile i (13 R264). The polder's point is the new tile's own, and it goes on from a rotation
edge (21 R373). -/
def State.restoreTile (s : State) (l i t : Nat) (x : TileSave) : State :=
  let here := s.tileAt t
  let s := s.setTile t
    { x.tile with
      launch := some l, logTile := i, cycle := ceilDiv x.tile.cycle 16 * 16
      point := here.point, droop := here.droop, droopAt := here.droopAt, volt := here.volt }
  let s := (List.range 4).foldl (fun s c => s.setCore (4 * t + c) (x.coreOn t c)) s
  let s := (List.range 64).foldl (fun s k => s.setSlot (64 * t + k) (x.slots.getD k {})) s
  let s := (List.range 64).foldl (fun s k => s.setImage (64 * t + k) (x.images.getD k {})) s
  let s := s.clearTile t
  { s with
    residues := x.residues.foldl (fun m p => put m (64 * t + p.1) p.2) s.residues
    mem := x.cells.foldl (fun m p => setByte m (tileKey t p.1) p.2) s.mem
    empties := x.empties.foldl (fun e r => addTo e (tileKey t r)) s.empties
    poison := x.poison.foldl (fun e r => addTo e (tileKey t r)) s.poison
    stamps := x.stamps.foldl (fun m p => put m (tileKey t p.1) p.2) s.stamps }

/-- The region from which logical tile i of a launch was saved. -/
def Launch.oldRegion (l : Launch) (i : Nat) : Nat := regionOf ((l.savedTiles[i]?).map (·.from_) |>.getD 0)

/-- The share of a launch in region r of a new placement: the records of each saved share follow the first logical tile of its
region, and the share is closed where those of all its tiles were (13 R264; DEDUCED, log 40). -/
def Launch.newShare (l : Launch) (place : List Nat) (r : Nat) : Share :=
  let here := (List.range place.length).filter fun i => regionOf (place.getD i 0) = r
  let moved := (l.savedShares.filter fun p => decide (p.1 ∈ here)).map (·.2)
  let olds := l.savedShares.filter fun p => here.any fun i => l.oldRegion i = l.oldRegion p.1
  { size := l.record.wqshare, recs := moved.flatMap (·.recs), spilled := moved.flatMap (·.spilled)
    closed := olds.all fun p => p.2.closed }

/-- Gives a restored launch the messages that wait for it, in their order, as far as its cores take them; of one channel none passes
another (11 R211, R218). They fire no arm yet. -/
def State.takeInbox (s : State) (l : Nat) : List Inbound → List Inbound → State
  | [], kept => s.setLaunch l { s.launchAt l with inbox := kept }
  | m :: r, kept =>
    let held := kept.any fun k => k.core = m.core && k.sender = m.sender
    match (if held then none else ((s.launchAt l).coreOf m.core).bind fun c => (s.seatFor c l m.sender).map fun q => (c, q)) with
    | some (c, q) =>
      let x := s.coreAt c
      (s.setCore c { x with rx := x.rx ++ [⟨l, m.sender, m.seq, m.payload, false, q⟩] }).takeInbox l r kept
    | none => s.takeInbox l r (kept ++ [m])

/-- Restores a launch on a placement (13 R264): its arms fire for the messages that came while it was out (11 R218), and the energy of
the restore is the launch's (21 R381). -/
def State.restoreLaunch (s : State) (l : Nat) (place : List Nat) : State :=
  let lc := s.launchAt l
  let s := s.setLaunch l
    { lc with
      phase := .running, place := place, savedTiles := [], savedPumps := [], savedShares := []
      groups := lc.groups.map fun g => { g with region := groupRegion place g, seen := none }
      work := addCount lc.work Activity.restore.index 1 }
  let s := (List.range place.length).foldl (fun s i =>
    match lc.savedTiles[i]? with
    | some x => s.restoreTile l i (place.getD i 0) x
    | none => s) s
  let s := lc.savedPumps.foldl (fun s p => s.loadPump l p) s
  let s := (regionsOf place).foldl (fun s r => s.setShare r l (lc.newShare place r)) s
  let s := (s.evenPoints l).takeInbox l lc.inbox []
  ((s.launchAt l).cores.eraseDups).foldl (fun s c => (s.fireLate l c).serveQueue c) s

/-- LAUNCH_RESTORE (13 R264). A launch paused by its quota waits for the next quota period (21 R380), and one whose pump-class cores others
have filled meanwhile waits until there is room for what it had there (DEDUCED, log 16). -/
def execLaunchRestore (launch : Nat) (placement : List Nat) (s : State) : Out :=
  .next <|
    let lc := s.launchAt launch
    if lc.phase = .saved && !lc.killed && lc.fault.isNone && !lc.quotaPaused && s.placeOk lc lc.groups placement
        && lc.savedPumps.all (fun p => (s.coreAt p.core).hasRoom p) then
      s.restoreLaunch launch placement
    else s

end Sys2Proof.Machine
end

