-- ==== Sys2Proof/Machine/Power.lean ====
section
/-! DEFINITION. Polders and their operating points, droop, freeboard, energy and quota, allowance, temperature and
shutdown, the reference, and the tide (20 R351; 21 R371 to R391; 09 R198). -/
namespace Sys2Proof.Machine
open Sys2Proof

/-- Die alone in an error record (23 R412). -/
def dieBytes (d : Nat) : List Nat := [d, 255, 255, 255, 255]

/-! ## Operating points -/

/-- The point that a core requests: 0 without a LIVE slot (21 R372). -/
def State.requestOf (s : State) (c : Nat) : Nat :=
  if (List.range 16).any fun k => (s.slotAt (16 * c + k)).state = .live then (s.coreAt c).request else 0

/-- The point of a tile's polder by its own cores, the crest and FBMAX; 0 while the rail holds every polder (21 R372;
23 R414). -/
def State.pointOf (s : State) (t : Nat) : Nat :=
  if s.railHold then 0
  else
    let req := (List.range 4).foldl (fun m c => max m (s.requestOf (4 * t + c))) 0
    min req (min s.crestNow (s.regionAt (regionOf t)).fbmax)

/-- The point that a tile's polder is to take (21 R372). -/
def State.targetOf (s : State) (t : Nat) : Nat := (s.peers t).foldl (fun m u => min m (s.pointOf u)) 60

/-- May the polders step now: on a rotation edge, and in a level group with no counted window open (21 R373; 09 R198)? -/
def State.mayStep (s : State) (t : Nat) : Bool :=
  (s.tileAt t).cycle % 16 = 0 &&
  match (s.tileAt t).launch with
  | none => true
  | some l =>
    let lc := s.launchAt l
    !lc.isLevel || lc.groups.all fun g =>
      !(g.members.any fun m => tileOf (lc.slotOf m) = t) ||
      (List.range g.edges.length).all fun i =>
        match g.edges.getD i none with
        | some e => decide (e + 4096 ≤ s.memberCycle lc g i)
        | none => true

/-- Lowers a tile's point where it is due; a lowering waits for no voltage (21 R373, R395). -/
def State.lowerPoint (s : State) (t : Nat) : State :=
  if s.mayStep t ∧ s.targetOf t < (s.tileAt t).point then s.setPoint t (s.targetOf t) else s

/-- Raises a tile's point on an edge, once the rail has settled at the voltage (21 R373). -/
def State.raisePoint (s : State) (t : Nat) : State :=
  match (s.tileAt t).volt with
  | some (q, true) =>
    if s.mayStep t ∧ (s.tileAt t).point < min (s.targetOf t) q then s.setPoint t (min (s.targetOf t) q) else s
  | _ => s

/-- A tile's point moves on an edge, before a counted window can open there (09 R198; 21 R373). -/
def State.edgePoint (s : State) (t : Nat) : State := (s.lowerPoint t).raisePoint t

/-- Where a raise stands after one step of the regulator towards a point: its voltage is asked for, and then the rail has settled
(21 R373). -/
def voltStep (v : Option (Nat × Bool)) (p : Nat) : Option (Nat × Bool) :=
  match v with
  | none => some (p, false)
  | some (q, _) => some (q, true)

/-- One move towards a tile's point (21 R373): down at once on an edge; up by raising the voltage first, and then the rail settles, so that
the frequency changes on the next edge. -/
def State.movePoint (s : State) (t : Nat) : State :=
  if (s.tileAt t).point < s.targetOf t then
    (s.peers t).foldl (fun r u => r.setTile u { r.tileAt u with volt := voltStep (s.tileAt t).volt (s.targetOf t) }) s
  else s.lowerPoint t

/-- The point that a pump-class core's own clock domain is to take (21 R376). -/
def State.pumpTarget (s : State) (p : Nat) : Nat := if s.railHold then 0 else min (s.requestOf (4096 + p)) s.crestNow

/-- Lowers a pump-class core's point where it is due, on an edge of its own clock (21 R373, R376, R395). -/
def State.lowerPump (s : State) (p : Nat) : State :=
  let c := s.coreAt (4096 + p)
  if p < 304 ∧ c.cycle % 16 = 0 ∧ s.pumpTarget p < c.point then
    s.setCore (4096 + p) { c with point := s.pumpTarget p, volt := none }
  else s

/-- Raises a pump-class core's point on an edge, once its rail has settled. -/
def State.raisePump (s : State) (p : Nat) : State :=
  let c := s.coreAt (4096 + p)
  match c.volt with
  | some (q, true) =>
    if p < 304 ∧ c.cycle % 16 = 0 ∧ c.point < min (s.pumpTarget p) q then
      s.setCore (4096 + p) { c with point := min (s.pumpTarget p) q, volt := none }
    else s
  | _ => s

/-- A pump-class core's point moves on an edge of its own clock (21 R373, R376). -/
def State.edgePump (s : State) (p : Nat) : State := (s.lowerPump p).raisePump p

/-- One move towards a pump-class core's point. -/
def State.movePump (s : State) (p : Nat) : State :=
  let c := s.coreAt (4096 + p)
  if c.point < s.pumpTarget p then s.setCore (4096 + p) { c with volt := voltStep c.volt (s.pumpTarget p) } else s.lowerPump p

/-- OPERATING_POINT_CHANGE (21 R373) of a tile's polder, or, from 1024 on, of a pump-class core's clock domain. -/
def execOperatingPointChange (tile : Nat) (s : State) : Out :=
  .next <| if tile < 1024 then s.movePoint tile else if tile < 1024 + 304 then s.movePump (tile - 1024) else s

/-- DROOP (21 R375): a clock is stretched, or no longer, in a level group that of every member. -/
def execDroop (tile : Nat) (on : Bool) (s : State) : Out :=
  .next <|
    let at_ (old : Option Nat) : Option Nat := if on then old else some s.tide.toNat
    if tile < 1024 then
      (s.peers tile).foldl (fun s u =>
        s.setTile u { s.tileAt u with droop := on, droopAt := at_ (s.tileAt u).droopAt }) s
    else
      let c := s.coreAt (4096 + (tile - 1024))
      if tile < 1024 + 304 then s.setCore (4096 + (tile - 1024)) { c with droop := on, droopAt := at_ c.droopAt } else s

/-- FBMAX by a region's curve: the highest point whose voltage, curve plus freeboard, stays within the rail's limit; none where
no point does (21 R374). -/
def highestPoint (curve : List Nat) (freeboard limit : Nat) : Option Nat :=
  (List.range 61).foldl (fun m p => if curve.getD p 0 + freeboard ≤ limit then some p else m) none

/-- A launch has a tile in a region and runs there. -/
def State.regionBusy (s : State) (r : Nat) : Bool :=
  s.launches.any fun p => p.2.phase = .running && p.2.place.any fun t => regionOf t = r

/-- FBMAX_UPDATE (21 R374): the freeboard as measured, applied between launches of the
region, or at most once every 10 ms. -/
def execFbmaxUpdate (region : Nat) (m : Measured) (s : State) : Out :=
  .next <|
    let r := s.regionAt region
    let t := s.tide.toNat
    let early : Bool := match r.fbAt with | some k => decide (t < k + 10 * ms) | none => false
    if 64 ≤ region ∨ m.curve.length ≠ 61 ∨ (s.regionBusy region && early) then s
    else
      let r := { r with fbAt := some t, curve := m.curve, freeboard := m.freeboard, railLimit := m.limit }
      let p := (highestPoint m.curve m.freeboard m.limit).getD 0
      if p < 24 then
        (s.setRegion region { r with outOfService := true }).errorRecord 1
          [region / 16, region % 16, 255, 255, 255] 0 0 0 0 0
      else s.setRegion region { r with fbmax := p }

/-! ## Energy and quota -/

/-- Raises QUOTA in every LIVE thread of a launch, in a slot, switched out or saved (21 R380). -/
def State.raiseQuota (s : State) (l : Nat) : State :=
  let lc := s.launchAt l
  let r : Raised := ⟨0x17, 0, word lc.used⟩
  (s.liveSlots l).foldl (fun s n => s.pend n r)
    ((s.setLaunch l { lc with quotaHit := true, quotaTook := [] }).pendAway (fun x => x = l) (fun _ => true) r)

/-- The reeve's housekeeping account at an update: its own work since the last, with what patrol scrubbing and in-field tests took
as measured (21 R381). -/
def State.updateHouse (s : State) (measured : Nat) : State :=
  { s with house := s.house + Config.houseEnergy s.houseWork measured, houseWork := [] }

/-- ENERGY_UPDATE (21 R378, R380, R381): every 1 μs of tide, the energy of what was counted since the last, with the standing
power of the polders allotted, is added to USED; `standing` is the standing power of one as measured. Launch 0, which is no
launch, stands for the reeve's own account. -/
def execEnergyUpdate (launch standing : Nat) (s : State) : Out :=
  .next <|
    let lc := s.launchAt launch
    if launch = 0 then (if s.tide.toNat % 1000 ≠ 0 then s else s.updateHouse standing)
    else if s.tide.toNat % 1000 ≠ 0 ∨ (lc.phase ≠ .running ∧ lc.phase ≠ .saved) then s
    else
      let used := lc.used + Config.energyOf (addCount lc.work Activity.standing.index (standing * lc.place.length))
      let s := s.setLaunch launch { lc with used := used, work := [] }
      if lc.record.quota ≠ 0 ∧ lc.record.quota ≤ used ∧ !lc.quotaHit then s.raiseQuota launch else s

/-- A launch at a period boundary: USED starts from the overrun, and a launch that was paused goes on when that is below QUOTA (21
R380). A pre-emption that is `due` and not yet made is made in the new period; and where a thread is still to take the QUOTA of the old
one, whether one is due is decided when it has (`open_`). -/
def Launch.newPeriod (l : Launch) (due open_ : Bool) : Launch :=
  let used := if l.record.quota = 0 then 0 else l.used - l.record.quota
  { l with
    used := used, quotaHit := l.quotaHit && open_ && !due, quotaTook := if open_ && !due then l.quotaTook else []
    quotaOwed := due, quotaPaused := l.quotaPaused && decide (l.record.quota ≤ used) }

/-- The boundary of a quota period, taken once (21 R378, R380). -/
def State.quotaPeriod (s : State) : State :=
  let t := s.tide.toNat
  if t % ms ≠ 0 ∨ s.quotaAt = t then s
  else
    { s with
      quotaAt := t
      launches := s.launches.map fun p =>
        let runs : Bool := p.2.phase = .running
        (p.1, p.2.newPeriod (runs && s.quotaDue p.1) (runs && s.quotaOpen p.1)) }

/-- QUOTA_PERIOD_BOUNDARY (21 R380). -/
def execQuotaPeriodBoundary (s : State) : Out := .next s.quotaPeriod

/-! ## Allowance and the module's own limit -/

/-- The least of the four ALLOWANCE fields (21 R390). -/
def State.leastAllowance (s : State) : Nat :=
  (List.range 4).foldl (fun m d => min m (s.dieAt d).allowance.toNat) 0xFFFF

/-- FBMAX of the module as a whole: the least of its regions in service (21 R390). -/
def State.fbmaxAll (s : State) : Nat :=
  s.regions.foldl (fun m p => if p.2.outOfService then m else min m p.2.fbmax) 60

/-- A value that the controller chooses: nothing constrains it (DESIGN CHOICE, log 21). -/
def State.choose (s : State) : Nat × State := ((Config.freeWord s.fresh).toNat, { s with fresh := s.fresh + 1 })

/-- No reference is lost or has been back for less than 1 ms (21 R385). -/
def State.referenceGood (s : State) : Bool :=
  s.dies.all fun p => !p.2.refLost && (match p.2.refBackAt with | some k => decide (k + ms ≤ s.tide.toNat) | none => true)

/-- The module raises its limit where its allowance permits it, to a point of its controller's choice, no higher than FBMAX as
a whole (21 R390). -/
def State.raiseLimit (s : State) : State :=
  let t := s.tide.toNat
  let own := s.crest.own
  let limit := own.limitAt t
  if own.pend.isNone ∧ limit < s.fbmaxAll ∧ s.referenceGood ∧ s.crest.notice + 10 < s.leastAllowance then
    let c := s.choose
    let p := limit + c.1 % (s.fbmaxAll - limit + 1)
    if p = limit then c.2 else c.2.announceOwn p (t + ms)
  else s

/-- What the controller does with the module's limit at an allowance of `least` (21 R390, R391); `before` is the allowance
before the update. The points it names are its own choice. -/
def State.steerLimit (s : State) (before least : Nat) : State :=
  let t := s.tide.toNat
  let own := s.crest.own
  let limit := own.limitAt t
  let lowering : Bool := match own.pend with | some (l, b) => decide (t < b ∧ l < limit) | none => false
  if least = 0 ∧ before ≠ 0 then
    let c := s.choose
    c.2.dropOwn (c.1 % (limit + 1)) (c.1 % (limit + 1))
  else if least ≤ s.crest.notice + 10 then
    if lowering ∨ limit = 0 then s
    else
      let c := s.choose
      c.2.announceOwn (c.1 % limit) (t + 1000 * s.crest.notice)
  else s.raiseLimit

/-- ALLOWANCE_UPDATE (21 R382, R390, R391): every 10 μs. -/
def execAllowanceUpdate (d0 d1 d2 d3 : BitVec 16) (s : State) : Out :=
  .next <|
    if s.tide.toNat % 10000 ≠ 0 then s
    else
      let before := s.leastAllowance
      let set (s : State) (d : Nat) (x : BitVec 16) : State := s.setDie d { s.dieAt d with allowance := x }
      let s := set (set (set (set s 0 d0) 1 d1) 2 d2) 3 d3
      s.steerLimit before s.leastAllowance

/-! ## Temperature -/

/-- A threshold with its hysteresis of 3 °C, in units of 0.125 °C (20 R351; 21 R383). -/
def hotNow (was : Bool) (temp : Int) (limit : Int) : Bool := decide (limit ≤ temp) || (was && decide (limit - 24 < temp))

/-- Does a partition's allotment hold any frame of a die's stack (20 R351)? -/
def Partition.holdsStack (p : Partition) (d : Nat) : Bool :=
  p.ranges.any fun r => decide (r.1 < (d + 1) * 0x3000000000 ∧ d * 0x3000000000 < r.1 + r.2)

/-- Does a launch have a tile or a pump-class slot on a die? -/
def Launch.onDie (l : Launch) (d : Nat) : Bool :=
  l.place.any (fun t => dieOf t = d) || l.pumpSlots.any fun n => pumpDie (pumpOf n) = some d

/-- Ends a launch with status FAULTED and no slot: UNCORR, subcode 0x05 (20 R351; 04 R69). -/
def State.faultLaunch (s : State) (l : Nat) : State :=
  let lc := s.launchAt l
  (s.setLaunch l { lc with closed := true, fault := lc.fault.or (some (0xFFFFFFFF, 0x051D)) }).stopLaunch l

/-- Shuts a die down (20 R351). -/
def State.shutDie (s : State) (d : Nat) : State :=
  let s := (s.setDie d { s.dieAt d with shut := true }).errorRecord 4 (dieBytes d) 0x1D 5 0 0 0
  let ls := s.launches.filter fun p =>
    p.2.phase ≠ .queued && p.2.phase ≠ .done && (p.2.onDie d || (s.partAt p.2.part).holdsStack d)
  ls.foldl (fun s p => s.faultLaunch p.1) s

/-- The temperature of a die's stack (20 R351). -/
def State.setTemp (s : State) (d : Nat) (x : BitVec 16) : State :=
  let e := s.dieAt d
  let s := s.setDie d
    { e with temp := x, hot85 := hotNow e.hot85 x.toInt 680, hot95 := hotNow e.hot95 x.toInt 760 }
  if 840 ≤ x.toInt ∧ !e.shut then s.shutDie d else s

/-- DRAMTEMP_UPDATE (20 R351; 21 R383): every 10 μs. -/
def execDramtempUpdate (d0 d1 d2 d3 : BitVec 16) (s : State) : Out :=
  .next <|
    if s.tide.toNat % 10000 ≠ 0 then s
    else (((s.setTemp 0 d0).setTemp 1 d1).setTemp 2 d2).setTemp 3 d3

/-! ## The reference -/

/-- REFERENCE_LOSS (21 R385): the EMERGENCY carries 24, and a limit of the module's that is lower stays (DEDUCED, log 58). -/
def execReferenceLoss (die : Nat) (s : State) : Out :=
  .next <|
    if 4 ≤ die ∨ (s.dieAt die).refLost then s
    else
      let s := s.setDie die { s.dieAt die with refLost := true, refBackAt := none }
      (s.errorRecord 1 (dieBytes die) 0 0 0 0 0).dropOwn (min 24 (s.crest.own.limitAt s.tide.toNat)) 24

/-- REFERENCE_RETURN (21 R385): the reference is back; once it has been back for 1 ms, the limit returns through an
ordinary raise. -/
def execReferenceReturn (die : Nat) (s : State) : Out :=
  .next <|
    let d := s.dieAt die
    let t := s.tide.toNat
    if 4 ≤ die then s
    else if d.refLost then (s.setDie die { d with refLost := false, refBackAt := some t }).recrest 2
    else
      match d.refBackAt with
      | none => s
      | some k =>
        if t < k + ms then s
        else
          (s.setDie die { d with refBackAt := none }).raiseLimit

/-! ## The tide -/

/-- The slots that sleep until the present tide wake (06 R133). -/
def State.wakeAll (s : State) : State := (s.slots.map (·.1)).foldl (fun s n => s.wake n) s

/-- What the tide brings at a tick (06 R133; 21 R380, R388, R392, R393). -/
def State.atTick (s : State) : State := s.quotaPeriod.crestTick.wakeAll

/-- One tick of the tide (21 R384). -/
def State.tickTide (s : State) : State := ({ s with tide := s.tide + 1 } : State).atTick

/-- TIDE_SET (21 R384): once after module reset, before the first launch is dispatched. Silence is counted from the new
value on. -/
def execTideSet (v : Word) (s : State) : Out :=
  .next <|
    if s.tideSet || s.everDispatched then s
    else
      let ms := s.crest.members.map fun p => (p.1, { p.2 with lastHeard := v.toNat })
      ({ s with tide := v, tideSet := true, crest := { s.crest with members := ms, lastBeat := v.toNat } } : State).recrest 1

/-- The module leaves its crest group (21 R394). -/
def State.leaveGroup (s : State) : State :=
  let e := (s.tide.toNat / ms + 1) * ms
  if s.crest.group.isNone ∨ s.crest.own.leaveAt.isSome then s
  else ((s.setMember s.crest.self { s.crest.own with leaveAt := some e }).sendCrest 5 0 0 0 e 0).recrest 1

/-- TIDE_SLEW (21 R384): one tick is added, or withheld, at most once in any 10 μs; a member that has drifted outside ±1 μs
reports it and leaves its group. -/
def execTideSlew (up : Bool) (drift : Nat) (s : State) : Out :=
  .next <|
    let t := s.tide.toNat
    let soon : Bool := match s.slewAt with | some k => decide (t < k + 10000) | none => false
    let s : State := if soon then s
      else if up then ({ s with slewAt := some t } : State).tickTide
      else { s with slewAt := some t }
    if drift ≤ 1000 ∨ s.crest.group.isNone then s
    else (s.errorRecord 1 [255, 255, 255, 255, 255] 0 0 0 0 0).leaveGroup

end Sys2Proof.Machine
end

