-- ==== Sys2Proof/Machine/Sign.lean ====
section
/-! DEFINITION. SHA-512 and Ed25519 in its pure form, with which images and records are signed (23 R406 to R408). The spec names both and
does not hold their texts, FIPS 180-4 and RFC 8032, from which this file is taken (PRESUMED, log 87). -/
namespace Sys2Proof.Machine
open Sys2Proof

/-! ## SHA-512 -/

/-- Round constants 0 to 19 of SHA-512. -/
def shaRound0 : List (BitVec 64) :=
  [0x428A2F98D728AE22, 0x7137449123EF65CD, 0xB5C0FBCFEC4D3B2F,
   0xE9B5DBA58189DBBC, 0x3956C25BF348B538, 0x59F111F1B605D019,
   0x923F82A4AF194F9B, 0xAB1C5ED5DA6D8118, 0xD807AA98A3030242,
   0x12835B0145706FBE, 0x243185BE4EE4B28C, 0x550C7DC3D5FFB4E2,
   0x72BE5D74F27B896F, 0x80DEB1FE3B1696B1, 0x9BDC06A725C71235,
   0xC19BF174CF692694, 0xE49B69C19EF14AD2, 0xEFBE4786384F25E3,
   0x0FC19DC68B8CD5B5, 0x240CA1CC77AC9C65]
/-- Round constants 20 to 39 of SHA-512. -/
def shaRound1 : List (BitVec 64) :=
  [0x2DE92C6F592B0275, 0x4A7484AA6EA6E483, 0x5CB0A9DCBD41FBD4,
   0x76F988DA831153B5, 0x983E5152EE66DFAB, 0xA831C66D2DB43210,
   0xB00327C898FB213F, 0xBF597FC7BEEF0EE4, 0xC6E00BF33DA88FC2,
   0xD5A79147930AA725, 0x06CA6351E003826F, 0x142929670A0E6E70,
   0x27B70A8546D22FFC, 0x2E1B21385C26C926, 0x4D2C6DFC5AC42AED,
   0x53380D139D95B3DF, 0x650A73548BAF63DE, 0x766A0ABB3C77B2A8,
   0x81C2C92E47EDAEE6, 0x92722C851482353B]
/-- Round constants 40 to 59 of SHA-512. -/
def shaRound2 : List (BitVec 64) :=
  [0xA2BFE8A14CF10364, 0xA81A664BBC423001, 0xC24B8B70D0F89791,
   0xC76C51A30654BE30, 0xD192E819D6EF5218, 0xD69906245565A910,
   0xF40E35855771202A, 0x106AA07032BBD1B8, 0x19A4C116B8D2D0C8,
   0x1E376C085141AB53, 0x2748774CDF8EEB99, 0x34B0BCB5E19B48A8,
   0x391C0CB3C5C95A63, 0x4ED8AA4AE3418ACB, 0x5B9CCA4F7763E373,
   0x682E6FF3D6B2B8A3, 0x748F82EE5DEFB2FC, 0x78A5636F43172F60,
   0x84C87814A1F0AB72, 0x8CC702081A6439EC]
/-- Round constants 60 to 79 of SHA-512. -/
def shaRound3 : List (BitVec 64) :=
  [0x90BEFFFA23631E28, 0xA4506CEBDE82BDE9, 0xBEF9A3F7B2C67915,
   0xC67178F2E372532B, 0xCA273ECEEA26619C, 0xD186B8C721C0C207,
   0xEADA7DD6CDE0EB1E, 0xF57D4F7FEE6ED178, 0x06F067AA72176FBA,
   0x0A637DC5A2C898A6, 0x113F9804BEF90DAE, 0x1B710B35131C471B,
   0x28DB77F523047D84, 0x32CAAB7B40C72493, 0x3C9EBE0A15C9BEBC,
   0x431D67C49C100D4C, 0x4CC5D4BECB3E42B6, 0x597F299CFC657E2A,
   0x5FCB6FAB3AD6FAEC, 0x6C44198C4A475817]
/-- The round constants of SHA-512. -/
def shaRounds : List (BitVec 64) := shaRound0 ++ shaRound1 ++ shaRound2 ++ shaRound3

/-- The state of SHA-512, eight words. -/
structure ShaState where
  a : BitVec 64
  b : BitVec 64
  c : BitVec 64
  d : BitVec 64
  e : BitVec 64
  f : BitVec 64
  g : BitVec 64
  h : BitVec 64
deriving DecidableEq, Repr

/-- The initial state. -/
def shaStart : ShaState :=
  ⟨0x6A09E667F3BCC908, 0xBB67AE8584CAA73B, 0x3C6EF372FE94F82B, 0xA54FF53A5F1D36F1,
   0x510E527FADE682D1, 0x9B05688C2B3E6C1F, 0x1F83D9ABFB41BD6B, 0x5BE0CD19137E2179⟩

/-- One round on a message word and its constant. -/
def ShaState.round (s : ShaState) (w k : BitVec 64) : ShaState :=
  let s1 := s.e.rotateRight 14 ^^^ s.e.rotateRight 18 ^^^ s.e.rotateRight 41
  let t1 := s.h + s1 + ((s.e &&& s.f) ^^^ (~~~ s.e &&& s.g)) + k + w
  let s0 := s.a.rotateRight 28 ^^^ s.a.rotateRight 34 ^^^ s.a.rotateRight 39
  let t2 := s0 + ((s.a &&& s.b) ^^^ (s.a &&& s.c) ^^^ (s.b &&& s.c))
  ⟨t1 + t2, s.a, s.b, s.c, s.d + t1, s.e, s.f, s.g⟩

/-- The sum of two states, word by word. -/
def ShaState.sum (s t : ShaState) : ShaState :=
  ⟨s.a + t.a, s.b + t.b, s.c + t.c, s.d + t.d, s.e + t.e, s.f + t.f, s.g + t.g, s.h + t.h⟩

/-- The rounds over the message words, `ws` being the next sixteen. -/
def ShaState.rounds (s : ShaState) (ws : List (BitVec 64)) : List (BitVec 64) → ShaState
  | [] => s
  | k :: ks =>
    let x := ws.getD 1 0
    let y := ws.getD 14 0
    let s0 := x.rotateRight 1 ^^^ x.rotateRight 8 ^^^ (x >>> 7)
    let s1 := y.rotateRight 19 ^^^ y.rotateRight 61 ^^^ (y >>> 6)
    (s.round (ws.getD 0 0) k).rounds (ws.drop 1 ++ [ws.getD 0 0 + s0 + ws.getD 9 0 + s1]) ks

/-- Big-endian bytes as a number. -/
def beNat (bs : List Byte) : Nat := bs.foldl (fun a b => 256 * a + b.toNat) 0

/-- A number as n big-endian bytes. -/
def beBytes (n x : Nat) : List Byte := (leBytes n x).reverse

/-- The sixteen words of block i of a padded message. -/
def shaBlock (bs : List Byte) (i : Nat) : List (BitVec 64) :=
  (List.range 16).map fun j => .ofNat 64 (beNat ((bs.drop (128 * i + 8 * j)).take 8))

/-- A message with its padding: a one bit, zeros, and its length in bits. -/
def shaPad (m : List Byte) : List Byte :=
  m ++ 0x80 :: List.replicate ((239 - m.length % 128) % 128) 0 ++ beBytes 16 (8 * m.length)

/-- SHA-512: the 64-byte digest of a message (23 R406). -/
def sha512 (m : List Byte) : List Byte :=
  let p := shaPad m
  let s := (List.range (p.length / 128)).foldl (fun s i => s.sum (s.rounds (shaBlock p i) shaRounds)) shaStart
  [s.a, s.b, s.c, s.d, s.e, s.f, s.g, s.h].flatMap fun x => beBytes 8 x.toNat

/-! ## The curve of Ed25519 -/

/-- The prime 2^255 − 19. -/
def edP : Nat := 2 ^ 255 - 19
/-- The order of the base point. -/
def edL : Nat := 2 ^ 252 + 27742317777372353535851937790883648493
/-- The curve's d, −121665/121666. -/
def edD : Nat := 37095705934669439343138083508754565189542113879843219016388785533085940283555

/-- A power modulo the prime, of an exponent below 2^255. -/
def powP (b e : Nat) : Nat :=
  (List.range 255).foldr (fun i a => if e.testBit i then a * a % edP * b % edP else a * a % edP) 1

/-- A difference modulo the prime. -/
def subP (a b : Nat) : Nat := (a + edP - b % edP) % edP

/-- A point in extended coordinates: x = X/Z, y = Y/Z, x y = T/Z. -/
structure EdPoint where
  x : Nat
  y : Nat
  z : Nat
  t : Nat
deriving DecidableEq, Repr

/-- The neutral point. -/
def edZero : EdPoint := ⟨0, 1, 1, 0⟩

/-- The sum of two points. -/
def EdPoint.add (p q : EdPoint) : EdPoint :=
  let a := subP p.y p.x * subP q.y q.x % edP
  let b := (p.y + p.x) * (q.y + q.x) % edP
  let c := 2 * p.t * q.t * edD % edP
  let d := 2 * p.z * q.z % edP
  let e := subP b a
  let f := subP d c
  let g := (d + c) % edP
  let h := (b + a) % edP
  ⟨e * f % edP, g * h % edP, f * g % edP, e * h % edP⟩

/-- A multiple of a point, by a number below 2^512. -/
def EdPoint.times (p : EdPoint) (n : Nat) : EdPoint :=
  (List.range 512).foldr (fun i a => if n.testBit i then (a.add a).add p else a.add a) edZero

/-- Are two points equal? -/
def EdPoint.same (p q : EdPoint) : Bool :=
  decide (p.x * q.z % edP = q.x * p.z % edP ∧ p.y * q.z % edP = q.y * p.z % edP)

/-- The x of a point of a given y, of the parity asked for. -/
def edRecover (y odd : Nat) : Option Nat :=
  let u := subP (y * y) 1
  let v := (edD * (y * y % edP) + 1) % edP
  let v3 := v * v % edP * v % edP
  let r := u * v3 % edP * powP (u * (v3 * v3 % edP * v % edP) % edP) ((edP - 5) / 8) % edP
  let w := v * (r * r % edP) % edP
  let root := if w = u then some r
    else if w = subP 0 u then some (r * powP 2 ((edP - 1) / 4) % edP) else none
  match root with
  | none => none
  | some x => if x = 0 ∧ odd = 1 then none else some (if x % 2 = odd then x else subP 0 x)

/-- The point that 32 bytes encode. -/
def edDecode (bs : List Byte) : Option EdPoint :=
  let n := leNat bs
  let y := n % 2 ^ 255
  if bs.length ≠ 32 ∨ edP ≤ y then none
  else (edRecover y (n / 2 ^ 255)).map fun x => ⟨x, y, 1, x * y % edP⟩

/-- The 32 bytes of a point. -/
def EdPoint.encode (p : EdPoint) : List Byte :=
  let i := powP p.z (edP - 2)
  leBytes 32 (p.y * i % edP + 2 ^ 255 * (p.x * i % edP % 2))

/-- The base point, of y = 4/5 and even x. -/
def edBase : EdPoint := (edDecode (leBytes 32 0x6666666666666666666666666666666666666666666666666666666666666658)).getD edZero

/-! ## Ed25519 -/

/-- Does a 64-byte signature of a message pass under a 32-byte public key, by the equation with the cofactor, which RFC 8032 names first
(23 R406)? -/
def ed25519Good (key m sig : List Byte) : Bool :=
  let s := leNat (sig.drop 32)
  match edDecode key, edDecode (sig.take 32) with
  | some a, some r =>
    sig.length = 64 && decide (s < edL)
    && (edBase.times (8 * s)).same ((r.times 8).add (a.times (8 * (leNat (sha512 (sig.take 32 ++ key ++ m)) % edL))))
  | _, _ => false

/-- The signature of a message with the key pair of a 32-byte seed (23 R407). -/
def ed25519Sign (seed m : List Byte) : List Byte :=
  let h := sha512 seed
  let a := leNat (h.take 32) % 2 ^ 254 / 8 * 8 + 2 ^ 254
  let pub := (edBase.times a).encode
  let r := leNat (sha512 (h.drop 32 ++ m)) % edL
  let rp := (edBase.times r).encode
  rp ++ leBytes 32 ((r + leNat (sha512 (rp ++ pub ++ m)) % edL * a) % edL)

end Sys2Proof.Machine
end

