-- ==== Sys2Proof/Machine/Host.lean ====
section
/-! DEFINITION. Host accesses and doorbells, boot and configuration, identity and telemetry, the Caerur links, and the
input rail (23 R402 to R414, R427). -/
namespace Sys2Proof.Machine
open Sys2Proof

/-! ## Host accesses -/

/-- Writes one byte at a partition address that is mapped writable; a stack that is shut down drops it (20 R351). -/
def State.partSetByte (s : State) (part va : Nat) (b : Byte) : State :=
  match s.translate part va .w with
  | .ok pa => match s.localPa pa with
    | some pa => if s.stackShut pa then s else { s with mem := setByte s.mem pa b }
    | none => s
  | .error _ => s

/-- The physical addresses of a written range. -/
def State.partKeys (s : State) (part va n : Nat) : List Nat :=
  (List.range n).filterMap fun i =>
    match s.translate part (va + i) .w with
    | .ok pa => s.localPa pa
    | .error _ => none

/-- Writes bytes from a partition address on, all of it mapped writable. -/
def State.partPut (s : State) (part va : Nat) (bs : List Byte) : State :=
  let keys := s.partKeys part va bs.length
  ((List.range bs.length).foldl (fun s i => s.partSetByte part (va + i) (bs.getD i 0)) s).heal keys

/-- Sets ERR of a partition (23 R403). -/
def State.bar2Error (s : State) (part : Nat) : State := s.setPart part { s.partAt part with err := true }

/-- Who performs a host access to the byte at a partition address (23 R403, R411). -/
def State.barServer (s : State) (part va : Nat) (x : Right) : Server :=
  match s.translate part va x with
  | .ok pa => s.serverOf part pa 1
  | .error _ => .refused

/-- Does a host access to some bytes complete: the whole of it is translated, and no reeve and no lost link stands in its way? A
refusal or a lost link counts as a failed translation (DESIGN CHOICE, log 60). -/
def State.barGoes (s : State) (part va n : Nat) (x : Right) (remote : Remote) : Bool :=
  let sv := (List.range n).map fun i => s.barServer part (va + i) x
  s.mapped part va n x && !decide (Server.refused ∈ sv)
  && (!decide (Server.away ∈ sv) || (match remote with | .data _ => true | _ => false))

/-- The byte that a host read finds: this module's, or what the other module answers. -/
def State.barByte (s : State) (part va : Nat) (remote : Remote) (i : Nat) : Byte :=
  match s.barServer part (va + i) .r, remote with
  | .away, .data bs => bs.getD i 0
  | _, _ => s.partByte part (va + i)

/-- A host access through BAR2 (23 R403): a failure completes a read with all ones and drops a write. What lies in another module is
read and written there (R411). -/
def State.bar2 (s : State) (part va : Nat) (op : BarOp) (remote : Remote) : State :=
  match op with
  | .read n =>
    if s.barGoes part va n .r remote then { s with hostData := (List.range n).map (s.barByte part va remote) }
    else ({ s with hostData := List.replicate n 0xFF } : State).bar2Error part
  | .write bs => if s.barGoes part va bs.length .w remote then s.partPut part va bs else s.bar2Error part

/-- BAR2_ACCESS (23 R403): BAR2 is 1 TiB, and the function is present while its partition is configured (R402). -/
def execBar2Access (part : Nat) (addr : Word) (acc : BarAccess) (s : State) : Out :=
  .next <| if (s.partAt part).configured && decide (addr.toNat < 2 ^ 40) then s.bar2 part addr.toNat acc.op acc.remote else s

/-- DOORBELL (23 R403). -/
def execDoorbell (part : Nat) (v : Word) (s : State) : Out :=
  .next <|
    let p := s.partAt part
    if !p.configured then s
    else if p.doorbell.length < 64 then s.setPart part { p with doorbell := p.doorbell ++ [v] }
    else s.setPart part { p with lost := true }

/-- DBSTAT as the host reads it (23 R403). -/
def Partition.dbstat (p : Partition) : Word :=
  word ((if p.err then 256 else 0) + (if p.lost then 128 else 0) + p.doorbell.length)

/-- The host reads a register of BAR0 (23 R403): DBSTAT. What a read returns of an offset that holds no register, and of the write-only
DOORBELL, the spec does not say; the model answers zero (DESIGN CHOICE, log 63). -/
def State.barRead (s : State) (part off : Nat) : State :=
  let p := s.partAt part
  if p.configured then { s with hostData := leBytes 8 (if off = 8 then p.dbstat.toNat else 0) } else s

/-- DBSTAT_CLEAR (23 R403). -/
def execDbstatClear (part : Nat) (v : Word) (s : State) : Out :=
  .next <|
    let p := s.partAt part
    if !p.configured then s
    else s.setPart part { p with err := p.err && !bit v 8, lost := p.lost && !bit v 7 }

/-! ## Records in flash -/

/-- `n` bytes of a list from an offset as a number. -/
def fieldAt (bs : List Byte) (off n : Nat) : Nat := leNat ((bs.drop off).take n)

/-- The key for the reeve image and the records (23 R405, R408; DESIGN CHOICE, log 12). -/
def rootKey : List Byte := leBytes 32 Config.rootKey.toNat

/-- Is an image good: signed by Ed25519 over its SHA-512 digest, and not below the anti-rollback counter (23 R406)? -/
def SignedImage.good (x : SignedImage) (key : List Byte) (rollback : BitVec 32) : Bool :=
  ed25519Good key (sha512 x.bytes) x.sig && decide (rollback ≤ x.version)

/-- A configuration record: type, security version, payload, and whether it stands: its header's zeros, its length, its
signature and its version (23 R408, R427). -/
def recordGood (bs : List Byte) (rollback : BitVec 32) : Bool :=
  let n := fieldAt bs 4 4
  bs.length = 16 + n + 64 && fieldAt bs 2 2 = 0 && fieldAt bs 12 4 = 0
  && decide (rollback.toNat ≤ fieldAt bs 8 4) && ed25519Good rootKey (bs.take (16 + n)) (bs.drop (16 + n))

/-- The payload of a record. -/
def payloadOf (bs : List Byte) : List Byte := (bs.drop 16).take (fieldAt bs 4 4)

/-- Does a range lie wholly in the module's memory, the host aperture or the fabric aperture (23 R427)? -/
def rangeGood (r : Nat × Nat) : Bool :=
  r.1 % 65536 = 0 && r.2 % 65536 = 0 && r.2 ≠ 0
  && (decide (r.1 + r.2 ≤ stackTop) || decide (2 ^ 40 ≤ r.1 ∧ r.1 + r.2 ≤ 2 ^ 41)
      || decide (2 ^ 54 ≤ r.1 ∧ r.1 + r.2 ≤ 2 ^ 54 + 2 ^ 48)
      || decide (2 ^ 55 ≤ r.1 ∧ r.1 + r.2 ≤ 2 ^ 55 + 1024 * 2 ^ 44))

/-- Two ranges meet. -/
def rangesMeet (a b : Nat × Nat) : Bool := decide (a.1 < b.1 + b.2 ∧ b.1 < a.1 + a.2)

/-- The partition that a PARTITION payload describes, with its number; none where the payload breaks a rule (23 R427). -/
def partitionOf (p : List Byte) : Option (Nat × Partition) :=
  let num := fieldAt p 0 1
  let r := fieldAt p 1 1
  let n := fieldAt p 2 2
  let ranges := (List.range r).map fun i => (fieldAt p (0x28 + 16 * i) 8, fieldAt p (0x30 + 16 * i) 8)
  let slots := (List.range n).map fun i => fieldAt p (0x28 + 16 * r + 2 * i) 2
  if 1 ≤ num ∧ num ≤ 16 ∧ 1 ≤ r ∧ r ≤ 64 ∧ n ≤ 4864 ∧ fieldAt p 4 4 = 0 ∧ p.length = 0x28 + 16 * r + 2 * n
      ∧ ranges.all rangeGood ∧ slots.all (fun x => decide (x < 4864)) then
    some (num, { configured := true, key := (p.drop 8).take 32, ranges := ranges, pumpSlots := slots })
  else none

/-- Does a partition overlap one already configured, or take its number (23 R427)? -/
def partitionClash (ps : List (Nat × Partition)) (n : Nat) (p : Partition) : Bool :=
  ps.any fun q => q.1 = n || p.ranges.any (fun a => q.2.ranges.any (rangesMeet a))
    || p.pumpSlots.any fun x => decide (x ∈ q.2.pumpSlots)

/-- A BOOT record of a step that failed (23 R405, R412). -/
def State.bootRecord (s : State) : State := s.errorRecord 2 [255, 255, 255, 255, 255] 0 0 0 0 0

/-- Applies a FABRIC payload (21 R386; 23 R408, R410). The module is no member of its group until a member accepts it (21 R394). -/
def State.applyFabric (s : State) (p : List Byte) : State :=
  let f := Config.fabricFields p
  if 1023 < f.1 ∨ f.2.2 < 100 ∨ 2000 < f.2.2 then s.bootRecord
  else
    { s with
      crest := { s.crest with group := some f.2.1, self := f.1, notice := f.2.2, members := [(f.1, { standing := .asked })] } }

/-- Applies a TOKENS payload: a count from 4 to 16 for each region (19 R332; 23 R408). -/
def State.applyTokens (s : State) (p : List Byte) : State :=
  if (List.range 64).all fun r => decide (4 ≤ Config.tokenField p r ∧ Config.tokenField p r ≤ 16) then
    (List.range 64).foldl (fun s r => s.setRegion r { s.regionAt r with tokens := Config.tokenField p r }) s
  else s.bootRecord

/-- The reeve checks one configuration record and applies it (23 R405, R408, R427). -/
def State.applyRecord (s : State) (bs : List Byte) : State :=
  if !recordGood bs s.rollback then s.bootRecord
  else
    let p := payloadOf bs
    match fieldAt bs 0 2 with
    | 1 => s.applyFabric p
    | 2 =>
      match partitionOf p with
      | none => s.bootRecord
      | some (n, x) => if partitionClash s.partitions n x then s.bootRecord else s.setPart n x
    | 3 => s.applyTokens p
    | 4 => if s.rollback < Config.counterField p then { s with rollback := Config.counterField p } else s
    | _ => s.bootRecord

/-! ## Module reset -/

/-- What a module reset keeps: the flash and the anti-rollback counter, the DRAM and the host's memory, what the board
measures, what left on the management bus, and the model's own schedule; all else is as State.reset has it. -/
def State.bare (s : State) : State :=
  { State.reset with
    flash := s.flash
    rollback := s.rollback
    mem := s.mem.filter fun p => decide (p.1 < 2 ^ 60)
    poison := s.poison.filter fun k => decide (k < 2 ^ 60)
    dies := s.dies.map fun p => (p.1, { allowance := p.2.allowance, temp := p.2.temp })
    regions := s.regions.map fun p =>
      (p.1, { fbmax := p.2.fbmax, outOfService := p.2.outOfService, curve := p.2.curve, freeboard := p.2.freeboard
              railLimit := p.2.railLimit })
    railMv := s.railMv
    railHold := decide (s.railMv < 40000)
    errSeq := s.errSeq
    errOut := s.errOut
    errSent := s.errSent
    mctp := s.mctp
    hostData := s.hostData
    cur := s.cur
    agenda := s.agenda
    romFails := s.romFails
    fresh := s.fresh }

/-- Step 5 of 23 R405: starts each partition whose image is good under its key. -/
def State.startPartitions (s : State) : State :=
  { s with
    partitions := s.partitions.map fun p =>
      match find s.flash.images p.1 with
      | some x => (p.1, { p.2 with started := x.good p.2.key s.rollback })
      | none => p }

/-- The reeve asks its crest group to take the module in (21 R394). -/
def State.askJoin (s : State) : State := s.sendCrest 3 0 s.crest.own.limit 0 0 0

/-- Steps 2 to 5 of 23 R405. -/
def State.bootChain (s : State) : State :=
  let s : State := { s with boot := .controller }
  if !s.flash.reeve.good rootKey s.rollback then s.bootRecord
  else
    let s := s.flash.records.foldl State.applyRecord { s with boot := .reeve }
    ({ s.startPartitions with boot := .running } : State).askJoin

/-- The module resets and boots; where the controller does not boot from its ROM, it stays in reset (23 R405). -/
def State.reboot (s : State) : State := if s.romFails then s.bare else s.bare.bootChain

/-- MODULE_RESET (23 R405). -/
def execModuleReset (s : State) : Out := .next s.reboot

/-! ## Management -/

/-- The four bytes of a counter, lowest first. -/
def bytes32 (x : BitVec 32) : List Byte := (List.range 4).map fun i => x.extractLsb' (8 * i) 8

/-- ATTESTATION (23 R407): the signature over a 32-byte nonce, the digests of the reeve and of every started partition
image, and the anti-rollback counter. -/
def execAttestation (nonce : List Byte) (s : State) : Out :=
  .next <|
    if nonce.length ≠ 32 ∨ s.boot = .held then s
    else
      let ds := (s.partitions.filter fun p => p.2.started).flatMap fun p =>
        sha512 (look {} s.flash.images p.1).bytes
      { s with
        mctp := s.mctp ++ [.attestation
          (ed25519Sign (leBytes 32 Config.identitySeed.toNat) (nonce ++ sha512 s.flash.reeve.bytes ++ ds ++ bytes32 s.rollback))] }

/-- A region's curve as telemetry reports it: the voltage of each point with its freeboard (21 R374; 23 R413). -/
def Region.report (r : Region) : List Nat := r.curve.map (· + r.freeboard)

/-- TELEMETRY (23 R413). The input power is measured (DESIGN CHOICE, log 17). A controller that has not booted answers nothing (R405). -/
def execTelemetry (s : State) : Out :=
  .next <|
    if s.boot = .held then s
    else
      let ds := List.range 4
      let stats := ds.flatMap fun d => (List.range 64).map fun c => (d, c, look (0, 0, 0) (s.dieAt d).chanStats c)
      { s with
        fresh := s.fresh + 1
        mctp := s.mctp ++ [.telemetry stats (ds.map fun d => (s.dieAt d).temp.toNat)
          (ds.map fun d => (s.dieAt d).allowance.toNat) ((List.range 64).map fun r => (s.regionAt r).report)
          (Config.freeWord s.fresh)] }

/-! ## Links -/

/-- A link. -/
def State.linkAt (s : State) (p : Nat) : Link := look {} s.links p
/-- Replaces a link. -/
def State.setLink (s : State) (p : Nat) (x : Link) : State := { s with links := put s.links p x }

/-- A retrain of a link has failed; after the third the link is down, and an error record is made (23 R409). -/
def State.retrainFailed (s : State) (port : Nat) : State :=
  let l := s.linkAt port
  if l.retrains + 1 < 3 then s.setLink port { l with replays := 0, retrains := l.retrains + 1 }
  else
    (s.setLink port { l with replays := 0, retrains := 3, retraining := false, down := true }).errorRecord 3
      [255, 255, 255, 255, 255] 0 0 0 (word port) 0

/-- LINK_REPLAY (23 R409): a flit fails its CRC and is replayed; the eighth in a row makes the link retrain, and where it
retrains already, that retrain has failed. -/
def execLinkReplay (port : Nat) (s : State) : Out :=
  .next <|
    let l := s.linkAt port
    if 16 ≤ port ∨ l.down then s
    else if l.replays + 1 < 8 then s.setLink port { l with replays := l.replays + 1 }
    else if l.retraining then s.retrainFailed port
    else s.setLink port { l with replays := 0, retraining := true }

/-- A flit passes its CRC: the replays in a row end (23 R409). -/
def State.flitPassed (s : State) (port : Nat) : State := s.setLink port { s.linkAt port with replays := 0 }

/-- LINK_RETRAIN (23 R409): a retrain completes. -/
def execLinkRetrain (port : Nat) (s : State) : Out :=
  .next <|
    let l := s.linkAt port
    if l.retraining && !l.down then s.setLink port {} else s

/-- A physical address lies in one of some other modules (23 R411). -/
def behindLink (members : List Nat) (pa : Nat) : Bool := inFabric pa && decide (fabricModule pa ∈ members)

/-- A side of a copy lies in one of some other modules now. -/
def State.sideBeyond (s : State) (part : Nat) (x : Side) (right : Right) (members : List Nat) : Bool :=
  match x with
  | .loc _ => false
  | .dram va =>
    match s.translate part va right with
    | .ok pa => behindLink members pa
    | .error _ => false

/-- Fails the copies in flight that reach over a lost link, with REASON 3 (20 R361; 23 R411). -/
def State.failOver (s : State) (core : Nat) (members : List Nat) : State :=
  (List.finRange 4).foldl (fun s ch =>
    match (s.coreAt core).running ch with
    | none => s
    | some c =>
      let part := (s.launchAt c.launch).part
      let src := (s.sideOf c.launch c.w0).at_ (c.rowsDone * c.sstride + c.bytesDone)
      let dst := (s.sideOf c.launch c.w1).at_ (c.rowsDone * c.dstride + c.bytesDone)
      if !c.moved && !c.stopping && !chanFailed (s.coreAt core).chans[ch]
          && (s.sideBeyond part src .r members || s.sideBeyond part dst .w members) then s.failCopy core c 3
      else s) s

/-- Traps the access or the SEND of a slot that waits on a lost link (23 R411). -/
def State.loseLink (s : State) (n : Nat) (members : List Nat) : State :=
  match (s.slotAt n).wait with
  | some (.dram a) => if behindLink members a.loc.off then s.takeTrap n 0x0A 0x03 a.ea false else s
  | some (.send m) =>
    if s.destination n m.far m.dst = some .away && decide (bits m.dst 57 48 ∈ members) then
      s.takeTrap n 0x23 0x04 m.dst false
    else s
  | _ => s

/-- LINK_DOWN (23 R409, R411): what a link that is down means for the modules that were reached over the port, `members`: copies and
accesses to them fail. What they send is no longer heard, so that they fall silent (21 R392). -/
def execLinkDown (port : Nat) (members : List Nat) (s : State) : Out :=
  .next <|
    if 16 ≤ port ∨ !(s.linkAt port).down then s
    else
      let s := (s.cores.map (·.1)).foldl (fun s c => s.failOver c members) s
      (s.slots.map (·.1)).foldl (fun s n => s.loseLink n members) s

/-! ## Other modules -/

/-- The reeve links one of this module's partitions with a partition of a module, or ends the link (23 R410). -/
def State.setLinked (s : State) (own fid part : Nat) (on : Bool) : State :=
  let rest := s.linked.filter fun x => x ≠ (own, fid, part)
  { s with linked := if on then (own, fid, part) :: rest else rest }

/-- Does a pump-class core act for a launch of a partition that is linked with a partition of a module (23 R410)? -/
def State.pumpLinked (s : State) (p fid part : Nat) : Bool :=
  (List.range 17).any fun q => s.isLinked q fid part && s.pumpActsFor p q

/-- The destination on this module that a message of another names (23 R410). -/
def State.fabricTarget (s : State) (dst : Word) (fid part : Nat) : Option Target :=
  if bits dst 59 58 ≠ 0 ∨ bits dst 57 48 ≠ s.crest.self then none
  else
    match bits dst 63 60 with
    | 3 => if bits dst 31 12 = 0 then s.launchTarget (bits dst 47 32) (bits dst 11 0) fid part else none
    | 4 =>
      if bits dst 47 9 = 0 ∧ bits dst 8 0 < 304 ∧ s.pumpLinked (bits dst 8 0) fid part then some (.core (4096 + bits dst 8 0) 0)
      else none
    | _ => none

/-- A message of another module reaches this one (11 R211, R218; 23 R410). One for a launch that is switched out waits for it; one
that no entry can take, or that an earlier one of its channel still waits before, is not accepted now; one whose destination
is none is refused. -/
def State.fabricIn (s : State) (dst sender : Word) (part : Nat) (seq : BitVec 16) (payload : List Word) : State :=
  let l := bits dst 47 32
  let core := bits dst 11 0
  let waits := bits dst 63 60 = 3 && (s.launchAt l).inbox.any fun m => m.core = core && m.sender = sender
  if !bit sender 63 ∨ bits sender 62 27 ≠ 0 ∨ payload = [] ∨ 4 < payload.length then s
  else
    match s.fabricTarget dst (bits sender 26 17) part with
    | some (.core c k) => if waits then s else (s.acceptMsg c k sender seq payload).getD s
    | some .out => s.setLaunch l { s.launchAt l with inbox := (s.launchAt l).inbox ++ [⟨core, sender, seq, payload⟩] }
    | _ => s

/-- A message that waits for a launch that runs enters its core, where no earlier one of its channel waits (11 R211, R218). -/
def State.deliver (s : State) (l i : Nat) : State :=
  let lc := s.launchAt l
  match lc.inbox[i]? with
  | none => s
  | some m =>
    if lc.phase ≠ .running ∨ (lc.inbox.take i).any (fun k => k.core = m.core && k.sender = m.sender) then s
    else
      match (lc.coreOf m.core).bind fun c => s.acceptMsg c l m.sender m.seq m.payload with
      | some t => t.setLaunch l { t.launchAt l with inbox := (t.launchAt l).inbox.eraseIdx i }
      | none => s

/-! ## The input rail -/

/-- RAIL_UNDERVOLTAGE (23 R414): below 40 V every polder is held at point 0 and a THERMAL record is sent, where the controller has booted
(R405); below 36 V the module resets. -/
def execRailUndervoltage (mv : Nat) (s : State) : Out :=
  .next <|
    let s : State := { s with railMv := mv }
    if 40000 ≤ mv then s
    else
      let s : State := { s with railHold := true }
      let s := if s.boot = .held then s else s.errorRecord 4 [255, 255, 255, 255, 255] 0 0 0 (word mv) 0
      if mv < 36000 then s.reboot else s

/-- RAIL_RESTORED (23 R414). -/
def execRailRestored (mv : Nat) (s : State) : Out :=
  .next <| if 40000 ≤ mv then { s with railMv := mv, railHold := false } else s

end Sys2Proof.Machine
end

