-- ==== Sys2Proof/Machine/Sluice.lean ====
section
/-! DEFINITION. WAIT and PHASE, opcodes 0x60 and 0x61 (09 R204 to R206), and the sluice's steps: readiness of a
linked entry (R199), firing (R190, R191) and release (R193). -/
namespace Sys2Proof.Machine
open Sys2Proof

/-- WAIT (09 R205). It issues at once: the accesses before it are released when the sluice releases it (08 R172; `State.ripe`). One
that issues in the very cycle of its group's breach meets it at its next turn, when the breach that comes first in the cycle is known
(09 R203; DEDUCED, log 30). -/
def execWait (s : State) : Out :=
  issue .wait s fun s =>
    match s.membership s.cur with
    | none => s.raiseHere 0x1A 0x02 0 8
    | some (l, g, i) =>
      match g.breach with
      | some p =>
        if s.breachOver (s.launchAt l) g p then s.raiseHere 0x1A 0x00 (breachVal p) 8
        else s.block s.cur (.sluice l g.num i)
      | none =>
        if !g.remains i then s.raiseHere 0x1A 0x01 ((g.phase.getD i 0).setWidth 64) 8
        else (s.setGroup l { g with waiting := addTo g.waiting i }).block s.cur (.sluice l g.num i)

/-- What PHASE reads (09 R206). -/
def State.phaseValue (s : State) (f : PhaseForm) : Word :=
  match s.membership s.cur with
  | none => neg 1
  | some (_, g, i) =>
    match f with
    | .count => (g.phase.getD i 0).setWidth 64
    | .mem => word (256 * g.num + i)
    | .full => g.full.setWidth 64

/-- PHASE (09 R206). -/
def execPhase (f : PhaseForm) (d : Reg) (s : State) : Out :=
  issue (.phase f d) s fun s => (s.setG d (s.phaseValue f)).retire 8

/-- SLUICE_FIRING (09 R190, R191): the firings of one cycle of one group. -/
def execSluiceFiring (launch grp : Nat) (s : State) : Out := .next (s.fireGroup launch grp)

/-- SLUICE_RELEASE (09 R193). -/
def execSluiceRelease (launch grp pos mem : Nat) (s : State) : Out := .next (s.release launch grp pos mem)

/-- LINK_READY (09 R199): the linked entries of a group that have become ready send their ready tick, and an
occurrence whose last partner this is fires in every partner group. -/
def State.linkReady (s : State) (l num : Nat) : State :=
  let s := s.linkReadiness l num false
  match (s.launchAt l).group num with
  | none => s
  | some g =>
    if !s.groupIn l g then s
    else
      let c := s.sluiceCycle (s.launchAt l) g
      ((s.ableIn (s.launchAt l) g c).filter fun p => p.2.link).foldl (fun s p => s.fireLink l num p.1 p.2)
        (s.setGroup l (g.consider c))

/-- LINK_READY as a step of its own. -/
def execLinkReady (launch grp : Nat) (s : State) : Out := .next (s.linkReady launch grp)

end Sys2Proof.Machine
end

