-- ==== Sys2Proof/Machine/Account.lean ====
section
/-! DEFINITION. What the module counts for the energy of a launch (21 R378, R381): the activity of each instruction and of each
step that acts for a launch. -/
namespace Sys2Proof.Machine
open Sys2Proof

/-- How often an instruction of the issuing slot is issued: by a paired leader also by its trailer (13 R268); one that is only tried
again at a turn is counted already. -/
def State.issues (s : State) : Nat :=
  if (s.slotAt s.cur).wait = some .poll then 0
  else 1 + (match s.trailerOf s.cur with | some m => if s.isLive m then 1 else 0 | none => 0)

/-- Counts an instruction that the issuing slot has issued: the instruction, a vector operation, and the bytes that a counted store
sends over the mesh. -/
def State.chargeInstr (t before : State) (i : Instr) : State :=
  let l := (before.slotAt before.cur).launch
  let k := before.issues
  let t := t.charge l .issue k
  let t := if unitOf i = .vector then t.charge l .vector k else t
  match i with
  | .st w .counted _ _ _ => t.charge l .meshBytes (w.bits / 8)
  | _ => t

/-- The bytes that a copy has moved. -/
def Copy.progress (c : Copy) : Nat := c.rowsDone * c.rbytes + c.bytesDone

/-- The copies of a core with an id, as they stand. -/
def State.copyNow (s : State) (core : Nat) (c : Copy) : Option Copy :=
  (s.coreAt core).fifo.find? fun x => x.ch = c.ch && x.id = c.id

/-- The kinds of the reeve's own work (21 R381): dispatching and loading a launch, starting one, ending a run, switching a context,
serving a call, and dealing with a trap. -/
inductive Chore | dispatch | start | finish | switch | call | trap
deriving DecidableEq, Repr

/-- The place of a kind of work in `State.houseWork`. -/
def Chore.index : Chore → Nat
  | .dispatch => 0 | .start => 1 | .finish => 2 | .switch => 3 | .call => 4 | .trap => 5

/-- The work of the reeve's own that a step is. Saves and restores are the launch's (21 R381). -/
def reeveWork (i : Instr) : Option Chore :=
  match i with
  | .dispatch .. => some .dispatch
  | .launchStart _ => some .start
  | .launchComplete _ | .witnessSecondRun _ => some .finish
  | .contextSwitch .. => some .switch
  | .setvec _ | .unpark _ | .setroot _ | .pumprun _ | .dbpop _ | .submit _ | .cancel _ => some .call
  | .contextWrite .. | .hctlResume _ | .hctlNext _ | .hctlReflect _ | .hctlPark _ | .hctlFault _ => some .trap
  | _ => none

/-- Counts a step that is the reeve's own work for its housekeeping account (21 R381). -/
def State.chargeHouse (t before : State) (i : Instr) : State :=
  match reeveWork i with
  | none => t
  | some c => if t = before then t else { t with houseWork := addCount t.houseWork c.index 1 }

/-- Counts the rows of the MMUL that a tile's unit has started or performed (21 R381). -/
def State.chargeRows (t before : State) (tile : Nat) : State :=
  match before.mulMembers tile with
  | none => t
  | some ms =>
    match before.headOp (ms.headD tile) with
    | some (.mmul m _ _ _ _ _ _) =>
      if (before.tileAt tile).mx.done < (t.tileAt tile).mx.done ∨ (t.tileAt tile).mx.left.isSome then
        t.charge (((before.tileAt tile).launch).getD 0) .rows (m * ms.length)
      else t
    | _ => t

/-- Counts what a step that acts for a launch has done: an access and a message over the mesh, an access to DRAM, the bytes of a copy,
and the rows of an MMUL. -/
def State.chargeStep (t before : State) (i : Instr) : State :=
  match i with
  | .globalRequest n =>
    match (before.slotAt n).wait with
    | some (.globalOut a _) => if t = before then t else t.charge (before.slotAt n).launch .meshBytes (a.bytes * a.count)
    | _ => t
  | .messageAccept n _ =>
    match (before.slotAt n).wait with
    | some (.send m) => if t = before then t else t.charge (before.slotAt n).launch .meshBytes (8 * m.payload.length)
    | _ => t
  | .dramReply n _ =>
    match (before.slotAt n).wait with
    | some (.dram _) => t.charge (before.slotAt n).launch .dram 1
    | _ => t
  | .copyChunk core ch _ =>
    match (before.coreAt core).running ch with
    | some c =>
      match t.copyNow core c with
      | some d => t.charge c.launch .copyBytes (d.progress - c.progress)
      | none => t
    | none => t
  | .mmulTurn tile => t.chargeRows before tile
  | _ => t

/-- Counts what an event has done, for a launch or for the reeve. -/
def State.chargeEvent (t before : State) (i : Instr) : State := (t.chargeStep before i).chargeHouse before i

end Sys2Proof.Machine
end

