-- ==== Sys2Proof/Machine/Effects.lean ====
section
/-! DEFINITION. Effects, handlers and tokens, opcodes 0x70 to 0x78 (12 R241 to R249), and what is raised at
instruction boundaries (04 R81; 12 R239, R240; 13 R254 to R256). -/
namespace Sys2Proof.Machine
open Sys2Proof

/-- The trap on a malformed frame (12 R232, R249), or what follows where no live frame is malformed. -/
def State.withFrames (s : State) (k : List Word → State) : State :=
  match s.badFrame s.cur with
  | some i => s.trap 0x12 0x05 (word (s.frameOff s.cur i))
  | none => k (s.frameHeads s.cur)

/-- HANDLE (12 R242). -/
def execHandle (multi : Bool) (id mask : BitVec 16) (hOff eOff : BitVec 32) (s : State) : Out :=
  issue (.handle multi id mask hOff eOff) s fun s =>
    let n := s.cur
    let im := s.img n
    let i := hspDepth im.hsp
    let off := s.frameOff n i
    if i = 16 ∨ 32 * bits im.hlimit 18 5 < off + 32 then s.trap 0x12 0x00 (word off)
    else
      let pushes := (hspPushes im.hsp + 1) % 2 ^ 16
      let head := word (pushes * 2 ^ 48 + im.loops.length * 2 ^ 45 + (if multi then 2 ^ 32 else 0)
        + mask.toNat * 2 ^ 16 + id.toNat)
      let l := gLoc (coreOf n) off
      let s := s.write l 8 head.toNat
      let s := s.write { l with off := off + 8 } 8 (im.pc + hOff.signExtend 64).toNat
      let s := s.write { l with off := off + 16 } 8 (s.gOf n 2).toNat
      let s := s.write { l with off := off + 24 } 8 (im.pc + eOff.signExtend 64 + 8).toNat
      let s := s.setImg n { s.img n with hsp := setBits (setBits im.hsp 63 48 pushes) 23 19 (i + 1) }
      s.retire 16

/-- ENDH (12 R247). -/
def execEndh (s : State) : Out :=
  issue .endh s fun s =>
    let n := s.cur
    let d := hspDepth (s.img n).hsp
    let pc := s.pcOf n
    if d = 0 then s.trap 0x12 0x01 pc
    else s.withFrames fun fs =>
      let j := d - 1
      if suspended fs j ∨ s.frameWord n j 3 ≠ pc + 8 then s.trap 0x12 0x02 pc
      else ((s.popFrames n j).retire 8).stall n (s.popStall n)

/-- HEXIT (12 R247). -/
def execHexit (s : State) : Out :=
  issue .hexit s fun s =>
    let n := s.cur
    let d := hspDepth (s.img n).hsp
    s.withFrames fun fs =>
      match (currentHandler fs fs.length).or (if d = 0 then none else some (d - 1)) with
      | none => s.trap 0x12 0x03 (s.pcOf n)
      | some f =>
        let e := s.frameWord n f 3
        let sg2 := s.frameWord n f 2
        let l := frameLdepth (s.frameWord n f 0)
        let k := s.popStall n
        let s := (s.popFrames n f).setGOf n 2 sg2
        let im := s.img n
        let s := s.setImg n { im with loops := im.loops.drop (im.loops.length - l), pc := e }
        (s.tickRetired n).stall n k

/-- The search and the free record that PERFORM and VPERFORM need, or their traps (12 R243, R244). -/
def State.performWith (s : State) (x : Nat) (k : Nat → Nat → State) : State :=
  s.withFrames fun fs =>
    match search fs x with
    | none => s.trap 0x15 0x00 (word x)
    | some f =>
      match s.freeRecord s.cur with
      | none => s.trap 0x13 0x00 (word x)
      | some r => k f r

/-- PERFORM (12 R243). -/
def execPerform (arg : PerfArg) (s : State) : Out :=
  issue (.perform arg) s fun s =>
    let n := s.cur
    let x := match arg with | .imm id => id.setWidth 64 | .reg a => s.g a
    if x.toNat < 0x100 ∨ 0xFFFF < x.toNat then s.trap 0x15 0x01 x
    else s.performWith x.toNat fun f r =>
      (s.settle n (s.pcOf n + 8)).capture n r f x.toNat none

/-- The code of an element type (03 R55). -/
def etCode : ET → Nat
  | .i8 => 0 | .i16 => 1 | .i32 => 2 | .n8 => 3 | .n16 => 4 | .n32 => 5
  | .bf16 => 6 | .f16 => 7 | .f32 => 8 | .e4m3 => 9 | .e5m2 => 10

/-- The bits of an element type by its code. -/
def etBits (c : Nat) : Nat :=
  match c with
  | 0 | 3 | 9 | 10 => 8
  | 1 | 4 | 6 | 7 => 16
  | _ => 32

/-- The low L bits of a mask. -/
def lowLanes (m : BitVec 128) (l : Nat) : BitVec 128 := BitVec.ofNat 128 (m.toNat % 2 ^ l)

/-- VPERFORM (12 R244). -/
def execVperform (et : ET) (d : VReg) (k : KReg) (id : BitVec 16) (s : State) : Out :=
  issue (.vperform et d k id) s fun s =>
    let n := s.cur
    let m := lowLanes (s.kOf n k) et.lanes
    if m = 0 then s.retire 8
    else s.performWith id.toNat fun f r =>
      ((s.setKOf n 7 m).settle n (s.pcOf n + 8)).capture n r f id.toNat (some (d.val, etCode et))

/-- A register with the lanes of `w` bits that a mask selects taken from another (12 R244). -/
def pickLanes (w : Nat) (m : BitVec 128) (old new : BitVec 1024) : BitVec 1024 :=
  BitVec.ofNat 1024 ((List.range (1024 / w)).foldl (fun acc i =>
    acc + 2 ^ (w * i) * (((if m.getLsbD i then new else old).toNat / 2 ^ (w * i)) % 2 ^ w)) 0)

/-- The lane delivery of a VP record (12 R244). -/
def State.deliverLanes (s : State) (n vd et : Nat) : State :=
  let r : VReg := Fin.ofNat 16 vd
  s.setVOf n r (pickLanes (etBits et) ((s.img n).k[(7 : KReg)]) (s.vOf n r) (s.vOf n 15))

/-- The loop levels of a record, innermost first (12 R230). -/
def State.recordLoops (s : State) (n i : Nat) : List LoopLevel :=
  ((List.range 4).map (fun k =>
    let w := s.recordWord n i (8 + 16 * k)
    (⟨word (bits w 31 0), word (bits w 63 32), s.recordWord n i (16 + 16 * k)⟩ : LoopLevel))
    |>.takeWhile fun l => l.count ≠ 0).reverse

/-- RESUME and RESUMEC (12 R245). -/
def State.resumeWith (s : State) (a b : Reg) (consume : Bool) : State :=
  let n := s.cur
  let t := s.g a
  let x := s.g b
  match s.tokenFault n t with
  | some c => s.trap 0x14 (min c 2) t
  | none =>
    let i := bits t 47 44
    let h := s.recordHead n i
    if !consume ∧ recKind h = 0 then s.trap 0x14 0x03 t
    else s.withFrames fun _ =>
      let gs := (List.range 31).map fun k => s.recordWord n i (0x48 + 8 * k)
      let ls := s.recordLoops n i
      let s := if recDepth h < hspDepth (s.img n).hsp then s.popFrames n (recDepth h) else s
      let s := s.markFrame n (recFrame h) 0 0
      let s := (List.range 31).foldl (fun s k => s.setGOf n (rg (k + 1)) (gs.getD k 0)) s
      let s := s.setGOf n 5 x
      let s := s.setImg n { s.img n with loops := ls, pc := recResume h }
      let s := if consume then s.invalidate n i else s
      let s := if recVp h then s.deliverLanes n (recVd h) (recEt h) else s
      s.setSlot n { s.slotAt n with issueFrom := s.now n + 128, resuming := true }

/-- RESUME (12 R245). -/
def execResume (a b : Reg) (s : State) : Out := issue (.resume a b) s fun s => s.resumeWith a b true
/-- RESUMEC (12 R245). -/
def execResumec (a b : Reg) (s : State) : Out := issue (.resumec a b) s fun s => s.resumeWith a b false

/-- DISCARD (12 R246). -/
def execDiscard (a : Reg) (s : State) : Out :=
  issue (.discard a) s fun s =>
    let t := s.g a
    match s.tokenFault s.cur t with
    | some c => s.trap 0x14 (min c 2) t
    | none => (s.invalidate s.cur (bits t 47 44)).retire 8

/-- What TOKQ answers for a token (12 R246). -/
def State.tokenInfo (s : State) (t : Word) : Word :=
  match s.tokenFault s.cur t with
  | some 0 | some 1 => neg 1
  | some _ => 0
  | none =>
    let h := s.recordHead s.cur (bits t 47 44)
    word (recDepth h * 2 ^ 16 + recFrame h * 2 ^ 8 + 1 + recKind h)

/-- TOKQ (12 R246). -/
def execTokq (d a : Reg) (s : State) : Out :=
  issue (.tokq d a) s fun s => (s.setG d (s.tokenInfo (s.g a))).retire 8

/-! ## What is raised at a boundary -/

/-- TICK becomes pending at the boundary after the retirement that counted out (12 R240). -/
def State.tickBoundary (s : State) (n : Nat) : State :=
  if (s.slotAt n).tickDue then
    (s.setSlot n { s.slotAt n with tickDue := false }).pend n ⟨0x16, 0, 0⟩
  else s

/-- WDOG becomes pending at the boundary after the turn that reached the limit, and a slot that waits in that turn's
instruction stands at no boundary (04 R81). -/
def State.wdogBoundary (s : State) (n : Nat) : State :=
  if (s.slotAt n).wdDue && (s.slotAt n).wait.isNone then
    (s.setSlot n { s.slotAt n with wdDue := false }).pend n ⟨0x19, 0, 0⟩
  else s

/-- A turn that slot n does not spend blocked outside the rotation counts for its watchdog (04 R81). -/
def State.countTurn (s : State) (n : Nat) : State :=
  let im := s.img n
  let lim := bits im.wdlimit 31 0
  if lim = 0 then s
  else
    let c := im.wdCount + 1
    if lim ≤ c.toNat then
      (s.setImg n { im with wdCount := 0 }).setSlot n { s.slotAt n with wdDue := true }
    else s.setImg n { im with wdCount := c }

/-- Slot n stands between two instructions, so that a cause of the boundary may be taken (12 R239). -/
def State.atBoundary (s : State) (n : Nat) : Bool :=
  let sl := s.slotAt n
  sl.state = .live && sl.hold.isNone && sl.wait.isNone && decide (sl.issueFrom ≤ s.now n)

/-- The boundary cause that is raised first: the lowest (12 R239). -/
def lowestRaised : List Raised → Option Raised
  | [] => none
  | r :: rs => some (rs.foldl (fun a b => if b.cause < a.cause then b else a) r)

/-- The boundary cause that slot n takes next: those of 12 R239 stay pending above user level (13 R254), and the PAGE
of a copy does not (20 R360). No CREST is given while EFFEN.CREST is 0 (21 R397). -/
def State.boundaryCause (s : State) (n : Nat) : Option Raised :=
  if s.atBoundary n then
    lowestRaised ((s.slotAt n).pending.filter fun r =>
      (r.cause = 0x0C || s.level n = 0) && (r.cause ≠ 0x18 || bit (s.img n).effen 0x18))
  else none

/-- A CREST that stands pending at a boundary of a thread whose EFFEN.CREST is 0 is not given (21 R397). -/
def State.crestBoundary (s : State) (n : Nat) : State :=
  let sl := s.slotAt n
  if bit (s.img n).effen 0x18 || !sl.pending.any (fun p => p.cause = 0x18) then s
  else s.setSlot n { sl with pending := sl.pending.filter fun p => p.cause ≠ 0x18 }

/-- Notes that thread n took QUOTA as an effect (21 R380). -/
def State.noteQuota (s : State) (n cause : Nat) : State :=
  let l := (s.slotAt n).launch
  if cause = 0x17 ∧ l ≠ 0 ∧ (s.effectTarget n cause).isSome then
    s.setLaunch l { s.launchAt l with quotaTook := addTo (s.launchAt l).quotaTook n }
  else s

/-- Takes a pending cause, as an effect or as a trap (12 R239). -/
def State.takeBoundary (s : State) (n : Nat) (r : Raised) : State :=
  let s := s.noteQuota n r.cause
  let sl := s.slotAt n
  (s.setSlot n { sl with pending := sl.pending.filter fun p => p.cause ≠ r.cause }).raisePaired n r.cause r.sub r.val none

/-- The boundary cause that an event may take of slot n: a pair takes its causes together at its leader's turn (13 R268). -/
def State.eventCause (s : State) (n : Nat) : Option Raised := if (s.partner n).isSome then none else s.boundaryCause n

/-- EFFECT_DELIVERY (12 R239): the pending cause is delivered as an effect where its conditions hold. -/
def execEffectDelivery (slot : Nat) (s : State) : Out :=
  .next <|
    match s.eventCause slot with
    | some r => if (s.effectTarget slot r.cause).isSome then s.takeBoundary slot r else s
    | none => s

/-- TRAP_ENTRY (13 R255): the pending cause is taken as a trap to supervisor level. -/
def execTrapEntry (slot : Nat) (s : State) : Out :=
  .next <|
    match s.eventCause slot with
    | some r =>
      if (s.effectTarget slot r.cause).isNone ∧ !s.toReeve slot r.cause then s.takeBoundary slot r else s
    | none => s

/-- HYPERVISOR_TRAP (13 R256): the pending cause is taken as a trap to hypervisor level. -/
def execHypervisorTrap (slot : Nat) (s : State) : Out :=
  .next <|
    match s.eventCause slot with
    | some r =>
      if (s.effectTarget slot r.cause).isNone ∧ s.toReeve slot r.cause then s.takeBoundary slot r else s
    | none => s

/-- TICK (12 R240). -/
def execTick (slot : Nat) (s : State) : Out := .next (s.tickBoundary slot)

/-- WATCHDOG_EXPIRY (04 R81). -/
def execWatchdogExpiry (slot : Nat) (s : State) : Out := .next (s.wdogBoundary slot)

end Sys2Proof.Machine
end

