-- ==== Sys2Proof/Machine/Dispatch.lean ====
section
/-! DEFINITION. The meaning of every row of the table: one arm for each constructor of Instr. -/
namespace Sys2Proof.Machine
open Sys2Proof

def exec (i : Instr) (s : State) : Host.Outcome State Fault Refusal :=
  match i with
  | .add w d a b => Sys2Proof.Machine.execAdd w d a b s
  | .addi w d a imm => Sys2Proof.Machine.execAddi w d a imm s
  | .sub w d a b => Sys2Proof.Machine.execSub w d a b s
  | .mul w f d a b => Sys2Proof.Machine.execMul w f d a b s
  | .div w sg d a b => Sys2Proof.Machine.execDiv w sg d a b s
  | .rem w sg d a b => Sys2Proof.Machine.execRem w sg d a b s
  | .and w d a b => Sys2Proof.Machine.execAnd w d a b s
  | .andi w d a imm => Sys2Proof.Machine.execAndi w d a imm s
  | .or w d a b => Sys2Proof.Machine.execOr w d a b s
  | .ori w d a imm => Sys2Proof.Machine.execOri w d a imm s
  | .xor w d a b => Sys2Proof.Machine.execXor w d a b s
  | .xori w d a imm => Sys2Proof.Machine.execXori w d a imm s
  | .andn w d a b => Sys2Proof.Machine.execAndn w d a b s
  | .shl w d a b => Sys2Proof.Machine.execShl w d a b s
  | .shli w d a n => Sys2Proof.Machine.execShli w d a n s
  | .shr w sg d a b => Sys2Proof.Machine.execShr w sg d a b s
  | .shri w sg d a n => Sys2Proof.Machine.execShri w sg d a n s
  | .rot w right d a b => Sys2Proof.Machine.execRot w right d a b s
  | .clz w d a => Sys2Proof.Machine.execClz w d a s
  | .ctz w d a => Sys2Proof.Machine.execCtz w d a s
  | .popc w d a => Sys2Proof.Machine.execPopc w d a s
  | .min w sg d a b => Sys2Proof.Machine.execMin w sg d a b s
  | .max w sg d a b => Sys2Proof.Machine.execMax w sg d a b s
  | .cmp w c d a b => Sys2Proof.Machine.execCmp w c d a b s
  | .cmpi w c d a imm => Sys2Proof.Machine.execCmpi w c d a imm s
  | .sel w d a b c => Sys2Proof.Machine.execSel w d a b c s
  | .ext sg d a pos len => Sys2Proof.Machine.execExt sg d a pos len s
  | .ins d a pos len => Sys2Proof.Machine.execIns d a pos len s
  | .bswap w d a => Sys2Proof.Machine.execBswap w d a s
  | .adds w sg d a b => Sys2Proof.Machine.execAdds w sg d a b s
  | .subs w sg d a b => Sys2Proof.Machine.execSubs w sg d a b s
  | .madd w d a b c => Sys2Proof.Machine.execMadd w d a b c s
  | .li d imm => Sys2Proof.Machine.execLi d imm s
  | .lea d m => Sys2Proof.Machine.execLea d m s
  | .gaddr phys self sp d a off => Sys2Proof.Machine.execGaddr phys self sp d a off s
  | .localq d a => Sys2Proof.Machine.execLocalq d a s
  | .abs w d a => Sys2Proof.Machine.execAbs w d a s
  | .sext w d a => Sys2Proof.Machine.execSext w d a s
  | .zext w d a => Sys2Proof.Machine.execZext w d a s
  | .illegalOp w0 w1 => Sys2Proof.Machine.execIllegalOp w0 w1 s
  | .nop => Sys2Proof.Machine.execNop s
  | .br w c a b off => Sys2Proof.Machine.execBr w c a b off s
  | .call d off => Sys2Proof.Machine.execCall d off s
  | .jr a => Sys2Proof.Machine.execJr a s
  | .callr d a => Sys2Proof.Machine.execCallr d a s
  | .loop a off => Sys2Proof.Machine.execLoop a off s
  | .loopi off count => Sys2Proof.Machine.execLoopi off count s
  | .lbrk => Sys2Proof.Machine.execLbrk s
  | .sleep abs a imm => Sys2Proof.Machine.execSleep abs a imm s
  | .sleepWake slot => Sys2Proof.Machine.execSleepWake slot s
  | .wdog => Sys2Proof.Machine.execWdog s
  | .yield => Sys2Proof.Machine.execYield s
  | .halt a => Sys2Proof.Machine.execHalt a s
  | .ld w sg o sp d m => Sys2Proof.Machine.execLd w sg o sp d m s
  | .st w o sp d m => Sys2Proof.Machine.execSt w o sp d m s
  | .ldm w sg o sp d m => Sys2Proof.Machine.execLdm w sg o sp d m s
  | .stm w o sp d m => Sys2Proof.Machine.execStm w o sp d m s
  | .ldf sp d m => Sys2Proof.Machine.execLdf sp d m s
  | .lde sp d m => Sys2Proof.Machine.execLde sp d m s
  | .stf sp d m => Sys2Proof.Machine.execStf sp d m s
  | .stff sp d m => Sys2Proof.Machine.execStff sp d m s
  | .tagq sp d m => Sys2Proof.Machine.execTagq sp d m s
  | .tagset sp d m => Sys2Proof.Machine.execTagset sp d m s
  | .amo w o op sp d a b off => Sys2Proof.Machine.execAmo w o op sp d a b off s
  | .cas w o sp d a b off => Sys2Proof.Machine.execCas w o sp d a b off s
  | .fence classes scope => Sys2Proof.Machine.execFence classes scope s
  | .racem sp d m => Sys2Proof.Machine.execRacem sp d m s
  | .dld w sg o d m => Sys2Proof.Machine.execDld w sg o d m s
  | .dst w o d m => Sys2Proof.Machine.execDst w o d m s
  | .damo w o op d a b off => Sys2Proof.Machine.execDamo w o op d a b off s
  | .globalRequest slot => Sys2Proof.Machine.execGlobalRequest slot s
  | .globalReply slot => Sys2Proof.Machine.execGlobalReply slot s
  | .countedStoreVisible index => Sys2Proof.Machine.execCountedStoreVisible index s
  | .waitlimit slot => Sys2Proof.Machine.execWaitlimit slot s
  | .wqpop nowait d => Sys2Proof.Machine.execWqpop nowait d s
  | .wqpush far close d a b => Sys2Proof.Machine.execWqpush far close d a b s
  | .spillwayReturn region launch => Sys2Proof.Machine.execSpillwayReturn region launch s
  | .wait => Sys2Proof.Machine.execWait s
  | .phase f d => Sys2Proof.Machine.execPhase f d s
  | .sluiceFiring launch grp => Sys2Proof.Machine.execSluiceFiring launch grp s
  | .sluiceRelease launch grp pos mem => Sys2Proof.Machine.execSluiceRelease launch grp pos mem s
  | .linkReady launch grp => Sys2Proof.Machine.execLinkReady launch grp s
  | .semv sem n => Sys2Proof.Machine.execSemv sem n s
  | .semw sem => Sys2Proof.Machine.execSemw sem s
  | .send count far a b => Sys2Proof.Machine.execSend count far a b s
  | .messageAccept slot remote => Sys2Proof.Machine.execMessageAccept slot remote s
  | .recv nowait d a => Sys2Proof.Machine.execRecv nowait d a s
  | .rarm pri d a b => Sys2Proof.Machine.execRarm pri d a b s
  | .mbx d word => Sys2Proof.Machine.execMbx d word s
  | .mbxw a b word => Sys2Proof.Machine.execMbxw a b word s
  | .rqpush pri nowait d a => Sys2Proof.Machine.execRqpush pri nowait d a s
  | .rqpop nowait d => Sys2Proof.Machine.execRqpop nowait d s
  | .tstart e d a b c => Sys2Proof.Machine.execTstart e d a b c s
  | .slotStart slot => Sys2Proof.Machine.execSlotStart slot s
  | .tstop d a => Sys2Proof.Machine.execTstop d a s
  | .treap nowait d a => Sys2Proof.Machine.execTreap nowait d a s
  | .tstat d a => Sys2Proof.Machine.execTstat d a s
  | .tself f d => Sys2Proof.Machine.execTself f d s
  | .handle multi id mask hOff eOff => Sys2Proof.Machine.execHandle multi id mask hOff eOff s
  | .endh => Sys2Proof.Machine.execEndh s
  | .perform arg => Sys2Proof.Machine.execPerform arg s
  | .vperform et d k id => Sys2Proof.Machine.execVperform et d k id s
  | .resume a b => Sys2Proof.Machine.execResume a b s
  | .resumec a b => Sys2Proof.Machine.execResumec a b s
  | .discard a => Sys2Proof.Machine.execDiscard a s
  | .hexit => Sys2Proof.Machine.execHexit s
  | .tokq d a => Sys2Proof.Machine.execTokq d a s
  | .effectDelivery slot => Sys2Proof.Machine.execEffectDelivery slot s
  | .tick slot => Sys2Proof.Machine.execTick slot s
  | .watchdogExpiry slot => Sys2Proof.Machine.execWatchdogExpiry slot s
  | .srd d r => Sys2Proof.Machine.execSrd d r s
  | .swr f d a r => Sys2Proof.Machine.execSwr f d a r s
  | .fpxsumUpdate tile => Sys2Proof.Machine.execFpxsumUpdate tile s
  | .contextWrite core off w v => Sys2Proof.Machine.execContextWrite core off w v s
  | .svc n => Sys2Proof.Machine.execSvc n s
  | .hvc n => Sys2Proof.Machine.execHvc n s
  | .setvec c => Sys2Proof.Machine.execSetvec c s
  | .unpark c => Sys2Proof.Machine.execUnpark c s
  | .setroot c => Sys2Proof.Machine.execSetroot c s
  | .pumprun c => Sys2Proof.Machine.execPumprun c s
  | .dbpop c => Sys2Proof.Machine.execDbpop c s
  | .submit c => Sys2Proof.Machine.execSubmit c s
  | .cancel c => Sys2Proof.Machine.execCancel c s
  | .tret next => Sys2Proof.Machine.execTret next s
  | .tkill d a => Sys2Proof.Machine.execTkill d a s
  | .pair off d a => Sys2Proof.Machine.execPair off d a s
  | .trapEntry slot => Sys2Proof.Machine.execTrapEntry slot s
  | .hypervisorTrap slot => Sys2Proof.Machine.execHypervisorTrap slot s
  | .hctlResume slot => Sys2Proof.Machine.execHctlResume slot s
  | .hctlNext slot => Sys2Proof.Machine.execHctlNext slot s
  | .hctlReflect slot => Sys2Proof.Machine.execHctlReflect slot s
  | .hctlPark slot => Sys2Proof.Machine.execHctlPark slot s
  | .hctlFault slot => Sys2Proof.Machine.execHctlFault slot s
  | .poison p => Sys2Proof.Machine.execPoison p s
  | .vadd et rm sat x a b => Sys2Proof.Machine.execVadd et rm sat x a b s
  | .vsub et rm sat x a b => Sys2Proof.Machine.execVsub et rm sat x a b s
  | .vmul et rm hi x a b => Sys2Proof.Machine.execVmul et rm hi x a b s
  | .vfma et rm x a b c => Sys2Proof.Machine.execVfma et rm x a b c s
  | .vdiv et rm x a b => Sys2Proof.Machine.execVdiv et rm x a b s
  | .vsqrt et rm x a => Sys2Proof.Machine.execVsqrt et rm x a s
  | .vmin et x a b => Sys2Proof.Machine.execVmin et x a b s
  | .vmax et x a b => Sys2Proof.Machine.execVmax et x a b s
  | .vabs et x a => Sys2Proof.Machine.execVabs et x a s
  | .vneg et x a => Sys2Proof.Machine.execVneg et x a s
  | .vand et x a b => Sys2Proof.Machine.execVand et x a b s
  | .vor et x a b => Sys2Proof.Machine.execVor et x a b s
  | .vxor et x a b => Sys2Proof.Machine.execVxor et x a b s
  | .vshl et x a b => Sys2Proof.Machine.execVshl et x a b s
  | .vshr et x a b => Sys2Proof.Machine.execVshr et x a b s
  | .vcmp et c kd k zm a b => Sys2Proof.Machine.execVcmp et c kd k zm a b s
  | .vsel et d k a b => Sys2Proof.Machine.execVsel et d k a b s
  | .vcvt et et2 rm part sat x a => Sys2Proof.Machine.execVcvt et et2 rm part sat x a s
  | .vquant et et2 rm part gs sat x a b ga => Sys2Proof.Machine.execVquant et et2 rm part gs sat x a b ga s
  | .vdeq et et2 rm part gs x a b ga => Sys2Proof.Machine.execVdeq et et2 rm part gs x a b ga s
  | .vred et rm op wide d k a ga => Sys2Proof.Machine.execVred et rm op wide d k a ga s
  | .vscan et rm op x a => Sys2Proof.Machine.execVscan et rm op x a s
  | .vbcast et fromLane lane x a ga => Sys2Proof.Machine.execVbcast et fromLane lane x a ga s
  | .vmovg et ins lane v ga => Sys2Proof.Machine.execVmovg et ins lane v ga s
  | .vshuf et x a b c => Sys2Proof.Machine.execVshuf et x a b c s
  | .vslide et n up fromG x a c ga => Sys2Proof.Machine.execVslide et n up fromG x a c ga s
  | .viota et idx x => Sys2Proof.Machine.execViota et idx x s
  | .vtlu et et2 rm slot extend x a => Sys2Proof.Machine.execVtlu et et2 rm slot extend x a s
  | .vtcfg slot ga => Sys2Proof.Machine.execVtcfg slot ga s
  | .vld et inC off x ga => Sys2Proof.Machine.execVld et inC off x ga s
  | .vst et inC off d k ga => Sys2Proof.Machine.execVst et inC off d k ga s
  | .vgath et inC sh x b ga => Sys2Proof.Machine.execVgath et inC sh x b ga s
  | .vscat et inC sh d k b ga => Sys2Proof.Machine.execVscat et inC sh d k b ga s
  | .kand d a b => Sys2Proof.Machine.execKand d a b s
  | .kor d a b => Sys2Proof.Machine.execKor d a b s
  | .kxor d a b => Sys2Proof.Machine.execKxor d a b s
  | .knot d a => Sys2Proof.Machine.execKnot d a s
  | .kpop et a ga => Sys2Proof.Machine.execKpop et a ga s
  | .kset et d ga => Sys2Proof.Machine.execKset et d ga s
  | .kfirst et a ga => Sys2Proof.Machine.execKfirst et a ga s
  | .vpack et rm f off d a => Sys2Proof.Machine.execVpack et rm f off d a s
  | .vunpk et rm f off x a => Sys2Proof.Machine.execVunpk et rm f off x a s
  | .vclass et classes kd k zm a => Sys2Proof.Machine.execVclass et classes kd k zm a s
  | .kmovg put hi k ga => Sys2Proof.Machine.execKmovg put hi k ga s
  | .mcfg qmask leader afmt => Sys2Proof.Machine.execMcfg qmask leader afmt s
  | .mldb p => Sys2Proof.Machine.execMldb p s
  | .mswap => Sys2Proof.Machine.execMswap s
  | .mmul p => Sys2Proof.Machine.execMmul p s
  | .mzero a b => Sys2Proof.Machine.execMzero a b s
  | .mout p => Sys2Proof.Machine.execMout p s
  | .mstat f d => Sys2Proof.Machine.execMstat f d s
  | .mred p => Sys2Proof.Machine.execMred p s
  | .mcfgTurn tile => Sys2Proof.Machine.execMcfgTurn tile s
  | .mldbTurn tile => Sys2Proof.Machine.execMldbTurn tile s
  | .mswapTurn tile => Sys2Proof.Machine.execMswapTurn tile s
  | .mmulTurn tile => Sys2Proof.Machine.execMmulTurn tile s
  | .mzeroTurn tile => Sys2Proof.Machine.execMzeroTurn tile s
  | .moutTurn tile => Sys2Proof.Machine.execMoutTurn tile s
  | .mredTurn tile => Sys2Proof.Machine.execMredTurn tile s
  | .dikeRingGrant region => Sys2Proof.Machine.execDikeRingGrant region s
  | .ballast region => Sys2Proof.Machine.execBallast region s
  | .cpy nowait d => Sys2Proof.Machine.execCpy nowait d s
  | .cpyw scope ch a => Sys2Proof.Machine.execCpyw scope ch a s
  | .cpyq err ch d => Sys2Proof.Machine.execCpyq err ch d s
  | .cpyx f d a => Sys2Proof.Machine.execCpyx f d a s
  | .tlbi f a => Sys2Proof.Machine.execTlbi f a s
  | .xlat write d a => Sys2Proof.Machine.execXlat write d a s
  | .copyChunk core ch remote => Sys2Proof.Machine.execCopyChunk core ch remote s
  | .copyComplete core ch => Sys2Proof.Machine.execCopyComplete core ch s
  | .page core ch => Sys2Proof.Machine.execPage core ch s
  | .copyCancelAck slot => Sys2Proof.Machine.execCopyCancelAck slot s
  | .dispatch launch placement => Sys2Proof.Machine.execDispatch launch placement s
  | .launchStart launch => Sys2Proof.Machine.execLaunchStart launch s
  | .launchComplete launch => Sys2Proof.Machine.execLaunchComplete launch s
  | .witnessSecondRun run => Sys2Proof.Machine.execWitnessSecondRun run s
  | .contextSwitch slot selector => Sys2Proof.Machine.execContextSwitch slot selector s
  | .launchPreempt launch => Sys2Proof.Machine.execLaunchPreempt launch s
  | .launchRestore launch placement => Sys2Proof.Machine.execLaunchRestore launch placement s
  | .operatingPointChange tile => Sys2Proof.Machine.execOperatingPointChange tile s
  | .droop tile on => Sys2Proof.Machine.execDroop tile on s
  | .fbmaxUpdate region m => Sys2Proof.Machine.execFbmaxUpdate region m s
  | .energyUpdate launch standing => Sys2Proof.Machine.execEnergyUpdate launch standing s
  | .quotaPeriodBoundary => Sys2Proof.Machine.execQuotaPeriodBoundary s
  | .allowanceUpdate d0 d1 d2 d3 => Sys2Proof.Machine.execAllowanceUpdate d0 d1 d2 d3 s
  | .dramtempUpdate d0 d1 d2 d3 => Sys2Proof.Machine.execDramtempUpdate d0 d1 d2 d3 s
  | .referenceLoss die => Sys2Proof.Machine.execReferenceLoss die s
  | .referenceReturn die => Sys2Proof.Machine.execReferenceReturn die s
  | .tideSet v => Sys2Proof.Machine.execTideSet v s
  | .announce m => Sys2Proof.Machine.execAnnounce m s
  | .heartbeat m => Sys2Proof.Machine.execHeartbeat m s
  | .heartbeatSend => Sys2Proof.Machine.execHeartbeatSend s
  | .join m notice => Sys2Proof.Machine.execJoin m notice s
  | .accept m => Sys2Proof.Machine.execAccept m s
  | .leave m => Sys2Proof.Machine.execLeave m s
  | .expel m => Sys2Proof.Machine.execExpel m s
  | .emergency m => Sys2Proof.Machine.execEmergency m s
  | .memberSilent mem => Sys2Proof.Machine.execMemberSilent mem s
  | .expelTimeout mem => Sys2Proof.Machine.execExpelTimeout mem s
  | .crestBite => Sys2Proof.Machine.execCrestBite s
  | .bar2Access part addr acc => Sys2Proof.Machine.execBar2Access part addr acc s
  | .doorbell part v => Sys2Proof.Machine.execDoorbell part v s
  | .dbstatClear part v => Sys2Proof.Machine.execDbstatClear part v s
  | .moduleReset => Sys2Proof.Machine.execModuleReset s
  | .attestation nonce => Sys2Proof.Machine.execAttestation nonce s
  | .telemetry => Sys2Proof.Machine.execTelemetry s
  | .linkReplay port => Sys2Proof.Machine.execLinkReplay port s
  | .linkDown port members => Sys2Proof.Machine.execLinkDown port members s
  | .railUndervoltage mv => Sys2Proof.Machine.execRailUndervoltage mv s
  | .dramReply slot remote => Sys2Proof.Machine.execDramReply slot remote s
  | .dramRefresh die ch stalled => Sys2Proof.Machine.execDramRefresh die ch stalled s
  | .tideSlew up drift => Sys2Proof.Machine.execTideSlew up drift s
  | .linkRetrain port => Sys2Proof.Machine.execLinkRetrain port s
  | .railRestored mv => Sys2Proof.Machine.execRailRestored mv s

end Sys2Proof.Machine
end

