-- ==== Sys2Proof/Machine/Order.lean ====
section
/-! DEFINITION. The order of a thread's accesses that leave it before they are performed (08 R168 to R178): what an instruction
must find performed before it issues, and the stores that a thread posts. -/
namespace Sys2Proof.Machine
open Sys2Proof

/-! ## What an instruction accesses -/

/-- Some bytes of a scalar or fabric access: its class (08 R168), and the key and number of the bytes. -/
def State.scalarTouch (s : State) (sp : SP) (ea : Word) (n : Nat) : Nat × List (Nat × Nat) :=
  match s.resolve .plain sp ea n 1 with
  | .ok l => (if sp = .glob then 6 else 0, [(l.key, n)])
  | .error _ => (0, [])

/-- The bytes of the lanes of a vector access. -/
def State.laneTouch (s : State) (inC : Bool) (et : ET) (xs : List (Nat × Nat)) : Nat × List (Nat × Nat) :=
  let e := et.bits / 8
  (2, xs.filterMap fun p =>
    match s.resolve .plain (vecSpace inC) (word p.2) e 1 with
    | .ok l => some (l.key, e)
    | .error _ => none)

/-- The bytes of a table's descriptor, with its greatest number of knots (17 R320). -/
def State.tableTouch (s : State) (ea : Word) : Nat × List (Nat × Nat) :=
  match s.resolve .plain .a ea 16 16 with
  | .ok l => (2, [(l.key, 16 + 4 * 257)])
  | .error _ => (0, [])

/-- What an instruction of the scalar, fabric or vector class accesses: the class, and the bytes. A counted store takes its place
in its thread's order on the culvert. The frames and records of PERFORM, HANDLE, RESUME and their kin are accesses of the
scalar class too (12 R232): no posted store of the thread stands out at their bytes (`State.postsHere`). -/
def State.touches (s : State) (i : Instr) : Nat × List (Nat × Nat) :=
  match i with
  | .st _ .counted _ _ _ => (6, [])
  | .ld w _ _ sp _ m | .st w _ sp _ m => s.scalarTouch sp (s.effAddr m) (w.bits / 8)
  | .ldm w _ _ sp _ m | .stm w _ sp _ m => s.scalarTouch sp (s.effAddr m) (w.bits / 2)
  | .amo w _ _ sp _ a _ off | .cas w _ sp _ a _ off => s.scalarTouch sp (s.effAddrAB a off) (w.bits / 8)
  | .vld et inC off x ga => s.laneTouch inC et (s.unitAddrs et x.k off ga)
  | .vst et inC off _ k ga => s.laneTouch inC et (s.unitAddrs et k off ga)
  | .vgath et inC sh x b ga => s.laneTouch inC et (s.indexAddrs et x.k b sh ga)
  | .vscat et inC sh _ k b ga => s.laneTouch inC et (s.indexAddrs et k b sh ga)
  | .vtcfg _ ga => s.tableTouch (s.g ga)
  | _ => (0, [])

/-- Is an instruction of the issuing slot one with release ordering (08 R171, R172)? -/
def State.releases (s : State) (i : Instr) : Bool :=
  match i with
  | .stf .. | .stff .. | .wait | .semv .. | .mbxw .. | .send .. | .wqpush .. | .rqpush .. | .tstart .. => true
  | .tagset _ d _ => bit (s.g d) 63
  | .st _ o _ _ _ | .stm _ o _ _ _ | .amo _ o _ _ _ _ _ _ | .cas _ o _ _ _ _ _ | .dst _ o _ _ | .damo _ o _ _ _ _ _ =>
    o = .rel || o = .acqrel
  | _ => false

/-! ## What must be performed first -/

/-- Is a system register one that says where the thread's frames and records stand (12 R228, R230)? -/
def movesFrames (r : Nat) : Bool := r = 0x010 || r = 0x012 || r = 0x013

/-- Does a store share a byte, or of the vector class a 64-bit word, with n bytes from a key (08 R170, R176)? -/
def Counted.meetsBytes (x : Counted) (k n : Nat) : Bool :=
  if x.cls = 2 then decide (wordKey x.loc.key ∈ wordsTouched k n)
  else decide (k < x.loc.key + x.data.length ∧ x.loc.key < k + n)

/-- Is an outstanding store one that an instruction of the issuing slot itself is ordered after (08 R170, R171, R185; 20 R369)? -/
def State.orderedAfter (s : State) (i : Instr) (x : Counted) : Bool :=
  match i with
  | .halt _ | .tlbi _ _ => true
  | .cpy .. => x.rel
  | .fence classes _ => classes.getLsbD x.cls
  | .swr _ _ _ r => x.cls = 0 && movesFrames r.toNat
  | _ =>
    let t := s.touches i
    s.releases i || (t.1 = x.cls && t.2.any fun r => x.meetsBytes r.1 r.2)

/-- The outstanding stores, those of slot n marked that must be performed before instruction i issues, with those that they in turn
follow. -/
def State.mustLand (s : State) (n : Nat) (i : Instr) : List (Counted × Bool) :=
  s.culvert.foldr (fun x acc =>
    (x, x.slot = n && (s.orderedAfter i x || acc.any fun y => y.2 && y.1.follows x)) :: acc) []

/-- Performs those of them that no promised cycle and no unfinished matrix instruction holds back. -/
def State.landBefore (s : State) (n : Nat) (i : Instr) : State :=
  if s.culvert = [] then s else s.landReady (s.mustLand n i)

/-- Is the copy engine in the middle of a chunk that a TLBI of core `own` waits for (20 R369)? -/
def State.chunkUnderWay (s : State) (f : TlbiForm) (own : Nat) : Bool :=
  s.cores.any fun p => tlbNamed f own p.1 && p.2.fifo.any fun c => c.early ≠ []

/-! ## Posted stores -/

/-- The adjacent pairs of an address and a byte joined into runs. -/
def runs : List (Nat × Byte) → List (Nat × List Byte)
  | [] => []
  | (a, b) :: r =>
    match runs r with
    | (c, bs) :: t => if c = a + 1 ∧ c % 8 ≠ 0 then (a, b :: bs) :: t else (a, [b]) :: (c, bs) :: t
    | [] => [(a, [b])]

/-- The entries of a posted vector store, by runs of bytes within 64-bit words (08 R176). -/
def State.lanePosts (s : State) (inC : Bool) (et : ET) (d : VReg) (xs : List (Nat × Nat)) : List Counted :=
  let e := et.bits / 8
  let bytes := xs.flatMap fun p => (List.range e).map fun j => (p.2 + j, (leBytes e (s.lane et d p.1)).getD j 0)
  (runs bytes).map fun r =>
    { slot := s.cur, cls := 2, tile := tileOf s.cur, loc := s.aliasLoc (vecSpace inC) (word r.1), data := r.2 }

/-- The entries of the stores that an instruction of the issuing slot makes, where it is one that may be posted: an ST or STM by alias,
plain or with release order, or a vector store. -/
def State.posts (s : State) (i : Instr) : List Counted :=
  let one (o : Ord) (sp : SP) (ea : Word) (e : Nat) (x : Word) : Counted :=
    { slot := s.cur, cls := 0, tile := tileOf s.cur, loc := s.aliasLoc sp ea, data := leBytes e x.toNat
      rel := o = .rel, mx := if o = .rel then s.matrixIssued s.cur else 0 }
  match i with
  | .st w o sp d m =>
    if (o ≠ .plain ∧ o ≠ .rel) ∨ sp = .glob ∨ sp = .ctx then [] else [one o sp (s.effAddr m) (w.bits / 8) (s.g d)]
  | .stm w o sp d m =>
    if (o ≠ .plain ∧ o ≠ .rel) ∨ sp = .glob ∨ sp = .ctx then []
    else (List.range 4).map fun k => one o sp (s.effAddr m + word (k * (w.bits / 8))) (w.bits / 8) (s.g (regPlus d k))
  | .vst et inC off d k ga => s.lanePosts inC et d (s.unitAddrs et k off ga)
  | .vscat et inC sh d k b ga => s.lanePosts inC et d (s.indexAddrs et k b sh ga)
  | _ => []

/-- The thread has gone on to its next instruction, with no trap and no handler. -/
def State.wentOn (t before : State) (n : Nat) : Bool :=
  (t.img n).tstatus = (before.img n).tstatus && (t.img n).hsp = (before.img n).hsp && (t.slotAt n).hold.isNone
  && t.isLive n

/-- Does a store of slot n meet its own handler stack or record area? Such a store is performed at once, since the accesses of the
scalar class that instructions make there come after it in program order (08 R170; 12 R232). -/
def State.meetsFrames (s : State) (n : Nat) (x : Counted) : Bool :=
  x.cls = 0 && x.loc.sp = .g && x.loc.unit = coreOf n
  && (x.meetsBytes (gLoc (coreOf n) (s.frameOff n 0)).key (32 * 16)
      || x.meetsBytes (gLoc (coreOf n) (s.recordOff n 0)).key (320 * s.recordCount n))

/-- May the stores of an instruction of slot n be posted? Those of a thread that posts its stores may, and a store with release order
while earlier accesses of its thread are outstanding: it is performed after them, and its thread goes on (08 R171; 09 R194). The
stores of a pair, all stores while a word is poisoned, and those to frames and records are performed at once. -/
def State.postsHere (s : State) (n : Nat) (ps : List Counted) : Bool :=
  ((s.slotAt n).posting || (ps.any (fun x => x.rel) && s.outstanding n))
  && (s.partner n).isNone && s.poison = [] && ps ≠ [] && !ps.any (s.meetsFrames n)

/-- Does instruction i of slot n itself release nothing before it issues (08 R171, R172)? FENCE waits by itself, and of a HALT it is TREAP
that waits; WAIT releases when the sluice releases it; a copy reads when what it follows is performed (R178); and a store with
release order that is posted is performed after the rest. -/
def State.waitsLater (s : State) (n : Nat) (i : Instr) : Bool :=
  match i with
  | .fence _ _ | .halt _ | .wait | .cpy .. => true
  | .st .. | .stm .. => s.releases i && s.postsHere n (({ s with cur := n } : State).posts i)
  | _ => false

/-- Must instruction i of slot n wait before it issues (08 R171, R172, R177; 20 R369)? It waits for the stores that it is ordered
after and that cannot be performed yet, and a release also for the thread's matrix instructions. Where that empties a turn in a
counted window, R171's order goes before R194's count (log 5). -/
def State.orderWaits (s : State) (n : Nat) (i : Instr) : Bool :=
  !s.waitsLater n i
  && ((s.mustLand n i).any (fun x => x.2) || (s.releases i && s.matrixBusy n)
      || (match i with | .tlbi f _ => s.chunkUnderWay f (coreOf n) | _ => false))

/-- A store of a thread that posts its stores has left it and is not yet performed (08 R176; DESIGN CHOICE, log 5): `t` is the state
after the instruction has stored. -/
def State.post (t before : State) (n : Nat) (i : Instr) : State :=
  let ps := ({ before with cur := n } : State).posts i
  if !before.postsHere n ps || !t.wentOn before n
      || t.mem ≠ ps.foldl (fun m x => storeBytes m x.loc.key x.data) before.mem then t
  else { t with mem := before.mem, culvert := t.culvert ++ ps }

/-- A slot's stores are posted from now on, or are not (DESIGN CHOICE, log 5). -/
def State.setPosting (s : State) (n : Nat) (on : Bool) : State := s.setSlot n { s.slotAt n with posting := on }

/-- Entry `index` of the outstanding stores is performed where it may be; a vector store reaches each 64-bit word whole (08 R176). -/
def State.performed (s : State) (index : Nat) : State :=
  match s.culvert[index]? with
  | none => s
  | some x =>
    if x.cls = 2 then
      s.landAll fun y => y.slot = x.slot && y.cls = 2 && wordKey y.loc.key = wordKey x.loc.key
    else s.landAt index

end Sys2Proof.Machine
end

