-- ==== Sys2Proof/Machine/Pair.lean ====
section
/-! DEFINITION. Paired slots (13 R268 to R270): what the store comparator compares, which registers the trailer takes from
its leader, and how it follows the leader's instructions. -/
namespace Sys2Proof.Machine
open Sys2Proof

/-! ## The store comparator -/

/-- The registers r to r + n − 1 of the issuing slot. -/
def State.regsFrom (s : State) (r : Reg) (n : Nat) : List Word := (List.range n).map fun i => s.g (regPlus r i)

/-- The parts of a vector register of the issuing slot, with the lanes that a mask leaves out as zero. -/
def State.activeParts (s : State) (et : ET) (r : VReg) (k : KReg) : List Word :=
  let v := vecOf et fun i => if s.active k i then s.lane et r i else 0
  (List.range 16).map fun i => v.extractLsb' (64 * i) 64

/-- The two halves of a mask register of the issuing slot, up to the lanes of an element type. -/
def State.maskParts (s : State) (et : ET) (k : KReg) : List Word :=
  let m := (s.kOf s.cur k).toNat % 2 ^ et.lanes
  [word m, word (m / 2 ^ 64)]

/-- Is a system register one outside the slot: a window register of the core or the tile, or FPXSUM (07 R148; 13 R261)? -/
def outsideReg (r : Nat) : Bool := (0x050 ≤ r && r ≤ 0x05F) || (0x110 ≤ r && r ≤ 0x11F) || r = 0x070

/-- The handler stack's and the records' writes of an instruction of the issuing slot that ends in state t: the capture that it has begun,
the frame that it has pushed, or the headers of the records and the frame that it has changed; none where it trapped (12 R242 to R247). -/
def State.frameRequest (s : State) (o : Out) (others : List Word) : Option (List Word × List Word) :=
  match o with
  | .next t =>
    let n := s.cur
    let d := hspDepth (s.img n).hsp
    let heads := (List.range (s.recordCount n)).filter fun i => s.recordHead n i ≠ t.recordWord n i 0
    if (t.slotAt n).state ≠ .live || (t.slotAt n).hold.isSome || t.level n ≠ s.level n then none
    else if (t.slotAt n).snap ≠ (s.slotAt n).snap then some (t.captured n)
    else if d < hspDepth (t.img n).hsp then
      some ([word (s.frameOff n d)], (List.range 4).map fun w => t.frameWord n d w)
    else some (others ++ heads.map (fun i => word (s.recordOff n i)), [])
  | _ => none

/-- What an instruction of the issuing slot presents to the comparator: addresses and data; none where it changes no state
outside the slot (13 R268). -/
def State.presents (s : State) (i : Instr) : Option (List Word × List Word) :=
  match i with
  | .st _ _ _ d m => some ([s.effAddr m], [s.g d])
  | .stm _ _ _ d m => some ([s.effAddr m], s.regsFrom d 4)
  | .stf _ d m | .stff _ d m | .tagset _ d m | .racem _ d m => some ([s.effAddr m], [s.g d])
  | .dst _ _ d m => some ([s.effAddr m], [s.g d])
  | .amo _ _ _ _ _ a b off | .damo _ _ _ _ a b off => some ([s.effAddrAB a off], [s.g b])
  | .cas _ _ _ d a b off => some ([s.effAddrAB a off], [s.g b, s.g d])
  | .ldf _ _ m | .lde _ _ m => some ([s.effAddr m], [])
  | .vst et _ _ d k ga => some (s.g ga :: s.maskParts et k, s.activeParts et d k)
  | .vscat et _ _ d k b ga => some (s.g ga :: (s.maskParts et k ++ s.activeParts et b k), s.activeParts et d k)
  | .send n _ a b => some ([s.g b], s.regsFrom a (n.val + 1))
  | .mbxw a b _ => some ([s.g a], [s.g b])
  | .semv _ _ | .semw _ => some ([], [])
  | .rqpush _ _ _ a => some ([], [s.g a])
  | .rarm _ _ a b => some ([s.g a], [s.g b])
  | .wqpush _ _ _ a b => some ([s.g b], s.regsFrom a 4)
  | .cpy _ d => some ([], s.regsFrom d 4)
  | .cpyx _ _ a | .tlbi _ a => some ([], [s.g a])
  | .perform x => s.frameRequest (execPerform x s) []
  | .vperform et d k x => s.frameRequest (execVperform et d k x s) []
  | .handle m x k h e => s.frameRequest (execHandle m x k h e s) []
  | .endh => s.frameRequest (execEndh s) []
  | .hexit => s.frameRequest (execHexit s) []
  | .resume a b => (s.frameRequest (execResume a b s) [s.g a]).map fun p => (p.1 ++ [word (s.frameOff s.cur 0)], [s.g b])
  | .resumec a b => (s.frameRequest (execResumec a b s) [s.g a]).map fun p => (p.1 ++ [word (s.frameOff s.cur 0)], [s.g b])
  | .discard a => s.frameRequest (execDiscard a s) [s.g a]
  | .recv _ _ a => some ([s.g a], [])
  | .wqpop .. | .rqpop .. | .wait => some ([], [])
  | .hvc _ => some ([], s.regsFrom 5 4)
  | .vtcfg _ ga => some ([s.g ga], [])
  | .swr _ _ a r => if outsideReg r.toNat then some ([word r.toNat], [s.g a]) else none
  | .tkill _ a => some ([s.g a], [])
  | _ => none

/-- The comparator's mismatch between leader and trailer: subcode and the two values (13 R270). -/
def State.pairDiff (s : State) (n m : Nat) (i j : Instr) : Option (Nat × Word × Word) :=
  let a := ({ s with cur := n } : State).presents i
  let b := ({ s with cur := m } : State).presents j
  match a, b with
  | none, none => none
  | some (x, _), none => some (1, x.headD 0, 0)
  | none, some (y, _) => some (1, 0, y.headD 0)
  | some (x, dx), some (y, dy) =>
    if i ≠ j then some (1, x.headD 0, y.headD 0)
    else requestDiff (x, dx) (y, dy)

/-! ## Following -/

/-- Does an instruction only touch its own slot, so that the trailer issues it by itself (13 R268)? -/
def ownOnly (i : Instr) : Bool :=
  match i with
  | .add .. | .addi .. | .sub .. | .mul .. | .div .. | .rem .. | .and .. | .andi .. | .or .. | .ori .. | .xor ..
  | .xori .. | .andn .. | .shl .. | .shli .. | .shr .. | .shri .. | .rot .. | .clz .. | .ctz .. | .popc .. | .min ..
  | .max .. | .cmp .. | .cmpi .. | .sel .. | .ext .. | .ins .. | .bswap .. | .adds .. | .subs .. | .madd .. | .li ..
  | .lea .. | .abs .. | .sext .. | .zext .. | .nop | .br .. | .call .. | .jr .. | .callr .. | .loop .. | .loopi ..
  | .lbrk | .wdog | .yield
  | .vadd .. | .vsub .. | .vmul .. | .vfma .. | .vdiv .. | .vsqrt .. | .vmin .. | .vmax .. | .vabs .. | .vneg ..
  | .vand .. | .vor .. | .vxor .. | .vshl .. | .vshr .. | .vcmp .. | .vsel .. | .vcvt .. | .vquant .. | .vdeq ..
  | .vred .. | .vscan .. | .vbcast .. | .vmovg .. | .vshuf .. | .vslide .. | .viota .. | .kand .. | .kor .. | .kxor ..
  | .knot .. | .kpop .. | .kset .. | .kfirst .. | .vpack .. | .vunpk .. | .vclass .. | .kmovg .. => true
  | _ => false

/-- The general and vector registers that the leader receives from outside (13 R268). -/
def received (i : Instr) : List Reg × List VReg :=
  let up (d : Reg) (n : Nat) : List Reg := (List.range n).map (regPlus d)
  match i with
  | .ld _ _ _ _ d _ | .ldf _ d _ | .lde _ d _ | .tagq _ d _ | .racem _ d _ | .dld _ _ _ d _ => ([d], [])
  | .ldm _ _ _ _ d _ => (up d 4, [])
  | .amo _ _ _ _ d _ _ _ | .cas _ _ _ d _ _ _ | .damo _ _ _ d _ _ _ => ([d], [])
  | .recv _ d _ | .wqpop _ d => (up d 5, [])
  | .rqpop _ d | .cpy _ d => (up d 2, [])
  | .wqpush _ _ d _ _ | .rqpush _ _ d _ | .rarm _ d _ _ | .mbx d _ | .phase _ d | .srd d _ | .swr _ d _ _
  | .cpyq _ _ d | .cpyx _ d _ | .xlat _ d _ | .localq d _ | .gaddr _ _ _ d _ _ | .tself _ d | .tkill d _
  | .tokq d _ => ([d], [])
  | .hvc _ => (up 5 4, [])
  | .perform _ | .vperform .. => ([3, 4], [])
  | .resume .. | .resumec .. => (up 1 31, List.finRange 16)
  | .hexit => ([2], [])
  | .vld _ _ _ x _ | .vgath _ _ _ x _ _ | .vtlu _ _ _ _ _ x _ => ([], [x.d])
  | _ => ([], [])

/-- Is an instruction one whose own capture gives the handler its registers (12 R243)? -/
def performs (i : Instr) : Bool :=
  match i with
  | .perform _ | .vperform .. => true
  | _ => false

/-- Notes how the trailer of slot n is to follow instruction i, which slot n has just issued from the state `before`. The record of a
hardware effect that the instruction raised is compared first (12 R239; 13 R268). -/
def State.noteMirror (s before : State) (n : Nat) (i : Instr) : State :=
  match before.trailerOf n with
  | none => s
  | some m =>
    match (if performs i then none else s.captureDiff before n m (if (s.img n).g[(3 : Reg)] = 0x0D then none else some 8)) with
    | some d => before.parkPair n m d.1 d.2.1 d.2.2
    | none =>
    let a := before.img n
    let b := s.img n
    let plain : Bool := ownOnly i && (s.slotAt n).hold.isNone && a.hsp = b.hsp && a.tstatus = b.tstatus
      && (s.slotAt n).snap = (before.slotAt n).snap
    let r := received i
    let mir : Mirror := if plain then .own else .take r.1 r.2 a (!performs i)
    if (s.slotAt m).state = .live then s.setSlot m { s.slotAt m with mirror := some mir } else s

/-- Notes that the trailer of slot n is to follow a trap or an effect that slot n has just taken without an instruction. -/
def State.noteBoundary (s before : State) (n : Nat) : State :=
  match before.trailerOf n with
  | none => s
  | some m =>
    if (s.slotAt m).state = .live then s.setSlot m { s.slotAt m with mirror := some (.take [] [] (before.img n) true) } else s

end Sys2Proof.Machine
end

