-- ==== Sys2Proof/Machine/Turn.lean ====
section
/-! DEFINITION. A slot's turn (04 R75, R81): what is raised at its boundary (12 R239), the fetch with its checks (03 R39, R40, R61,
R420; 13 R267), the order of its accesses (08 R171), and what follows an instruction for a pair (13 R268). -/
namespace Sys2Proof.Machine
open Sys2Proof

/-! ## Fetch -/

/-- What a fetch finds: a trap, poison, or an instruction. -/
inductive Fetched
  | trap (cause sub : Nat) (v : Word)
  | poison (sub : Nat) (addr : Word)
  | instr (i : Instr)
deriving DecidableEq, Repr

/-- The key of the byte at a pc of slot n's code region (06 R118). -/
def State.pcKey (s : State) (n : Nat) (pc : Word) : Nat := codeKey (s.slotAt n).launch + pc.toNat

/-- The poisoned word of lowest address among `len` bytes from a key. -/
def State.poisonIn (s : State) (k len : Nat) : Option Nat :=
  (s.poison.filter fun w => decide (k ≤ w ∧ w < k + len)).foldl
    (fun m w => match m with | some y => some (min w y) | none => some w) none

/-- The poisoned word of the fetch block that holds a pc, as an offset in the region: a block is read as one (03 R40). -/
def State.blockPoison (s : State) (n : Nat) (pc : Word) : Option Word :=
  let base := codeKey (s.slotAt n).launch
  (s.poisonIn (base + (pc.toNat - pc.toNat % 32)) 32).map fun k => word (k - base)

/-- Checks 1 to 3 of 03 R61 for an instruction of `len` bytes at a pc: cause, subcode and TVAL. -/
def placeFault (pc : Word) (codelim len : Nat) : Option (Nat × Nat × Word) :=
  let off := pc.toNat % 32
  if codelim < pc.toNat + len then some (0x04, 1, word codelim)
  else if 32 < off + len then some (0x03, 0, pc)
  else if len = 24 ∧ off ≠ 0 ∧ off ≠ 8 then some (0x03, 1, pc)
  else none

/-- The lowest offending bit of an instruction's words, where decoding finds bit b: a tile window's number in SRD and SWR is
allocated on ordinary cores only, so that on another core bit 32 offends before bit 44 (03 R63; 13 R258). -/
def fieldBit (ordinary : Bool) (x b : Nat) : Nat :=
  let op := x / 4 % 256
  let r := x / 2 ^ 32 % 4096
  if b = 44 ∧ !ordinary ∧ (op = 0x79 ∨ op = 0x7A) ∧ 0x110 ≤ r ∧ r ≤ 0x11F then 32 else b

/-- Checks 4 and 5 of 03 R61 on the words of an instruction, with what ILLEGAL_FIELD reports (03 R62). -/
def readWords (ordinary : Bool) (x : Nat) : Fetched :=
  match decode x with
  | .ok i => .instr i
  | .field b => .trap 0x02 (fieldBit ordinary x b) (word (x / 2 ^ (64 * (b / 64)) % 2 ^ 64))
  | .truncated => .trap 0x01 0 0

/-- A decoded instruction that reads a poisoned register line is parked (13 R266, R267), before the checks of 03 R61 that its meaning
makes: the spec gives poison no place among them (DESIGN CHOICE, log 64). -/
def State.checkLines (s : State) (n : Nat) (f : Fetched) : Fetched :=
  match f with
  | .instr i => match s.linePoison n i with | some a => .poison 2 a | none => f
  | _ => f

/-- Fetches the instruction at slot n's pc (03 R40, R61, R420; 13 R267). A poisoned block parks after check 1 of R61 and before the others: the
spec gives poison no place among them (DESIGN CHOICE, log 64). -/
def State.fetch (s : State) (n : Nat) : Fetched :=
  let pc := s.pcOf n
  if pc.toNat % 4 ≠ 0 then .trap 0x08 0x11 pc
  else if s.codelim n ≤ pc.toNat then .trap 0x04 0 pc
  else
    match s.blockPoison n pc with
    | some a => .poison 3 a
    | none =>
      let len := s.lengthAt n pc
      match placeFault pc (s.codelim n) len with
      | some (c, sub, v) => .trap c sub v
      | none => s.checkLines n (readWords (isOrdinary n) (loadNat s.mem (s.pcKey n pc) len))

/-! ## The turn -/

/-- What a turn comes to: it goes empty, or it issues an instruction. -/
inductive Turn
  | idle (s : State)
  | run (i : Instr) (s : State)
deriving DecidableEq, Repr

/-- What is raised, dropped or made at the boundary before the turn: TICK and WDOG become pending, a CREST that is not enabled is
given up, and a pairing is made (12 R240; 04 R81; 21 R397; 13 R276). -/
def State.boundaries (s : State) (n : Nat) : State := (((s.tickBoundary n).wdogBoundary n).crestBoundary n).pairBoundary n

/-- The snapshot or resumption that ended before this turn is over, and a stop that was asked for during it takes place (12 R236; 04
R86). -/
def State.endSnap (s : State) (n : Nat) : State :=
  let sl := s.slotAt n
  if sl.snap.isSome || sl.resuming || sl.stopDue then (s.settleSnap n).takeStop n else s

/-- A turn of slot n that fetches (03 R61): the trap, the park, or the instruction to be issued. -/
def State.issueTurn (s : State) (n : Nat) : Turn :=
  match s.fetch n with
  | .trap c sub v => .idle ((s.trap c sub v).noteBoundary s n)
  | .poison sub a => .idle (s.consume n sub a)
  | .instr i =>
    let s := if (s.slotAt n).yielded then s.setSlot n { s.slotAt n with yielded := false } else s
    let t := s.landBefore n i
    if t.orderWaits n i then .idle (t.block n .order) else .run i t

/-- A turn of slot n at which it stops first, where that has been asked of it; while a chunk of its copies holds the stop up, its turns go
empty, so that it passes no other boundary (04 R86). -/
def State.stopFirst (s : State) (n : Nat) (k : State → Turn) : Turn :=
  let t := s.takeStop n
  if !t.isLive n || t.stopAsked n then .idle t else k t

/-- A turn of slot n at its own boundary: one given up goes empty; a pending cause is taken; otherwise the slot issues. -/
def State.freeTurn (s : State) (n : Nat) : Turn :=
  let s := s.countTurn n
  if s.now n < (s.slotAt n).issueFrom then .idle s
  else
    (s.endSnap n).stopFirst n fun s =>
      match s.boundaryCause n with
      | some r => .idle ((s.takeBoundary n r).noteBoundary s n)
      | none => s.issueTurn n

/-- A turn of slot n: a blocked slot's turn goes empty, but for a wait that is tested at the turn, and one that has ended. A member
that waits in WAIT meets the breach of its group at its turn (09 R203, R205; DEDUCED, log 30). -/
def State.ownTurn (s : State) (n : Nat) : Turn :=
  match (s.slotAt n).wait with
  | none => s.freeTurn n
  | some .poll => s.stopFirst n fun s => s.issueTurn n
  | some .order => s.stopFirst n fun s => (s.setSlot n { s.slotAt n with wait := none }).issueTurn n
  | some (.sleep t) => if t ≤ s.tide.toNat then (s.wake n).freeTurn n else .idle s
  | some (.sluice _ _ _) =>
    match s.breachedWait n with
    | some v => .idle ((s.raisePaired n 0x1A 0 v (some 8)).noteBoundary s n)
    | none => .idle s
  | some _ =>
    match s.expiredWait n with
    | some (op, ea) => .idle ((s.waitExpire n op ea).noteBoundary s n)
    | none => .idle s

/-- The instruction that trailer m of slot n issues by itself, with what follows for both. -/
def State.trail (s : State) (n m : Nat) : State :=
  match (s.slotAt m).mirror with
  | none => s
  | some (.take regs vs before handler) => s.takeMirror n m regs vs before handler
  | some .own =>
    let s := s.setSlot m { s.slotAt m with mirror := none }
    match ({ s with cur := m } : State).fetch m with
    | .instr i =>
      match exec i { s with cur := m } with
      | .next t =>
        let x := t.slotAt m
        { t.setSlot m { x with tickDue := false, wdDue := false, hold := none, wait := none } with cur := s.cur }
      | _ => s
    | _ => s

/-- A paired leader's turn: the trailer catches up first, and the comparator checks what both present (13 R268, R270). -/
def State.pairCheck (s : State) (n m : Nat) (i : Instr) : Option State :=
  match ({ s with cur := m } : State).fetch m with
  | .instr j => (s.pairDiff n m i j).map fun d => s.parkPair n m d.1 d.2.1 d.2.2
  | _ => (({ s with cur := n } : State).presents i).map fun p => s.parkPair n m 1 (p.1.headD 0) 0

/-- The turn of slot n (04 R75). A trailing slot's turn only follows its leader's instruction. -/
def State.beginTurn (s : State) (n : Nat) : Turn :=
  if !s.turnDue n then .idle s
  else
    let s := s.openTurn n
    let pc := (s.img n).paircfg
    if bit pc 4 then
      .idle (match s.partner n with | some l => s.trail l n | none => s)
    else
      let s := match s.trailerOf n with | some m => s.trail n m | none => s
      let s := s.boundaries n
      match s.trailerOf n with
      | none => s.ownTurn n
      | some m =>
        match s.ownTurn n with
        | .idle t => .idle t
        | .run i t =>
          match t.pairCheck n m i with
          | some u => .idle u
          | none => .run i t

/-- What follows an instruction: its activity is counted, its store is posted where its thread posts, and a pair's trailer has it to
follow (13 R268). -/
def State.endTurn (before : State) (i : Instr) (t : State) : State :=
  (((t.post before before.cur i).chargeInstr before i).noteMirror before before.cur i)

/-- Issues what a turn comes to. -/
def runTurn (t : Turn) : Out :=
  match t with
  | .idle s => .next s
  | .run i s =>
    match exec i s with
    | .next u => .next (State.endTurn s i u)
    | .fault f => .fault f
    | .refused r => .refused r

end Sys2Proof.Machine
end

