-- ==== Sys2Proof/Machine/Clock.lean ====
section
/-! DEFINITION. The clocks (04 R76; 21 R372 to R377): a cycle of a tile's polder, of a pump-class or board core's own domain,
and of a region's control clock; a tick of the tide; the entries of the schedule, and which turns come before one (DESIGN
CHOICE, log 2). -/
namespace Sys2Proof.Machine
open Sys2Proof

/-! ## Cycles -/

/-- The firings of the level group that holds a member in tile t, for the present cycle (04 R76; 09 R191). -/
def State.levelFirings (s : State) (t : Nat) : State :=
  match (s.tileAt t).launch with
  | none => s
  | some l =>
    let lc := s.launchAt l
    if lc.isLevel && lc.phase = .running then
      (lc.groups.filter fun g => decide (t ∈ lc.tilesOf g)).foldl (fun s g => s.fireGroup l g.num) s
    else s

/-- What a rotation edge of tile t brings: its operating point moves, then releases are made, LINK entries that a save withdrew
become ready, tagged waits count the edge, and FPXSUM takes the rotation's record (07 R147; 09 R193, R198, R202; 13 R261; 21
R373). -/
def State.atEdge (s : State) (t : Nat) : State :=
  let s := (s.edgePoint t).releasesAt t
  let s := s.readyAgain t
  let s := (List.range 64).foldl (fun s k => s.countEdge (64 * t + k)) s
  s.setTile t (s.tileAt t).updateFpx

/-- A core gives what its ready queue holds to the slots that wait for it since an earlier cycle (11 R226; 14 R278). -/
def State.servePops (s : State) (c : Nat) : State :=
  if (s.coreAt c).ready.any fun q => q ≠ [] then s.serveQueue c else s

/-- What a new cycle of tile t brings: counted stores that are due become visible, RQPOPs that wait are served, and on an edge what an
edge brings. -/
def State.atCycle (s : State) (t : Nat) : State :=
  let s := s.landDue t
  let s := (List.range 4).foldl (fun s k => s.servePops (4 * t + k)) s
  if (s.tileAt t).cycle % 16 = 0 then s.atEdge t else s

/-- The end of a cycle of tile t: a request whose wait expired on its edge can no longer proceed (07 R147). -/
def State.endCycle (s : State) (t : Nat) : State :=
  if (s.tileAt t).cycle % 16 = 0 then (List.range 64).foldl (fun s k => s.withdrawExpired (64 * t + k)) s else s

/-- One cycle of a tile's polder, and of every polder whose edges coincide with it. -/
def State.clockTile (s : State) (t : Nat) : State :=
  let ts := s.peers t
  let s := (ts.foldl State.endCycle s).levelFirings t
  let s := ts.foldl (fun s u => s.setTile u { s.tileAt u with cycle := (s.tileAt u).cycle + 1 }) s
  ts.foldl State.atCycle s

/-- One cycle of a core's own clock domain (21 R376): on an edge its operating point moves, and tagged waits count it. -/
def State.clockCore (s : State) (c : Nat) : State :=
  let s := if (s.coreAt c).cycle % 16 = 0 then (List.range 16).foldl (fun s k => s.withdrawExpired (16 * c + k)) s else s
  let s := (s.setCore c { s.coreAt c with cycle := (s.coreAt c).cycle + 1 }).servePops c
  if (s.coreAt c).cycle % 16 = 0 then (List.range 16).foldl (fun s k => s.countEdge (16 * c + k)) (s.edgePump (c - 4096))
  else s

/-- One cycle of a region's control clock: the firings of the groups that are not level (04 R76). -/
def State.clockRegion (s : State) (r : Nat) : State :=
  let s := s.setRegion r { s.regionAt r with rcycle := (s.regionAt r).rcycle + 1 }
  s.launches.foldl (fun s p =>
    if p.2.phase = .running && !p.2.isLevel then
      (p.2.groups.filter fun g => g.region = r).foldl (fun s g => s.fireGroup p.1 g.num) s
    else s) s

/-- One cycle of a clock domain: tile t is domain t, pump-class core p and then board core b are 1024 on, and the control
clock of region r is 2048 + r. -/
def State.clock (s : State) (d : Nat) : State :=
  if d < 1024 then s.clockTile d
  else if d < 1336 then s.clockCore (4096 + (d - 1024))
  else s.clockRegion (d - 2048)

/-- Does the module have a clock domain? -/
def domainExists (d : Nat) : Bool := d < 1336 || (2048 ≤ d && d < 2112)

/-- The clock domain that times a slot. -/
def domainOf (n : Nat) : Nat := if isOrdinary n then tileOf n else 1024 + (coreOf n - 4096)

/-- The tide ticks, and the slots that sleep until then wake (06 R133; 21 R384). -/
def State.tideStep (s : State) : State := s.tickTide

/-! ## Entries of the schedule -/

/-- A partition's image stores a byte in its memory (DEDUCED, log 13). -/
def State.storeImage (s : State) (part : Nat) (addr : Word) (v : Byte) : State :=
  if s.mapped part addr.toNat 1 .w then s.partPut part addr.toNat [v] else s

/-- A region's dispenser begins or ends to withhold records (04 R83; DESIGN CHOICE, log 47). -/
def State.setWithheld (s : State) (r : Nat) (on : Bool) : State := s.setRegion r { s.regionAt r with withheld := on }

/-- The reeve sets a core's request (21 R372; DESIGN CHOICE, log 47). -/
def State.setRequest (s : State) (c p : Nat) : State := s.setCore c { s.coreAt c with request := p }

/-- Is a partition's number one (20 R352; 23 R427)? -/
def partExists (p : Nat) : Bool := 1 ≤ p && p ≤ 16

/-- Does a core exist (01 R5, R8)? -/
def coreExists (c : Nat) : Bool := c < 4096 + 312

/-- Does the module have the caller of a reeve call? -/
def Caller.there (c : Caller) : Bool :=
  match c with
  | .slot n => slotExists n
  | .image p _ _ _ _ => partExists p

/-- Does the module have a place of a 64-bit word (01 R5; 07 R136)? -/
def Place.there (p : Place) : Bool :=
  match p with
  | .g core off => coreExists core && off < spSize .g
  | .a t off => t < 1024 && off < spSize .a
  | .c t off => t < 1024 && off < spSize .c
  | .w t off => t < 1024 && off < spSize .w
  | .dram pa => inModule pa
  | .code l off => l < 0x10000 && off < 0x1000000

/-- Does the module have the units that an event names (01 R5, R8; DESIGN CHOICE, log 46)? -/
def eventThere (i : Instr) : Bool :=
  match i with
  | .sleepWake n | .globalRequest n | .globalReply n | .waitlimit n | .messageAccept n _ | .slotStart n | .effectDelivery n
  | .tick n | .watchdogExpiry n | .trapEntry n | .hypervisorTrap n | .hctlResume n | .hctlNext n | .hctlReflect n
  | .hctlPark n | .hctlFault n | .copyCancelAck n | .contextSwitch n _ | .dramReply n _ => slotExists n
  | .fpxsumUpdate t | .mcfgTurn t | .mldbTurn t | .mswapTurn t | .mmulTurn t | .mzeroTurn t | .moutTurn t | .mredTurn t => t < 1024
  | .operatingPointChange t | .droop t _ => t < 1024 + 304
  | .contextWrite c _ _ _ | .copyChunk c _ _ | .copyComplete c _ | .page c _ => coreExists c
  | .spillwayReturn r _ | .dikeRingGrant r | .ballast r | .fbmaxUpdate r _ => r < 64
  | .dramRefresh d ch _ => d < 4 && ch < 64
  | .referenceLoss d | .referenceReturn d => d < 4
  | .setvec c | .unpark c | .setroot c | .pumprun c | .dbpop c | .submit c | .cancel c => Caller.there c
  | .bar2Access p _ _ | .doorbell p _ | .dbstatClear p _ => partExists p
  | .linkReplay p | .linkDown p _ | .linkRetrain p => p < 16
  | .poison p => Place.there p.place
  | .memberSilent m | .expelTimeout m => m < 1024
  | _ => true

/-- Does the module have the unit that a schedule entry names (01 R5, R8; DESIGN CHOICE, log 46)? -/
def Sched.exists_ (e : Sched) : Bool :=
  match e with
  | .turn n | .posting n _ => slotExists n
  | .clock d => domainExists d
  | .event i => eventThere i
  | .imageStore p _ _ | .barRead p _ => partExists p
  | .linkParts p f _ _ => partExists p && f < 1024
  | .fabricAccess f _ _ _ | .grant f _ _ _ _ => f < 1024
  | .flitPassed p => p < 16
  | .imageOut k _ | .imageIn k _ => coreExists (k / 16)
  | .copyWord c _ _ _ => coreExists c
  | .matrixWord t _ => t < 1024
  | .withhold r _ => r < 64
  | .request c p => c < 4096 + 304 && p ≤ 60
  | .dramStall d ch _ => d < 4 && ch < 64
  | .tide | .fabricMsg .. | .deliver _ _ | .recordSent | .performed _ | .romFails _ => true

/-- Does a schedule entry act on a module that is held in reset: the module's reset, its rail, and what stands outside it (23 R405, R414)? No
turn is due in such a module. -/
def Sched.inReset (e : Sched) : Bool :=
  match e with
  | .turn _ | .romFails _ => true
  | .event i => match i with | .moduleReset | .railUndervoltage _ | .railRestored _ => true | _ => false
  | _ => false

/-- Slot n's wait expires in the present cycle, in which its request may still proceed: its turn, which raises WAITLIMIT, comes last in
the cycle, with the cycle's end, and an entry for it does nothing (07 R147). -/
def State.turnExpires (s : State) (n : Nat) : Bool := (s.expiredWait n).isSome && (s.withdrawnWait n).isNone

/-- One entry of the schedule; a module that is held in reset does nothing (23 R405). -/
def runEntry (e : Sched) (s : State) : Out :=
  if !e.exists_ then .fault .noSuchUnit
  else if s.boot = .held && !e.inReset then .next s
  else
    match e with
    | .turn n => if s.turnExpires n then .next s else runTurn (s.beginTurn n)
    | .clock d => .next (s.clock d)
    | .tide => .next s.tideStep
    | .event i =>
      if i.isEvent then
        match exec i s with
        | .next t => .next (t.chargeEvent s i)
        | o => o
      else .next s
    | .imageStore p a v => .next (s.storeImage p a v)
    | .fabricMsg d x p q w => .next (s.fabricIn d x p q w)
    | .deliver l i => .next (s.deliver l i)
    | .fabricAccess f p a op => .next (s.fabricAccess f p a op)
    | .grant f p b n on => .next (s.setGrant f p b n on)
    | .linkParts o f p on => .next (s.setLinked o f p on)
    | .barRead p o => .next (s.barRead p o)
    | .flitPassed p => .next (s.flitPassed p)
    | .recordSent => .next s.sendRecord
    | .dramStall d ch k => .next (s.dramStall d ch k)
    | .romFails on => .next { s with romFails := on }
    | .imageOut k name => .next (s.imageOut k name)
    | .imageIn k name => .next (s.imageIn k name)
    | .posting n on => .next (s.setPosting n on)
    | .performed i => .next (s.performed i)
    | .copyWord c ch i r => .next (s.copyWord c ch i r)
    | .matrixWord t i => .next ((s.matrixWord t i).chargeRows s t)
    | .withhold r on => .next (s.setWithheld r on)
    | .request c p => .next (s.setRequest c p)

/-! ## Turns come first -/

/-- The order in which the turns of one cycle are taken: by logical slot number, and of two that are equal by slot number (07 R144;
11 R226). -/
def State.turnBefore (s : State) (n m : Nat) : Bool :=
  decide (s.rank n < s.rank m) || (decide (s.rank n = s.rank m) && decide (n < m))

/-- The first of the slots that a test selects whose turn is due (04 R75). -/
def State.firstDue (s : State) (p : Nat → Bool) : Option Nat :=
  ((s.slots.map (·.1)).filter fun n => p n && s.turnDue n).foldl
    (fun m n => match m with | some k => if s.turnBefore n k then some n else some k | none => some n) none

/-- The clock domains whose cycles come together with a domain's. -/
def State.tiedDomains (s : State) (d : Nat) : List Nat := if d < 1024 then s.peers d else [d]

/-- The turn that comes before an entry of the schedule: a turn of the cycle that is to be taken before its own; before a cycle every
turn due in it; and before any other entry every turn that is due (04 R75; 05 R98; 11 R214; DESIGN CHOICE, log 2). -/
def State.turnFirst (s : State) (e : Sched) : Option Nat :=
  match e with
  | .turn n =>
    if s.turnDue n then s.firstDue fun m => decide (domainOf m ∈ s.tiedDomains (domainOf n)) && !s.turnExpires m && s.turnBefore m n
    else none
  | .clock d =>
    (s.firstDue fun m => decide (domainOf m ∈ s.tiedDomains d) && !s.turnExpires m).or
      (s.firstDue fun m => decide (domainOf m ∈ s.tiedDomains d))
  | _ => s.firstDue fun m => !s.turnExpires m

/-- The launch that its quota pre-empts now (21 R380). -/
def State.quotaStop (s : State) : Option Nat :=
  (s.launches.find? fun p => decide (p.2.phase = .running) && s.quotaDue p.1 && s.launchSafe p.1).map (·.1)

/-- The entry that the step takes: the schedule's next, or without one a cycle of the issuing slot's clock. -/
def State.nextEntry (s : State) : Sched := s.agenda.headD (.clock (domainOf s.cur))

/-- The tile whose matrix unit must finish an instruction before a cycle of a domain begins: it stands before a counted store that is to be
visible in that cycle (08 R177; 09 R197). -/
def State.matrixDue (s : State) (d : Nat) : Option Nat :=
  (s.culvert.find? fun x =>
    decide (x.tile ∈ s.tiedDomains d) && s.matrixBehind x
    && (match x.due with | some v => decide (v ≤ (s.tileAt x.tile).cycle + 1) | none => false)).map (·.tile)

/-- The state after that instruction; none where there is none, or it cannot finish (08 R177; DEDUCED, log 61). -/
def State.matrixFirst (s : State) (e : Sched) : Option State :=
  match e with
  | .clock d =>
    match s.matrixDue d with
    | none => none
    | some t =>
      match s.workOp t with
      | none => none
      | some op =>
        match exec (matrixTurn t op) s with
        | .next u =>
          if (s.tileAt t).mx.done < (u.tileAt t).mx.done then some (u.chargeEvent s (matrixTurn t op)) else none
        | _ => none
  | _ => none

/-- One step: a launch that its quota pre-empts is saved; a turn that comes before the next entry is taken; a matrix instruction that
stands before a counted store that is due is finished; else the entry is taken. -/
def State.advance (s : State) : Out :=
  match s.quotaStop with
  | some l => .next (s.saveLaunch l)
  | none =>
    match (if s.nextEntry.exists_ then s.turnFirst s.nextEntry else none) with
    | some n => runTurn (s.beginTurn n)
    | none =>
      match s.matrixFirst s.nextEntry with
      | some t => .next t
      | none => runEntry s.nextEntry { s with agenda := s.agenda.drop 1 }

/-- One step, with the register words that it has written whole again (13 R266). -/
def State.advanceLines (s : State) : Out :=
  if s.hasLines then
    match s.advance, s.flipLines.advance with
    | .next t, .next u => .next (State.healLines s t u)
    | o, _ => o
  else s.advance

end Sys2Proof.Machine
end

