-- ==== Sys2Proof/Machine/Step.lean ====
section
/-! DEFINITION. The step: it takes a turn that comes first, or the next entry of the schedule, and without one a cycle of the
issuing slot's clock (DESIGN CHOICE, log 2). -/
namespace Sys2Proof.Machine
open Sys2Proof

/-- One step of the module (DESIGN CHOICE, log 2). -/
def step (s : State) : Host.Outcome State Fault Refusal := s.advanceLines

/-- The engine that the table's instruction of an opcode needs of its slot (04 R78). -/
def engineFor (op : Nat) : Engine :=
  if op = 0x73 ∨ (0x80 ≤ op ∧ op ≤ 0xAB) then .vector
  else if 0xC0 ≤ op ∧ op ≤ 0xC7 then .matrix
  else if (0x4E ≤ op ∧ op ≤ 0x50) ∨ (0xD0 ≤ op ∧ op ≤ 0xD5) then .copy
  else .scalar

/-- A module whose next step fetches and runs the instruction with the bits of `w`: launch 1 of one tile runs on tile 0, or
on a pump-class slot for the instructions of the copy set, with the instruction at the start of its code region (DESIGN CHOICE, log 6). -/
def State.withFetchWord (s : State) (nbits w : Nat) : State :=
  let x := w % 2 ^ nbits
  let e := engineFor (x / 4 % 256)
  let n := if e = .copy then 0x10000 else 0
  let lc : Launch := { record := { tiles := 1, codelen := 32 }, phase := .running, place := [0] }
  let s : State := { s with
    mem := storeNat (clearMem s.mem (codeKey 1) (codeKey 1 + 32)) (codeKey 1) 24 x
    poison := []
    boot := .running
    launches := put s.launches 1 lc
    tiles := put s.tiles 0 { launch := some 1 }
    cores := put s.cores (coreOf n) { s.coreAt (coreOf n) with cycle := 0 }
    cur := n
    agenda := [] }
  (s.setSlot n { state := .live, engine := e, launch := 1 }).setImage (16 * coreOf n) {}

end Sys2Proof.Machine
end

