-- ==== Sys2Proof/Safety.lean ====
section
/-! DEFINITION. The terms in which claims are stated: what a run keeps, and what one instruction of one slot may touch. -/
namespace Sys2Proof.Machine
open Sys2Proof

/-- The memory is in its canonical form, so that equal memories are equal data. -/
def MemOk (s : State) : Prop := Memory.wf s.mem = true

/-- An image after a write of a general register: a write to g0 is discarded (05 R94). -/
def Image.withG (im : Image) (r : Reg) (x : Word) : Image := if r = 0 then im else { im with g := im.g.set r x }

/-- An image after a write of a mask register: a write to k0 is discarded (17 R304). -/
def Image.withK (im : Image) (r : KReg) (x : BitVec 128) : Image := if r = 0 then im else { im with k := im.k.set r x }

/-- An image after a write of a vector register. -/
def Image.withV (im : Image) (r : VReg) (x : BitVec 1024) : Image := { im with v := im.v.set r x }

/-- An image whose instruction retires with next pc `next`: the end test over the loop stack gives the pc (06 R124). -/
def Image.atNext (im : Image) (next : Word) : Image :=
  { im with pc := (endTest im.pc im.loops next).1, loops := (endTest im.pc im.loops next).2 }

/-- From s to t only the images and the slots' records may differ, and of these only the image that slot n's selector names
and slot n's own record; its selector stays. -/
def OnlySlot (n : Nat) (s t : State) : Prop :=
  t = { s with images := t.images, slots := t.slots }
  ∧ (∀ k, k ≠ s.imageKey n → t.imageAt k = s.imageAt k)
  ∧ (∀ m, m ≠ n → t.slotAt m = s.slotAt m)
  ∧ (t.slotAt n).sel = (s.slotAt n).sel

/-- t is s after an instruction of slot n that left its image as `im`, with the pc and the loop stack where they go next, and
that TICKSET has counted (12 R240). Of slot n's record only the mark that TICK is due may differ; no byte of memory does, and
no other unit. -/
def Moves (n : Nat) (im : Image) (s t : State) : Prop :=
  OnlySlot n s t
  ∧ t.img n = im.countTick
  ∧ t.slotAt n = { s.slotAt n with tickDue := (s.slotAt n).tickDue || im.tickHits }

/-- t is s after slot n has retired an instruction to `next` that left its image as `im`. -/
def RetiresTo (n : Nat) (next : Word) (im : Image) (s t : State) : Prop := Moves n (im.atNext next) s t

/-- t is s after slot n has retired an instruction of `len` bytes that left its image as `im`. -/
def Retires (n len : Nat) (im : Image) (s t : State) : Prop := RetiresTo n (im.pc + word len) im s t

/-- t is s after slot n has completed an instruction of `len` bytes for which it may have been blocked: the wait is over, and
the completion is a progress point that zeroes the watchdog count (04 R81). -/
def Completes (n len : Nat) (im : Image) (s t : State) : Prop :=
  OnlySlot n s t
  ∧ t.img n = (({ im with wdCount := 0 } : Image).atNext (im.pc + word len)).countTick
  ∧ t.slotAt n = { s.slotAt n with wait := none, wdDue := false, tickDue := (s.slotAt n).tickDue || im.tickHits }

/-- t is s after slot n's instruction of `len` bytes has ended: where the slot had waited for it, as a blocking operation
completes, and otherwise as any instruction retires. -/
def Ends (n len : Nat) (im : Image) (s t : State) : Prop :=
  if (s.slotAt n).wait.isSome then Completes n len im s t else Retires n len im s t

/-- Issued from s, an instruction of `len` bytes retires and leaves its slot's image as `im`; nothing else differs from `mid`,
which is s with what the instruction does outside its slot. -/
def Acts (i : Instr) (len : Nat) (im : Image) (mid s : State) : Prop :=
  ∃ t, exec i s = .next t ∧ Retires s.cur len im mid t

/-- As `Acts`, for an instruction for which the slot may have waited. -/
def Finishes (i : Instr) (len : Nat) (im : Image) (mid s : State) : Prop :=
  ∃ t, exec i s = .next t ∧ Ends s.cur len im mid t

/-- Issued from s, a blocking instruction of `len` bytes completes, which is a progress point whether its slot had waited for it or
not (04 R81). -/
def CompletesOn (i : Instr) (len : Nat) (im : Image) (mid s : State) : Prop :=
  ∃ t, exec i s = .next t ∧ Completes s.cur len im mid t

/-- Issued from s, an instruction with a form that does not wait (`nowait`) ends as that form does, or completes as a blocking one. -/
def FinishesAs (i : Instr) (len : Nat) (nowait : Bool) (im : Image) (mid s : State) : Prop :=
  if nowait then Finishes i len im mid s else CompletesOn i len im mid s

/-- Issued from s, an instruction transfers control: its slot's image is `im`, with the pc at the target. -/
def JumpsTo (i : Instr) (im : Image) (s : State) : Prop := ∃ t, exec i s = .next t ∧ Moves s.cur im s t

/-- Issued from s, an instruction of `len` bytes writes x to register d and retires, and changes nothing else. -/
def Gives (i : Instr) (len : Nat) (d : Reg) (x : Word) (s : State) : Prop := Acts i len ((s.img s.cur).withG d x) s s

/-- Issued from s, an instruction leaves its slot blocked, and nothing but that wait differs from `mid`. -/
def BlocksOn (i : Instr) (w : Wait) (mid s : State) : Prop := exec i s = .next (mid.setSlot s.cur { mid.slotAt s.cur with wait := some w })

/-- t is s after a synchronous trap of slot n's instruction to supervisor level (13 R255): the record is in the image, the
loop stack is saved and empty, the level is 1 with INTRAP, and the pc is at TVEC. -/
def TrapsTo (n cause sub : Nat) (v : Word) (s t : State) : Prop :=
  OnlySlot n s t
  ∧ t.img n = (s.img n).enter cause sub v (s.img n).pc false
  ∧ t.slotAt n = { s.slotAt n with wait := none }

/-- t is s after a trap of slot n's instruction to hypervisor level (13 R256): the image is as it was, and the slot is held
with the reeve's record. -/
def HoldsFor (n cause sub : Nat) (v : Word) (s t : State) : Prop :=
  OnlySlot n s t
  ∧ t.img n = s.img n
  ∧ t.slotAt n = { s.slotAt n with wait := none, hold := some ⟨cause, sub, v, (s.img n).pc, false⟩ }

/-- t is s after a trap of slot n's instruction, to the level that 13 R254 names. -/
def Traps (n cause sub : Nat) (v : Word) (s t : State) : Prop :=
  if s.toReeve n cause then HoldsFor n cause sub v s t else TrapsTo n cause sub v s t

/-- Issued from s, an instruction traps and has no other effect. -/
def TrapsOn (i : Instr) (cause sub : Nat) (v : Word) (s : State) : Prop :=
  ∃ t, exec i s = .next t ∧ Traps s.cur cause sub v s t

/-- The lanes of a vector register hold these bits (17 R304). -/
def LanesAre (t : ET) (y : BitVec 1024) (f : Nat → Nat) : Prop := ∀ i, i < t.lanes → laneOf t.bits y.toNat i = f i

/-- What a masked write of the issuing slot leaves in a lane: the result where the mask has a 1, else zero or the old lane
(17 R305). -/
def maskedLane (s : State) (t : ET) (x : VDst) (f : Nat → Nat) (i : Nat) : Nat :=
  if (s.kOf s.cur x.k).getLsbD i then f i else if x.zm then 0 else s.lane t x.d i

/-- Issued from s, a vector instruction retires and leaves v[VD]'s lanes with these results under its mask; nothing else
differs from `mid`. -/
def ActsOnLanes (i : Instr) (t : ET) (x : VDst) (f : Nat → Nat) (mid s : State) : Prop :=
  ∃ y, Acts i 8 ((s.img s.cur).withV x.d y) mid s ∧ LanesAre t y (maskedLane s t x f)

/-- Issued from s, a vector instruction whose lanes raise the flags `fs` ends (16 R293, R294). Where no raised flag is
enabled in FPTRAP, the flags join FPFLAGS, the image is `im` and the instruction retires; nothing else differs from `mid`,
but that a subnormal (`sub`) enters the tile's normaliser and empties the thread's next turns. Where one is enabled and FPX
is no effect, FPX traps with the enabled flags and the lowest lane that raised one, and writes no register and no memory. -/
def Rounds (i : Instr) (fs : List (Nat × BitVec 5)) (sub : Bool) (im : Image) (mid s : State) : Prop :=
  let n := s.cur
  let u := unionFlags fs
  let en := u &&& (s.img n).fptrap.setWidth 5
  let c := s.now n
  let tile := mid.tileAt (tileOf n)
  let inside := tile.norm.filter fun x => c ≤ x
  let k := inside.length
  (en = 0 → ∃ t v, exec i s = .next t ∧ Retires n 8 { im with fpflags := im.fpflags ||| u.setWidth 64 } mid v
    ∧ t = if sub then
        (v.setTile (tileOf n) { tile with norm := inside ++ [c + 16 * (2 + k)] }).setSlot n
          { v.slotAt n with issueFrom := max (v.slotAt n).issueFrom (c + 16 * (3 + k)) }
      else v)
  ∧ (en ≠ 0 → bit (s.img n).effen 0x0F = false → ∃ t, exec i s = .next t ∧ t.mem = s.mem
    ∧ (if s.toReeve n 0x0F then t.img n = s.img n
          ∧ (t.slotAt n).hold = some ⟨0x0F, en.toNat, word (lowestLane fs en), (s.img n).pc, false⟩
        else t.img n = (s.img n).enter 0x0F en.toNat (word (lowestLane fs en)) (s.img n).pc false))

/-- As `Rounds`, for an instruction whose active lanes have these results: bits, flags and whether a subnormal came up. -/
def RoundsLanes (i : Instr) (t : ET) (x : VDst) (f : Nat → LaneRes) (s : State) : Prop :=
  ∃ y, Rounds i ((s.activeLanes t x.k).map fun j => (j, (f j).res.flags)) ((s.activeLanes t x.k).any fun j => (f j).sub)
      ((s.img s.cur).withV x.d y) s s
    ∧ LanesAre t y (maskedLane s t x fun j => (f j).res.bits % 2 ^ t.bits)

/-- Issued from s, an instruction of 8 bytes completes: its slot goes on after it, and no byte of memory changes. -/
def RetiresAnyway (i : Instr) (s : State) : Prop :=
  ∃ (t : State) (im : Image), exec i s = .next t ∧ im.pc = (s.img s.cur).pc ∧ im.loops = (s.img s.cur).loops
    ∧ t.img s.cur = (im.atNext (im.pc + 8)).countTick ∧ t.mem = s.mem

/-- The turn of slot n is due and nothing but an instruction can come of it: it is unpaired and neither blocked nor in a
snapshot or resumption, TICK and WDOG are not raised at its boundary, no cause is pending, no stop is asked of it, and its
stores are not posted. -/
def FreeTurn (n : Nat) (s : State) : Prop :=
  s.turnDue n = true
  ∧ bits (s.img n).paircfg 5 4 = 0
  ∧ (s.slotAt n).wait = none ∧ (s.slotAt n).pairDue = none ∧ (s.slotAt n).snap = none ∧ (s.slotAt n).pending = []
  ∧ (s.slotAt n).tickDue = false ∧ (s.slotAt n).wdDue = false ∧ (s.slotAt n).yielded = false
  ∧ (s.slotAt n).resuming = false ∧ (s.slotAt n).stopDue = false ∧ (s.slotAt n).posting = false
  ∧ (s.slotAt n).issueFrom ≤ s.now n

end Sys2Proof.Machine
end

