-- ==== Sys2Proof/Certificates/Slice0/Obligations.lean ====
section
/-! DEFINITION. The statements for the provers. -/
open Sys2Proof Sys2Proof.Machine

/-- For every width wb and every integer v, the word that Put writes is congruent to v modulo 2^wb and lies from -2^(wb-1)
to 2^(wb-1) - 1 as a 64-bit signed number, so bits [63:wb] are copies of bit wb - 1; the operands U(x) and S(x) are
the low wb bits read unsigned and as two's complement, and X(x) is S(x) where the sign bit is set and U(x) where it is
not. (R100.) -/
def Obligations.PutNarrowsAndSignExtends : Prop :=
  ∀ (w : Width) (v : Int) (x : Word),
    (v - (putWord w v).toInt) % 2 ^ w.bits = 0
    ∧ -(2 ^ (w.bits - 1)) ≤ (putWord w v).toInt ∧ (putWord w v).toInt < 2 ^ (w.bits - 1)
    ∧ (∀ k, w.bits ≤ k → k < 64 → (putWord w v).getLsbD k = (putWord w v).getLsbD (w.bits - 1))
    ∧ uval w x = (x.setWidth w.bits).toNat ∧ sval w x = (x.setWidth w.bits).toInt
    ∧ xval true w x = sval w x ∧ xval false w x = uval w x

/-- From every state, ADD, ADDI, SUB, MADD, ADDS and SUBS of every width complete: g[D] takes Put of the sum, difference,
product-sum or clamped sum of the operands (a write to g0 is discarded), the instruction retires with the pc 8 on or
where the loop end test puts it, TICKSET counts it, and every other register, every byte of memory and every other
unit is as before. (R94, R100, R103, R109, R124.) -/
def Obligations.SumsAndSaturatedSums : Prop :=
  ∀ (w : Width) (d a b c : Reg) (imm : BitVec 32) (s : State),
    Gives (.add w d a b) 8 d (putWord w ((uval w (s.g a) : Int) + uval w (s.g b))) s
    ∧ Gives (.addi w d a imm) 8 d (putWord w ((uval w (s.g a) : Int) + uval w (imm.signExtend 64))) s
    ∧ Gives (.sub w d a b) 8 d (putWord w ((uval w (s.g a) : Int) - uval w (s.g b))) s
    ∧ Gives (.madd w d a b c) 8 d (putWord w ((uval w (s.g a) : Int) * uval w (s.g b) + uval w (s.g c))) s
    ∧ Gives (.adds w true d a b) 8 d (putWord w (max (-(2 ^ (w.bits - 1)))
        (min (sval w (s.g a) + sval w (s.g b)) (2 ^ (w.bits - 1) - 1)))) s
    ∧ Gives (.adds w false d a b) 8 d (putWord w (min ((uval w (s.g a) : Int) + uval w (s.g b)) (2 ^ w.bits - 1))) s
    ∧ Gives (.subs w true d a b) 8 d (putWord w (max (-(2 ^ (w.bits - 1)))
        (min (sval w (s.g a) - sval w (s.g b)) (2 ^ (w.bits - 1) - 1)))) s
    ∧ Gives (.subs w false d a b) 8 d (putWord w (max 0 ((uval w (s.g a) : Int) - uval w (s.g b)))) s

/-- From every state, AND, ANDI, OR, ORI, XOR, XORI and ANDN complete: g[D] takes the bitwise result of the low wb bits,
sign-extended from bit wb - 1, where the immediate is sign-extended to 64 bits first. SHL, SHLI, SHR, SHRI and ROT
complete with the results of R105: a count of the width or more shifts everything out (an arithmetic right shift
leaves copies of the sign bit), and a rotate by n is a rotate by n modulo the width, to the left or, with FN[0] = 1,
to the right. Nothing else changes but the retirement's pc, loop stack and TICKSET. (R105.) -/
def Obligations.BitwiseAndShifts : Prop :=
  ∀ (w : Width) (d a b : Reg) (imm : BitVec 32) (n : Fin 64) (s : State),
    Gives (.and w d a b) 8 d (((s.g a &&& s.g b).setWidth w.bits).signExtend 64) s
    ∧ Gives (.andi w d a imm) 8 d (((s.g a &&& imm.signExtend 64).setWidth w.bits).signExtend 64) s
    ∧ Gives (.or w d a b) 8 d (((s.g a ||| s.g b).setWidth w.bits).signExtend 64) s
    ∧ Gives (.ori w d a imm) 8 d (((s.g a ||| imm.signExtend 64).setWidth w.bits).signExtend 64) s
    ∧ Gives (.xor w d a b) 8 d (((s.g a ^^^ s.g b).setWidth w.bits).signExtend 64) s
    ∧ Gives (.xori w d a imm) 8 d (((s.g a ^^^ imm.signExtend 64).setWidth w.bits).signExtend 64) s
    ∧ Gives (.andn w d a b) 8 d (((s.g a &&& ~~~(s.g b)).setWidth w.bits).signExtend 64) s
    ∧ Gives (.shl w d a b) 8 d (putWord w (if w.bits ≤ (s.g b).toNat then 0 else uval w (s.g a) * 2 ^ (s.g b).toNat)) s
    ∧ Gives (.shli w d a n) 8 d (putWord w (if w.bits ≤ n.val then 0 else uval w (s.g a) * 2 ^ n.val)) s
    ∧ Gives (.shr w false d a b) 8 d (putWord w (uval w (s.g a) / 2 ^ (s.g b).toNat)) s
    ∧ Gives (.shri w false d a n) 8 d (putWord w (uval w (s.g a) / 2 ^ n.val)) s
    ∧ Gives (.shr w true d a b) 8 d (putWord w (sval w (s.g a) / 2 ^ min (s.g b).toNat (w.bits - 1))) s
    ∧ Gives (.shri w true d a n) 8 d (putWord w (sval w (s.g a) / 2 ^ min n.val (w.bits - 1))) s
    ∧ Gives (.rot w false d a b) 8 d
        ((((s.g a).setWidth w.bits).rotateLeft ((s.g b).toNat % w.bits)).signExtend 64) s
    ∧ Gives (.rot w true d a b) 8 d
        ((((s.g a).setWidth w.bits).rotateRight ((s.g b).toNat % w.bits)).signExtend 64) s

/-- From every state MUL completes in its four forms with Put of the low product or of the floor of the signed, unsigned
or mixed product over 2^wb. Where the low wb bits of g[B] are not zero, DIV and REM complete: the quotient q and
remainder r satisfy X(a) = X(b) q + r with r smaller in size than X(b) and of the dividend's sign or zero, and g[D]
takes Put(q) or Put(r). Where they are zero and DIVZERO cannot be delivered as an effect (EFFEN bit 0x10 is clear),
DIV traps with cause 0x10, subcode 0, and REM with subcode 1; TVAL is all 64 bits of g[A], and no register and no
memory changes. (R104, R106.) -/
def Obligations.ProductsAndQuotients : Prop :=
  ∀ (w : Width) (sg : Bool) (d a b : Reg) (s : State),
    Gives (.mul w .lo d a b) 8 d (putWord w ((uval w (s.g a) : Int) * uval w (s.g b))) s
    ∧ Gives (.mul w .hs d a b) 8 d (putWord w (sval w (s.g a) * sval w (s.g b) / 2 ^ w.bits)) s
    ∧ Gives (.mul w .hu d a b) 8 d (putWord w ((uval w (s.g a) : Int) * uval w (s.g b) / 2 ^ w.bits)) s
    ∧ Gives (.mul w .hsu d a b) 8 d (putWord w (sval w (s.g a) * uval w (s.g b) / 2 ^ w.bits)) s
    ∧ (uval w (s.g b) ≠ 0 → ∃ q r : Int,
        xval sg w (s.g a) = xval sg w (s.g b) * q + r ∧ r.natAbs < (xval sg w (s.g b)).natAbs
        ∧ (r = 0 ∨ (0 < r ↔ 0 < xval sg w (s.g a)))
        ∧ Gives (.div w sg d a b) 8 d (putWord w q) s ∧ Gives (.rem w sg d a b) 8 d (putWord w r) s)
    ∧ (uval w (s.g b) = 0 → bit (s.img s.cur).effen 0x10 = false →
        TrapsOn (.div w sg d a b) 0x10 0 (s.g a) s ∧ TrapsOn (.rem w sg d a b) 0x10 1 (s.g a) s)

/-- From every state these complete. CLZ counts the zero bits above the highest one bit of the low wb bits and CTZ those
below the lowest (wb where all are zero), POPC counts the one bits; CMP and CMPI write 1 where the condition holds on
the low wb bits and 0 where not; MIN and MAX write Put of the operand that is least or greatest, signed or not; SEL
writes Put of g[A] where all 64 bits of g[C] are not zero and of g[B] where they are. (R53, R94, R100, R103, R108,
R109.) -/
def Obligations.CountsComparesAndSelects : Prop :=
  ∀ (w : Width) (sg : Bool) (d a b c : Reg) (imm : BitVec 32) (s : State),
    (∃ n : Nat, n ≤ w.bits ∧ (∀ k, w.bits - n ≤ k → k < w.bits → (s.g a).getLsbD k = false)
      ∧ (n < w.bits → (s.g a).getLsbD (w.bits - n - 1) = true) ∧ Gives (.clz w d a) 8 d (word n) s)
    ∧ (∃ n : Nat, n ≤ w.bits ∧ (∀ k, k < n → (s.g a).getLsbD k = false)
      ∧ (n < w.bits → (s.g a).getLsbD n = true) ∧ Gives (.ctz w d a) 8 d (word n) s)
    ∧ Gives (.popc w d a) 8 d (word ((List.range w.bits).countP fun k => (s.g a).getLsbD k)) s
    ∧ (∀ k, Gives (.cmp w k d a b) 8 d (if condHolds k w (s.g a) (s.g b) then 1 else 0) s)
    ∧ (∀ k, Gives (.cmpi w k d a imm) 8 d (if condHolds k w (s.g a) (imm.signExtend 64) then 1 else 0) s)
    ∧ (∀ x y : Word,
        (condHolds .eq w x y = true ↔ x.setWidth w.bits = y.setWidth w.bits)
        ∧ (condHolds .ne w x y = true ↔ x.setWidth w.bits ≠ y.setWidth w.bits)
        ∧ (condHolds .lt w x y = true ↔ (x.setWidth w.bits).slt (y.setWidth w.bits))
        ∧ (condHolds .ge w x y = true ↔ (y.setWidth w.bits).sle (x.setWidth w.bits))
        ∧ (condHolds .ltu w x y = true ↔ x.setWidth w.bits < y.setWidth w.bits)
        ∧ (condHolds .geu w x y = true ↔ y.setWidth w.bits ≤ x.setWidth w.bits))
    ∧ Gives (.min w sg d a b) 8 d (putWord w (min (xval sg w (s.g a)) (xval sg w (s.g b)))) s
    ∧ Gives (.max w sg d a b) 8 d (putWord w (max (xval sg w (s.g a)) (xval sg w (s.g b)))) s
    ∧ Gives (.sel w d a b c) 8 d (putWord w (if s.g c ≠ 0 then uval w (s.g a) else uval w (s.g b))) s

/-- From every state: ABS writes Put of the absolute value, SEXT the low wb bits sign-extended, ZEXT the low wb bits zero-
extended, BSWAP the wb / 8 bytes in reverse order sign-extended, LI all 64 bits of its immediate, LEA g[A] + g[B] x
2^SC + OFF24 modulo 2^64. For a field of 1 to 64 bits that lies within 64, EXT writes it zero- or sign-extended, and
INS replaces exactly that field of g[D] by the low bits of g[A]. LI is 12 bytes long and the others 8; nothing else
changes. (R45, R94, R100, R108, R110, R111, R114.) -/
def Obligations.ExtensionsFieldsAndConstants : Prop :=
  ∀ (w : Width) (d a : Reg) (m : Addr) (imm : BitVec 64) (pos : Fin 64) (len : Fin 65) (s : State),
    Gives (.abs w d a) 8 d (putWord w (sval w (s.g a)).natAbs) s
    ∧ Gives (.sext w d a) 8 d (((s.g a).setWidth w.bits).signExtend 64) s
    ∧ Gives (.zext w d a) 8 d (((s.g a).setWidth w.bits).setWidth 64) s
    ∧ (∃ x : Word, Gives (.bswap w d a) 8 d x s
        ∧ (∀ i, i < w.bits / 8 → x.extractLsb' (8 * i) 8 = (s.g a).extractLsb' (w.bits - 8 - 8 * i) 8)
        ∧ (∀ k, w.bits ≤ k → k < 64 → x.getLsbD k = x.getLsbD (w.bits - 1)))
    ∧ Gives (.li d imm) 12 d imm s
    ∧ Gives (.lea d m) 8 d (s.g m.a + (s.g m.b <<< m.sc.val) + m.off.signExtend 64) s
    ∧ (1 ≤ len.val → pos.val + len.val ≤ 64 →
        Gives (.ext false d a pos len) 8 d (((s.g a).extractLsb' pos.val len.val).setWidth 64) s
        ∧ Gives (.ext true d a pos len) 8 d (((s.g a).extractLsb' pos.val len.val).signExtend 64) s
        ∧ ∃ x : Word, Gives (.ins d a pos len) 8 d x s
            ∧ ∀ k, k < 64 → x.getLsbD k =
                if pos.val ≤ k ∧ k < pos.val + len.val then (s.g a).getLsbD (k - pos.val) else (s.g d).getLsbD k)

/-- At a level that may issue the form: GADDR.self on an ordinary slot writes the address of the offset in the issuing
slot's own tile and core, and GADDR without self that of logical tile g[A][11:2] and core g[A][1:0], where that tile
is below TILES and g[A][63:12] is zero; the form has bits [63:60] 1001 and the logical tile, or with phys 1000 and the
physical tile; the core is 0 except in the G space. On a pump-class or board slot GADDR.self traps with ADDR 0x30 and
TVAL 0; another g[A] traps with ADDR 0x30 and TVAL g[A]. GADDR.phys at user level traps with PRIV 0 and TVAL the
words. LOCAL completes from every state. Where g[A] is the logical address of an offset within G, A, C or W of a
logical tile below TILES (core 0 unless G), g[D] takes the offset if the issuing slot is on an ordinary core, the tile
is its own logical tile and in G the core is its own, and -1 if not; above user level the same holds of a physical
address, with CONTEXT too and its own physical tile. For a value of neither form g[D] takes -2. (R71, R112, R113,
R115, R116, R253.) -/
def Obligations.GlobalAddressesFormedAndTold : Prop :=
  ∀ (phys : Bool) (sp : Fin 4) (d a : Reg) (off : BitVec 32) (s : State),
    let core := fun c : Nat => if sp.val = 0 then c else 0
    let logical := fun t c : Nat => word (9 * 2 ^ 60 + t * 2 ^ 50 + core c * 2 ^ 48 + sp.val * 2 ^ 44 + off.toNat)
    let physical := fun t c : Nat =>
      word (8 * 2 ^ 60 + (s.launchOf s.cur).place.getD t 0 * 2 ^ 50 + core c * 2 ^ 48 + sp.val * 2 ^ 44 + off.toNat)
    let form := fun t c : Nat => if phys then physical t c else logical t c
    let named := bits (s.g a) 63 12 = 0 ∧ bits (s.g a) 11 2 < s.tilesOf s.cur
    ((phys = true → s.level s.cur ≠ 0) →
      (isOrdinary s.cur = true →
        Gives (.gaddr phys true sp d a off) 8 d (form (s.tileAt (tileOf s.cur)).logTile (coreOf s.cur % 4)) s)
      ∧ (isOrdinary s.cur = false → TrapsOn (.gaddr phys true sp d a off) 0x09 0x30 0 s)
      ∧ (named → Gives (.gaddr phys false sp d a off) 8 d (form (bits (s.g a) 11 2) (bits (s.g a) 1 0)) s)
      ∧ (¬ named → TrapsOn (.gaddr phys false sp d a off) 0x09 0x30 (s.g a) s))
    ∧ (∀ self, s.level s.cur = 0 →
        TrapsOn (.gaddr true self sp d a off) 0x05 0 (words01 (.gaddr true self sp d a off)) s)
    ∧ (
      let size := fun sp : Nat => if sp = 0 then 0x80000 else if sp = 1 then 0x200000 else if sp = 6 then 0x10000 else 0x100000
      let answer := fun (mine : Bool) (off : Nat) => if mine then word off else BitVec.ofInt 64 (-1)
      let isLogical := fun t c sp off : Nat => t < 1024 ∧ c < 4 ∧ sp ≤ 3 ∧ (sp ≠ 0 → c = 0) ∧ off < size sp ∧ t < s.tilesOf s.cur
        ∧ s.g a = word (9 * 2 ^ 60 + t * 2 ^ 50 + c * 2 ^ 48 + sp * 2 ^ 44 + off)
      let isPhysical := fun t c sp off : Nat => t < 1024 ∧ c < 4 ∧ (sp ≤ 3 ∨ sp = 6) ∧ ((sp ≠ 0 ∧ sp ≠ 6) → c = 0) ∧ off < size sp
        ∧ s.level s.cur ≠ 0 ∧ s.g a = word (8 * 2 ^ 60 + t * 2 ^ 50 + c * 2 ^ 48 + sp * 2 ^ 44 + off)
      (∀ t c sp off, isLogical t c sp off → Gives (.localq d a) 8 d
        (answer (isOrdinary s.cur && decide (t = (s.tileAt (tileOf s.cur)).logTile ∧ (sp = 0 → c = coreOf s.cur % 4))) off) s)
      ∧ (∀ t c sp off, isPhysical t c sp off → Gives (.localq d a) 8 d
        (answer (isOrdinary s.cur && decide (t = tileOf s.cur ∧ (sp = 0 → c = coreOf s.cur % 4))) off) s)
      ∧ ((∀ t c sp off, ¬ isLogical t c sp off ∧ ¬ isPhysical t c sp off) →
          Gives (.localq d a) 8 d (BitVec.ofInt 64 (-2)) s))

/-- From every state, words whose opcode is reserved trap with ILLEGAL_OP subcode 0, those of an allocated opcode (which
decode so only where the length code is not its format's) with subcode 1, and opcodes 0x00 and 0xFF with subcode 2;
TVAL holds word 1 in bits [63:32] and word 0 below; no register of the thread but the trap's own changes and no memory
does. The decoder gives ILLEGAL_OP for exactly these words. (R59, R60, R62.) -/
def Obligations.IllegalWordsTrap : Prop :=
  ∀ (w0 w1 : BitVec 32) (x : Nat) (s : State),
    let op := (w0.extractLsb' 2 8).toNat
    TrapsOn (.illegalOp w0 w1) 0x01 (if op = 0x00 ∨ op = 0xFF then 2 else if opFormat op = none then 0 else 1)
      (w1 ++ w0) s
    ∧ (decode x = .ok (.illegalOp (.ofNat 32 x) (.ofNat 32 (x / 2 ^ 32))) ↔
        ∀ f, opFormat (x / 4 % 256) = some f → f.lenCode ≠ x % 4)

/-- From every state NOP retires and changes nothing but the pc, the loop stack and TICKSET as every retirement does; WDOG
does the same and zeroes the slot's watchdog count, withdrawing a WDOG that this turn made due; YIELD does what WDOG
does and leaves the slot marked as having yielded. SLEEP to tick Min(g[A] + IMM32, 2^64 - 1), with TIDE added where it
is not .abs, completes where the tide has reached the tick and else blocks the slot until SLEEP_WAKE finds it reached,
which completes it; in a sealed launch at user level it traps with SEALED. (R81, R90, R128, R133, R134.) -/
def Obligations.PlainAdvancesAndSleeps : Prop :=
  ∀ (ab : Bool) (a : Reg) (imm : BitVec 32) (m : Nat) (s : State),
    let tick := min ((if ab then 0 else s.tide.toNat) + (s.g a).toNat + imm.toNat) (2 ^ 64 - 1)
    Acts .nop 8 (s.img s.cur) s s
    ∧ (∃ u t, exec .wdog s = .next t ∧ Retires s.cur 8 { s.img s.cur with wdCount := 0 } u t
        ∧ u = s.setSlot s.cur { s.slotAt s.cur with wdDue := false })
    ∧ (∃ u t, exec .yield s = .next (t.setSlot s.cur { t.slotAt s.cur with yielded := true })
        ∧ Retires s.cur 8 { s.img s.cur with wdCount := 0 } u t
        ∧ u = s.setSlot s.cur { s.slotAt s.cur with wdDue := false })
    ∧ (s.sealedHere = false →
      (tick ≤ s.tide.toNat → ∃ t, exec (.sleep ab a imm) s = .next t ∧ Completes s.cur 8 (s.img s.cur) s t)
      ∧ (s.tide.toNat < tick → BlocksOn (.sleep ab a imm) (.sleep tick) s s))
    ∧ (s.sealedHere = true → TrapsOn (.sleep ab a imm) 0x07 0 0 s)
    ∧ (∀ k, (s.slotAt m).wait = some (.sleep k) →
      (k ≤ s.tide.toNat → ∃ t, exec (.sleepWake m) s = .next t ∧ Completes m 8 (s.img m) s t)
      ∧ (s.tide.toNat < k → exec (.sleepWake m) s = .next s))

/-- From every state BR whose condition holds on the low wb bits, or that has none, moves the pc to PC + OFF32 and leaves
every loop whose body it leaves; otherwise it retires with the pc 8 on. CALL writes PC + 8 to g[D] and moves to PC +
IMM32, and pops no level. JR and CALLR to an address that is a multiple of 4 move there, JR leaving loops and CALLR
writing the link after reading its target; to another address they trap with ALIGN 0x10 and TVAL the target. Nothing
else changes. (R120, R125, R129, R130.) -/
def Obligations.BranchesAndCalls : Prop :=
  ∀ (w : Width) (c : Option Cond) (d a b : Reg) (off : BitVec 32) (s : State),
    let im := s.img s.cur
    let goal := im.pc + off.signExtend 64
    ((∀ k, c = some k → condHolds k w (s.g a) (s.g b) = true) →
      JumpsTo (.br w c a b off) { im with pc := goal, loops := leaveLoops im.pc goal im.loops } s)
    ∧ (∀ k, c = some k → condHolds k w (s.g a) (s.g b) = false → Acts (.br w c a b off) 8 im s s)
    ∧ JumpsTo (.call d off) { im.withG d (im.pc + 8) with pc := goal } s
    ∧ ((s.g a).toNat % 4 = 0 →
        JumpsTo (.jr a) { im with pc := s.g a, loops := leaveLoops im.pc (s.g a) im.loops } s
        ∧ JumpsTo (.callr d a) { im.withG d (im.pc + 8) with pc := s.g a } s)
    ∧ ((s.g a).toNat % 4 ≠ 0 → TrapsOn (.jr a) 0x08 0x10 (s.g a) s ∧ TrapsOn (.callr d a) 0x08 0x10 (s.g a) s)

/-- With end = PC + the end offset: where end lies below CODELIM and the count is not zero and fewer than four levels are
live, LOOP and LOOPI push START, END and COUNT and go on to START; with a count of zero they retire to the code after
the instruction at end and push nothing; with four live levels they trap with LOOPSTACK 0, and with end at or beyond
CODELIM with FETCH_BOUND 2, TVAL end. LBRK with no live level traps with LOOPSTACK 1, TVAL 0; otherwise it drops the
innermost level and retires to the code after the instruction at its END (the length measured there where END lies
beyond CODELIM or in a poisoned word is the model's choice, log 55). For the innermost level L, the retiring
instruction's pc p and its next pc n: if p lies in the body and n beyond END, a COUNT above 1 goes down by one and the
pc is START, and a COUNT of 1 closes the level and the next level out is tested with the same p and n; otherwise the
stack is as it was and the pc is n. A taken BR or JR from p to t pops L and goes on with the next level out exactly
where p lies in L's body and t does not. Neither ever adds a level. (R123, R124, R125, R131, R132.) -/
def Obligations.LoopLevelsPushEndAndLeave : Prop :=
  (∀ (a : Reg) (off count : BitVec 32) (s : State),
    let im := s.img s.cur
    let stop := im.pc + off.signExtend 64
    (∀ i len n, (i = .loop a off ∧ len = 8 ∧ n = s.g a) ∨ (i = .loopi off count ∧ len = 12 ∧ n = count.setWidth 64) →
      (s.codelim s.cur ≤ stop.toNat → TrapsOn i 0x04 0x02 stop s)
      ∧ (stop.toNat < s.codelim s.cur → n = 0 →
          ∃ t, exec i s = .next t ∧ RetiresTo s.cur (stop + word (s.lengthAt s.cur stop)) im s t)
      ∧ (stop.toNat < s.codelim s.cur → n ≠ 0 → 4 ≤ im.loops.length → TrapsOn i 0x11 0x00 stop s)
      ∧ (stop.toNat < s.codelim s.cur → n ≠ 0 → im.loops.length < 4 →
          JumpsTo i { im with pc := im.pc + word len, loops := ⟨im.pc + word len, stop, n⟩ :: im.loops } s))
    ∧ (im.loops = [] → TrapsOn .lbrk 0x11 0x01 0 s)
    ∧ (∀ l r, im.loops = l :: r →
        ∃ t, exec .lbrk s = .next t ∧ RetiresTo s.cur (l.stop + word (s.lengthAt s.cur l.stop)) { im with loops := r } s t))
    ∧ ∀ (p n t : Word) (l : LoopLevel) (r : List LoopLevel),
      let inside := l.start ≤ p ∧ p ≤ l.stop
      endTest p [] n = (n, [])
      ∧ (inside → l.stop < n → l.count ≠ 1 → endTest p (l :: r) n = (l.start, { l with count := l.count - 1 } :: r))
      ∧ (inside → l.stop < n → l.count = 1 → endTest p (l :: r) n = endTest p r n)
      ∧ (¬ (inside ∧ l.stop < n) → endTest p (l :: r) n = (n, l :: r))
      ∧ leaveLoops p t [] = []
      ∧ (inside → (t < l.start ∨ l.stop < t) → leaveLoops p t (l :: r) = leaveLoops p t r)
      ∧ (¬ (inside ∧ (t < l.start ∨ l.stop < t)) → leaveLoops p t (l :: r) = l :: r)
      ∧ (endTest p (l :: r) n).2.length ≤ r.length + 1 ∧ (leaveLoops p t (l :: r)).length ≤ r.length + 1

/-- Issued by slot zero of a core, TSTART with n = g[A] outside 1 to 15 or a PC that is no multiple of 4 answers -3, for a
slot that is not FREE, or whose own image another slot uses or a switched-out thread holds (the model's choice, log
73), -1, for a binding that is not allowed -2, and changes nothing else. Otherwise it answers 0, a pump-class slot
joins those that act for its launch, and slot n is LIVE at its own image and engine, with every general register zero
but g5, its logical slot number, and g6 = g[C], at the PC g[B], and issues from cycle e + 32 + 16 + n, where e is the
edge of the present rotation; no other slot, image or byte of memory changes. Issued by any other slot it traps with
PRIV 1. SLOT_START ends the mark of a slot that waits for its first turn once that turn has come. (R78, R79, R85,
R253.) -/
def Obligations.SlotZeroStartsSiblings : Prop :=
  ∀ (e : Engine) (d a b c : Reg) (s : State),
    let x := (s.g a).toNat
    let n := s.cur + x
    let i := Instr.tstart e d a b c
    (slotIdx s.cur = 0 →
      ((x < 1 ∨ 15 < x ∨ (s.g b).toNat % 4 ≠ 0) → Finishes i 8 ((s.img s.cur).withG d (BitVec.ofInt 64 (-3))) s s)
      ∧ (1 ≤ x → x ≤ 15 → (s.g b).toNat % 4 = 0 →
          ((s.slotAt n).state ≠ .free ∨ s.imageTaken n (slotIdx n) = true → Finishes i 8 ((s.img s.cur).withG d (BitVec.ofInt 64 (-1))) s s)
          ∧ ((s.slotAt n).state = .free → s.imageTaken n (slotIdx n) = false → s.bindingAllowed n e = false →
              Finishes i 8 ((s.img s.cur).withG d (BitVec.ofInt 64 (-2))) s s)
          ∧ ((s.slotAt n).state = .free → s.imageTaken n (slotIdx n) = false → s.bindingAllowed n e = true →
              ∃ mid, Finishes i 8 ((mid.img s.cur).withG d 0) mid s
                ∧ mid = { s with images := mid.images, slots := mid.slots, launches := (s.noteBegun (s.slotAt s.cur).launch n).launches }
                ∧ (∀ m, m ≠ n → mid.slotAt m = s.slotAt m)
                ∧ (∀ k, k ≠ 16 * coreOf n + slotIdx n → mid.imageAt k = s.imageAt k)
                ∧ (mid.slotAt n).state = .live ∧ (mid.slotAt n).engine = e ∧ (mid.slotAt n).sel = 0
                ∧ (mid.slotAt n).launch = (s.slotAt s.cur).launch
                ∧ (mid.slotAt n).logSlot = s.logicalOf n ∧ (mid.slotAt n).starts = (s.slotAt n).starts + 1
                ∧ (mid.slotAt n).turnFrom = s.now s.cur - s.now s.cur % 16 + 32 + 16 + x
                ∧ (mid.img n).pc = s.g b ∧ (mid.img n).g[5] = word (s.logicalOf n).toNat ∧ (mid.img n).g[6] = s.g c
                ∧ (∀ r : Reg, r ≠ 5 → r ≠ 6 → (mid.img n).g[r] = 0) ∧ (mid.img n).loops = [] ∧ (mid.img n).hsp = 0)))
    ∧ (slotIdx s.cur ≠ 0 → TrapsOn i 0x05 1 (words01 i) s)
    ∧ (∀ m, (s.slotAt m).state = .live → (s.slotAt m).turnFrom ≤ s.now m →
        exec (.slotStart m) s = .next (s.setSlot m { s.slotAt m with starting := false }))

/-- Issued by slot zero with n = g[A]: TSTOP answers -3 outside 1 to 15 and 1 for a slot that is not LIVE; a LIVE slot it
stops within the instruction and answers 0, or, where an access, a chunk of a copy, a capture or a resumption of it or
of its partner is under way, waits for it to stop (that the boundary is then and there is the model's reading, log 8);
in a sealed launch at user level it traps with SEALED. TREAP answers -3 and 0 outside 1 to 15; of a HALTED slot it
performs the stores that may be performed, and where none of its accesses is left outstanding the slot becomes FREE
with 0 and its exit value, while otherwise it counts as LIVE (the model's reading of 08 R172, log 5); a STOPPED one
FREE with 1 and 0, a PARKED one stays with 2 and 0, a FREE one gives -2 and 0; for a LIVE slot TREAP waits, and
TREAP.try answers -1 and 0, or traps with SEALED in a sealed launch at user level. The blocking TREAP completes with a
progress point. Issued by any other slot they trap with PRIV 1. (R86, R87, R172, R253.) -/
def Obligations.SiblingsStopAndAreReaped : Prop :=
  ∀ (t : Bool) (d a : Reg) (s : State),
    let x := (s.g a).toNat
    let n := s.cur + x
    let two := fun (st v : Word) => ((s.img s.cur).withG d st).withG (regPlus d 1) v
    let free := fun u : State => u.setSlot n { u.slotAt n with state := .free }
    let u := s.landOwn n
    (slotIdx s.cur = 0 →
      ((x < 1 ∨ 15 < x) → Finishes (.tstop d a) 8 ((s.img s.cur).withG d (BitVec.ofInt 64 (-3))) s s
          ∧ FinishesAs (.treap t d a) 8 t (two (BitVec.ofInt 64 (-3)) 0) s s)
      ∧ (1 ≤ x → x ≤ 15 →
          ((s.slotAt n).state ≠ .live → Finishes (.tstop d a) 8 ((s.img s.cur).withG d 1) s s)
          ∧ ((s.slotAt n).state = .live → s.sealedHere = false → s.stopHeld n = false →
              ∃ mid, Finishes (.tstop d a) 8 ((mid.img s.cur).withG d 0) mid s ∧ (mid.slotAt n).state = .stopped)
          ∧ ((s.slotAt n).state = .live → s.sealedHere = false → s.stopHeld n = true →
              BlocksOn (.tstop d a) (.tstop d n) (s.setSlot n { s.slotAt n with stopDue := true }) s)
          ∧ ((s.slotAt n).state = .live → s.sealedHere = true → TrapsOn (.tstop d a) 0x07 0 0 s)
          ∧ ((s.slotAt n).state = .halted → u.outstanding n = false →
              FinishesAs (.treap t d a) 8 t (two 0 (s.slotAt n).exitVal) (free u) s)
          ∧ ((s.slotAt n).state = .halted → u.outstanding n = true →
              BlocksOn (.treap false d a) .poll u s
              ∧ (s.sealedHere = false → Finishes (.treap true d a) 8 (two (BitVec.ofInt 64 (-1)) 0) u s)
              ∧ (s.sealedHere = true → ∃ v, exec (.treap true d a) s = .next v ∧ Traps s.cur 0x07 0 0 u v))
          ∧ ((s.slotAt n).state = .stopped → FinishesAs (.treap t d a) 8 t (two 1 0) (free s) s)
          ∧ ((s.slotAt n).state = .parked → FinishesAs (.treap t d a) 8 t (two 2 0) s s)
          ∧ ((s.slotAt n).state = .free → FinishesAs (.treap t d a) 8 t (two (BitVec.ofInt 64 (-2)) 0) s s)
          ∧ ((s.slotAt n).state = .live → BlocksOn (.treap false d a) .poll s s)
          ∧ ((s.slotAt n).state = .live → s.sealedHere = false →
              Finishes (.treap true d a) 8 (two (BitVec.ofInt 64 (-1)) 0) s s)
          ∧ ((s.slotAt n).state = .live → s.sealedHere = true → TrapsOn (.treap true d a) 0x07 0 0 s)))
    ∧ (slotIdx s.cur ≠ 0 →
        TrapsOn (.tstop d a) 0x05 1 (words01 (.tstop d a)) s ∧ TrapsOn (.treap t d a) 0x05 1 (words01 (.treap t d a)) s)

/-- Issued by slot zero, TSTAT of a slot n from 1 to 15 writes STARTS in [63:32], PAIRED in [7], BOUND in [6], ENGINE in
[5:4] and STATE in [3:0] (2 where a stop is asked for or made), and outside 1 to 15 all ones. TSELF.log writes the
logical slot number; TSELF.bind ENGINE in [1:0], the core within its tile in [3:2] and the slot in [7:4]; TSELF.phys
the global slot number, but in a sealed launch at user level it traps with SEALED. HALT of an unpaired thread that no
unfired entry of a sluice group holds leaves its slot HALTED with exit value g[A]; DEPTH of HSP is 0 and no token is
valid any more; no other register, no byte of memory outside the headers of its continuation records, and no other
unit changes (that these headers are invalidated is the model's reading of R91, log 48). (R7, R79, R88, R89, R91.) -/
def Obligations.SlotsTellTheirStateAndEnd : Prop :=
  ∀ (d a : Reg) (s : State),
    let x := (s.g a).toNat
    let sl := s.slotAt (s.cur + x)
    (slotIdx s.cur = 0 →
      ((x < 1 ∨ 15 < x) → Gives (.tstat d a) 8 d (BitVec.allOnes 64) s)
      ∧ (1 ≤ x → x ≤ 15 → Gives (.tstat d a) 8 d (word (sl.starts.toNat * 2 ^ 32
          + (if (s.partner (s.cur + x)).isSome then 2 ^ 7 else 0) + (if sl.bound then 2 ^ 6 else 0)
          + 2 ^ 4 * (match sl.engine with | .scalar => 0 | .vector => 1 | .matrix => 2 | .copy => 3)
          + (match sl.state with | .free => 0 | .stopped => 2 | .live | .halted | .parked => if sl.stopDue then 2 else 1))) s))
    ∧ (slotIdx s.cur ≠ 0 → TrapsOn (.tstat d a) 0x05 1 (words01 (.tstat d a)) s)
    ∧ Gives (.tself .log d) 8 d (word (s.slotAt s.cur).logSlot.toNat) s
    ∧ (isOrdinary s.cur = true → Gives (.tself .bind d) 8 d
        (word ((match (s.slotAt s.cur).engine with | .scalar => 0 | .vector => 1 | .matrix => 2 | .copy => 3)
          + 4 * (s.cur / 16 % 4) + 16 * (s.cur % 16))) s)
    ∧ (isOrdinary s.cur = true → s.sealedHere = false → Gives (.tself .phys d) 8 d (word s.cur) s)
    ∧ (s.sealedHere = true → TrapsOn (.tself .phys d) 0x07 0 0 s)
    ∧ (s.partner s.cur = none → (∀ l g i, s.membership s.cur = some (l, g, i) → g.remains i = false) →
        ∃ t, exec (.halt a) s = .next t ∧ t = { s with images := t.images, slots := t.slots, mem := t.mem }
          ∧ t.img s.cur = { s.img s.cur with hsp := setBits (s.img s.cur).hsp 23 19 0 }
          ∧ (∀ m, m ≠ s.cur → t.slotAt m = s.slotAt m) ∧ (∀ y, t.tokenFault s.cur y ≠ none)
          ∧ (∀ k, k ≠ s.imageKey s.cur → t.imageAt k = s.imageAt k)
          ∧ (∀ key, (∀ i, i < s.recordCount s.cur → key < (gLoc (coreOf s.cur) (s.recordOff s.cur i)).key
              ∨ (gLoc (coreOf s.cur) (s.recordOff s.cur i)).key + 8 ≤ key) → byteAt t.mem key = byteAt s.mem key)
          ∧ (t.slotAt s.cur).state = .halted ∧ (t.slotAt s.cur).exitVal = s.g a ∧ (t.slotAt s.cur).wait = none)

/-- Outside a sealed launch's user level: WQPOP of a closed share with no record left answers 1; otherwise the oldest
record of the own region's share goes to g[D+1] to g[D+4] with status 0 and leaves the share, unless the reeve
withholds it; with none to take WQPOP waits and WQPOP.try answers -1; the blocking form completes with a progress
point. WQPUSH to a logical tile at or beyond TILES answers -4; closing an open share closes it with 0, and a closed
one answers -3; a record for a share with room goes in as the newest with 0; one for a full share with no spillway
answers -1. In a sealed launch at user level both trap with SEALED. Where a share has spilled records and fewer
records than its size, and the page of the oldest spilled one is mapped for reading, SPILLWAY_RETURN appends that
record, read from its spillway entry, to the share's records, with a mark of the words that read as poisoned (the
model's form, log 60; that entry e stands at the spill base plus 32 e is log 20), and takes it off the spilled list;
where there is none or no room it changes nothing. (R82, R83, R92, R93.) -/
def Obligations.WorkQueueTakesAndGives : Prop :=
  ∀ (d a b : Reg) (t far : Bool) (s : State),
    let l := (s.slotAt s.cur).launch
    let r := ownRegion s.cur
    let x := s.shareAt r l
    let lt := (s.g b).toNat
    let q := if far then regionOf ((s.launchOf s.cur).place.getD lt 0) else r
    let y := s.shareAt q l
    let w := [s.g a, s.g (regPlus a 1), s.g (regPlus a 2), s.g (regPlus a 3)]
    let status := fun v : Word => (s.img s.cur).withG d v
    (s.sealedHere = false →
      (x.closed = true → x.recs = [] → x.spilled = [] → FinishesAs (.wqpop t d) 8 t (status 1) s s)
      ∧ (x.recs = [] → (x.closed = false ∨ x.spilled ≠ []) →
          BlocksOn (.wqpop false d) .poll s s ∧ Finishes (.wqpop true d) 8 (status (BitVec.ofInt 64 (-1))) s s)
      ∧ (∀ w0 w1 w2 w3 rest, x.recs = [w0, w1, w2, w3] :: rest → (s.regionAt r).withheld = false →
          FinishesAs (.wqpop t d) 8 t
            ((((((s.img s.cur).withG (regPlus d 1) w0).withG (regPlus d 2) w1).withG (regPlus d 3) w2).withG
              (regPlus d 4) w3).withG d 0) (s.setShare r l { x with recs := rest }) s)
      ∧ (far = true → s.tilesOf s.cur ≤ lt → ∀ c, Finishes (.wqpush true c d a b) 8 (status (BitVec.ofInt 64 (-4))) s s)
      ∧ ((far = false ∨ lt < s.tilesOf s.cur) →
          (y.closed = true → ∀ c, Finishes (.wqpush far c d a b) 8 (status (BitVec.ofInt 64 (-3))) s s)
          ∧ (y.closed = false → Finishes (.wqpush far true d a b) 8 (status 0) (s.setShare q l { y with closed := true }) s)
          ∧ (y.closed = false → y.recs.length < y.size → y.spilled = [] →
              Finishes (.wqpush far false d a b) 8 (status 0) (s.setShare q l { y with recs := y.recs ++ [w] }) s)
          ∧ (y.closed = false → y.size ≤ y.recs.length → (s.launchAt l).record.spill = 0 →
              Finishes (.wqpush far false d a b) 8 (status (BitVec.ofInt 64 (-1))) s s)))
    ∧ (s.sealedHere = true → TrapsOn (.wqpop t d) 0x07 0 0 s ∧ ∀ c, TrapsOn (.wqpush far c d a b) 0x07 0 0 s)
    ∧ (∀ (r l : Nat),
      let sh := s.shareAt r l
      let lc := s.launchAt l
      (∀ e rest pa, sh.spilled = e :: rest → sh.recs.length < sh.size → s.translate lc.part (lc.record.spill + 32 * e) .r = .ok pa →
        exec (.spillwayReturn r l) s = .next (s.setShare r l
          { sh with
            recs := sh.recs ++ [[word (s.physRead (s.ringPa pa) 8), word (s.physRead (s.ringPa pa + 8) 8),
              word (s.physRead (s.ringPa pa + 16) 8), word (s.physRead (s.ringPa pa + 24) 8)]
              ++ if s.badRecord pa = 0 then [] else [word (s.badRecord pa)]]
            spilled := rest }))
      ∧ (sh.spilled = [] ∨ sh.size ≤ sh.recs.length → exec (.spillwayReturn r l) s = .next s))

/-- For SP naming the own G store, or on an ordinary core the own tile's A, C or W buffer, and an effective address that
is a multiple of the width e in bytes with all n elements below the space's bound (0x7_0000 for G): where the launch
is not checked or no range of the store is race-checked, and for a load no byte read is poisoned, LD writes the
little-endian value zero- or sign-extended, LDM four of them to g[D] to g[D+3], ST stores the low e bytes of g[D] and
STM those of g[D] to g[D+3] in ascending addresses. A load changes no byte; a store changes only its n x e bytes, and
of the poisoned words drops exactly those that it covers whole (the model's reading of 13 R266, log 29). (R94, R136,
R137, R139, R159, R266.) -/
def Obligations.AliasLoadsAndStores : Prop :=
  ∀ (w : Width) (sg : Bool) (o : Ord) (sp : SP) (d : Reg) (m : Addr) (s : State),
    let n := s.cur
    let reach := fun (sp : SP) => sp = .g ∨ (isOrdinary n = true ∧ (sp = .a ∨ sp = .c ∨ sp = .w))
    let size := fun (sp : SP) => if sp = .g then 0x70000 else if sp = .a then 0x200000 else 0x100000
    let x := s.effAddr m
    let e := w.bits / 8
    let l : Loc := ⟨sp, if sp = .g then coreOf n else tileOf n, x.toNat⟩
    let el := fun k : Nat => (⟨sp, l.unit, l.off + k * e⟩ : Loc)
    let val := fun k : Nat => if sg then sextBits w.bits (s.read (el k) e) else word (s.read (el k) e)
    let src := fun k : Nat => (s.g (regPlus d k)).toNat
    let cleaned := fun (u : State) (len : Nat) =>
      ∀ k, k ∈ u.poison ↔ k ∈ s.poison ∧ ¬ (l.key ≤ k ∧ k + 8 ≤ l.key + len)
    reach sp → x.toNat % e = 0 → ((s.launchOf n).isChecked = false ∨ s.rangesOf l = []) →
    (x.toNat + e ≤ size sp →
      (s.poisoned l e = false → Gives (.ld w sg o sp d m) 8 d (val 0) s)
      ∧ (o ≠ .counted → ∃ u, Acts (.st w o sp d m) 8 (s.img n) u s ∧ cleaned u e
          ∧ u = { s with mem := storeNat s.mem l.key e (src 0), poison := u.poison }))
    ∧ (x.toNat + 4 * e ≤ size sp →
      (s.poisoned l (e * 4) = false → Acts (.ldm w sg o sp d m) 8
        (((((s.img n).withG d (val 0)).withG (regPlus d 1) (val 1)).withG (regPlus d 2) (val 2)).withG (regPlus d 3) (val 3))
        s s)
      ∧ ∃ u, Acts (.stm w o sp d m) 8 (s.img n) u s ∧ cleaned u (4 * e)
          ∧ u = { s with
              mem := storeNat (storeNat (storeNat (storeNat s.mem (el 0).key e (src 0)) (el 1).key e (src 1)) (el 2).key e
                (src 2)) (el 3).key e (src 3)
              poison := u.poison })

/-- For SP naming the own G store, or on an ordinary core the own tile's A, C or W buffer: LD, ST (not counted), LDM and
STM whose last byte lies beyond the space's bound trap with ADDR 0, TVAL the effective address; within it, an
effective address that is no multiple of the element width traps with ALIGN 0, TVAL that address. With SP = CONTEXT at
user level they trap with PRIV 3, TVAL the address. None of them changes memory or a register but the trap's. (R136,
R139, R157, R253.) -/
def Obligations.AliasAccessesAreChecked : Prop :=
  ∀ (w : Width) (sg : Bool) (o : Ord) (sp : SP) (d : Reg) (m : Addr) (s : State),
    let n := s.cur
    let reach := fun (sp : SP) => sp = .g ∨ (isOrdinary n = true ∧ (sp = .a ∨ sp = .c ∨ sp = .w))
    let size := fun (sp : SP) => if sp = .g then 0x70000 else if sp = .a then 0x200000 else 0x100000
    let x := s.effAddr m
    let e := w.bits / 8
    o ≠ .counted →
    (reach sp →
      (size sp < x.toNat + e → TrapsOn (.ld w sg o sp d m) 0x09 0 x s ∧ TrapsOn (.st w o sp d m) 0x09 0 x s)
      ∧ (size sp < x.toNat + e * 4 → TrapsOn (.ldm w sg o sp d m) 0x09 0 x s ∧ TrapsOn (.stm w o sp d m) 0x09 0 x s)
      ∧ (x.toNat + e ≤ size sp → x.toNat % e ≠ 0 →
          TrapsOn (.ld w sg o sp d m) 0x08 0 x s ∧ TrapsOn (.st w o sp d m) 0x08 0 x s)
      ∧ (x.toNat + e * 4 ≤ size sp → x.toNat % e ≠ 0 →
          TrapsOn (.ldm w sg o sp d m) 0x08 0 x s ∧ TrapsOn (.stm w o sp d m) 0x08 0 x s))
    ∧ (s.level n = 0 →
        TrapsOn (.ld w sg o .ctx d m) 0x05 3 x s ∧ TrapsOn (.st w o .ctx d m) 0x05 3 x s
        ∧ TrapsOn (.ldm w sg o .ctx d m) 0x05 3 x s ∧ TrapsOn (.stm w o .ctx d m) 0x05 3 x s)

/-- For an effective address in the own G store's user part that is a multiple of 8 and a word that is not poisoned and
that no slot waits for: LDF of a full word writes it to g[D], LDE does so and leaves it empty, STF of an empty word
stores g[D] and leaves it full, STFF does so of any word; LDF and LDE of an empty word and STF of a full one block the
slot on the word and change nothing else. The controller notes that it has taken an LDF, LDE or STF in its cycle, so
that an earlier one in the order of 07 R144 comes later (the model's bookkeeping, log 25). TAGQ writes 1 for full and
0 for empty, but in a sealed launch at user level traps with SEALED. TAGSET gives as many consecutive words as its
count says the tag of g[D] [63], leaves the data, and beyond 64 words forfeits a turn for each further 64 begun; with
a count of zero it changes nothing. For a GLOBAL address of a word of a G store the same instructions block the slot
on the access; GLOBAL_REQUEST of one that a window admits acts on the owner's words in the same way and leaves the
reply under way, or, of an LDF, LDE or STF, leaves the slot waiting on the word where the tag is not as it needs; the
reply of a TAGSET completes it with the same forfeited turns (that of the others is a statement of its own, O21).
(R138, R142, R143, R144, R149, R160, R161, R162.) -/
def Obligations.TaggedAccesses : Prop :=
  ∀ (d : Reg) (m : Addr) (s : State),
    let n := s.cur
    let x := s.effAddr m
    let l := gLoc (coreOf n) x.toNat
    let im := s.img n
    let v := word (s.read l 8)
    (x.toNat % 8 = 0 → x.toNat + 8 ≤ 0x70000 → s.poisoned l 8 = false → (∀ op, s.tagWaiters l op = []) →
    (s.tagFull l = true → Acts (.ldf .g d m) 8 (im.withG d v) (s.tagTaken .ldf l n) s
      ∧ Acts (.lde .g d m) 8 (im.withG d v) ((s.tagTaken .lde l n).setTag l false) s
      ∧ BlocksOn (.stf .g d m) (.tagged .stf d l x 0) s s)
    ∧ (s.tagFull l = false → BlocksOn (.ldf .g d m) (.tagged .ldf d l x 0) s s
      ∧ BlocksOn (.lde .g d m) (.tagged .lde d l x 0) s s
      ∧ Acts (.stf .g d m) 8 im
          (({ s.tagTaken .stf l n with mem := storeNat s.mem l.key 8 (s.g d).toNat } : State).setTag l true) s)
    ∧ Acts (.stff .g d m) 8 im (({ s with mem := storeNat s.mem l.key 8 (s.g d).toNat } : State).setTag l true) s
    ∧ (s.sealedHere = false → Gives (.tagq .g d m) 8 d (if s.tagFull l then 1 else 0) s)
    ∧ (s.sealedHere = true → TrapsOn (.tagq .g d m) 0x07 0 0 s)
    ∧ (bits (s.g d) 62 0 = 0 → Acts (.tagset .g d m) 8 im s s)
    ∧ (let c := bits (s.g d) 62 0
      let wd := fun k : Nat => gLoc (coreOf n) (x.toNat + 8 * k)
      c ≠ 0 → x.toNat + 8 * c ≤ 0x70000 → s.poisoned l (8 * c) = false → (∀ k op, k < c → s.tagWaiters (wd k) op = []) →
        ∃ v, Retires n 8 im ((List.range c).foldl (fun u k => u.setTag (wd k) (bit (s.g d) 63)) s) v
          ∧ exec (.tagset .g d m) s = .next (if c ≤ 64 then v
            else v.setSlot n { v.slotAt n with issueFrom := s.now n + 16 * ((c - 64 + 63) / 64 + 1) })))
    ∧ (∀ gl : Loc, s.globalLoc x = .ok gl → gl.sp = .g → x.toNat % 8 = 0 → gl.off + 8 ≤ spSize .g →
      BlocksOn (.ldf .glob d m) (.globalOut ⟨.ldf, 8, 1, d, [], x, gl⟩ 0) s s
      ∧ BlocksOn (.lde .glob d m) (.globalOut ⟨.lde, 8, 1, d, [], x, gl⟩ 0) s s
      ∧ BlocksOn (.stf .glob d m) (.globalOut ⟨.stf, 8, 1, d, [], x, gl⟩ 0) s s
      ∧ BlocksOn (.stff .glob d m) (.globalOut ⟨.stff, 8, 1, d, [], x, gl⟩ 0) s s
      ∧ (s.sealedHere = false → BlocksOn (.tagq .glob d m) (.globalOut ⟨.tagq, 8, 1, d, [], x, gl⟩ 0) s s)
      ∧ (bits (s.g d) 62 0 ≠ 0 → gl.off + 8 * bits (s.g d) 62 0 ≤ spSize .g → BlocksOn (.tagset .glob d m)
          (.globalOut ⟨.tagset (bit (s.g d) 63), 8, bits (s.g d) 62 0, d, [], x, gl⟩ 0) s s))
    ∧ (∀ (k : Nat) (a : Access) (edges : Nat) (op : TagOp), (s.slotAt k).wait = some (.globalOut a edges) → a.op.tagOp = some op →
      s.requestLate k a = false → (∀ j ∈ s.pairOf k, (s.slotAt j).stopDue = false) →
      a.bytes = 8 → a.count = 1 → s.windowRefusal k a.loc 8 a.op.rights = none →
      let v := s.landAccepted a.loc 8
      v.poisoned a.loc 8 = false → (∀ o, v.tagWaiters a.loc o = []) →
      let taken := v.tagTaken op a.loc k
      let waits := fun (w : Wait) (u : State) => u.setSlot k { u.slotAt k with wait := some w }
      exec (.globalRequest k) s = .next (
        if v.tagReady op a.loc = false then waits (.tagged op a.reg a.loc a.ea edges) v
        else match op with
          | .ldf => waits (.globalIn a (.done [word (v.read a.loc 8)])) taken
          | .lde => waits (.globalIn a (.done [word (v.read a.loc 8)])) (taken.setTag a.loc false)
          | .stf => waits (.globalIn a (.done []))
              (({ taken with mem := storeNat v.mem a.loc.key 8 (s.gOf k a.reg).toNat } : State).setTag a.loc true)))
    ∧ (∀ (k : Nat) (a : Access) (edges : Nat), (s.slotAt k).wait = some (.globalOut a edges) → a.bytes = 8 →
      s.windowRefusal k a.loc (8 * a.count) a.op.rights = none →
      let v := s.landAccepted a.loc (8 * a.count)
      let wd := fun i : Nat => { a.loc with off := a.loc.off + i * 8 }
      v.poisoned a.loc (8 * a.count) = false → (∀ i o, i < max 1 a.count → v.tagWaiters (wd i) o = []) →
      let leaves := fun (vals : List Word) (u : State) =>
        exec (.globalRequest k) s = .next (u.setSlot k { u.slotAt k with wait := some (.globalIn a (.done vals)) })
      (a.op = .stff → leaves [] (({ v with mem := storeNat v.mem a.loc.key 8 (s.gOf k a.reg).toNat } : State).setTag a.loc true))
      ∧ (a.op = .tagq → leaves [if v.tagFull a.loc then 1 else 0] v)
      ∧ (∀ full, a.op = .tagset full → leaves [] ((List.range a.count).foldl (fun u i => u.setTag (wd i) full) v)))
    ∧ (∀ (k : Nat) (a : Access), (s.slotAt k).wait = some (.globalIn a (.done [])) → (∃ full, a.op = .tagset full) →
      (∀ j ∈ s.pairOf k, (s.slotAt j).stopDue = false) → ∃ v, Completes k 8 (s.img k) s v
        ∧ exec (.globalReply k) s = .next (if a.count ≤ 64 then v
            else v.setSlot k { v.slotAt k with issueFrom := s.now k + 16 * ((a.count - 64 + 63) / 64 + 1) }))

/-- For an effective address in the own G store's user part that is a multiple of the width of 4 or 8 bytes, with nothing
poisoned there: AMO stores the operation's result of the old value and g[B] and writes the old value, sign-extended,
to g[D]; CAS stores g[B] exactly where the old value equals the low bits of g[D], and writes the old value, sign-
extended, to g[D]. Only the word's bytes may change. In a sealed launch at user level CAS, AMO with D not 0 and
AMO.swap trap with SEALED instead; AMO whose result is not kept completes there too. For a GLOBAL address of a G store
they block the slot on the access, and GLOBAL_REQUEST of one that a window admits does the same to the owner's word
and leaves the reply with the old value under way. (R94, R138, R149, R151, R163, R164.) -/
def Obligations.AtomicsReadModifyWrite : Prop :=
  ∀ (w : Width) (o : Ord) (op : Aop) (d a b : Reg) (off : BitVec 24) (s : State),
    let n := s.cur
    let x := s.effAddrAB a off
    let e := w.bits / 8
    let l := gLoc (coreOf n) x.toNat
    let old := s.read l e
    let result := fun (op : Aop) (old : Nat) (y : Word) => (match op with
      | .add => (old + uval w y) % 2 ^ w.bits
      | .and => old &&& uval w y
      | .or => old ||| uval w y
      | .xor => old ^^^ uval w y
      | .min => if sval w (word old) ≤ sval w y then old else uval w y
      | .max => if sval w y ≤ sval w (word old) then old else uval w y
      | .minu => min old (uval w y)
      | .maxu => max old (uval w y)
      | .swap => uval w y : Nat)
    let new := result op old (s.g b)
    (w = .b32 ∨ w = .b64) →
    (x.toNat % e = 0 → x.toNat + e ≤ 0x70000 → s.poisoned l e = false →
    ((s.sealedHere = false ∨ (d = 0 ∧ op ≠ .swap)) →
      Acts (.amo w o op .g d a b off) 8 ((s.img n).withG d (sextBits w.bits old)) { s with mem := storeNat s.mem l.key e new } s)
    ∧ (s.sealedHere = true → (d ≠ 0 ∨ op = .swap) → TrapsOn (.amo w o op .g d a b off) 0x07 0 0 s)
    ∧ (s.sealedHere = false → Acts (.cas w o .g d a b off) 8 ((s.img n).withG d (sextBits w.bits old))
        (if old = uval w (s.g d) then { s with mem := storeNat s.mem l.key e (uval w (s.g b)) } else s) s)
    ∧ (s.sealedHere = true → TrapsOn (.cas w o .g d a b off) 0x07 0 0 s))
    ∧ (∀ gl : Loc, s.globalLoc x = .ok gl → gl.sp = .g → x.toNat % e = 0 → gl.off + e ≤ spSize .g →
      ((s.sealedHere = false ∨ (d = 0 ∧ op ≠ .swap)) →
        BlocksOn (.amo w o op .glob d a b off) (.globalOut ⟨.amo op, e, 1, d, [s.g b], x, gl⟩ 0) s s)
      ∧ (s.sealedHere = false →
        BlocksOn (.cas w o .glob d a b off) (.globalOut ⟨.cas (s.g d), e, 1, d, [s.g b], x, gl⟩ 0) s s))
    ∧ (∀ (k : Nat) (q : Access) (edges : Nat), (s.slotAt k).wait = some (.globalOut q edges) → q.bytes = e →
      s.windowRefusal k q.loc (e * q.count) 4 = none →
      let u := s.landAccepted q.loc (e * q.count)
      let was := u.read q.loc e
      let arg := uval w (q.data.getD 0 0)
      let stores := fun y : Nat => { u with mem := storeNat u.mem q.loc.key e y }
      u.poisoned q.loc (e * q.count) = false →
      (∀ f, q.op = .amo f → exec (.globalRequest k) s = .next ((stores (result f was (q.data.getD 0 0))).setSlot k
        { u.slotAt k with wait := some (.globalIn q (.done [sextBits w.bits was])) }))
      ∧ (∀ y, q.op = .cas y → exec (.globalRequest k) s = .next ((if was = uval w y then stores arg else u).setSlot k
        { u.slotAt k with wait := some (.globalIn q (.done [sextBits w.bits was])) })))

/-- FENCE retires where none of the thread's matrix instructions (class 3) and of its stores not yet performed (counted,
class 6, or posted) of a class that it waits for are under way, and otherwise blocks the slot until a later turn; it
changes nothing else. For a range of the own G store that starts and ends on multiples of 64 within the user part and
is not empty: in a launch that is not checked RACEM changes nothing; in a checked one it enters the range, with the
thread's launch as the one that marked it, and empties its stamps, or with four ranges held traps with ADDR 8, or with
g[D] [63] set frees the ranges that lie wholly inside. A range that is empty or not so aligned traps with ALIGN 1.
(R153, R165, R185.) -/
def Obligations.FencesAndRaceRanges : Prop :=
  ∀ (classes : BitVec 8) (sc : Scope) (d : Reg) (m : Addr) (s : State),
    let n := s.cur
    let x := s.effAddr m
    let len := bits (s.g d) 62 0
    let l := gLoc (coreOf n) x.toNat
    let rs := (s.coreAt (coreOf n)).ranges
    let ms := (s.coreAt (coreOf n)).marks
    let busy := (classes.getLsbD 3 = true ∧ isOrdinary n = true ∧ (s.slotAt n).engine = .matrix
          ∧ (s.tileAt (tileOf n)).mx.queue ≠ [])
        ∨ (∃ y ∈ s.culvert, y.slot = n ∧ classes.getLsbD y.cls = true)
    (¬ busy → Finishes (.fence classes sc) 8 (s.img n) s s)
    ∧ (busy → BlocksOn (.fence classes sc) .poll s s)
    ∧ (x.toNat + len ≤ 0x70000 →
      ((x.toNat % 64 ≠ 0 ∨ len % 64 ≠ 0 ∨ len = 0) → TrapsOn (.racem .g d m) 0x08 1 x s)
      ∧ (x.toNat % 64 = 0 → len % 64 = 0 → len ≠ 0 →
        ((s.launchOf n).isChecked = false → Acts (.racem .g d m) 8 (s.img n) s s)
        ∧ ((s.launchOf n).isChecked = true →
          (bit (s.g d) 63 = true → Acts (.racem .g d m) 8 (s.img n) (s.setCore (coreOf n) { s.coreAt (coreOf n) with
              ranges := rs.filter fun r => !decide (x.toNat ≤ r.1 ∧ r.1 + r.2 ≤ x.toNat + len)
              marks := ms.filter fun p => !decide (x.toNat ≤ p.2.1 ∧ p.2.1 + p.2.2 ≤ x.toNat + len) }) s)
          ∧ (bit (s.g d) 63 = false → 4 ≤ rs.length → TrapsOn (.racem .g d m) 0x09 8 x s)
          ∧ (bit (s.g d) 63 = false → rs.length < 4 → ∃ u, Acts (.racem .g d m) 8 (s.img n) u s
              ∧ u = { s.setCore (coreOf n) { s.coreAt (coreOf n) with
                    ranges := rs ++ [(x.toNat, len)]
                    marks := ms ++ [((s.slotAt n).launch, (x.toNat, len))] } with
                  stamps := u.stamps }
              ∧ ∀ p, p ∈ u.stamps ↔ p ∈ s.stamps ∧ (p.1 < l.key ∨ l.key + len ≤ p.1)))))

/-- LD, ST, LDM and STM with SP = GLOBAL whose address is that of a location that exists, aligned and within the store,
block the slot on the access. A counted ST leaves its thread in the rotation and enters the culvert with its bytes:
with the cycle V = i + 20 + 4h where it issues within the counted window and V lies within it too, else with none; to
a store other than G and A it traps with ADDR 1, to a tile that holds no member of its group with ADDR 3.
GLOBAL_REQUEST of a request that stands in the order of 07 R144 before one taken in the cycle changes nothing (log
25); else, at an owner whose tile's windows are closed it answers WINDOW 1, and where no window admits it it answers
WINDOW 0; a request that a window admits is served after the accepted stores that touch its words: a load of
unchecked, unpoisoned words answers their values and a store writes its bytes, or, of a thread that posts its stores,
is accepted and performed later (the model's form of 07 R141, log 5). GLOBAL_REPLY writes the values to the registers
and completes the instruction (a load, a tagged access or an atomic; a TAGSET's is in O18), and a refusal traps with
WINDOW, TVAL the effective address; a thread that was asked to stop is then STOPPED unless something else of it or its
partner is under way (log 8). COUNTED_STORE_VISIBLE stores the bytes of a counted store whose cycle is reached and
that no earlier store of its thread still waits before, and changes nothing for one that such a store waits before. A
tagged wait is withdrawn once more rotation edges than its limit have passed, and only then; WAITLIMIT traps at the
turn of an unpaired thread whose wait is withdrawn, and changes nothing otherwise (that the two are apart is log 25; a
pair's leader raises it in its own turn). (R86, R113, R138, R139, R141, R144, R147, R149, R159, R177, R196, R197.) -/
def Obligations.GlobalAccessesGoToTheirOwner : Prop :=
  ∀ (w : Width) (sg : Bool) (o : Ord) (d : Reg) (m : Addr) (s : State),
    let x := s.effAddr m
    let e := w.bits / 8
    (∀ l, s.globalLoc x = .ok l → l.off + e ≤ spSize l.sp → x.toNat % e = 0 →
      BlocksOn (.ld w sg o .glob d m) (.globalOut ⟨.load sg, e, 1, d, [], x, l⟩ 0) s s
      ∧ (o ≠ .counted → BlocksOn (.st w o .glob d m) (.globalOut ⟨.store, e, 1, d, [s.g d], x, l⟩ 0) s s)
      ∧ (l.off + e * 4 ≤ spSize l.sp →
        BlocksOn (.ldm w sg o .glob d m) (.globalOut ⟨.load sg, e, 4, d, [], x, l⟩ 0) s s
        ∧ BlocksOn (.stm w o .glob d m) (.globalOut ⟨.store, e, 4, d, (List.range 4).map fun k => s.g (regPlus d k), x, l⟩ 0) s s)
      ∧ (l.sp ≠ .g → l.sp ≠ .a → TrapsOn (.st w .counted .glob d m) 0x09 1 x s)
      ∧ ((l.sp = .g ∨ l.sp = .a) → l.tile ∉ s.groupTiles s.cur → TrapsOn (.st w .counted .glob d m) 0x09 3 x s)
      ∧ ((l.sp = .g ∨ l.sp = .a) → l.tile ∈ s.groupTiles s.cur →
        let c := s.now s.cur
        let v := c + 20 + 4 * hops (s.tileAt (tileOf s.cur)).logTile (s.tileAt l.tile).logTile
        let within := ∃ lid g i edge, s.membership s.cur = some (lid, g, i) ∧ (s.launchAt lid).isLevel = true
          ∧ g.edges.getD i none = some edge ∧ edge ≤ c ∧ v ≤ edge + 4095
        ∃ due, Acts (.st w .counted .glob d m) 8 (s.img s.cur) { s with culvert := s.culvert ++ [
            { slot := s.cur, cls := 6, tile := tileOf s.cur, due := due, loc := l, data := leBytes e (s.g d).toNat,
              counted := true, mx := s.matrixIssued s.cur }] } s
          ∧ (within → due = some v) ∧ (¬ within → due = none)))
    ∧ (∀ (k : Nat) (a : Access) (edges : Nat), (s.slotAt k).wait = some (.globalOut a edges) →
        (s.requestLate k a = true → exec (.globalRequest k) s = .next s)
        ∧ (s.requestLate k a = false → (a.op.tagOp = none ∨ ∀ j ∈ s.pairOf k, (s.slotAt j).stopDue = false) →
          let v := s.landAccepted a.loc (a.bytes * a.count)
          ((∀ y ∈ s.culvert, y.cls = 6 → y.counted = true) → v = s) ∧
          ∃ r u, exec (.globalRequest k) s = .next (u.setSlot k { u.slotAt k with wait := some r })
          ∧ (∀ q, s.windowRefusal k a.loc (a.bytes * a.count) a.op.rights = some q → r = .globalIn a (.window q) ∧ u = s)
          ∧ (s.windowRefusal k a.loc (a.bytes * a.count) a.op.rights = none →
              ((s.launchOf k).isChecked = false ∨ s.rangesOf a.loc = []) → a.loc.sp ≠ .ctx →
              (∀ sg, a.op = .load sg → v.poisoned a.loc (a.bytes * a.count) = false → u = v ∧ r = .globalIn a (.done
                ((List.range a.count).map fun i => extend sg (8 * a.bytes)
                  (v.read { a.loc with off := a.loc.off + i * a.bytes } a.bytes))))
              ∧ (a.op = .store → r = .globalIn a (.done [])
                  ∧ (v.postsGlobal k a = false → u.mem = (List.range a.count).foldl (fun m i => storeNat m
                        ({ a.loc with off := a.loc.off + i * a.bytes } : Loc).key a.bytes (a.data.getD i 0).toNat) v.mem
                    ∧ u = { v with mem := u.mem, poison := u.poison })
                  ∧ (v.postsGlobal k a = true → u = { v with culvert := v.culvert ++ (List.range a.count).map fun i =>
                      { slot := k, cls := 6, tile := tileOf k, loc := { a.loc with off := a.loc.off + i * a.bytes },
                        data := leBytes a.bytes (a.data.getD i 0).toNat } })))))
    ∧ (∀ (k : Nat) (a : Access), (s.slotAt k).wait = some (.globalIn a (.done [])) → a.op = .store ∨ a.op = .stf ∨ a.op = .stff →
        ((∀ j ∈ s.pairOf k, (s.slotAt j).stopDue = false) → ∃ t, exec (.globalReply k) s = .next t ∧ Completes k 8 (s.img k) s t)
        ∧ ((s.slotAt k).stopDue = true → (s.setSlot k { s.slotAt k with wait := none }).stopHeld k = false →
            ∃ t, exec (.globalReply k) s = .next t ∧ (t.slotAt k).state = .stopped))
    ∧ (∀ (k : Nat) (a : Access) (vals : List Word), (s.slotAt k).wait = some (.globalIn a (.done vals)) →
        (∀ full, a.op ≠ .tagset full) → (∀ j ∈ s.pairOf k, (s.slotAt j).stopDue = false) →
          ∃ t, exec (.globalReply k) s = .next t ∧ Completes k 8
            ((List.range vals.length).foldl (fun im i => im.withG (regPlus a.reg i) (vals.getD i 0)) (s.img k)) s t)
    ∧ (∀ (k : Nat) (a : Access) (q : Nat), (s.slotAt k).wait = some (.globalIn a (.window q)) →
        (∀ j ∈ s.pairOf k, (s.slotAt j).stopDue = false) → ∃ t, exec (.globalReply k) s = .next t ∧ Traps k 0x0A q a.ea s t)
    ∧ (∀ (k : Nat) (y : Counted), s.culvert[k]? = some y → y.counted = true → y.rel = true → s.countedReady y = true →
        ((∀ z ∈ s.culvert.take k, z.slot ≠ y.slot) →
          ∃ t, exec (.countedStoreVisible k) s = .next t ∧ t.mem = storeBytes s.mem y.loc.key y.data
            ∧ t = { s with mem := t.mem, poison := t.poison, culvert := s.culvert.eraseIdx k })
        ∧ ((∃ z ∈ s.culvert.take k, z.slot = y.slot) → exec (.countedStoreVisible k) s = .next s))
    ∧ (∀ (k : Nat) (op : TagOp) (r : Reg) (l : Loc) (ea : Word) (edges : Nat),
        (s.slotAt k).wait = some (.tagged op r l ea edges) →
        exec (.waitlimit k) s = .next s
        ∧ s.withdrawExpired k = if bits (s.img k).waitlim 31 0 ≠ 0 ∧ bits (s.img k).waitlim 31 0 < edges then
            s.setSlot k { s.slotAt k with wait := some (.expired op ea) } else s)
    ∧ (∀ (k : Nat) (op : TagOp) (ea : Word), (s.slotAt k).wait = some (.expired op ea) →
        (s.turnDue k = false → exec (.waitlimit k) s = .next s)
        ∧ (s.partner k ≠ none → exec (.waitlimit k) s = .next s)
        ∧ (bit (s.img k).effen 0x0D = false → s.turnDue k = true → s.partner k = none → ∃ t, exec (.waitlimit k) s = .next t
              ∧ Traps k 0x0D (match op with | .ldf => 0 | .lde => 1 | .stf => 2) ea (s.openTurn k) t))

/-- WAIT of a member of an unbreached group that an unfired position still holds blocks the slot and counts the member as
waiting, and changes nothing else. Where BREACH is not delivered as an effect, WAIT of no member traps with BREACH 2,
TVAL 0; of a breached group with BREACH 0, TVAL the lost group in [9:8] and member in [5:0], but in the very cycle of
the breach it blocks the slot, which meets the breach at a later turn (log 30); of a member that no unfired position
holds with BREACH 1, TVAL its PHASE count. PHASE completes in every state with the PHASE count, the group and member
numbers or the full-phase, and all ones for no member. (R190, R203, R205, R206, R239.) -/
def Obligations.SluiceWaitsAndPhases : Prop :=
  ∀ (d : Reg) (s : State),
    let n := s.cur
    let mem := s.membership n
    (∀ l g i, mem = some (l, g, i) → g.breach = none → g.remains i = true →
      BlocksOn .wait (.sluice l g.num i) (s.setGroup l { g with waiting := addTo g.waiting i }) s)
    ∧ (bit (s.img n).effen 0x1A = false →
        (mem = none → TrapsOn .wait 0x1A 2 0 s)
        ∧ (∀ l g i lost, mem = some (l, g, i) → g.breach = some lost → s.breachOver (s.launchAt l) g lost = true →
            TrapsOn .wait 0x1A 0 (word (lost.1 * 2 ^ 8 + lost.2)) s)
        ∧ (∀ l g i, mem = some (l, g, i) → g.breach = none → g.remains i = false →
            TrapsOn .wait 0x1A 1 ((g.phase.getD i 0).setWidth 64) s))
    ∧ (∀ l g i lost, mem = some (l, g, i) → g.breach = some lost → s.breachOver (s.launchAt l) g lost = false →
        BlocksOn .wait (.sluice l g.num i) s s)
    ∧ (mem = none → ∀ f, Gives (.phase f d) 8 d (BitVec.allOnes 64) s)
    ∧ (∀ l g i, mem = some (l, g, i) →
        Gives (.phase .count d) 8 d ((g.phase.getD i 0).setWidth 64) s
        ∧ Gives (.phase .mem d) 8 d (word (g.num * 2 ^ 8 + i)) s
        ∧ Gives (.phase .full d) 8 d (g.full.setWidth 64) s)

/-- SLUICE_FIRING of a group that may fire (its launch runs, and the reeve has not switched it out, log 42) and whose
window holds no linked entry performs what its waiting members have outstanding and may have performed, and fires in
one step each entry of the window as the cycle began with it whose members all wait with nothing outstanding (the
model's form of 08 R172, log 5), that no save has withdrawn, and for whom no lower window position shares a member, in
order of position: its members stop waiting and their release is decided. Of a group that may not fire it changes
nothing. SLUICE_RELEASE of a member that is due (its tile is on a rotation edge later than the cycle of the firing)
adds one to its PHASE, notes the edge and completes its WAIT. LINK_READY of a group with no linked entry in its window
else only notes the window; where partners are still missing it marks each linked entry that was in the window as the
cycle began and satisfies R190 apart from the link ready at the present tick; and where it makes the last of two
partners ready, it fires the linked entry of both groups, to be released from 200 ticks after the later ready tick on.
(R190, R191, R193, R199, R201.) -/
def Obligations.SluiceFiresAndReleases : Prop :=
  ∀ (l num pos i : Nat) (s : State) (g : Group),
    let lc := s.launchAt l
    let c := s.sluiceCycle lc g
    let u := s.landWaiters lc g
    let ripe := fun k : Nat => decide (k ∈ g.waiting) && !u.outstanding (lc.slotOf (g.members.getD k 0))
    let apart := fun p : Nat × Barrier => p.2.link = true ∧ g.breach = none ∧ (∀ k ∈ p.2.mems, ripe k = true)
      ∧ ∀ x ∈ g.window, x.1 < p.1 → x.2.mask &&& p.2.mask = 0
    lc.group num = some g →
    (s.groupIn l g = false → exec (.sluiceFiring l num) s = .next s ∧ exec (.linkReady l num) s = .next s)
    ∧ (s.groupIn l g = true → g.window.all (fun p => !p.2.link) = true →
      exec (.sluiceFiring l num) s = .next ((u.setGroup l g).setGroup l
        (((g.windowAt c).filter fun p => g.breach.isNone && p.2.mems.all ripe && !decide (p.1 ∈ g.withdrawn)
            && g.window.all fun q => !(decide (q.1 < p.1) && decide (q.2.mask &&& p.2.mask ≠ 0))).foldl
          (fun h p => h.fire p.1 p.2 (s.memberCycle lc g) none) (g.consider c)))
      ∧ exec (.linkReady l num) s = .next ((u.setGroup l g).setGroup l (g.consider c)))
    ∧ (s.groupIn l g = true → (∀ p ∈ g.window, p.2.link = true → ∃ h ∈ lc.partners g p.2.tag,
          h.readyFor p.2.tag (g.occurrence p.1 p.2.tag) = none) →
      ∃ t h, exec (.linkReady l num) s = .next t ∧ t = { u with launches := t.launches }
        ∧ (t.launchAt l).group num = some h ∧ h.waiting = g.waiting ∧ h.decided = g.decided
        ∧ ∀ p ∈ g.windowAt c, apart p → p.1 ∉ g.withdrawn → (∀ r ∈ g.ready, r.1 ≠ p.1) → (p.1, s.tide.toNat) ∈ h.ready)
    ∧ (∀ q e h q2 k2 f, s.groupIn l g = true → (q, e) ∈ g.windowAt c → apart (q, e) →
        (∀ p ∈ g.window, p.2.link = true → p = (q, e)) → q ∉ g.withdrawn → (∀ r ∈ g.ready, r.1 ≠ q) →
        lc.partners g e.tag = [h] → lc.group h.num = some h → s.groupIn l h = true →
        h.readyFor e.tag (g.occurrence q e.tag) = some (q2, k2) → entryAt h.seq q2 = some f →
      let fired := fun (old new : Group) (x : Nat) (y : Barrier) =>
        new.waiting = old.waiting.filter (fun m => !y.mask.getLsbD m)
        ∧ ∃ r ∈ new.decided, r.pos = x ∧ r.mems.map (·.1) = y.mems ∧ r.tick = some (200 + max s.tide.toNat k2)
      ∃ t g' h', exec (.linkReady l num) s = .next t ∧ t = { u with launches := t.launches }
        ∧ (t.launchAt l).group num = some g' ∧ (t.launchAt l).group h.num = some h'
        ∧ fired g g' q e ∧ fired h h' q2 f)
    ∧ (∀ r, g.decided.find? (fun r => r.pos = pos) = some r → s.releaseDue lc g r i = true →
        ∀ a b c, (s.slotAt (lc.slotOf (g.members.getD i 0))).wait = some (.sluice a b c) →
        ∃ u t, exec (.sluiceRelease l num pos i) s = .next t
          ∧ Completes (lc.slotOf (g.members.getD i 0)) 8 (s.img (lc.slotOf (g.members.getD i 0))) u t
          ∧ u = { s with launches := u.launches }
          ∧ ∃ h, (u.launchAt l).group num = some h ∧ h.phase = setNth g.phase i (g.phase.getD i 0 + 1)
            ∧ h.waiting = g.waiting ∧ h.base = g.base)
    ∧ (∀ r, g.decided.find? (fun r => r.pos = pos) = some r → s.releaseDue lc g r i = false →
        exec (.sluiceRelease l num pos i) s = .next s)

/-- On an ordinary core: SEMV with no slot waiting on the semaphore adds its count where the sum is at most 255, and traps
with SEMOVF 0 where it is not, TVAL the semaphore, its count and the addend; SEMW of a count that is not zero takes
one and completes, and of a zero one blocks the slot. On a pump-class or board core both trap with MSGFAULT 5, TVAL
the semaphore. (R216, R225.) -/
def Obligations.SemaphoresCount : Prop :=
  ∀ (k : Fin 16) (c : BitVec 8) (s : State),
    let n := s.cur
    let t := tileOf n
    let x := (s.tileAt t).sems[k]
    let set := fun v : BitVec 8 => s.setTile t { s.tileAt t with sems := (s.tileAt t).sems.set k v }
    (isOrdinary n = true →
      (s.semWaiters t k = [] → x.toNat + c.toNat ≤ 255 → Acts (.semv k c) 8 (s.img n) (set (x + c)) s)
      ∧ (255 < x.toNat + c.toNat →
          TrapsOn (.semv k c) 0x1B 0 (word (k.val + 2 ^ 8 * x.toNat + 2 ^ 16 * c.toNat)) s)
      ∧ (x = 0 → BlocksOn (.semw k) (.semw k) s s)
      ∧ (x ≠ 0 → ∃ t, exec (.semw k) s = .next t ∧ Completes n 8 (s.img n) (set (x - 1)) t))
    ∧ (isOrdinary n = false → TrapsOn (.semv k c) 0x23 5 (word k.val) s ∧ TrapsOn (.semw k) 0x23 5 (word k.val) s)

/-- SEND to a logical core of the launch, and SEND.far to a destination of R349 or R410, block the slot on the message
with the count + 1 words from g[A] on; a value that names no destination traps with MSGFAULT 0. MESSAGE_ACCEPT
resolves the destination again (the model's reading of R220, log 37, as is the fabric name that a sender has in its
own module): at a core of this module with a free shared entry, no arm and no slot waiting for that sender it appends
the message with the sender's name and its channel's sequence number, and completes the SEND, whose thread issues
again at its first turn after the cycle; for a launch that is switched out it changes nothing; for another module it
completes the SEND, or traps with MSGFAULT 0 where the message is refused and 4 where the link is down; and where the
value names no destination any more it traps with MSGFAULT 0. RECV of a sender's oldest message for the thread's
launch takes it from the buffer: the header with sequence and count to g[D] and the payload to g[D+1] to g[D+4]; one
of a fabric channel that is out of sequence stays and traps with MSGFAULT 1; without one RECV waits and RECV.try
answers -1 (a SEALED trap in a sealed launch at user level). A value that is no sender name traps with MSGFAULT 2.
(R208, R209, R210, R211, R220, R221, R410.) -/
def Obligations.MessagesTravel : Prop :=
  ∀ (c : Fin 4) (t : Bool) (d a b : Reg) (s : State),
    let n := s.cur
    let home := s.coreAt (coreOf n)
    let im := s.img n
    let dst := if bits (s.g b) 63 12 = 0 ∧ (s.g b).toNat / 4 < s.tilesOf n
      then some (4 * (s.launchOf n).place.getD ((s.g b).toNat / 4) 0 + (s.g b).toNat % 4) else none
    let pay := (List.range (c.val + 1)).map fun i => s.g (regPlus a i)
    (∀ k, dst = some k → BlocksOn (.send c false a b) (.send ⟨s.g b, false, false, pay⟩) s s)
    ∧ (dst = none → TrapsOn (.send c false a b) 0x23 0 (s.g b) s)
    ∧ (∀ tg, s.farDestination n (s.g b) = some tg →
        BlocksOn (.send c true a b) (.send ⟨s.g b, true, decide (bits (s.g b) 63 60 ≠ 2), pay⟩) s s)
    ∧ (s.farDestination n (s.g b) = none → TrapsOn (.send c true a b) 0x23 0 (s.g b) s)
    ∧ (∀ (k : Nat) (m : Outgoing) (r : Remote), (s.slotAt k).wait = some (.send m) →
        let ch := s.channelOf k m.far m.dst
        let who := if m.fabric then s.fabricName k else s.nameOf k
        let later := fun u : State => u.setSlot k { u.slotAt k with turnFrom := max (u.slotAt k).turnFrom (s.now k + 1) }
        (∀ core l, s.destination k m.far m.dst = some (.core core l) →
          let far := s.coreAt core
          (far.rx.countP fun m => m.seat.isNone) < 48 → far.arms = [] → s.recvWaiters core l who = [] → s.popWaiters core = [] →
          let u := s.setCore core { far with rx := far.rx ++ [⟨l, who, s.seqOf k ch, m.payload, false, none⟩] }
          ∃ t, exec (.messageAccept k r) s = .next t ∧ Completes k 8 (s.img k) (later (u.bumpSeq k ch)) t)
        ∧ (s.destination k m.far m.dst = some .out → exec (.messageAccept k r) s = .next s)
        ∧ (s.destination k m.far m.dst = none → ∃ t, exec (.messageAccept k r) s = .next t ∧ Traps k 0x23 0 m.dst s t)
        ∧ (s.destination k m.far m.dst = some .away →
          (∀ bs, r = .data bs → ∃ t, exec (.messageAccept k r) s = .next t ∧ Completes k 8 (s.img k) (later (s.bumpSeq k ch)) t)
          ∧ (r = .refused → ∃ t, exec (.messageAccept k r) s = .next t ∧ Traps k 0x23 0 m.dst s t)
          ∧ (r = .linkDown → ∃ t, exec (.messageAccept k r) s = .next t ∧ Traps k 0x23 4 m.dst s t)))
    ∧ ((t = true → s.sealedHere = false) →
      (s.isSenderName n (s.g a) = true →
        (∀ m, home.rx.find? (fun m => s.isOf m (s.slotAt n).launch (s.g a)) = some m →
          (s.outOfSequence home m = true → TrapsOn (.recv t d a) 0x23 1 m.sender s)
          ∧ (s.outOfSequence home m = false → ∃ u, exec (.recv t d a) s = .next u
            ∧ Completes n 8 (((((im.withG d (word (m.seq.toNat * 2 ^ 16 + m.payload.length))).withG (regPlus d 1)
                (m.payload.getD 0 0)).withG (regPlus d 2) (m.payload.getD 1 0)).withG (regPlus d 3)
                (m.payload.getD 2 0)).withG (regPlus d 4) (m.payload.getD 3 0))
                (s.setCore (coreOf n) { home with
                  rx := home.rx.eraseP fun x => x = m
                  expect := (home.dropMsg m).expect }) u
            ∧ (bit m.sender 63 = false → (home.dropMsg m).expect = home.expect)))
        ∧ (home.rx.find? (fun m => s.isOf m (s.slotAt n).launch (s.g a)) = none →
            (t = false → BlocksOn (.recv t d a) (.recv (s.g a) d) s s)
            ∧ (t = true → Gives (.recv t d a) 8 d (BitVec.ofInt 64 (-1)) s)))
      ∧ (s.isSenderName n (s.g a) = false → TrapsOn (.recv t d a) 0x23 2 (s.g a) s))
    ∧ (t = true → s.sealedHere = true → TrapsOn (.recv t d a) 0x07 0 0 s)

/-- With no slot of the core waiting in RQPOP since an earlier cycle, RQPUSH to a priority with fewer than 16 entries
appends g[A] and answers 0; to a full one it traps with QFULL and the priority, TVAL g[A], and RQPUSH.try answers -1.
RQPOP of an entry takes the oldest of the highest priority that has one (0 first), with the priority in g[D] and the
value in g[D+1], where no arm is held; of an empty queue it waits, and RQPOP.try answers -1. RARM of a sender name
with a free arm, of which it takes the lowest (log 67), arms it and answers 0 where no unfired message of it waits,
and where one waits marks the oldest as fired, pushes the value where its priority has room, and answers 1; without a
free arm it answers -1; of no sender name it traps with MSGFAULT 2. RARM and the try forms trap with SEALED in a
sealed launch at user level. (R213, R214, R222, R223, R224.) -/
def Obligations.ReadyQueuesAndArms : Prop :=
  ∀ (p : Fin 4) (t : Bool) (d a b : Reg) (s : State),
    let n := s.cur
    let k := coreOf n
    let c := s.coreAt k
    let im := s.img n
    (s.popWaiters k = [] → (t = true → s.sealedHere = false) →
      (c.ready[p].length < 16 → Acts (.rqpush p t d a) 8 (im.withG d 0)
          (s.setCore k { c with ready := c.ready.set p (c.ready[p] ++ [((s.slotAt n).launch, s.g a)]) }) s)
      ∧ (16 ≤ c.ready[p].length → (t = false → TrapsOn (.rqpush p t d a) 0x1C p.val (s.g a) s)
          ∧ (t = true → Gives (.rqpush p t d a) 8 d (BitVec.ofInt 64 (-1)) s)))
    ∧ ((t = true → s.sealedHere = false) →
      (∀ x r y, c.ready[p] = (y, x) :: r → (∀ q : Fin 4, q < p → c.ready[q] = []) → (∀ y ∈ c.arms, y.2.held = false) →
        ∃ u, exec (.rqpop t d) s = .next u
          ∧ Completes n 8 ((im.withG d (word p.val)).withG (regPlus d 1) x) (s.setCore k { c with ready := c.ready.set p r }) u)
      ∧ ((∀ q : Fin 4, c.ready[q] = []) →
          (t = false → BlocksOn (.rqpop t d) (.rqpop d (s.now n)) s s)
          ∧ (t = true → Gives (.rqpop t d) 8 d (BitVec.ofInt 64 (-1)) s)))
    ∧ (s.sealedHere = false →
      (s.isSenderName n (s.g a) = true →
        let l := (s.slotAt n).launch
        (∀ i, c.freeArm = some i →
          ((∀ m ∈ c.rx, s.isOf m l (s.g a) = true → m.fired = true) →
            Acts (.rarm p d a b) 8 (im.withG d 0)
              (s.setCore k { c with arms := c.arms ++ [(i, ⟨l, s.g a, s.g b, p, false⟩)] }) s)
          ∧ (∀ before m after, c.rx = before ++ m :: after → s.isOf m l (s.g a) = true → m.fired = false →
              (∀ x ∈ before, s.isOf x l (s.g a) = true → x.fired = true) → c.ready[p].length < 16 → s.popWaiters k = [] →
              Acts (.rarm p d a b) 8 (im.withG d 1)
                (s.setCore k { c with
                  rx := before ++ { m with fired := true } :: after, ready := c.ready.set p (c.ready[p] ++ [(l, s.g b)]) }) s))
        ∧ (c.freeArm = none → Gives (.rarm p d a b) 8 d (BitVec.ofInt 64 (-1)) s))
      ∧ (s.isSenderName n (s.g a) = false → TrapsOn (.rarm p d a b) 0x23 2 (s.g a) s))
    ∧ (s.sealedHere = true → TrapsOn (.rarm p d a b) 0x07 0 0 s ∧ TrapsOn (.rqpush p true d a) 0x07 0 0 s
        ∧ TrapsOn (.rqpop true d) 0x07 0 0 s)

/-- From every state MBX writes the named word of the issuing core's mailbox to g[D]. MBXW to a logical core of the launch
in the issuing slot's own region sets the named word of that core's mailbox to g[B] and changes nothing else; to a
core of another region, or from a slot of no ordinary core, it traps with MSGFAULT 3, and with a value that names no
core of the launch with MSG 0; TVAL is g[A]. (R217, R226.) -/
def Obligations.MailboxesAreReadAndWritten : Prop :=
  ∀ (d a b : Reg) (k : Fin 8) (s : State),
    let n := s.cur
    let x := s.g a
    let far := 4 * (s.launchOf n).place.getD (x.toNat / 4) 0 + x.toNat % 4
    let named := bits x 63 12 = 0 ∧ x.toNat / 4 < s.tilesOf n
    let near := isOrdinary n = true ∧ regionOf (far / 4) = regionOf (tileOf n)
    Gives (.mbx d k) 8 d (s.coreAt (coreOf n)).mailbox[k] s
    ∧ (named → near → Acts (.mbxw a b k) 8 (s.img n)
        (s.setCore far { s.coreAt far with mailbox := (s.coreAt far).mailbox.set k (s.g b) }) s)
    ∧ (named → ¬ near → TrapsOn (.mbxw a b k) 0x23 3 x s)
    ∧ (¬ named → TrapsOn (.mbxw a b k) 0x23 0 x s)

/-- With fewer than 16 live frames and room below LIMIT, HANDLE writes frame DEPTH's four words (id, mask, kind, loop
depth and the new PUSHES; the handler's PC; g2; the exit), raises DEPTH and PUSHES by one and goes on 16 bytes on; no
other byte changes; otherwise it traps with HSTACK 0, TVAL the frame's offset. ENDH at depth 0 traps with HSTACK 1,
HEXIT there with HSTACK 3. With no live frame malformed: ENDH whose top frame is not suspended and has EXIT = PC + 8
lowers DEPTH by one, else it traps with HSTACK 2; HEXIT pops down to the frame of the running handler, or in a body to
the top frame, restores g2, drops the loop levels above the frame's and goes to its EXIT. A pop to DEPTH j invalidates
each valid continuation record of a DEPTH above j, with its GEN up by one, and leaves one turn empty for every four
records begun. (R228, R229, R233, R235, R242, R247.) -/
def Obligations.HandlersOpenAndClose : Prop :=
  ∀ (multi : Bool) (id mask : BitVec 16) (hOff eOff : BitVec 32) (s : State),
    let n := s.cur
    let im := s.img n
    let i := hspDepth im.hsp
    let off := hspBase im.hsp + 32 * i
    let l := fun k : Nat => (gLoc (coreOf n) (off + k)).key
    let pushes := (hspPushes im.hsp + 1) % 2 ^ 16
    let head := word (pushes * 2 ^ 48 + im.loops.length * 2 ^ 45 + (if multi then 2 ^ 32 else 0) + mask.toNat * 2 ^ 16 + id.toNat)
    let fs := s.frameHeads n
    let h := Instr.handle multi id mask hOff eOff
    let mem := storeNat (storeNat (storeNat (storeNat s.mem (l 0) 8 head.toNat)
      (l 8) 8 (im.pc + hOff.signExtend 64).toNat) (l 16) 8 (s.g 2).toNat)
      (l 24) 8 (im.pc + eOff.signExtend 64 + 8).toNat
    let dead := fun r : Word => (setBits (setBits r 43 43 0) 63 48 (bits r 63 48 + 1)).toNat
    let valid := fun j q : Nat => bit (s.recordHead n q) 43 && decide (j < bits (s.recordHead n q) 29 25)
    let popped := fun j : Nat => ({ s with mem := ((List.range (s.recordCount n)).filter (valid j)).foldl (fun m q =>
        storeNat m (gLoc (coreOf n) (s.recordOff n q)).key 8 (dead (s.recordHead n q))) s.mem } : State)
    let empties := fun v : State => if s.recordCount n = 0 then v
      else v.setSlot n { v.slotAt n with issueFrom := s.now n + 16 * ((s.recordCount n + 3) / 4 + 1) }
    let f := (currentHandler fs fs.length).getD (i - 1)
    (i ≠ 16 → off + 32 ≤ 32 * bits im.hlimit 18 5 →
      Acts h 16 { im with hsp := setBits (setBits im.hsp 63 48 pushes) 23 19 (i + 1) }
        { s with mem := mem } s)
    ∧ ((i = 16 ∨ 32 * bits im.hlimit 18 5 < off + 32) → TrapsOn h 0x12 0 (word off) s)
    ∧ (i = 0 → TrapsOn .endh 0x12 1 im.pc s ∧ (s.badFrame n = none → TrapsOn .hexit 0x12 3 im.pc s))
    ∧ (i ≠ 0 → s.badFrame n = none →
      ((suspended fs (i - 1) = true ∨ s.frameWord n (i - 1) 3 ≠ im.pc + 8) → TrapsOn .endh 0x12 2 im.pc s)
      ∧ (suspended fs (i - 1) = false → s.frameWord n (i - 1) 3 = im.pc + 8 →
          ∃ v, Retires n 8 { im with hsp := setBits im.hsp 23 19 (i - 1) } (popped (i - 1)) v
            ∧ exec .endh s = .next (empties v))
      ∧ ∃ v, exec .hexit s = .next (empties v) ∧ Moves n
            { im.withG 2 (s.frameWord n f 2) with
              hsp := setBits im.hsp 23 19 f
              loops := im.loops.drop (im.loops.length - bits (s.frameWord n f 0) 47 45)
              pc := s.frameWord n f 3 } (popped f) v)

/-- With no live frame malformed, for an effect id x from 0x100 to 0xFFFF: where a frame f matches and a record i is free,
PERFORM enters the handler at f's PC with g3 = x and g4 the token of record i and leaves g0 to g2 and g5 to g31 as
they were; its handler's first instruction issues 128 cycles on, and when these turns are over the record's header is
written, with VALID, the frame, the depth and the resume PC; no byte outside record i and frame f's first word changes
(that the frame and the record's other words are written at the begin is log 69). VPERFORM with active lanes does the
same and sets k7 to them; with none it only retires. No matching frame traps with UNHANDLED 0, no free record with
CONTSPACE 0, TVAL x; a PERFORM of another register value with UNHANDLED 1, TVAL that value. (R234, R236, R243, R244,
R249.) -/
def Obligations.PerformCapturesAndEnters : Prop :=
  ∀ (arg : PerfArg) (et : ET) (d : VReg) (k : KReg) (id : BitVec 16) (s : State),
    let n := s.cur
    let im := s.img n
    let fs := s.frameHeads n
    let lanes := lowLanes (s.kOf n k) et.lanes
    let x := match arg with | .imm e => e.setWidth 64 | .reg a => s.g a
    let enters := fun (i : Instr) (y f r vp : Nat) (kk : Vector (BitVec 128) 8) =>
      let head := word (genOf (s.recordHead n r) * 2 ^ 48 + frameKind (s.frameWord n f 0) * 2 ^ 44 + 2 ^ 43 + vp
        + f * 2 ^ 30 + hspDepth im.hsp * 2 ^ 25 + bits (im.atNext (im.pc + 8)).pc 24 0)
      ∃ t, exec i s = .next t
        ∧ (t.img n).pc = s.frameWord n f 1 ∧ (t.img n).g[3] = word y
        ∧ (t.img n).g[4] = tokenOf (genOf (s.recordHead n r)) r (frameKind (s.frameWord n f 0)) (s.slotAt n).logSlot.toNat
        ∧ (∀ q : Reg, q ≠ 3 → q ≠ 4 → (t.img n).g[q] = im.g[q]) ∧ (t.img n).k = kk ∧ (t.img n).v = im.v
        ∧ t.slotAt n = { s.slotAt n with wait := none, issueFrom := s.now n + 128, snap := some (s.recordOff n r, head) }
        ∧ t = { s with images := t.images, slots := t.slots, mem := t.mem }
        ∧ (∀ b, (b < (gLoc (coreOf n) (s.recordOff n r)).key ∨ (gLoc (coreOf n) (s.recordOff n r)).key + 320 ≤ b) →
            (b < (gLoc (coreOf n) (s.frameOff n f)).key ∨ (gLoc (coreOf n) (s.frameOff n f)).key + 8 ≤ b) →
            byteAt t.mem b = byteAt s.mem b)
    ((x.toNat < 0x100 ∨ 0xFFFF < x.toNat) → TrapsOn (.perform arg) 0x15 1 x s)
    ∧ (∀ m off head, (s.slotAt m).snap = some (off, head) →
        s.settleSnap m = ({ s with mem := storeNat s.mem (gLoc (coreOf m) off).key 8 head.toNat } : State).setSlot m
          { s.slotAt m with snap := none, resuming := false })
    ∧ (lanes = 0 → Acts (.vperform et d k id) 8 im s s)
    ∧ (s.badFrame n = none →
      (0x100 ≤ x.toNat → x.toNat ≤ 0xFFFF →
        (∀ f r, search fs x.toNat = some f → s.freeRecord n = some r → enters (.perform arg) x.toNat f r 0 im.k)
        ∧ (search fs x.toNat = none → TrapsOn (.perform arg) 0x15 0 x s)
        ∧ (∀ f, search fs x.toNat = some f → s.freeRecord n = none → TrapsOn (.perform arg) 0x13 0 x s))
      ∧ (lanes ≠ 0 →
        (∀ f r, search fs id.toNat = some f → s.freeRecord n = some r →
          enters (.vperform et d k id) id.toNat f r (2 ^ 42 + d.val * 2 ^ 38 + etCode et * 2 ^ 34) (im.k.set 7 lanes))
        ∧ (search fs id.toNat = none → TrapsOn (.vperform et d k id) 0x15 0 (word id.toNat) s)
        ∧ (∀ f, search fs id.toNat = some f → s.freeRecord n = none →
            TrapsOn (.vperform et d k id) 0x13 0 (word id.toNat) s)))

/-- A token that fails its check traps RESUME, RESUMEC and DISCARD with STALE_TOKEN and the number of the failed
condition, TVAL the token, and RESUMEC of a one-shot token with STALE_TOKEN 3 (that the token's check comes before the
frames' is log 45); TOKQ answers -1 where one of the first two conditions fails and 0 where a later one does. With a
valid token TOKQ answers depth, frame and kind; DISCARD invalidates the record and retires; RESUME (and RESUMEC of a
multi-shot token), with no live frame malformed, restores g1 to g31 from the record but g5, which takes g[B], and the
loop levels, goes to the record's resume PC and issues again 128 cycles on. (R230, R231, R236, R245, R246, R249.) -/
def Obligations.TokensResumeAndAreAsked : Prop :=
  ∀ (d a b : Reg) (s : State),
    let n := s.cur
    let t := s.g a
    let i := bits t 47 44
    let h := s.recordHead n i
    let back := fun op : Instr => ∃ u, exec op s = .next u
        ∧ (u.img n).pc = word (bits h 24 0) ∧ (u.img n).g[5] = s.g b
        ∧ (∀ q : Reg, q ≠ 0 → q ≠ 5 → (u.img n).g[q] = s.recordWord n i (0x48 + 8 * (q.val - 1)))
        ∧ (u.img n).loops = s.recordLoops n i
        ∧ (u.slotAt n) = { s.slotAt n with issueFrom := s.now n + 128, resuming := true }
        ∧ u = { s with images := u.images, slots := u.slots, mem := u.mem }
    let mem := storeNat s.mem (gLoc (coreOf n) (s.recordOff n i)).key 8 (setBits (setBits h 43 43 0) 63 48 (genOf h + 1)).toNat
    (∀ c, s.tokenFault n t = some c →
      TrapsOn (.resume a b) 0x14 (min c 2) t s ∧ TrapsOn (.resumec a b) 0x14 (min c 2) t s ∧ TrapsOn (.discard a) 0x14 (min c 2) t s
      ∧ Gives (.tokq d a) 8 d (if c ≤ 1 then BitVec.ofInt 64 (-1) else 0) s)
    ∧ (s.tokenFault n t = none →
      Gives (.tokq d a) 8 d (word (recDepth h * 2 ^ 16 + recFrame h * 2 ^ 8 + 1 + recKind h)) s
      ∧ Acts (.discard a) 8 (s.img n) { s with mem := mem } s
      ∧ (recKind h = 0 → TrapsOn (.resumec a b) 0x14 3 t s)
      ∧ (s.badFrame n = none → back (.resume a b) ∧ (recKind h ≠ 0 → back (.resumec a b))))

/-- The step TICK makes TICK (0x16) pending in a slot whose count has run out, and WATCHDOG_EXPIRY WDOG (0x19) in one that
has reached its limit; nothing else changes; that WDOG waits while the slot does is log 28, as is that of several
pending causes the lowest goes first and that a delivery is a step of its own. For the cause that an unpaired slot
takes next (a pair takes its causes together, at its leader's turn, and these steps change nothing, log 18):
EFFECT_DELIVERY, where the conditions of an effect hold, enters the handler with g3 the cause, g5 the subcode and g6
the value; TRAP_ENTRY, where they do not and the trap is not the reeve's, enters supervisor level with the trap's
record; HYPERVISOR_TRAP, where it is, holds the slot with the reeve's record and leaves its image. The cause is
pending no more. (R81, R239, R240, R254, R255, R256.) -/
def Obligations.BoundaryCausesAreDelivered : Prop :=
  ∀ (n : Nat) (s : State),
    let left := fun r : Raised => (s.slotAt n).pending.filter fun p => p.cause ≠ r.cause
    ((s.slotAt n).tickDue = true → exec (.tick n) s = .next (s.setSlot n { s.slotAt n with
        tickDue := false, pending := left ⟨0x16, 0, 0⟩ ++ [⟨0x16, 0, 0⟩] }))
    ∧ ((s.slotAt n).wdDue = true → (s.slotAt n).wait = none → ∃ t, exec (.watchdogExpiry n) s = .next t ∧ OnlySlot n s t ∧ t.images = s.images
        ∧ t.slotAt n = { s.slotAt n with wdDue := false, pending := left ⟨0x19, 0, 0⟩ ++ [⟨0x19, 0, 0⟩] })
    ∧ ((s.partner n).isSome = true → exec (.effectDelivery n) s = .next s ∧ exec (.trapEntry n) s = .next s
      ∧ exec (.hypervisorTrap n) s = .next s)
    ∧ (∀ r, s.partner n = none → s.boundaryCause n = some r →
      (∀ f i, s.effectTarget n r.cause = some (f, i) → ∃ t, exec (.effectDelivery n) s = .next t
          ∧ (t.img n).pc = s.frameWord n f 1 ∧ (t.img n).g[3] = word r.cause ∧ (t.img n).g[5] = word r.sub
          ∧ (t.img n).g[6] = r.val ∧ (t.slotAt n).pending = left r ∧ (t.slotAt n).issueFrom = s.now n + 128)
      ∧ (s.effectTarget n r.cause = none → s.toReeve n r.cause = false → ∃ t, exec (.trapEntry n) s = .next t
          ∧ OnlySlot n s t ∧ t.img n = (s.img n).enter r.cause r.sub r.val (s.img n).pc (isBoundary r.cause)
          ∧ t.slotAt n = { s.slotAt n with pending := left r, wait := none })
      ∧ (s.effectTarget n r.cause = none → s.toReeve n r.cause = true → ∃ t, exec (.hypervisorTrap n) s = .next t
          ∧ OnlySlot n s t ∧ t.img n = s.img n
          ∧ t.slotAt n = { s.slotAt n with
              pending := left r
              wait := none
              hold := some ⟨r.cause, r.sub, r.val, (s.img n).pc, isBoundary r.cause⟩ }))

/-- For every instruction of the opcode map with legal fields, of any of the 160 opcodes and with every operand at every
value that its encoding admits, the decoder reads from its encoded bytes, followed by any bytes, exactly that
instruction; and its length is 8, 12, 16 or 24 bytes as its format states. (R37, R38, R41, R44, R50.) -/
def Obligations.DecodingInvertsEncoding : Prop :=
  ∀ (i : Instr), i.wf = true → ∀ rest : List Byte,
    decodeBytes (encodeBytes i ++ rest) = .ok i
    ∧ (encodeBytes i).length = 4 * i.words ∧ i.words ∈ [2, 3, 4, 6]

/-- For every words x, if the decoder reads an instruction from them then it is well formed, or it is what an unallocated
or mismatched word does (ILLEGAL_OP), and its encoding equals x over the instruction's length: two words that differ
in any bit of the instruction never decode to the same one. (R37, R41, R44, R61.) -/
def Obligations.EncodingInvertsDecoding : Prop :=
  ∀ (x : Nat) (i : Instr), decode x = .ok i →
    (i.wf = true ∨ ∃ w0 w1, i = .illegalOp w0 w1) ∧ encodeNat i = x % 2 ^ (32 * i.words)

/-- The decoder reads TSTART, MUL, EXT, GADDR, JR, CALLR and SLEEP from words written out from the spec's encodings of
them, and reads ILLEGAL_OP from a word of the permanently illegal opcode 0x00 and from a LOOPI word whose L does not
match its format. (R59, R84, R104, R110, R115, R127.) -/
def Obligations.WorkedWordsDecode : Prop :=
  decodeTableWord 64 (0x14941DAC + 1 * 2 ^ 32) = some (.tstart .vector 7 8 9 10)
    ∧ decodeTableWord 64 (0x8062A410 + 1 * 2 ^ 32) = some (.mul .b32 .hs 9 5 6)
    ∧ decodeTableWord 64 (0xC4C29C6C + 4 * 2 ^ 32) = some (.ext true 7 5 12 4)
    ∧ decodeTableWord 64 (0x0014248C + 0x100 * 2 ^ 32) = some (.gaddr false false 1 9 8 0x100)
    ∧ decodeTableWord 64 0x000080CC = some (.jr 1)
    ∧ decodeTableWord 64 0x000484D0 = some (.callr 1 9)
    ∧ decodeTableWord 64 0x001600E0 = some (.sleep true 12 0)
    ∧ decodeTableWord 64 0 = some (.illegalOp 0 0)
    ∧ decodeTableWord 96 0x000000D8 = some (.illegalOp 0xD8 0)

/-- Where slot n's turn is due and is the one that the step takes, nothing is raised at its boundary, its pc is a multiple
of 4, the bytes of its code region from the pc decode to instruction i, and i lies within CODELIM and one fetch block
(a 24-byte one at its byte 0 or 8) with no word poisoned: the state in which n issues is s with its next turn 16
cycles on, the turn counted by the watchdog, and those of its outstanding stores performed that i is ordered after
(none where it has none). Where such a store or matrix work still holds i back, the step only blocks n until its next
turn; else the step is exec of i on that state, its store takes its place behind n's outstanding accesses where it is
a release that follows some (with none outstanding nothing does), and the activity is counted for the launch's energy
estimate. The order of turns (the step takes each turn before the clock moves on) is the model's schedule (log 2), and
the outstanding stores are its log 5. (R38, R39, R61, R75, R81, R118.) -/
def Obligations.StepRunsTheDecodedInstruction : Prop :=
  ∀ (n : Nat) (i : Instr) (rest : List Sched) (s : State),
    let pc := s.pcOf n
    let off := pc.toNat % 32
    let len := 4 * i.words
    let from_ := codeKey (s.slotAt n).launch + pc.toNat
    let u : State := { s with agenda := rest, cur := n }
    let v := (u.setSlot n { s.slotAt n with turnFrom := s.now n + 16, starting := false }).countTurn n
    let w := v.landBefore n i
    s.quotaStop = none →
    ((s.nextEntry.exists_ = true ∧ s.turnFirst s.nextEntry = some n ∧ rest = s.agenda)
      ∨ (s.agenda = .turn n :: rest ∧ slotExists n = true ∧ s.turnFirst (.turn n) = none)) →
    FreeTurn n s → s.poison = [] → pc.toNat % 4 = 0 →
    decodeBytes ((List.range 24).map fun k => byteAt s.mem (from_ + k)) = .ok i →
    pc.toNat + len ≤ s.codelim n → off + len ≤ 32 → (len = 24 → off = 0 ∨ off = 8) →
    (s.culvert = [] → w = v)
    ∧ (w.orderWaits n i = true → step s = .next (w.block n .order))
    ∧ (w.orderWaits n i = false →
      (∀ t, exec i w = .next t → step s = .next ((t.post w n i).chargeInstr w i)
        ∧ (w.outstanding n = false → t.post w n i = t)
        ∧ ((∀ x ∈ w.posts i, x.rel = false) → t.post w n i = t))
      ∧ (∀ f, exec i w = .fault f → step s = .fault f) ∧ (∀ r, exec i w = .refused r → step s = .refused r))

/-- At a free turn with no word poisoned: a pc that is no multiple of 4 traps with ALIGN 0x11 and TVAL the pc; else one at
or beyond CODELIM with FETCH_BOUND 0 and TVAL the pc; else, by the length that L gives, an instruction whose end lies
beyond CODELIM with FETCH_BOUND 1 and TVAL CODELIM, one that crosses its block with SPLIT_FETCH 0, one of 24 bytes
that begins neither at byte 0 nor at byte 8 with SPLIT_FETCH 1 (TVAL the pc), and then words with an illegal field
with ILLEGAL_FIELD, its subcode the field's bit (of SRD and SWR of a tile window's number off an ordinary core that of
the number, which is not allocated there), TVAL the two words that hold it. The step changes nothing else but the
turn's own marks. (R39, R61, R62, R254, R255, R420.) -/
def Obligations.FetchChecksInOrder : Prop :=
  ∀ (n : Nat) (rest : List Sched) (s : State),
    let pc := s.pcOf n
    let off := pc.toNat % 32
    let len := s.lengthAt n pc
    let u : State := { s with agenda := rest, cur := n }
    let v := (u.setSlot n { s.slotAt n with turnFrom := s.now n + 16, starting := false }).countTurn n
    let x := loadNat s.mem (codeKey (s.slotAt n).launch + pc.toNat) len
    let traps := fun (c sub : Nat) (y : Word) => ∃ t, step s = .next t ∧ Traps n c sub y v t
    s.quotaStop = none →
    ((s.nextEntry.exists_ = true ∧ s.turnFirst s.nextEntry = some n ∧ rest = s.agenda)
      ∨ (s.agenda = .turn n :: rest ∧ slotExists n = true ∧ s.turnFirst (.turn n) = none)) →
    FreeTurn n s → s.poison = [] →
    (pc.toNat % 4 ≠ 0 → traps 0x08 0x11 pc)
    ∧ (pc.toNat % 4 = 0 → s.codelim n ≤ pc.toNat → traps 0x04 0 pc)
    ∧ (pc.toNat % 4 = 0 → pc.toNat < s.codelim n →
      (s.codelim n < pc.toNat + len → traps 0x04 1 (word (s.codelim n)))
      ∧ (pc.toNat + len ≤ s.codelim n →
        (32 < off + len → traps 0x03 0 pc)
        ∧ (off + len ≤ 32 →
          (len = 24 → off ≠ 0 → off ≠ 8 → traps 0x03 1 pc)
          ∧ ((len = 24 → off = 0 ∨ off = 8) →
            (∀ b, decode x = .field b → traps 0x02 (fieldBit (isOrdinary n) x b) (word (x / 2 ^ (64 * (b / 64)) % 2 ^ 64)))))))

/-- For every state whose memory lists rising keys and no byte that an unlisted key would read as, reached by a run or
not: if a step of any kind (a turn with any instruction, a clock, a tick of the tide, any of the machine's own steps
and outside events) answers a next state, the memory of that state is in the same form, so that equal memories are
equal data. (The list form is the model's own.) (R35, R136.) -/
def Obligations.StepKeepsMemoryCanonical : Prop :=
  ∀ s t : State, MemOk s → step s = .next t → MemOk t

/-- After reset the memory is in its canonical form with nothing listed; every slot is FREE; TIDE is 0; CRESTNOW has MHZ
2,100, SAFE 0, EMERG 0 and INDEX 60, CRESTAT is 0; every region's FBMAX is 60; and every general register of every
slot reads 0 (that last value is the model's: log 1). (R77, R374, R384, R396.) -/
def Obligations.ResetHoldsTheStatedValues : Prop :=
  MemOk State.reset ∧ State.reset.mem = [] ∧ (∀ n, (State.reset.slotAt n).state = .free) ∧ State.reset.tide = 0
    ∧ bits State.reset.crest.now 31 16 = 2100 ∧ bits State.reset.crest.now 7 6 = 0 ∧ bits State.reset.crest.now 5 0 = 60
    ∧ State.reset.crest.at_ = 0 ∧ (∀ r, (State.reset.regionAt r).fbmax = 60) ∧ (∀ n r, State.reset.gOf n r = 0)

/-- TRET, TKILL, HVC, TLBI, XLAT and GADDR.phys at user level trap with PRIV 0, TVAL words 1 and 0 of the instruction;
TSTART, TSTOP, TREAP, TSTAT and PAIR from a slot that is not slot 0 of its core with PRIV 1, TVAL the words; SRD and
SWR of an allocated register whose read or write needs a higher level with PRIV 2, TVAL the register's number; LD, ST,
LDM, STM and the tagged, atomic and RACEM forms of CONTEXT at user level, and LD, ST, LDM and STM of a physical global
address there, with PRIV 3, TVAL the effective address. (R61, R252, R253, R258, R272.) -/
def Obligations.FormsAboveTheLevelTrapWithPriv : Prop :=
  ∀ (b : Bool) (w : Width) (o : Ord) (op : Aop) (n : BitVec 32) (f : TlbiForm) (e : Engine) (r : BitVec 12) (g : SwrForm)
      (sp : Fin 4) (d a c x : Reg) (m : Addr) (off : BitVec 24) (imm : BitVec 32) (s : State),
    let k := slotIdx s.cur
    let privileged := fun i : Instr => TrapsOn i 0x05 0 (words01 i) s
    let ofSlotZero := fun i : Instr => TrapsOn i 0x05 1 (words01 i) s
    let ofSpace := fun i : Instr => TrapsOn i 0x05 3 (s.effAddr m) s
    let ofSpaceAB := fun i : Instr => TrapsOn i 0x05 3 (s.effAddrAB a off) s
    (s.level s.cur = 0 →
      privileged (.tret b) ∧ privileged (.tkill d a) ∧ privileged (.hvc n) ∧ privileged (.tlbi f a)
      ∧ privileged (.xlat b d a) ∧ privileged (.gaddr true b sp d a imm))
    ∧ (k ≠ 0 → ofSlotZero (.tstart e d a c x) ∧ ofSlotZero (.tstop d a) ∧ ofSlotZero (.treap b d a)
      ∧ ofSlotZero (.tstat d a) ∧ ofSlotZero (.pair b d a))
    ∧ (sysAllocated (isOrdinary s.cur) r.toNat = true →
      (s.level s.cur < sysReadLevel r.toNat → TrapsOn (.srd d r) 0x05 2 (word r.toNat) s)
      ∧ (s.level s.cur < max (sysReadLevel r.toNat) (sysWriteLevel r.toNat) →
          TrapsOn (.swr g d a r) 0x05 2 (word r.toNat) s))
    ∧ (s.level s.cur = 0 →
      ofSpace (.ld w b o .ctx d m) ∧ ofSpace (.st w o .ctx d m) ∧ ofSpace (.ldm w b o .ctx d m) ∧ ofSpace (.stm w o .ctx d m)
      ∧ ofSpace (.ldf .ctx d m) ∧ ofSpace (.lde .ctx d m) ∧ ofSpace (.stf .ctx d m) ∧ ofSpace (.stff .ctx d m)
      ∧ ofSpace (.tagq .ctx d m) ∧ ofSpace (.tagset .ctx d m) ∧ ofSpace (.racem .ctx d m)
      ∧ ofSpaceAB (.amo w o op .ctx d a c off) ∧ ofSpaceAB (.cas w o .ctx d a c off)
      ∧ (bits (s.effAddr m) 63 60 = 8 →
          ofSpace (.ld w b o .glob d m) ∧ ofSpace (.st w o .glob d m) ∧ ofSpace (.ldm w b o .glob d m)
          ∧ ofSpace (.stm w o .glob d m)))

/-- For every instruction of the vector, matrix or copy set that earlier checks let through, issued on a slot bound to
another engine: it traps with BINDING 0, TVAL words 1 and 0 of the instruction, whatever its operands, and has no
other effect. Instructions of the scalar set are bound to no engine: no slot has BINDING raised for one at issue.
(R61, R62, R78.) -/
def Obligations.EngineSetsBindTheirSlots : Prop :=
  ∀ (i : Instr) (s : State),
    (unitOf i ≠ .scalar → (s.slotAt s.cur).engine ≠ unitOf i → s.lateField i = none → s.privFault i = none →
      TrapsOn i 0x06 0 (words01 i) s)
    ∧ (unitOf i = .scalar → ∀ c, s.issueFault i = some c → c.1 ≠ 0x06)

/-- On a vector slot, for an integer element type: VADD, VSUB (wrapping and saturating), VMUL (low and high), VFMA, VMIN,
VMAX, VABS, VNEG and, with no zero divisor in an active lane, VDIV retire; each active lane of v[VD] takes the exact
integer result modulo 2^w (VDIV truncates), an inactive one zero or its old value by ZM, and nothing else changes.
VDIV with a zero divisor in an active lane traps with DIVZERO 2 and the lowest such lane where it is no effect. For
any element type the same holds of VAND, VOR, VXOR, VSHL and VSHR (arithmetic for signed types), where a count of the
width or more shifts everything out. (R303, R304, R305, R306, R309, R78.) -/
def Obligations.VectorIntegerLanes : Prop :=
  ∀ (t : ET) (rm : RM) (x : VDst) (a b c : VReg) (s : State),
    let n := s.cur
    let p := fun i : Nat => intOf t.isSigned t.bits (s.lane t a i)
    let q := fun i : Nat => intOf t.isSigned t.bits (s.lane t b i)
    let r := fun i : Nat => intOf t.isSigned t.bits (s.lane t c i)
    let lo : Int := if t.isSigned then -(2 ^ (t.bits - 1)) else 0
    let hi : Int := if t.isSigned then 2 ^ (t.bits - 1) - 1 else 2 ^ t.bits - 1
    let ints := fun (op : Instr) (f : Nat → Int) => ActsOnLanes op t x (fun i => (f i % 2 ^ t.bits).toNat) s s
    let bitwise := fun (op : Instr) (f : Nat → Nat) => ActsOnLanes op t x f s s
    (s.slotAt n).engine = .vector →
    (t.isI = true →
      ints (.vadd t rm false x a b) (fun i => p i + q i)
      ∧ ints (.vadd t rm true x a b) (fun i => max lo (min (p i + q i) hi))
      ∧ ints (.vsub t rm false x a b) (fun i => p i - q i)
      ∧ ints (.vsub t rm true x a b) (fun i => max lo (min (p i - q i) hi))
      ∧ ints (.vmul t rm false x a b) (fun i => p i * q i)
      ∧ ints (.vmul t rm true x a b) (fun i => p i * q i / 2 ^ t.bits)
      ∧ ints (.vfma t rm x a b c) (fun i => p i * q i + r i)
      ∧ ints (.vmin t x a b) (fun i => min (p i) (q i)) ∧ ints (.vmax t x a b) (fun i => max (p i) (q i))
      ∧ ints (.vabs t x a) (fun i => (p i).natAbs) ∧ ints (.vneg t x a) (fun i => -(p i))
      ∧ ((∀ i ∈ s.activeLanes t x.k, s.lane t b i ≠ 0) → ints (.vdiv t rm x a b) (fun i => (p i).tdiv (q i)))
      ∧ (∀ i ∈ s.activeLanes t x.k, s.lane t b i = 0 → (∀ j ∈ s.activeLanes t x.k, j < i → s.lane t b j ≠ 0) →
          bit (s.img n).effen 0x10 = false → TrapsOn (.vdiv t rm x a b) 0x10 2 (word i) s))
    ∧ bitwise (.vand t x a b) (fun i => s.lane t a i &&& s.lane t b i)
    ∧ bitwise (.vor t x a b) (fun i => s.lane t a i ||| s.lane t b i)
    ∧ bitwise (.vxor t x a b) (fun i => s.lane t a i ^^^ s.lane t b i)
    ∧ bitwise (.vshl t x a b) (fun i => if t.bits ≤ s.lane t b i then 0 else s.lane t a i * 2 ^ s.lane t b i % 2 ^ t.bits)
    ∧ (t.isSigned = true → bitwise (.vshr t x a b) (fun i => (p i / 2 ^ min (s.lane t b i) (t.bits - 1) % 2 ^ t.bits).toNat))
    ∧ (t.isSigned = false → bitwise (.vshr t x a b) (fun i => s.lane t a i / 2 ^ s.lane t b i))

/-- On a vector slot, for a floating-point type: VADD, VSUB, VMUL, VFMA, VDIV, VSQRT, VMIN, VMAX, VABS and VNEG give each
active lane the one rounding of the exact result (of the value the operation's rule gives) in the mode of RM; VCVT,
VQUANT and VDEQ convert, divide by or multiply with the scale in the lanes of their part, of v[VB] or of g[GA] (a VCVT
to a type that holds every value of the source type is exact, and nothing saturates there). The union of the active
lanes' flags joins FPFLAGS and the instruction retires (always so where FPTRAP enables none), or, where one is
enabled, FPX is raised with the lowest lane and nothing is written; a subnormal of an arithmetic instruction costs
turns in the normaliser. (R284, R288, R289, R292, R293, R294, R305, R309, R312.) -/
def Obligations.VectorFloatingLanes : Prop :=
  ∀ (t t2 : ET) (rm : RM) (sat : Bool) (part : Fin 4) (x : VDst) (a b c : VReg) (ga : Reg) (s : State),
    let m := s.roundMode s.cur rm
    let lane := fun (r : VReg) (i : Nat) => s.lane t r i
    let v := fun (r : VReg) (i : Nat) => numLane t (s.lane t r i)
    let w := fun (r : VReg) (i : Nat) => numLane t2 (s.lane t2 r i)
    let subs := fun (f : Form) (xs : List Nat) => xs.any f.isSub
    let once := fun (op : Instr) (mode : RM) (norm : Bool) (rs : List VReg) (f : Nat → Exact) =>
      RoundsLanes op t x (fun i =>
        let z := (formOf t).deliver (f i) mode false
        ⟨z, norm && (subs (formOf t) (z.bits :: rs.map fun r => lane r i))⟩) s
    let conv := fun (op : Instr) (sat : Bool) (f : Nat → Nat → Exact) (src : Nat → Nat → Bool) =>
      let res := fun i j => (formOf t).deliver (f i j) m sat
      let act := (lanePairs t t2 part.val).filter fun p => (s.kOf s.cur x.k).getLsbD p.1
      ∃ y, Rounds op (act.map fun p => (p.1, (res p.1 p.2).flags))
          (act.any fun p => src p.1 p.2 || (formOf t).isSub (res p.1 p.2).bits) ((s.img s.cur).withV x.d y) s s
        ∧ LanesAre t y fun i => match sourceLane t t2 part.val i with
            | some j => maskedLane s t x (fun i => (res i j).bits % 2 ^ t.bits) i
            | none => lane x.d i
    (s.slotAt s.cur).engine = .vector →
    (bits (s.img s.cur).fptrap 4 0 = 0 →
      (t.isI = false → ∀ i ∈ [Instr.vadd t rm sat x a b, .vsub t rm sat x a b, .vmul t rm sat x a b, .vfma t rm x a b c,
        .vdiv t rm x a b, .vsqrt t rm x a, .vmin t x a b, .vmax t x a b, .vabs t x a, .vneg t x a], RetiresAnyway i s)
      ∧ RetiresAnyway (.vcvt t t2 rm part sat x a) s
      ∧ ∀ g, RetiresAnyway (.vquant t t2 rm part g sat x a b ga) s ∧ RetiresAnyway (.vdeq t t2 rm part g x a b ga) s)
    ∧ (t.isI = false →
      once (.vadd t rm sat x a b) m true [a, b] (fun i => fpAdd m (v a i) (v b i))
      ∧ once (.vsub t rm sat x a b) m true [a, b] (fun i => fpSub m (v a i) (v b i))
      ∧ once (.vmul t rm sat x a b) m true [a, b] (fun i => fpMul (v a i) (v b i))
      ∧ once (.vfma t rm x a b c) m true [a, b, c] (fun i => fpFma m (v a i) (v b i) (v c i))
      ∧ once (.vdiv t rm x a b) m true [a, b] (fun i => fpDiv (v a i) (v b i))
      ∧ once (.vsqrt t rm x a) m true [a] (fun i => fpSqrt (v a i))
      ∧ once (.vmin t x a b) .rne false [a, b] (fun i => fpMin (v a i) (v b i))
      ∧ once (.vmax t x a b) .rne false [a, b] (fun i => fpMax (v a i) (v b i))
      ∧ once (.vabs t x a) .rne false [a] (fun i => fpAbs (v a i))
      ∧ once (.vneg t x a) .rne false [a] (fun i => fpNeg (v a i)))
    ∧ conv (.vcvt t t2 rm part sat x a) (sat && !holdsAll t t2) (fun _ j => (w a j, sigFlags [w a j]))
        (fun _ j => (formOf t2).isSub (s.lane t2 a j))
    ∧ conv (.vquant t t2 rm part false sat x a b ga) sat (fun _ j => fpDiv (w a j) (w b j))
        (fun _ j => subs (formOf t2) [s.lane t2 a j, s.lane t2 b j])
    ∧ conv (.vquant t t2 rm part true sat x a b ga) sat (fun _ j => fpDiv (w a j) (numLane t2 (s.gLane t2 ga)))
        (fun _ j => subs (formOf t2) [s.lane t2 a j, s.gLane t2 ga])
    ∧ conv (.vdeq t t2 rm part false x a b ga) false (fun i j => fpMul (w a j) (v b i))
        (fun i j => subs (formOf t2) [s.lane t2 a j] || subs (formOf t) [lane b i])
    ∧ conv (.vdeq t t2 rm part true x a b ga) false (fun _ j => fpMul (w a j) (numLane t (s.gLane t ga)))
        (fun _ j => subs (formOf t2) [s.lane t2 a j] || subs (formOf t) [s.gLane t ga])

/-- For f32, f16, bf16, E4M3, E5M2 and E2M1, every rounding mode and every bit pattern that is not a NaN (nor an infinity
where the narrowing saturates): Narrow of its exact value answers the same bits with no flag. The magnitude of a
rounding of m x 2^-k is one of the two integers around it, nearest-even in the default mode, and it is exact where and
only where nothing is lost. (R283, R288, R290.) -/
def Obligations.NarrowKeepsRepresentableValues : Prop :=
  (∀ f ∈ [fmtF32, fmtF16, fmtBf16, fmtE4m3, fmtE5m2, fmtE2m1], ∀ (rm : RM) (sat : Bool) (x : Nat), x < 2 ^ f.width →
      (f.decode x).isNan = false → (sat = true → ∀ neg, f.decode x ≠ .inf neg) → f.narrow (f.decode x) rm sat = ⟨x, 0⟩)
    ∧ ∀ (rm : RM) (neg : Bool) (m k : Nat),
      let r := roundShift rm neg m k
      (r.1 = m / 2 ^ k ∨ r.1 = m / 2 ^ k + 1)
      ∧ (r.2 = true ↔ m % 2 ^ k = 0) ∧ (r.2 = true → r.1 * 2 ^ k = m)
      ∧ (rm = .rne → 2 * r.1 * 2 ^ k ≤ 2 * m + 2 ^ k ∧ 2 * m ≤ 2 * r.1 * 2 ^ k + 2 ^ k
          ∧ (2 * r.1 * 2 ^ k = 2 * m + 2 ^ k ∨ 2 * m = 2 * r.1 * 2 ^ k + 2 ^ k → r.1 % 2 = 0))
      ∧ (rm = .rtz → r.1 * 2 ^ k ≤ m) ∧ (rm = .rup → neg = false → m ≤ r.1 * 2 ^ k)
      ∧ (rm = .rdn → neg = true → m ≤ r.1 * 2 ^ k)

/-- On a vector slot: VCMP writes the comparison of each active lane to k[KD] (a write to k0 is discarded), VCLASS whether
the lane's class is selected; VRED writes the root of the reduction tree of the active lanes to lane 0 of v[VD] and to
g[GA], and keeps the other lanes; VSCAN writes the running combinations in lane order; VTLU the rounded interpolation
of each active lane in the table slot (that knots are no subnormal operands is log 26, the source of a lane beyond its
register log 17, a clamped knot that is a signalling NaN log 70); VPACK the records of its blocks at their byte offset
in v[VD], all other bytes kept (its flags and their lanes are log 26); VUNPK the rounded elements of the records at
the offset. Each raises the union of its lanes' flags as 16 R293 says, and retires in every case where FPTRAP enables
none. (R293, R301, R302, R310, R313, R314, R315, R321.) -/
def Obligations.ComparesReductionsAndTables : Prop :=
  ∀ (t t2 : ET) (rm : RM) (op : RedOp) (cc : VCond) (cls : BitVec 10) (f : BFmt) (off : BitVec 8) (slot : Fin 4) (e : Bool)
      (kd k : KReg) (zm : Bool) (x : VDst) (d a b : VReg) (ga : Reg) (s : State),
    let n := s.cur
    let im := s.img n
    let m := s.roundMode n rm
    let maskIs := fun (y : BitVec 128) (g : Nat → Bool) => ∀ i, i < 128 → y.getLsbD i =
      (decide (i < t.lanes) && (if (s.kOf n k).getLsbD i then g i else !zm && (s.kOf n kd).getLsbD i))
    (s.slotAt n).engine = .vector →
    (bits im.fptrap 4 0 = 0 →
      RetiresAnyway (.vcmp t cc kd k zm a b) s ∧ RetiresAnyway (.vclass t cls kd k zm a) s
      ∧ (∀ wide, RetiresAnyway (.vred t rm op wide d k a ga) s) ∧ RetiresAnyway (.vscan t rm op x a) s
      ∧ RetiresAnyway (.vtlu t t2 rm slot e x a) s ∧ RetiresAnyway (.vpack t rm f off d a) s
      ∧ RetiresAnyway (.vunpk t rm f off x a) s)
    ∧ (∃ y, Rounds (.vcmp t cc kd k zm a b)
        ((s.activeLanes t k).map fun i => (i, (cmpLanes t cc (s.lane t a i) (s.lane t b i)).2)) false (im.withK kd y) s s
      ∧ maskIs y fun i => (cmpLanes t cc (s.lane t a i) (s.lane t b i)).1)
    ∧ (∃ y, Acts (.vclass t cls kd k zm a) 8 (im.withK kd y) s s
      ∧ maskIs y fun i => cls.getLsbD (classOf ((formOf t).isSub (s.lane t a i)) (numLane t (s.lane t a i))))
    ∧ (∀ wide, let u : ET := if wide then .f32 else t
      let z := reduceTree u op m 7 (s.leaves t wide k a) (s.leafRaises t wide k a)
      let r := match z.1 with | some p => p.1 | none => absentRoot u op
      ∃ y, Rounds (.vred t rm op wide d k a ga) z.2.1 z.2.2
          ((im.withV d y).withG ga (if u.isSigned then sextBits u.bits r else word r)) s s
        ∧ LanesAre u y fun i => if i = 0 then r % 2 ^ u.bits else s.lane u d i)
    ∧ (let rs := scanLanes t op m (fun i => s.lane t a i) none (s.activeLanes t x.k)
      ∃ y, Rounds (.vscan t rm op x a) (rs.map fun p => (p.1, p.2.res.flags)) (rs.any fun p => p.2.sub) (im.withV x.d y) s s
        ∧ (∀ p ∈ rs, laneOf t.bits y.toNat p.1 = p.2.res.bits % 2 ^ t.bits)
        ∧ ∀ i, i < t.lanes → (s.kOf n x.k).getLsbD i = false → laneOf t.bits y.toNat i = if x.zm then 0 else s.lane t x.d i)
    ∧ (let tab := (s.tileAt (tileOf n)).tables[slot]
      let lane := fun i => tableLane t m tab e (numLane t2 (s.tableSource t2 a i)) ((formOf t2).isSub (s.tableSource t2 a i))
      ∃ y, Rounds (.vtlu t t2 rm slot e x a) ((s.activeLanes t x.k).map fun i => (i, (lane i).res.flags))
          ((s.activeLanes t x.k).any fun i => (lane i).sub) (im.withV x.d y) s s
        ∧ LanesAre t y (maskedLane s t x fun i => (lane i).res.bits % 2 ^ t.bits))
    ∧ (let ps := s.packBlocks t m f a
      let fs := ps.flatMap (·.flags)
      ∃ y, Rounds (.vpack t rm f off d a) ((List.range fs.length).map fun j => (j, fs.getD j 0))
          ((List.range t.lanes).any (fun j => (formOf t).isSub (s.lane t a j))
            || (f = .mxfp4 && ps.any fun p => (List.range 32).any fun j => subE2m1 (p.bits / 2 ^ (16 + 4 * j)))) (im.withV d y) s s
        ∧ (off.toNat + f.recordBytes * ps.length ≤ 128 → ∀ j, j < 128 →
            (y.extractLsb' (8 * j) 8).toNat =
              if off.toNat ≤ j ∧ j < off.toNat + f.recordBytes * ps.length then
                recordsOf f.recordBytes ps / 2 ^ (8 * (j - off.toNat)) % 256
              else ((s.vOf n d).extractLsb' (8 * j) 8).toNat))
    ∧ RoundsLanes (.vunpk t rm f off x a) t x (fun j =>
        let r := (s.vOf n a).toNat / 2 ^ (8 * off.toNat) / 2 ^ (8 * f.recordBytes * (j / f.recordElems))
          % 2 ^ (8 * f.recordBytes)
        let y := recordElem f r (j % f.recordElems)
        let z := (formOf t).deliver (y, if y.isNan then flagNV else 0) m false
        ⟨z, (formOf t).isSub z.bits || recordSub f r (j % f.recordElems)⟩) s

/-- On a vector slot these retire and change nothing but their destination. VSEL takes each lane of v[VA] or v[VB] by the
mask; VBCAST a lane or g[GA]; VMOVG writes a lane to g[GA], or with .ins g[GA] to a lane and keeps the others; VSHUF
picks from the lanes of v[VA] and v[VC] by index, 0 beyond; VSLIDE shifts the two registers up or down; VIOTA counts
the active lanes below, or gives the index. KAND, KOR, KXOR and KNOT work on 128 bits, KSET sets the first Min(g[GA],
L) bits, KPOP counts the active lanes, KFIRST names the first or answers -1, KMOVG moves a half; a write to k0 is
discarded. (R304, R305, R310, R316, R319.) -/
def Obligations.LanesMoveAndMasksCombine : Prop :=
  ∀ (t : ET) (x : VDst) (d a b c : VReg) (k kd ka kb : KReg) (l8 : BitVec 8) (l7 : BitVec 7) (hi : Bool) (ga : Reg) (s : State),
    let n := s.cur
    let im := s.img n
    let active := fun i : Nat => (s.kOf n k).getLsbD i
    let slide := fun (op : Instr) (up : Bool) (h : Nat) => ActsOnLanes op t x (fun i =>
      if up then (if h ≤ i then s.lane t a (i - h) else s.lane t c (t.lanes + i - h))
      else if i + h < t.lanes then s.lane t a (i + h) else s.lane t c (i + h - t.lanes)) s s
    (s.slotAt n).engine = .vector →
    (∃ y, Acts (.vsel t d k a b) 8 (im.withV d y) s s
      ∧ LanesAre t y fun i => if active i then s.lane t a i else s.lane t b i)
    ∧ ActsOnLanes (.vbcast t true l8 x a ga) t x (fun _ => s.lane t a l8.toNat) s s
    ∧ ActsOnLanes (.vbcast t false l8 x a ga) t x (fun _ => (s.g ga).toNat % 2 ^ t.bits) s s
    ∧ Gives (.vmovg t false l7 d ga) 8 ga
        (if t.isSigned then sextBits t.bits (s.lane t d l7.toNat) else word (s.lane t d l7.toNat)) s
    ∧ (∃ y, Acts (.vmovg t true l7 d ga) 8 (im.withV d y) s s
      ∧ LanesAre t y fun i => if i = l7.toNat then (s.g ga).toNat % 2 ^ t.bits else s.lane t d i)
    ∧ ActsOnLanes (.vshuf t x a b c) t x (fun i =>
        let j := s.lane t b i
        if j < t.lanes then s.lane t a j else if j < 2 * t.lanes then s.lane t c (j - t.lanes) else 0) s s
    ∧ (∀ up, slide (.vslide t l8 up false x a c ga) up l8.toNat
        ∧ slide (.vslide t l8 up true x a c ga) up (min (s.g ga).toNat t.lanes))
    ∧ ActsOnLanes (.viota t true x) t x (fun i => i) s s
    ∧ ActsOnLanes (.viota t false x) t x (fun i => (List.range i).countP fun j => (s.kOf n x.k).getLsbD j) s s
    ∧ Acts (.kand kd ka kb) 8 (im.withK kd (s.kOf n ka &&& s.kOf n kb)) s s
    ∧ Acts (.kor kd ka kb) 8 (im.withK kd (s.kOf n ka ||| s.kOf n kb)) s s
    ∧ Acts (.kxor kd ka kb) 8 (im.withK kd (s.kOf n ka ^^^ s.kOf n kb)) s s
    ∧ Acts (.knot kd ka) 8 (im.withK kd (~~~ s.kOf n ka)) s s
    ∧ (∃ y, Acts (.kset t kd ga) 8 (im.withK kd y) s s
      ∧ ∀ i, i < 128 → y.getLsbD i = decide (i < min (s.g ga).toNat t.lanes))
    ∧ Gives (.kpop t k ga) 8 ga (word ((List.range t.lanes).countP active)) s
    ∧ (∀ i, i < t.lanes → active i = true → (∀ j, j < i → active j = false) → Gives (.kfirst t k ga) 8 ga (word i) s)
    ∧ ((∀ i, i < t.lanes → active i = false) → Gives (.kfirst t k ga) 8 ga (BitVec.ofInt 64 (-1)) s)
    ∧ Gives (.kmovg false hi k ga) 8 ga ((s.kOf n k).extractLsb' (if hi then 64 else 0) 64) s
    ∧ (∃ y, Acts (.kmovg true hi k ga) 8 (im.withK k y) s s ∧ ∀ h,
        y.extractLsb' (if h then 64 else 0) 64 = if h = hi then s.g ga else (s.kOf n k).extractLsb' (if h then 64 else 0) 64)

/-- On an ordinary vector slot of a launch that is not checked, or whose tile checks no range of the A or C buffer, and
with no poison: where every active lane's address (of VLD and VST an exact sum) lies aligned within the buffer, VLD
and VGATH give each active lane the bytes at its address and retire; VST and VSCAT store each active lane there (the
higher lane where two overlap) and change no byte outside the active lanes' bytes. Where some active lane's address
fails, the lowest such lane's ALIGN or ADDR trap is taken, TVAL its address, and nothing is moved. VTCFG of a well-
formed descriptor fills the table slot and nothing else; of a malformed one it traps with ADDR 0x10. (R304, R305,
R317, R318, R320.) -/
def Obligations.VectorLoadsAndStores : Prop :=
  ∀ (t : ET) (inC : Bool) (off : BitVec 14) (sh : Fin 4) (x : VDst) (d b : VReg) (k : KReg) (slot : Fin 4) (ga : Reg) (s : State),
    let n := s.cur
    let im := s.img n
    let sp : SP := if inC then .c else .a
    let size := if inC then 0x100000 else 0x200000
    let e := t.bits / 8
    let loc := fun y : Nat => (⟨sp, tileOf n, y⟩ : Loc)
    let unit := fun i : Nat => (s.g ga + off.signExtend 64).toNat + i * e
    let idx := fun i : Nat => (s.g ga + word (s.lane t b i * 2 ^ sh.val)).toNat
    let good := fun y : Nat => y + e ≤ size ∧ y % e = 0
    let loads := fun (op : Instr) (addr : Nat → Nat) =>
      (∀ i ∈ s.activeLanes t x.k, good (addr i)) → ActsOnLanes op t x (fun i => s.read (loc (addr i)) e) s s
    let stores := fun (op : Instr) (addr : Nat → Nat) =>
      (∀ i ∈ s.activeLanes t k, good (addr i)) → ∃ u, Acts op 8 im u s ∧ u = { s with mem := u.mem }
        ∧ (∀ i ∈ s.activeLanes t k, (∀ j ∈ s.activeLanes t k, i < j →
            addr j + e ≤ addr i ∨ addr i + e ≤ addr j) →
            u.read (loc (addr i)) e = s.lane t d i)
        ∧ (∀ key, (∀ i ∈ s.activeLanes t k, key < (loc (addr i)).key ∨ (loc (addr i)).key + e ≤ key) →
            byteAt u.mem key = byteAt s.mem key)
    let traps := fun (op : Instr) (kk : KReg) (addr : Nat → Nat) =>
      ∀ i ∈ s.activeLanes t kk, (∀ j ∈ s.activeLanes t kk, j < i → good (addr j)) →
        (size < addr i + e → TrapsOn op 0x09 0 (word (addr i)) s)
        ∧ (addr i + e ≤ size → addr i % e ≠ 0 → TrapsOn op 0x08 0 (word (addr i)) s)
    let y := s.g ga
    let da : Loc := ⟨.a, tileOf n, y.toNat⟩
    let desc := s.descriptor da
    (s.slotAt n).engine = .vector → isOrdinary n = true → s.poison = [] →
    ((s.launchOf n).isChecked = false ∨ ((s.tileAt (tileOf n)).aRanges = [] ∧ (s.tileAt (tileOf n)).cRanges = [])) →
    loads (.vld t inC off x ga) unit ∧ loads (.vgath t inC sh x b ga) idx
    ∧ stores (.vst t inC off d k ga) unit ∧ stores (.vscat t inC sh d k b ga) idx
    ∧ traps (.vld t inC off x ga) x.k unit ∧ traps (.vgath t inC sh x b ga) x.k idx
    ∧ traps (.vst t inC off d k ga) k unit ∧ traps (.vscat t inC sh d k b ga) k idx
    ∧ (y.toNat % 16 = 0 → y.toNat + 16 ≤ 0x200000 →
      (desc.bad = true → TrapsOn (.vtcfg slot ga) 0x09 0x10 y s)
      ∧ (desc.bad = false → y.toNat + 16 + 4 * desc.n ≤ 0x200000 →
        Acts (.vtcfg slot ga) 8 im (s.setTile (tileOf n) { s.tileAt (tileOf n) with
          tables := (s.tileAt (tileOf n)).tables.set slot (some ⟨.ofNat 32 desc.x0, .ofNat 8 desc.e,
            (List.range desc.n).map fun j => .ofNat 32 (s.read ⟨.a, tileOf n, y.toNat + 16 + 4 * j⟩ 4)⟩) }) s))

/-- On an ordinary core DLD, DST and DAMO trap with NO_PATH 0. On a pump-class slot bound to copy: where the translation
fails they trap with PAGE and its subcode, where it succeeds at an address that is no multiple of the width with ALIGN
0 (this order, and PAGE 0 for an address with bits 63:57 set, are log 35), and otherwise they block the slot on the
physical address; TVAL is the effective address. DRAM_REPLY performs the access at an address of this module that is
not poisoned, after the DSTs that the controller has accepted for its words: a load writes the extended bytes to the
register, a store writes its bytes, or is accepted to be performed later where its thread posts its stores (log 5),
DAMO writes the operation's result and answers the old value; each completes the instruction. An access at an address
of another module completes with the bytes of its reply; one that is refused there, or by the reeve of this module,
traps with WINDOW 2, one whose link is down with WINDOW 3. DRAM_REFRESH counts one refresh and its stalled cycles of
its channel, and changes nothing else; the cycles stalled for bandwidth are a count of their own. (R348, R351, R354,
R355, R368, R411, R413.) -/
def Obligations.PumpAccessesReachDram : Prop :=
  ∀ (w : Width) (sg : Bool) (o : Ord) (op : Aop) (d a b : Reg) (m : Addr) (off : BitVec 24) (k : Nat) (r : Remote) (s : State),
    let n := s.cur
    let x := s.effAddr m
    let y := s.effAddrAB a off
    let e := w.bits / 8
    let part := (s.launchOf n).part
    let at_ := fun (right : Right) (v : Word) => s.tlbTranslate (coreOf n) part v.toNat right
    let blocks := fun (i : Instr) (ea : Word) (right : Right) (op : AccessOp) (data : List Word) =>
      (∀ sub u, at_ right ea = (.error sub, u) → TrapsOn i 0x0C sub ea s)
      ∧ (∀ pa u, at_ right ea = (.ok pa, u) →
        (ea.toNat % e ≠ 0 → ∃ t, exec i s = .next t ∧ Traps n 0x08 0 ea u t)
        ∧ (ea.toNat % e = 0 → BlocksOn i (.dram ⟨op, e, 1, d, data, ea, ⟨.dram, 0, pa⟩⟩) u s))
    ((s.slotAt n).engine = .copy →
      (isOrdinary n = true → TrapsOn (.dld w sg o d m) 0x0B 0 x s ∧ TrapsOn (.dst w o d m) 0x0B 0 x s
        ∧ (s.sealedHere = false → TrapsOn (.damo w o op d a b off) 0x0B 0 y s))
      ∧ (isOrdinary n = false →
        blocks (.dld w sg o d m) x .r (.load sg) [] ∧ blocks (.dst w o d m) x .w .store [s.g d]
        ∧ ((s.sealedHere = false ∨ (d = 0 ∧ op ≠ .swap)) → blocks (.damo w o op d a b off) y .at_ (.amo op) [s.g b])
        ∧ (s.sealedHere = true → (d ≠ 0 ∨ op = .swap) → TrapsOn (.damo w o op d a b off) 0x07 0 0 s)))
    ∧ (∀ acc, (s.slotAt k).wait = some (.dram acc) → (∀ j ∈ s.pairOf k, (s.slotAt j).stopDue = false) →
      let who := s.serverOf (s.partOf k) acc.loc.off acc.bytes
      (∀ pa, who = .here pa →
        let q := s.landDram pa acc.bytes
        (s.culvert = [] → q = s)
        ∧ (∀ y ∈ q.culvert, y.cls = 5 → wordKey y.loc.key ∉ wordsTouched pa acc.bytes)
        ∧ (∀ sg, acc.op = .load sg → q.physPoisoned pa acc.bytes = false → ∃ t, exec (.dramReply k r) s = .next t
          ∧ Completes k 8 ((s.img k).withG acc.reg (extend sg (8 * acc.bytes) (q.physRead pa acc.bytes))) q t)
        ∧ (acc.op = .store → s.stackShut pa = false →
          let posted := (s.slotAt k).posting = true ∧ s.partner k = none ∧ q.poison = []
          (¬ posted → ∃ u t, exec (.dramReply k r) s = .next t ∧ Completes k 8 (s.img k) u t
            ∧ u = { q with mem := storeNat q.mem pa acc.bytes (acc.data.getD 0 0).toNat, poison := u.poison })
          ∧ (posted → ∃ t x, exec (.dramReply k r) s = .next t
            ∧ Completes k 8 (s.img k) { q with culvert := q.culvert ++ [x] } t
            ∧ x.slot = k ∧ x.cls = 5 ∧ x.rel = false ∧ x.due = none ∧ x.loc = ⟨.dram, 0, pa⟩
            ∧ x.data = leBytes acc.bytes (acc.data.getD 0 0).toNat))
        ∧ (∀ op, acc.op = .amo op → q.physPoisoned pa acc.bytes = false →
          let wd := widthOfBytes acc.bytes
          let old := q.physRead pa acc.bytes
          ∃ u t, exec (.dramReply k r) s = .next t
          ∧ Completes k 8 ((s.img k).withG acc.reg (sextBits wd.bits old)) u t
          ∧ u = { q with
              mem := storeNat q.mem pa acc.bytes (aopValue op wd (word old) (acc.data.getD 0 0))
              poison := u.poison }))
      ∧ (who = .refused → ∃ t, exec (.dramReply k r) s = .next t ∧ Traps k 0x0A 2 acc.ea s t)
      ∧ (who = .away →
        (∀ sg bs, acc.op = .load sg → ∃ t, exec (.dramReply k (.data bs)) s = .next t
          ∧ Completes k 8 ((s.img k).withG acc.reg (extend sg (8 * acc.bytes) (leNat (bs.take acc.bytes)))) s t)
        ∧ (∀ bs, acc.op = .store → ∃ t, exec (.dramReply k (.data bs)) s = .next t ∧ Completes k 8 (s.img k) s t)
        ∧ (∀ op bs, acc.op = .amo op → ∃ t, exec (.dramReply k (.data bs)) s = .next t
          ∧ Completes k 8 ((s.img k).withG acc.reg (sextBits (widthOfBytes acc.bytes).bits (leNat (bs.take acc.bytes)))) s t)
        ∧ (∃ t, exec (.dramReply k .refused) s = .next t ∧ Traps k 0x0A 2 acc.ea s t)
        ∧ (∃ t, exec (.dramReply k .linkDown) s = .next t ∧ Traps k 0x0A 3 acc.ea s t)))
    ∧ (∀ die ch stalled, let x := look (0, 0, 0) (s.dieAt die).chanStats ch
        exec (.dramRefresh die ch stalled) s = .next (s.setDie die { s.dieAt die with
          chanStats := put (s.dieAt die).chanStats ch (x.1 + 1, x.2.1 + stalled, x.2.2) })
        ∧ s.dramStall die ch stalled = s.setDie die { s.dieAt die with
          chanStats := put (s.dieAt die).chanStats ch (x.1, x.2.1, x.2.2 + stalled) })

/-- SRD of an allocated register at its read level writes its value to g[D]; at user level of a sealed launch one that
reveals timing or placement traps with SEALED. SWR at the write level, in its three forms, writes the fields that the
register keeps and answers the old value, but in a sealed launch at user level traps with SEALED where g[D] would show
one that reveals timing or placement, or where it would set WAITLIM; a value that the register's table refuses traps
with ILLEGAL_FIELD 15, or HSTACK 4 where a handler is live, TVAL the new value. Each register of the image reads as
the thread's own, and keeps exactly its RW fields; a window register keeps all of its value, FPXSUM is cleared by a 1
in [31], IMAGE takes a selector in [3:0] (its layout is log 54), and a write of any other changes nothing.
FPXSUM_UPDATE at the end of a rotation takes its record, or marks that one was lost, and does nothing earlier.
CONTEXT_WRITE by the reeve to an image of no pair sets a general register that no resumption is about to set, writes
TICKSET, but a count of not zero only where EFFEN.TICK is 0, the thread has not written it and is no level member, and
does nothing where it is misaligned or outside the area. (R123, R228, R230, R238, R258, R259, R261, R272, R292, R424.) -/
def Obligations.SystemRegistersReadAndWrite : Prop :=
  ∀ (f : SwrForm) (d a : Reg) (r : BitVec 12) (s : State),
    let n := s.cur
    let im := s.img n
    let k := r.toNat
    let known := sysAllocated (isOrdinary n) k = true
    let old := s.sysRead n k
    let new : Word := match f with | .write => s.g a | .set => old ||| s.g a | .clr => old &&& ~~~(s.g a)
    let mid := s.sysWrite n k new (s.g a)
    (known → sysReadLevel k ≤ s.level n →
      ((s.sealedHere = true → sysReadReveals k = false) → Gives (.srd d r) 8 d old s)
      ∧ (s.sealedHere = true → sysReadReveals k = true → TrapsOn (.srd d r) 0x07 0 0 s))
    ∧ (known → max (sysReadLevel k) (sysWriteLevel k) ≤ s.level n →
      ((s.sealedHere = true → d ≠ 0 → sysReadReveals k = true → TrapsOn (.swr f d a r) 0x07 0 0 s) ∧
      ((s.sealedHere = true → (d = 0 ∨ sysReadReveals k = false) ∧ k ≠ 0x020 ∧ k ≠ 0x053 ∧ k ≠ 0x057 ∧ k ≠ 0x05B ∧ k ≠ 0x05F) →
        (s.sysRefuses n k new = some .field → TrapsOn (.swr f d a r) 0x02 15 new s)
        ∧ (s.sysRefuses n k new = some .hstack → TrapsOn (.swr f d a r) 0x12 4 new s)
        ∧ (s.sysRefuses n k new = none → ∃ t, exec (.swr f d a r) s = .next t
          ∧ (k ≠ 0x022 → Retires n 8 ((mid.img n).withG d old) mid t)
          ∧ (k = 0x022 → OnlySlot n mid t ∧ t.slotAt n = mid.slotAt n
              ∧ t.img n = ((mid.img n).withG d old).atNext (im.pc + 8))))
      ∧ (s.sealedHere = true → k = 0x020 → new ≠ 0 → TrapsOn (.swr f d a r) 0x07 0 0 s)))
    ∧ (∀ p ∈ [(0x000, im.cause), (0x001, im.tval), (0x002, im.trappc), (0x003, im.tstatus), (0x004, im.tvec),
        (0x005, im.tscratch), (0x010, im.hsp), (0x011, im.hlimit), (0x012, im.contbase), (0x013, im.contslots),
        (0x014, im.effen), (0x020, im.waitlim), (0x021, im.wdlimit), (0x022, im.tickset), (0x023, word im.loops.length),
        (0x030, im.fpflags), (0x031, im.fptrap), (0x032, im.rmode), (0x040, s.tide), (0x041, s.crest.now),
        (0x042, s.crest.next), (0x043, s.crest.at_), (0x044, word (s.launchOf n).used),
        (0x045, word (s.launchOf n).record.quota), (0x060, word ((s.slotAt n).launch % 0x10000)),
        (0x061, (s.slotAt n).logSlot.setWidth 64), (0x063, word (s.codelim n)), (0x100, im.tloopS[0]), (0x101, im.tloopC[0]),
        (0x102, im.tloopS[1]), (0x103, im.tloopC[1]), (0x104, im.tloopS[2]), (0x105, im.tloopC[2]), (0x106, im.tloopS[3]),
        (0x107, im.tloopC[3]), (0x108, im.tdeleg), (0x109, word (n % 0x10000)), (0x10B, im.paircfg)],
        s.sysRead n p.1 = p.2)
    ∧ (∀ j : Fin 16, s.sysRead n (0x050 + j.val) = (s.coreAt (coreOf n)).win[j]
        ∧ s.sysRead n (0x110 + j.val) = (s.tileAt (tileOf n)).twin[j])
    ∧ (∀ p ∈ [(0x000, word (bits new 15 0)), (0x001, new), (0x002, new),
        (0x003, word (bits im.tstatus 1 0 + 4 * min 1 (bits new 3 2) + 16 * bits new 5 4 + 256 * min 4 (bits new 10 8))),
        (0x004, word (4 * bits new 24 2)), (0x005, new),
        (0x010, setBits im.hsp 18 5 (bits new 18 5)), (0x011, word (32 * bits new 18 5)), (0x012, word (64 * bits new 18 6)),
        (0x013, word (bits new 4 0)), (0x014, new &&& 0x07C1E000), (0x020, word (bits new 31 0)),
        (0x021, word (bits new 31 0)), (0x022, word (bits new 31 0)), (0x030, word (bits new 4 0)),
        (0x031, word (bits new 4 0)), (0x032, word (bits new 1 0)), (0x100, new), (0x101, new), (0x102, new), (0x103, new),
        (0x104, new), (0x105, new), (0x106, new), (0x107, new),
        (0x108, if 2 ≤ s.level n then word (bits new 35 0) ||| 0x100000000 else im.tdeleg), (0x10A, word (bits new 3 0)),
        (0x10B, im.paircfg), (0x070, if isOrdinary n = true ∧ bit (s.g a) 31 = true then 0 else old)],
        k = p.1 → mid.sysRead n k = p.2)
    ∧ ((0x050 ≤ k ∧ k ≤ 0x05F ∨ 0x110 ≤ k ∧ k ≤ 0x11F) → mid.sysRead n k = new)
    ∧ (k ∈ [0x023, 0x040, 0x041, 0x042, 0x043, 0x044, 0x045, 0x046, 0x047, 0x048, 0x060, 0x061, 0x062, 0x063, 0x109] → mid = s)
    ∧ (((k = 0x030 ∨ k = 0x031) → bits new 63 5 ≠ 0 → s.sysRefuses n k new = some .field)
      ∧ (k = 0x032 → bits new 63 2 ≠ 0 → s.sysRefuses n k new = some .field)
      ∧ (k = 0x021 → bits new 63 32 ≠ 0 → s.sysRefuses n k new = some .field)
      ∧ (0x010 ≤ k → k ≤ 0x013 → hspDepth im.hsp ≠ 0 → s.sysRefuses n k new = some .hstack))
    ∧ (∀ t, let x := s.tileAt t
      exec (.fpxsumUpdate t) s = .next (if x.cycle % 16 ≠ 15 then s else s.setTile t (if x.fpxNow = [] then x else { x with
        fpxNow := []
        fpxsum := if bit x.fpxsum 31 then x.fpxsum ||| 0x40000000 else fpxRecord x.fpxNow })))
    ∧ (∀ (core i : Nat) (q : Reg) (v : Word), i < 16 → q ≠ 0 → (∀ sl, s.imageOwner core i = some sl → s.trailerOf sl = none) →
        exec (.contextWrite core (0x1000 * i + 8 * q.val) .b64 v) s =
          .next (if s.ctxRestoring core i (8 * q.val) then s else s.setImage (16 * core + i)
            { s.imageAt (16 * core + i) with g := (s.imageAt (16 * core + i)).g.set q v }))
    ∧ (∀ (core i sl : Nat) (v : Word), i < 16 → s.imageOwner core i = some sl → s.trailerOf sl = none →
        let writes := exec (.contextWrite core (0x1000 * i + 0x168) .b64 v) s =
          .next ((s.setImage (16 * core + i) { s.imageAt (16 * core + i) with tickset := word (bits v 31 0) }).setSlot sl
              { s.slotAt sl with tickByReeve := decide (bits v 31 0 ≠ 0) })
        let mayArm := bit (s.imageAt (16 * core + i)).effen 22 = false ∧ (s.slotAt sl).tickWritten = false
          ∧ ∀ l g j, s.membership sl = some (l, g, j) → (s.launchAt l).isLevel = false
        (bits v 31 0 = 0 → writes) ∧ (mayArm → writes)
        ∧ (bits v 31 0 ≠ 0 → ¬ mayArm → exec (.contextWrite core (0x1000 * i + 0x168) .b64 v) s = .next s))
    ∧ (∀ core off w v, (off % (w.bits / 8) ≠ 0 ∨ 0x10000 ≤ off) → exec (.contextWrite core off w v) s = .next s)

/-- SVC traps with SVC 0 and TVAL its number; HVC above user level goes to the reeve with its number (log 31). Supervisor
entry of a thread with at most four loop levels of 32-bit addresses saves the cause, TVAL, the pc, the level and the
loop stack, goes to TVEC at level 1 with INTRAP and no live level; leaving it restores pc, loop stack and level and
clears INTRAP; no general, mask or vector register changes. TRET at supervisor level leaves so; TRET.next also retires
the instruction at TRAPPC where it lies in the code region. TKILL above user level answers -3, 1 or -1 for itself or a
number beyond 15, a parked and a not LIVE slot, and parks a LIVE one. PAIR by slot zero answers -3, -1 or -2 where it
may not (-1 also where the trailer's image is in use, log 73), and at a boundary of the leader pairs it with the slot
8 above, or ends the pair and stops the trailer (where the leader stands at a boundary already, at once, log 18); a
snapshot of the leader that has just ended gets its header first. (R254, R255, R256, R259, R273, R274, R275, R276.) -/
def Obligations.CallsTrapsAndReturns : Prop :=
  ∀ (num : BitVec 32) (off : Bool) (d a : Reg) (im : Image) (c sub : Nat) (v : Word) (b : Bool) (s : State),
    let n := s.cur
    let x := (s.g a).toNat
    let k := 16 * coreOf n + x
    let lead := n + x
    let trail := n + x + 8
    let status := fun (i : Instr) (y : Word) => Finishes i 8 ((s.img n).withG d y) s s
    let e := im.enter c sub v im.pc b
    let apart := s.imageKey n ≠ s.imageKey lead ∧ s.imageKey n ≠ s.imageKey trail ∧ s.imageKey lead ≠ s.imageKey trail
    let used := s.imageTaken trail (s.imageKey trail % 16)
    let ready := (s.slotAt lead).state = .live ∧ (s.slotAt lead).hold = none ∧ (s.slotAt lead).wait = none
      ∧ (s.slotAt lead).issueFrom ≤ s.now lead
    TrapsOn (.svc num) 0x1F 0 (num.setWidth 64) s
    ∧ (s.level n ≠ 0 → ∃ t, exec (.hvc num) s = .next t ∧ HoldsFor n 0x20 0 (num.setWidth 64) s t)
    ∧ (im.loops.length ≤ 4 → (∀ l ∈ im.loops, l.start.toNat < 2 ^ 32 ∧ l.stop.toNat < 2 ^ 32) →
        e.pc = im.tvec ∧ bits e.tstatus 1 0 = 1 ∧ bit e.tstatus 4 = true ∧ bit e.tstatus 5 = b ∧ e.loops = []
        ∧ e.cause = word (sub * 256 + c) ∧ e.tval = v ∧ e.trappc = im.pc ∧ e.g = im.g ∧ e.k = im.k ∧ e.v = im.v
        ∧ e.leave.pc = im.pc ∧ e.leave.loops = im.loops ∧ bits e.leave.tstatus 1 0 = bits im.tstatus 1 0
        ∧ bit e.leave.tstatus 4 = false ∧ e.leave.g = im.g ∧ e.leave.k = im.k ∧ e.leave.v = im.v)
    ∧ (s.level n = 1 →
      (∃ t, exec (.tret false) s = .next t ∧ OnlySlot n s t ∧ t.slotAt n = s.slotAt n ∧ t.img n = (s.img n).leave)
      ∧ (∃ t, exec (.tret true) s = .next t ∧ OnlySlot n s t ∧ t.slotAt n = s.slotAt n
        ∧ ((s.img n).trappc.toNat % 4 = 0 → (s.img n).trappc.toNat < s.codelim n →
          t.img n = (s.img n).leave.atNext ((s.img n).trappc + word (s.lengthAt n (s.img n).trappc)))
        ∧ (((s.img n).trappc.toNat % 4 ≠ 0 ∨ s.codelim n ≤ (s.img n).trappc.toNat) → t.img n = (s.img n).leave)))
    ∧ (s.level n ≠ 0 →
      ((15 < x ∨ k = n) → status (.tkill d a) (BitVec.ofInt 64 (-3)))
      ∧ (x ≤ 15 → k ≠ n →
        ((s.slotAt k).state = .parked → status (.tkill d a) 1)
        ∧ ((s.slotAt k).state ≠ .parked → (s.slotAt k).state ≠ .live → status (.tkill d a) (BitVec.ofInt 64 (-1)))
        ∧ ((s.slotAt k).state = .live → ∃ t, exec (.tkill d a) s = .next t ∧ (t.slotAt k).state = .parked)))
    ∧ (slotIdx n = 0 →
      ((x < 1 ∨ 7 < x) → status (.pair off d a) (BitVec.ofInt 64 (-3)))
      ∧ (1 ≤ x → x ≤ 7 →
        (bit (s.img lead).paircfg 5 = false → status (.pair true d a) (BitVec.ofInt 64 (-1)))
        ∧ (((s.slotAt lead).state ≠ .live ∨ (s.slotAt trail).state ≠ .free ∨ used = true ∨ s.partner lead ≠ none) →
            status (.pair false d a) (BitVec.ofInt 64 (-1)))
        ∧ ((s.slotAt lead).state = .live → (s.slotAt trail).state = .free → used = false → s.partner lead = none →
          (s.slotAt lead).engine = .matrix → status (.pair false d a) (BitVec.ofInt 64 (-2)))
        ∧ (ready → apart → (s.slotAt trail).state = .free → used = false → s.partner lead = none → (s.slotAt lead).engine ≠ .matrix →
          ∃ t, exec (.pair false d a) s = .next t ∧ t.mem = (s.settleSnap lead).mem ∧ t.gOf n d = 0
            ∧ (t.img lead).paircfg = word (32 + x + 8) ∧ (t.img trail).paircfg = word (16 + x)
            ∧ (t.img trail).g = (t.img lead).g ∧ (t.slotAt trail).state = .live
            ∧ (t.slotAt trail).engine = (s.slotAt lead).engine)
        ∧ (ready → apart → bit (s.img lead).paircfg 5 = true →
          ∃ t, exec (.pair true d a) s = .next t ∧ t.mem = (s.settleSnap lead).mem ∧ t.gOf n d = 0
            ∧ (t.img lead).paircfg = 0 ∧ (t.img trail).paircfg = 0 ∧ (t.slotAt trail).state = .stopped)))

/-- For a caller that makes the call (a slot held with HVC and the call's number, or a started partition's image): SETVEC
registers or removes a vector, and answers -1 for an offset that is no multiple of 4; UNPARK makes a PARKED slot of
the partition STOPPED, which also completes a TSTOP that waits for it, else -1; SETROOT takes a root table that is
aligned and allotted, else -1; PUMPRUN binds a slot or answers -1 to -4, in that order of its tests, which is the
model's (-1 also for a slot on a die that is shut down, log 72, and -2 for a launch that a kill or a fatal fault ends,
log 44); DBPOP takes the oldest doorbell value with g6 = 0, or answers g6 = -1; SUBMIT answers -1 for a record that is
not aligned or mapped, -2 for a full queue, 1 for one it refuses, and queues the rest with 0; CANCEL answers -1
without a launch, and ends a queued one. A slot that called gets the results in its registers and goes on after its
HVC at its first turn after the cycle (the call's number is HVC's TVAL, log 31); an image, whose calls come as events
and whose results are kept (log 13), gets them in g5 and g6, and keeps the rest of g5 to g8. (R66, R67, R68, R257,
R267, R273, R352, R399, R403.) -/
def Obligations.ReeveCallsAnswer : Prop :=
  ∀ (c : Caller) (p : Nat) (x y z w : Word) (s : State),
    let pt := s.partAt p
    let minus := fun k : Int => BitVec.ofInt 64 (-k)
    let answers := fun (op : Instr) (mid : State) (res : List (Reg × Word)) => exec op s = .next (mid.callReturn c res)
    let calls := fun num : Nat => s.callArgs num c = some (p, x, y, z, w)
    (calls 0x10 →
      (y.toNat % 4 ≠ 0 → answers (.setvec c) s [(5, minus 1)])
      ∧ (y.toNat % 4 = 0 → answers (.setvec c)
          (s.setPart p { pt with vecs := if y = 0 then drop pt.vecs x.toNat else put pt.vecs x.toNat y }) [(5, 0)]))
    ∧ (calls 0x11 →
      let ok := slotExists x.toNat = true ∧ (s.slotAt x.toNat).state = .parked ∧ (s.slotAt x.toNat).launch ≠ 0
        ∧ (s.launchOf x.toNat).part = p
      (ok → answers (.unpark c) ((s.setSlot x.toNat { s.slotAt x.toNat with state := .stopped }).answerStop x.toNat) [(5, 0)])
      ∧ (¬ ok → answers (.unpark c) s [(5, minus 1)]))
    ∧ (calls 0x12 →
      (x.toNat % 4096 = 0 → pt.allots x.toNat 4096 = true →
        answers (.setroot c) (s.setPart p { pt with root := some x.toNat }) [(5, 0)])
      ∧ ((x.toNat % 4096 ≠ 0 ∨ pt.allots x.toNat 4096 = false) → answers (.setroot c) s [(5, minus 1)]))
    ∧ (calls 0x13 →
      let free := y.toNat < 4864 ∧ y.toNat ∈ pt.pumpSlots ∧ s.pumpBound y.toNat = false ∧ s.pumpShut y.toNat = false
      (¬ free → answers (.pumprun c) s [(5, minus 1)])
      ∧ (free → s.launchOfRecord p x.toNat = none → answers (.pumprun c) s [(5, minus 2)])
      ∧ (∀ l, free → s.launchOfRecord p x.toNat = some l →
        let ends := (s.launchAt l).killed = true ∨ ((s.launchAt l).fault ≠ none ∧ (s.launchAt l).closed = true)
        (ends → answers (.pumprun c) s [(5, minus 2)])
        ∧ (¬ ends → (z.toNat % 4 ≠ 0 ∨ (s.launchAt l).record.codelen ≤ z.toNat) → answers (.pumprun c) s [(5, minus 3)])
        ∧ (¬ ends → z.toNat % 4 = 0 → z.toNat < (s.launchAt l).record.codelen →
          (16 ≤ (s.launchAt l).pumps.length → answers (.pumprun c) s [(5, minus 4)])
          ∧ ((s.launchAt l).pumps.length < 16 → answers (.pumprun c) (s.bindPump l ⟨y.toNat, z, w⟩) [(5, 0)]))))
    ∧ (calls 0x14 →
      (∀ v r, pt.doorbell = v :: r → answers (.dbpop c) (s.setPart p { pt with doorbell := r }) [(5, v), (6, 0)])
      ∧ (pt.doorbell = [] → answers (.dbpop c) s [(6, minus 1)]))
    ∧ (calls 0x15 →
      let r := s.readRecord p x.toNat
      let held := s.launches.countP fun q => q.2.phase = .queued && q.2.part = p && q.2.record.prio = r.prio
      let good := x.toNat % 64 = 0 ∧ s.mapped p x.toNat 128 .r = true
      (¬ good → answers (.submit c) s [(5, minus 1)])
      ∧ (good → r.prio ≤ 3 → 256 ≤ held → answers (.submit c) s [(5, minus 2)])
      ∧ (∀ l, good → held < 256 → s.newId = some l → s.recordFault p r = none →
        answers (.submit c) { s.setLaunch l { part := p, recAddr := x.toNat, record := r, order := s.nextOrder } with
          nextLaunch := l % 65535 + 1 } [(5, 0)])
      ∧ (∀ l e, good → held < 256 → s.newId = some l → s.recordFault p r = some e → ∃ u, answers (.submit c) u [(5, 1)]
        ∧ u = { s with mem := u.mem, poison := u.poison }))
    ∧ (calls 0x16 →
      (s.launchOfRecord p x.toNat = none → answers (.cancel c) s [(5, minus 1)])
      ∧ (∀ l, s.launchOfRecord p x.toNat = some l → (s.launchAt l).phase = .queued → ∃ u, answers (.cancel c) u [(5, 0)]
        ∧ (u.launchAt l).phase = .done)
      ∧ (∀ l, s.launchOfRecord p x.toNat = some l → (s.launchAt l).phase ≠ .queued → (s.launchAt l).phase ≠ .done →
        ∃ u, answers (.cancel c) u [(5, 0)] ∧ (u.launchAt l).killed = true))
    ∧ (∀ n num h, (s.slotAt n).hold = some h → h.cause = 0x20 → h.val = word num →
        s.callArgs num (.slot n) = some ((s.launchOf n).part, s.gOf n 5, s.gOf n 6, s.gOf n 7, s.gOf n 8))
    ∧ (∀ q a b e f v, s.callReturn (.image q a b e f) [(5, v)] = s.setPart q { s.partAt q with results := [v, b, e, f] }
        ∧ s.callReturn (.image q a b e f) [(6, v)] = s.setPart q { s.partAt q with results := [a, v, e, f] })
    ∧ (∀ n v, let u := s.callReturn (.slot n) [(5, v)]
        OnlySlot n s u ∧ u.slotAt n = { s.slotAt n with hold := none, turnFrom := max (s.slotAt n).turnFrom (s.now n + 1) }
        ∧ ((s.img n).pc.toNat % 4 = 0 → (s.img n).pc.toNat < s.codelim n →
            u.img n = ((s.img n).withG 5 v).atNext ((s.img n).pc + word (s.lengthAt n (s.img n).pc))))

/-- For a slot that the reeve holds: HCTL_RESUME after a PAGE or the reeve's own TICK, unless the trap reached it as a
double trap alone, ends the hold, so that the slot issues again at its first turn after the cycle, and changes nothing
else; HCTL_NEXT after an HVC of an unknown number writes g5 = -1 and goes on after the instruction; HCTL_REFLECT of a
delegated cause that the reeve does not own, with a vector and no double trap, enters supervisor level with the held
record; HCTL_PARK of an unpaired slot parks it with that record (log 19) and scrubs its image; HCTL_FAULT without a
vector, or of a double trap, closes the launch's windows, records the fault if it is the first, removes its groups and
stops the slot, where no access of it is under way (log 8). POISON poisons the word of its place and makes an UNCORR
record with the subcode of its store and the syndrome; no byte changes. (R256, R266, R267, R273, R412.) -/
def Obligations.HeldSlotsAreReleased : Prop :=
  ∀ (k : Nat) (h : Hold) (pl : Place) (sub : BitVec 8) (syn : Word) (s : State),
    let im := s.img k
    let sl := s.slotAt k
    let own := h.cause = 0x16 ∧ sl.tickByReeve = true ∧ sl.tickWritten = false
    let double := s.level k = 1 ∧ bit im.tstatus 4 = true
    let l := sl.launch
    let free : Slot := { sl with hold := none, turnFrom := max sl.turnFrom (s.now k + 1) }
    (sl.hold = some h →
      ((own ∨ h.cause = 0x0C) → (im.tvec = 0 ∨ bit im.tdeleg h.cause = true ∨ ¬ double) → exec (.hctlResume k) s = .next (s.setSlot k free))
      ∧ (h.cause = 0x20 → ¬ (0x10 ≤ h.val.toNat ∧ h.val.toNat ≤ 0x16) → ∃ t, exec (.hctlNext k) s = .next t
        ∧ OnlySlot k s t ∧ t.slotAt k = free
        ∧ (im.pc.toNat % 4 = 0 → im.pc.toNat < s.codelim k →
            t.img k = (im.withG 5 (BitVec.ofInt 64 (-1))).atNext (im.pc + word (s.lengthAt k im.pc))))
      ∧ (im.tvec ≠ 0 → h.cause ≠ 0x20 → bit im.tdeleg h.cause = true → ¬ own → ¬ double →
        ∃ t, exec (.hctlReflect k) s = .next t ∧ OnlySlot k s t ∧ t.slotAt k = free
          ∧ t.img k = im.enter h.cause h.sub h.val h.pc h.boundary)
      ∧ (s.partner k = none → s.membership k = none → ∃ t, exec (.hctlPark k) s = .next t
        ∧ (t.slotAt k).state = .parked ∧ (t.slotAt k).hold = none ∧ (t.img k).cause = word (h.sub * 256 + h.cause)
        ∧ (t.img k).tval = h.val ∧ (t.img k).trappc = h.pc ∧ (∀ r : Reg, (t.img k).g[r] = 0) ∧ (t.img k).loops = [])
      ∧ (h.cause ≠ 0x20 → ¬ own → (im.tvec = 0 ∨ double) → l ≠ 0 → sl.state = .live → s.accessUnderWay k = false →
        ∃ t, exec (.hctlFault k) s = .next t ∧ (t.slotAt k).state = .stopped ∧ (t.launchAt l).closed = true
          ∧ (t.launchAt l).groups = []
          ∧ (t.launchAt l).fault = (s.launchAt l).fault.or (some (k, h.sub * 256 + h.cause))))
    ∧ ∃ t, exec (.poison ⟨pl, sub, syn⟩) s = .next t
      ∧ (∀ key, key ∈ t.poison ↔ key ∈ s.poison ∨ key = Place.key pl)
      ∧ (∃ r ∈ t.errOut, r.typ = 1 ∧ r.seq = s.errSeq ∧ r.cause = 0x1D ∧ r.sub = sub.toNat ∧ r.syndrome = syn)
      ∧ t = { s with poison := t.poison, errSeq := s.errSeq + 1, errOut := t.errOut }

/-- On a matrix slot, with the parameter words inside their ranges: MCFG, MLDB, MSWAP, MMUL, MZERO, MOUT and MRED whose
operands are aligned and inside their buffers retire and append their operation to the tile's queue, or block while it
holds four. MCFG with a mask without the own position, the leader, or a position of the launch traps with MATRIX 5;
operands beyond their buffer with MATRIX 0 and the lowest byte accessed beyond it (of ranges with gaps the model's
reading of R426, log 33), MLDB with a stride below the column with MATRIX 0; MMUL with an empty active bank with
MATRIX 2, of mixed i8 with MATRIX 1, a co-operative one with an address of C, a format that is not MCONF's, a leader
without rows or another member with A operands with MATRIX 3, TVAL P2; MRED over a tile that the launch has not with
MATRIX 4 (before its other checks, log 33); misaligned operands (and of a bf16 A operand an odd address or stride)
with ALIGN 0 and the operand. MSTAT waits until the queue is empty and then reads MSTAT, reads and clears it, or reads
MCONF, and is a progress point. (R328, R337, R338, R339, R340, R341, R342, R343, R344, R345, R346, R426.) -/
def Obligations.MatrixInstructionsAreQueued : Prop :=
  ∀ (qmask : BitVec 4) (leader : Fin 4) (fmt : BFmt) (p : Params) (d a b : Reg) (s : State),
    let n := s.cur
    let im := s.img n
    let tl := tileOf n
    let tile := s.tileAt tl
    let u := tile.mx
    let v := u.view
    let p0 := s.param p 0
    let p1 := s.param p 1
    let p2 := s.param p 2
    let p3 := s.param p 3
    let with_ := fun y : MatrixUnit => s.setTile tl { tile with mx := y }
    let queued := fun (i : Instr) (len : Nat) (op : MatrixOp) =>
      (u.queue.length < 4 → Finishes i len im (with_ { u with queue := u.queue ++ [op] }) s)
      ∧ (4 ≤ u.queue.length → BlocksOn i .poll s s)
    let matrix := fun (i : Instr) (sub y : Nat) => TrapsOn i 0x21 sub (word y) s
    let passes := fun (i : Instr) (size : Nat) (acc : Nat → Prop) =>
      ∃ y, acc y ∧ size ≤ y ∧ (∀ z, acc z → size ≤ z → y ≤ z) ∧ matrix i 0 y
    let lines := fun (start step len k y : Nat) => ∃ i j, i < k ∧ j < len ∧ y = start + i * step + j
    let inQuad := fun m : BitVec 4 => ∀ q, q < 4 → m.getLsbD q = true → s.quadTile tl q ≠ none
    let x := (s.g a).toNat
    let y := (s.g b).toNat
    (s.slotAt n).engine = .matrix →
    (let i := Instr.mcfg qmask leader fmt
      let fn := qmask.toNat + 16 * leader.val + 64 * fmt.code
      let ok := qmask.getLsbD (s.quadPos tl) = true ∧ qmask.getLsbD leader.val = true ∧ inQuad qmask
      (ok → queued i 8 (.mcfg (.ofNat 10 fn))) ∧ (¬ ok → matrix i 5 fn))
    ∧ (s.paramFault (.mldb p) = none →
      let f := bfmt p3
      let k := p1 % 2 ^ 16
      let cols := p1 / 2 ^ 16
      let size := k / f.recordElems * f.recordBytes
      let step := if p2 = 0 then size else p2
      let stop := p0 + (cols - 1) * step + size
      (p2 ≠ 0 → p2 < size → matrix (.mldb p) 0 p2)
      ∧ (size ≤ step → 0x100000 < stop → passes (.mldb p) 0x100000 (lines p0 step size cols))
      ∧ (size ≤ step → stop ≤ 0x100000 →
        (f = .bf16 → (p0 % 2 = 1 ∨ p2 % 2 = 1) → TrapsOn (.mldb p) 0x08 0 (word p0) s)
        ∧ ((f ≠ .bf16 ∨ (p0 % 2 = 0 ∧ p2 % 2 = 0)) → queued (.mldb p) 24 (.mldb p0 k cols step f (semOf p)))))
    ∧ queued .mswap 8 .mswap
    ∧ (s.paramFault (.mmul p) = none →
      let m := p0 % 2 ^ 11
      let c := p2 % 2 ^ 20
      let fa := bfmt (p2 / 2 ^ 20 % 16)
      let fb := v.active.1
      let size := v.active.2.1 / fa.recordElems * fa.recordBytes
      let step := if p3 = 0 then size else p3
      (v.active.2.2 = false → matrix (.mmul p) 2 0)
      ∧ (v.active.2.2 = true → ((fa = .i8) ≠ (fb = .i8) ∨ (fa = .mxfp4 ∧ v.active.2.1 % 32 ≠ 0)) →
          matrix (.mmul p) 1 (fa.code * 16 ||| fb.code))
      ∧ (v.active.2.2 = true → ((fa = .i8) = (fb = .i8)) → (fa = .mxfp4 → v.active.2.1 % 32 = 0) → p2 / 2 ^ 24 % 2 = 0 →
        (c % 4 ≠ 0 → TrapsOn (.mmul p) 0x08 0 (word c) s)
        ∧ (c % 4 = 0 → fa = .bf16 → (p1 % 2 = 1 → TrapsOn (.mmul p) 0x08 0 (word p1) s)
          ∧ (p1 % 2 = 0 → p3 % 2 = 1 → TrapsOn (.mmul p) 0x08 0 (word p3) s))
        ∧ (c % 4 = 0 → (fa = .bf16 → p1 % 2 = 0 ∧ p3 % 2 = 0) →
          (0 < size → 0x200000 < p1 + (m - 1) * step + size → passes (.mmul p) 0x200000 (lines p1 step size m))
          ∧ (p1 + (m - 1) * step + size ≤ 0x200000 →
            (0x100000 < c + 1024 * m → passes (.mmul p) 0x100000 (lines c 1024 1024 m))
            ∧ (c + 1024 * m ≤ 0x100000 → queued (.mmul p) 24 (.mmul m p1 c fa false step (semOf p))))))
      ∧ (v.active.2.2 = true → ((fa = .i8) = (fb = .i8)) → (fa = .mxfp4 → v.active.2.1 % 32 = 0) → p2 / 2 ^ 24 % 2 = 1 →
        let leads := s.quadPos tl = v.conf.toNat / 16 % 4
        let bad := c ≠ 0 ∨ fa ≠ bfmt (v.conf.toNat / 64) ∨ (leads ∧ m = 0) ∨ (¬ leads ∧ ¬ (p0 = 0 ∧ p1 = 0 ∧ p3 = 0))
        (bad → matrix (.mmul p) 3 p2)
        ∧ (¬ bad → fa = .bf16 → (p1 % 2 = 1 → TrapsOn (.mmul p) 0x08 0 (word p1) s)
          ∧ (p1 % 2 = 0 → p3 % 2 = 1 → TrapsOn (.mmul p) 0x08 0 (word p3) s))
        ∧ (¬ bad → ¬ leads → queued (.mmul p) 24 (.mmul 0 0 0 fa true size (semOf p)))
        ∧ (¬ bad → leads → (fa = .bf16 → p1 % 2 = 0 ∧ p3 % 2 = 0) →
          (0 < size → 0x200000 < p1 + (m - 1) * step + size → passes (.mmul p) 0x200000 (lines p1 step size m))
          ∧ (p1 + (m - 1) * step + size ≤ 0x200000 → m ≤ 1024 → queued (.mmul p) 24 (.mmul m p1 0 fa true step (semOf p))))))
    ∧ (x % 128 ≠ 0 → TrapsOn (.mzero a b) 0x08 0 (s.g a) s)
    ∧ (x % 128 = 0 → y % 128 ≠ 0 → TrapsOn (.mzero a b) 0x08 0 (s.g b) s)
    ∧ (x % 128 = 0 → y % 128 = 0 →
      (x + y ≤ 0x100000 → queued (.mzero a b) 8 (.mzero x y))
      ∧ (0x100000 < x + y → matrix (.mzero a b) 0 (max x 0x100000)))
    ∧ (s.paramFault (.mout p) = none →
      let rows := p2 % 2 ^ 11
      let cols := p2 / 2 ^ 16 % 2 ^ 9
      let et := ety (p3 % 16)
      let e := et.bits / 8
      (p0 % 4 ≠ 0 → TrapsOn (.mout p) 0x08 0 (word p0) s)
      ∧ (p0 % 4 = 0 → p1 % e ≠ 0 → TrapsOn (.mout p) 0x08 0 (word p1) s)
      ∧ (p0 % 4 = 0 → p1 % e = 0 →
      (0x100000 < p0 + 1024 * (rows - 1) + 4 * cols → passes (.mout p) 0x100000 (lines p0 1024 (4 * cols) rows))
      ∧ (p0 + 1024 * (rows - 1) + 4 * cols ≤ 0x100000 →
        (0x200000 < p1 + rows * cols * e → passes (.mout p) 0x200000 (lines p1 1 1 (rows * cols * e)))
        ∧ (p1 + rows * cols * e ≤ 0x200000 →
          queued (.mout p) 24 (.mout p0 p1 rows cols et (s.roundMode n (rmd (p3 / 16 % 8)))
            (decide (p3 / 128 % 2 = 1)) (decide (p3 / 256 % 2 = 1)) (decide (p3 / 512 % 2 = 1)) (semOf p))))))
    ∧ (s.paramFault (.mred p) = none →
      let mask := BitVec.ofNat 4 p2
      (¬ inQuad mask → matrix (.mred p) 4 p2)
      ∧ (inQuad mask → (p0 % 4 ≠ 0 → TrapsOn (.mred p) 0x08 0 (word p0) s)
        ∧ (p0 % 4 = 0 → p1 % 4 ≠ 0 → TrapsOn (.mred p) 0x08 0 (word p1) s)
        ∧ (p0 % 4 = 0 → p1 % 4 = 0 → p3 % 4 ≠ 0 → TrapsOn (.mred p) 0x08 0 (word p3) s))
      ∧ (inQuad mask → p0 % 4 = 0 → p1 % 4 = 0 → p3 % 4 = 0 → 0x100000 < p0 + p1 → passes (.mred p) 0x100000 (lines p0 1 1 p1))
      ∧ (inQuad mask → p0 % 4 = 0 → p1 % 4 = 0 → p3 % 4 = 0 → p0 + p1 ≤ 0x100000 → 0x100000 < p3 + p1 →
        passes (.mred p) 0x100000 (lines p3 1 1 p1))
      ∧ (inQuad mask → p0 % 4 = 0 → p1 % 4 = 0 → p3 % 4 = 0 → p0 + p1 ≤ 0x100000 → p3 + p1 ≤ 0x100000 →
        queued (.mred p) 24 (.mred p0 p1 mask (decide (p2 / 16 % 2 = 1)) p3 (semOf p))))
    ∧ (∀ f, u.queue ≠ [] → BlocksOn (.mstat f d) .poll s s)
    ∧ (u.queue = [] →
      CompletesOn (.mstat .read d) 8 (im.withG d u.stat) s s
      ∧ CompletesOn (.mstat .clr d) 8 (im.withG d u.stat) (with_ { u with flags := {} }) s
      ∧ CompletesOn (.mstat .cfg d) 8 (im.withG d (u.mconf.setWidth 64)) s s)
    ∧ (bits u.stat 31 28 = u.bank1.fmt.code ∧ bits u.stat 27 24 = u.bank0.fmt.code ∧ bits u.stat 20 16 = u.flags.oflags.toNat
      ∧ bit u.stat 7 = u.bank1.v ∧ bit u.stat 6 = u.bank0.v ∧ bit u.stat 5 = u.act ∧ bit u.stat 3 = u.flags.sovf
      ∧ bit u.stat 2 = u.flags.nan ∧ bit u.stat 1 = u.flags.inf ∧ bit u.stat 0 = u.flags.sat)

/-- For the head of a running tile's queue: MCFG_TURN sets MCONF, MSWAP_TURN switches the banks, MLDB_TURN loads the
standby bank with the admitted columns of W; each takes the entry off and signals its semaphore (a signal past 255
only sets SOVF). MMUL_TURN of a solo MMUL with a token leaves in each C word of its rows and the bank's columns the
accumulation of the block sums onto the old word (words of columns from N on stay as they are, log 33); of a co-
operative one it does nothing until every position of QMASK has a co-operative MMUL of the same MCONF and number at
its head and all hold tokens, and then each member so accumulates the leader's rows over its own bank into its C from
0 and takes its own off; MZERO_TURN zeroes its bytes of C, MOUT_TURN writes each converted C word to A and zeroes it
where CLR is set, MRED_TURN writes the combined words of the source tiles; no other byte changes. Of one that has
started, some of whose words were written in steps of their own (log 5), the turn writes the words left.
DIKE_RING_GRANT gives tokens to the next waiting tile not sooner than 256 cycles after the last grant; BALLAST starts
the dummy load for a token that no tile took within 64 cycles, steps it down, and adds its energy to the housekeeping
account (2,000 steps are log 34, the energy of a step log 17). (R298, R299, R329, R332, R334, R337, R338, R339, R340,
R341, R343, R345.) -/
def Obligations.MatrixQueueTurns : Prop :=
  ∀ (tl rg : Nat) (s : State),
    let tile := s.tileAt tl
    let u := tile.mx
    let act := if u.act then u.bank1 else u.bank0
    let popped := fun y : MatrixUnit => s.setTile tl { tile with mx := { y with queue := u.queue.drop 1, done := u.done + 1 } }
    let others := fun (t : State) (own : Nat → Prop) => ∀ key, ¬ own key → byteAt t.mem key = byteAt s.mem key
    let word4 := fun (t : State) (off : Nat) => t.read ⟨.c, tl, off⟩ 4
    let inWord := fun (off key : Nat) => (⟨.c, tl, off⟩ : Loc).key ≤ key ∧ key < (⟨.c, tl, off⟩ : Loc).key + 4
    (∀ conf, s.headOp tl = some (.mcfg conf) → exec (.mcfgTurn tl) s = .next (popped { u with mconf := conf }))
    ∧ (s.headOp tl = some .mswap → exec (.mswapTurn tl) s = .next (popped { u with act := !u.act }))
    ∧ (∀ off k n step f sem, s.headOp tl = some (.mldb off k n step f sem) →
      let b : Bank := ⟨f, k, n, true, (List.range n).map fun i => s.admitBytes .w tl (off + i * step) f k false⟩
      exec (.mldbTurn tl) s = .next ((popped (if u.act then { u with bank0 := b } else { u with bank1 := b })).signal tl sem))
    ∧ (∀ k, tile.sems[k] = 255 → s.signal tl (some k) = s.setTile tl { tile with mx := { u with flags := { u.flags with sovf := true } } })
    ∧ (∀ m a c fa step sem, s.headOp tl = some (.mmul m a c fa false step sem) → u.token ≠ none → act.n ≤ 256 →
      ∃ t, exec (.mmulTurn tl) s = .next t
        ∧ (∀ r j, r < m → j < act.n → word4 t (c + 1024 * r + 4 * j) =
            (accumulate (decide (fa = .i8)) (word4 s (c + 1024 * r + 4 * j), {})
              (sumsOf (fa = .mxfp4 && act.fmt = .mxfp4) (s.admitBytes .a tl (a + r * step) fa act.k true) (act.cols.getD j []))).1 % 2 ^ 32)
        ∧ others t (fun key => ∃ r j, r < m ∧ j < act.n ∧ inWord (c + 1024 * r + 4 * j) key)
        ∧ (t.tileAt tl).mx.queue = u.queue.drop 1 ∧ (t.tileAt tl).mx.bank0 = u.bank0 ∧ (t.tileAt tl).mx.bank1 = u.bank1
        ∧ (sem = none → t = { s with mem := t.mem, tiles := t.tiles, regions := t.regions }))
    ∧ (∀ m a c fa step sem p, s.headOp tl = some (.mmul m a c fa true step sem) → p < 4 → u.mconf.getLsbD p = true →
      (∀ x, s.quadTile tl p = some x → ∀ m a c fa step sem, s.headOp x = some (.mmul m a c fa true step sem) →
        (s.tileAt x).mx.mconf = u.mconf → (s.tileAt x).mx.coops ≠ u.coops) → exec (.mmulTurn tl) s = .next s)
    ∧ (∀ ms lead m a c fa step sem, s.mulMembers tl = some ms → ms.head? = some lead → ms.Nodup →
      s.headOp lead = some (.mmul m a c fa true step sem) → (∀ x ∈ ms, (s.tileAt x).mx.token ≠ none) →
      let bank := fun x : Nat => let z := (s.tileAt x).mx; if z.act then z.bank1 else z.bank0
      let cell := fun (t : State) (x r j : Nat) => t.read ⟨.c, x, 1024 * r + 4 * j⟩ 4
      m ≤ 1024 → (∀ x ∈ ms, (bank x).n ≤ 256) → ∃ t, exec (.mmulTurn tl) s = .next t
        ∧ (∀ x ∈ ms, (∀ r j, r < m → j < (bank x).n → cell t x r j =
            (accumulate (decide (fa = .i8)) (cell s x r j, {})
              (sumsOf (fa = .mxfp4 && (bank x).fmt = .mxfp4) (s.admitBytes .a lead (a + r * step) fa (bank lead).k true)
                ((bank x).cols.getD j []))).1 % 2 ^ 32)
          ∧ (t.tileAt x).mx.queue = (s.tileAt x).mx.queue.drop 1 ∧ (t.tileAt x).mx.coops = (s.tileAt x).mx.coops + 1)
        ∧ others t (fun key => ∃ x ∈ ms, ∃ r j, r < m ∧ j < (bank x).n
            ∧ (⟨.c, x, 1024 * r + 4 * j⟩ : Loc).key ≤ key ∧ key < (⟨.c, x, 1024 * r + 4 * j⟩ : Loc).key + 4))
    ∧ ((u.left = none ∧ s.mulMembers tl = none) ∨ (∃ ms, s.mulMembers tl = some ms ∧ ∃ x ∈ ms, (s.tileAt x).mx.token = none) →
      exec (.mmulTurn tl) s = .next s)
    ∧ (∀ op ws, s.workOp tl = some op → u.left = some ws →
      (match op with | .mmul .. | .mzero .. | .mout .. | .mred .. => True | _ => False) →
      (∃ t, exec (matrixTurn tl op) s = .next t ∧ t.mem = ws.foldl (fun m w => storeBytes m w.1 w.2) s.mem
        ∧ (t.tileAt tl).mx.queue = u.queue.drop 1 ∧ (t.tileAt tl).mx.left = none ∧ (t.tileAt tl).mx.done = u.done + 1)
      ∧ (∀ turn ∈ [Instr.mmulTurn tl, .mzeroTurn tl, .moutTurn tl, .mredTurn tl], turn ≠ matrixTurn tl op → exec turn s = .next s)
      ∧ ∀ i w, ws[i]? = some w → (s.matrixWord tl i).mem = storeBytes s.mem w.1 w.2
        ∧ ((s.matrixWord tl i).tileAt tl).mx.left = some (ws.eraseIdx i))
    ∧ (∀ off len, s.headOp tl = some (.mzero off len) → ∃ t, exec (.mzeroTurn tl) s = .next t
        ∧ (∀ i, i < len → byteAt t.mem ((⟨.c, tl, off⟩ : Loc).key + i) = 0)
        ∧ others t (fun key => (⟨.c, tl, off⟩ : Loc).key ≤ key ∧ key < (⟨.c, tl, off⟩ : Loc).key + len)
        ∧ t = { popped u with mem := t.mem, poison := t.poison })
    ∧ (∀ c a rows n et rm sat clr int sem, s.headOp tl = some (.mout c a rows n et rm sat clr int sem) →
      let e := et.bits / 8
      let val := fun i => if int then numOfInt (intOf true 32 (word4 s (c + 1024 * (i / n) + 4 * (i % n))))
        else fmtF32.decode (word4 s (c + 1024 * (i / n) + 4 * (i % n)))
      s.poison = [] → tl < 1024 → 0 < n → n ≤ 256 → c + 1024 * (rows - 1) + 4 * n ≤ 0x100000 → a + rows * n * e ≤ 0x200000 →
      ∃ t, exec (.moutTurn tl) s = .next t
        ∧ (∀ i, i < rows * n → t.read ⟨.a, tl, a + i * e⟩ e = ((formOf et).convert (val i) rm sat).bits % 2 ^ et.bits
          ∧ word4 t (c + 1024 * (i / n) + 4 * (i % n)) = if clr then 0 else word4 s (c + 1024 * (i / n) + 4 * (i % n)))
        ∧ others t (fun key => ((⟨.a, tl, a⟩ : Loc).key ≤ key ∧ key < (⟨.a, tl, a⟩ : Loc).key + rows * n * e)
            ∨ (clr = true ∧ ∃ i, i < rows * n ∧ inWord (c + 1024 * (i / n) + 4 * (i % n)) key))
        ∧ (t.tileAt tl).mx.queue = u.queue.drop 1
        ∧ (sem = none → t = { s with mem := t.mem, tiles := t.tiles }))
    ∧ (∀ src len mask int dst sem, s.headOp tl = some (.mred src len mask int dst sem) → len % 4 = 0 →
      let ts := (maskPositions mask).filterMap fun q => s.quadTile tl q
      ∃ t, exec (.mredTurn tl) s = .next t
        ∧ (∀ i, 4 * i < len → word4 t (dst + 4 * i) = (s.redWord ts (src + 4 * i) int {}).1 % 2 ^ 32)
        ∧ others t (fun key => (⟨.c, tl, dst⟩ : Loc).key ≤ key ∧ key < (⟨.c, tl, dst⟩ : Loc).key + len)
        ∧ (t.tileAt tl).mx.queue = u.queue.drop 1
        ∧ (sem = none → t = { s with mem := t.mem, tiles := t.tiles, poison := t.poison }))
    ∧ (let g := s.regionAt rg
      let fed : State := if g.ballast = 0 then s else { s with house := s.house + Config.ballastEnergy g.ballast }
      (s.nextWaiter rg = none → exec (.dikeRingGrant rg) s = .next s)
      ∧ (∀ x, s.nextWaiter rg = some x →
        let need := ((s.mulMembers x).getD []).filter fun m => (s.tileAt m).mx.token.isNone
        ((∃ c, g.lastGrant = some c ∧ g.rcycle < c + 256) ∨ s.freeTokens rg < need.length → exec (.dikeRingGrant rg) s = .next s)
        ∧ ((∀ c, g.lastGrant = some c → c + 256 ≤ g.rcycle) → need.length ≤ s.freeTokens rg →
          ∃ t, exec (.dikeRingGrant rg) s = .next t
            ∧ (∀ m, (t.tileAt m).mx = if m ∈ need then { (s.tileAt m).mx with token := some (s.tileAt m).cycle } else (s.tileAt m).mx)
            ∧ (t.regionAt rg).lastGrant = some g.rcycle ∧ (t.regionAt rg).lastHolder = x % 16
            ∧ t = { s with tiles := t.tiles, regions := t.regions }))
      ∧ (∀ c r, g.returned = c :: r → c + 64 ≤ g.rcycle →
          exec (.ballast rg) s = .next (fed.setRegion rg { g with returned := r, ballast := 2000 }))
      ∧ (g.returned = [] → exec (.ballast rg) s = .next (fed.setRegion rg { g with ballast := g.ballast - 1 }))
      ∧ (∀ c r, g.returned = c :: r → g.rcycle < c + 64 →
          exec (.ballast rg) s = .next (fed.setRegion rg { g with ballast := g.ballast - 1 })))

/-- On a copy slot: CPY traps, in this order, with COPY 0 and the malformed word 2 or 3; for an address that is neither in
DRAM nor global with ADDR 0x20, of a malformed global one as 05 R113 says, of a physical one at user level with PRIV
3; on an ordinary core with NO_PATH 1 for a DRAM side; for a source in W with ADDR 1; where a row of a local side
passes its space with ADDR 0x24; with TAGFULL where the destination does not end at a multiple of 8 in G, or SIG where
it is in DRAM, with COPY 0 and word 3. A good request is taken with the channel's next id in g[D] (its handle in
g[D+1]), to read nothing before the outstanding stores at or before its thread's last release, or waits while the FIFO
holds 16, or answers -1 for .nowait. CPYW of an id not yet given traps with COPY 2, of a completed one retires, of one
at or above a failed copy traps with COPY 1 and ERROR, else waits. CPYQ reads COMPLETED, the lowest id in flight, or
ERROR. CPYX of a bad handle traps with COPY 3, answers 1 for a completed copy, -2 for one without a handle, else stops
it and waits for COPY_CANCEL_ACK, which removes the copies, with the stopped ones of the core that no CPYX waits for
any more (log 84), and answers. TLBI removes the named entries, XLAT answers the translation or -1; on an ordinary
core both trap with NO_PATH 2. (R34, R113, R356, R357, R358, R363, R364, R365, R366, R367, R369, R370.) -/
def Obligations.CopiesAreAskedFor : Prop :=
  ∀ (nowait err write : Bool) (sc : Scope) (ch : Fin 4) (form : TlbiForm) (d a : Reg) (s : State),
    let n := s.cur
    let im := s.img n
    let k := coreOf n
    let core := s.coreAt k
    let x := core.chans[ch]
    let ga := s.g a
    let c := s.copyRequest d
    let y := core.chans[c.ch]
    let w2 := s.g (regPlus d 2)
    let w3 := s.g (regPlus d 3)
    let bad2 := bits w2 63 42 ≠ 0 ∨ bits w2 15 0 = 0 ∨ bits w2 39 16 = 0
    let bad3 := bits w3 15 9 ≠ 0 ∨ (bit w2 40 = true ∧ bits w3 39 16 < bits w2 39 16) ∨ (bit w2 40 = false ∧ bits w3 39 16 ≠ 0)
      ∨ (bit w2 41 = true ∧ bits w3 63 40 < bits w2 39 16) ∨ (bit w2 41 = false ∧ bits w3 63 40 ≠ 0)
    let w0 := s.g d
    let w1 := s.g (regPlus d 1)
    let rows := bits w2 15 0
    let rbytes := bits w2 39 16
    let sstride := if bit w2 40 then bits w3 39 16 else rbytes
    let dstride := if bit w2 41 then bits w3 63 40 else rbytes
    let dram := fun w : Word => bits w 63 57 = 0
    let side := fun (w : Word) (f : Loc → Prop) => ¬ dram w ∧ ∃ l, s.globalLoc w = .ok l ∧ f l
    let good := fun w : Word => dram w ∨ ∃ l, s.globalLoc w = .ok l
    let past := fun (stride : Nat) (l : Loc) => spSize l.sp < l.off + (rows - 1) * stride + rbytes
    let stopped := fun ids : List Nat => s.setCore k
      { core with fifo := core.fifo.map fun z => if z.ch = ch ∧ z.id ∈ ids then { z with stopping := true } else z }
    let status := fun (i : Instr) (v : Word) (mid : State) => Finishes i 8 (im.withG d v) mid s
    let inFlight := fun id : Nat => core.fifo.find? fun z => z.ch = ch && z.id = id
    (s.slotAt n).engine = .copy →
    ((nowait = false ∨ s.sealedHere = false) →
      (bad2 → TrapsOn (.cpy nowait d) 0x22 0 2 s) ∧ (¬ bad2 → bad3 → TrapsOn (.cpy nowait d) 0x22 0 3 s)
      ∧ (¬ bad2 → ¬ bad3 →
        (∀ k sub, ¬ dram w0 → s.globalLoc w0 = .error (k, sub) → TrapsOn (.cpy nowait d) k sub w0 s)
        ∧ (∀ k sub, good w0 → ¬ dram w1 → s.globalLoc w1 = .error (k, sub) → TrapsOn (.cpy nowait d) k sub w1 s)
        ∧ (∀ w, (bits w 63 60 ≠ 8 → bits w 63 60 ≠ 9 → s.globalLoc w = .error (0x09, 0x20))
          ∧ (bits w 63 60 = 8 → s.level n = 0 → s.globalLoc w = .error (0x05, 3)))
        ∧ (good w0 → good w1 →
          (isOrdinary n = true → dram w0 → TrapsOn (.cpy nowait d) 0x0B 1 w0 s)
          ∧ (isOrdinary n = true → ¬ dram w0 → dram w1 → TrapsOn (.cpy nowait d) 0x0B 1 w1 s)
          ∧ ((isOrdinary n = false ∨ (¬ dram w0 ∧ ¬ dram w1)) →
            (side w0 (fun l => l.sp = .w) → TrapsOn (.cpy nowait d) 0x09 1 w0 s)
            ∧ (¬ side w0 (fun l => l.sp = .w) →
              (side w0 (past sstride) → TrapsOn (.cpy nowait d) 0x09 0x24 w0 s)
              ∧ (¬ side w0 (past sstride) →
                (side w1 (past dstride) → TrapsOn (.cpy nowait d) 0x09 0x24 w1 s)
                ∧ (¬ side w1 (past dstride) →
                  ((bit w3 2 = true ∧ ¬ side w1 (fun l => l.sp = .g ∧ (l.off + (rows - 1) * dstride + rbytes) % 8 = 0))
                    ∨ (bit w3 3 = true ∧ dram w1)) → TrapsOn (.cpy nowait d) 0x22 0 3 s))))))
      ∧ (s.copyFault c = none →
        (core.fifo.length < 16 → Finishes (.cpy nowait d) 8
          (let im := im.withG d (word y.nextId)
            if bit w3 8 then im.withG (regPlus d 1) (word (c.ch.val * 2 ^ 62 + y.nextId)) else im)
          ((s.followStores n c.ch y.nextId).setCore k { core with
            chans := core.chans.set c.ch { y with nextId := y.nextId + 1 }
            fifo := core.fifo ++ [{ c with id := y.nextId }] }) s)
        ∧ (16 ≤ core.fifo.length → nowait = true → status (.cpy nowait d) (BitVec.ofInt 64 (-1)) s)
        ∧ (16 ≤ core.fifo.length → nowait = false → BlocksOn (.cpy nowait d) .poll s s)))
    ∧ (∀ id, (s.culvert = [] → s.followStores n ch id = s)
      ∧ s.followStores n ch id = { s with culvert := (s.followStores n ch id).culvert }
      ∧ ∀ before st after, s.culvert = before ++ st :: after → st.slot = n → (st.rel = true ∨ ∃ r ∈ after, r.slot = n ∧ r.rel = true) →
          { st with copies := st.copies ++ [(ch, id)] } ∈ (s.followStores n ch id).culvert)
    ∧ (x.nextId ≤ ga.toNat → TrapsOn (.cpyw sc ch a) 0x22 2 ga s)
    ∧ (ga.toNat < x.nextId →
      (ga.toNat < core.completedOf ch → CompletesOn (.cpyw sc ch a) 8 im s s)
      ∧ (core.completedOf ch ≤ ga.toNat →
        (bit x.error 63 = true → bits x.error 55 0 ≤ ga.toNat → TrapsOn (.cpyw sc ch a) 0x22 1 x.error s)
        ∧ ((bit x.error 63 = false ∨ ga.toNat < bits x.error 55 0) → BlocksOn (.cpyw sc ch a) .poll s s)))
    ∧ (core.completedOf ch ≤ x.nextId ∧ ∀ z ∈ core.fifo, z.ch = ch → core.completedOf ch ≤ z.id)
    ∧ (s.sealedHere = false →
      Gives (.cpyq err ch d) 8 d (if err then x.error else word (core.completedOf ch)) s
      ∧ (let i := Instr.cpyx .handle d a
        let id := bits ga 55 0
        bits ga 63 62 = ch.val →
        ((bits ga 61 56 ≠ 0 ∨ id = 0 ∨ x.nextId ≤ id) → TrapsOn i 0x22 3 ga s)
        ∧ (bits ga 61 56 = 0 → id ≠ 0 → id < x.nextId →
          (inFlight id = none → status i 1 s)
          ∧ (∀ z, inFlight id = some z → z.handle = false → status i (BitVec.ofInt 64 (-2)) s)
          ∧ (∀ z, inFlight id = some z → z.handle = true → BlocksOn i (.cpyx d ch false [id]) (stopped [id]) s)))
      ∧ (let i := Instr.cpyx (.reset ch) d a
        let ids := (core.fifo.filter fun z => z.ch = ch).map fun z => z.id
        (ids = [] → status i 0 (s.setCore k { core with chans := core.chans.set ch { x with error := 0 } }))
        ∧ (ids ≠ [] → BlocksOn i (.cpyx d ch true ids) (stopped ids) s)))
    ∧ (s.sealedHere = true → TrapsOn (.cpyq err ch d) 0x07 0 0 s ∧ TrapsOn (.cpyx .handle d a) 0x07 0 0 s)
    ∧ (∀ sl : Nat,
      let fifo := (s.coreAt (coreOf sl)).fifo
      let left := fifo.filter fun z => !fifo.any fun o => o.stopping && o.ch = z.ch && o.id = z.id && !s.stopAwaited (coreOf sl) o
      (∀ (r : Bool) (ids : List Nat), (s.slotAt sl).wait = some (.cpyx d ch r ids) →
        ∃ t, exec (.copyCancelAck sl) s = .next t ∧ t.mem = s.mem ∧ (t.slotAt sl).wait = none
          ∧ t.gOf sl d = (if d = 0 then 0 else if r then word ids.length else 0)
          ∧ (t.coreAt (coreOf sl)).fifo = left.filter (fun z => !(decide (z.ch = ch ∧ z.id ∈ ids)))
          ∧ (r = true → (t.coreAt (coreOf sl)).chans[ch].error = 0))
      ∧ ((∀ e j r ids, (s.slotAt sl).wait ≠ some (.cpyx e j r ids)) → ∃ t, exec (.copyCancelAck sl) s = .next t ∧ t.mem = s.mem
          ∧ (t.coreAt (coreOf sl)).fifo = left))
    ∧ (s.level n ≠ 0 →
      (isOrdinary n = true → TrapsOn (.tlbi form a) 0x0B 2 (words01 (.tlbi form a)) s
        ∧ TrapsOn (.xlat write d a) 0x0B 2 (words01 (.xlat write d a)) s)
      ∧ (isOrdinary n = false →
        (∃ mid, Acts (.tlbi form a) 8 im mid s ∧ mid = { s with cores := mid.cores }
          ∧ ∀ q, mid.coreAt q = { s.coreAt q with tlb := (s.coreAt q).tlb.filter fun e =>
              !(decide (if form = .bcast then 4096 ≤ q ∧ q < 4400 else q = k)
                && decide (e.part = s.partOf n) && decide (form = .all ∨ (e.va ≤ ga.toNat ∧ ga.toNat < e.va + e.size))) })
        ∧ (∀ sub, s.walk (s.partOf n) ga.toNat = .fail sub → Gives (.xlat write d a) 8 d (BitVec.ofInt 64 (-1)) s)
        ∧ (∀ pa size r w t, s.walk (s.partOf n) ga.toNat = .leaf pa size r w t →
          ((if write then w else r) = false → Gives (.xlat write d a) 8 d (BitVec.ofInt 64 (-1)) s)
          ∧ ((if write then w else r) = true → ∃ v mid, Acts (.xlat write d a) 8 (im.withG d v) mid s
            ∧ bits v 55 0 = (pa + ga.toNat % size) % 2 ^ 56 ∧ bit v 56 = r ∧ bit v 57 = w ∧ bit v 58 = t
            ∧ bits v 61 60 = (if size = 2 ^ 30 then 2 else if size = 2 ^ 21 then 1 else 0)
            ∧ (mid.coreAt k).tlbHit (s.partOf n) ga.toNat ≠ none
            ∧ mid = { s with cores := mid.cores }))))

/-- For the copy that a channel runs and that may go on, which none may whose reads follow a store that is not performed,
and no stop being asked of its thread: where both sides of the parts due translate to places that this module serves
and the windows let pass, COPY_CHUNK copies their bytes, every byte read before any is written, changes no other byte
and advances the copy; where a side does not translate it stops the copy with that page fault; where a window, this
reeve or another module refuses, or a link is down, it fails the copy with that REASON in ERROR. The parts due end at
a chunk's end, or so that no 64-bit word of the destination is written in two steps (the model's reading of R178 with
R359, log 5). A copy of a killed launch is cancelled after its chunk. COPY_COMPLETE of a copy whose rows are all moved
sets the tag, signals the semaphore and takes the copy off the FIFO; COMPLETED is then the lowest id in flight. PAGE
makes the fault pending in a LIVE thread once, withdrawing a wait other than that of WAIT, SLEEP or an answered access
(which R147 lets no withdrawal undo, log 25); of another thread it first gives the reeve its record, and then resumes
the copy where the page is there, or fails it with REASON 4 and reports it. (R68, R147, R176, R178, R179, R266, R351,
R359, R360, R361, R411.) -/
def Obligations.CopiesMoveAndComplete : Prop :=
  ∀ (k : Nat) (ch : Fin 4) (r : Remote) (c : Copy) (s : State),
    let core := s.coreAt k
    let part := (s.launchAt c.launch).part
    let src := s.sideOf c.launch c.w0
    let dst := s.sideOf c.launch c.w1
    let n := min (min (c.rbytes - c.bytesDone) 4096) (min (src.at_ (c.rowsDone * c.sstride + c.bytesDone)).room
      (dst.at_ (c.rowsDone * c.dstride + c.bytesDone)).room)
    let low := fun row col : Nat => (dst.at_ (row * c.dstride + col)).low
    let ps := c.unit src dst
    let gone := ps.foldl (fun x p => x.advance p.len) c
    let becomes := fun (x : Copy) => core.fifo.map fun y => if y.ch = ch ∧ y.id = c.id then x else y
    let sl := s.slotAt c.slot
    let fails := fun (t : State) (reason : Nat) => t.mem = s.mem ∧ (t.coreAt k).fifo = core.fifo
      ∧ (t.coreAt k).chans[ch].error = (core.chans[ch].error &&& 0x4000000000000000) ||| word (2 ^ 63 + reason * 2 ^ 56 + c.id)
    let chunk := fun (x : Remote) (post : State → Prop) => ∃ t, exec (.copyChunk k ch x) s = .next t ∧ post t
    core.running ch = some c →
    (∀ j ∈ s.pairOf c.slot, (s.slotAt j).stopDue = false) →
    (c.cancelled = true → s.copyGoes k c = true → c.moved = false →
      chunk r fun t => ∀ x ∈ (t.coreAt k).fifo, ¬ (x.ch = ch ∧ x.id = c.id))
    ∧ (c.badWord = none → c.rowsDone < c.rows → c.bytesDone < c.rbytes →
      (∀ p ∈ ps, 0 < p.len)
      ∧ (gone.rows ≤ gone.rowsDone ∨ ∀ p ∈ ps, ∀ i, i < p.len →
          (low p.row p.col + i) / 8 < low gone.rowsDone gone.bytesDone / 8)
      ∧ ((low c.rowsDone c.bytesDone + n) % 8 = 0 → ps = [⟨c.rowsDone, c.bytesDone, n⟩]))
    ∧ (c.cancelled = false → s.copyGoes k c = true → c.moved = false →
      (∀ f s1, s.placePieces k part c src dst ps = (.error f, s1) →
        chunk r fun t => t.mem = s.mem ∧ (t.coreAt k).fifo = becomes { c with fault := some f, told := false })
      ∧ (∀ ms s1, s.placePieces k part c src dst ps = (.ok ms, s1) →
        let refusal := ms.findSome? fun m => (s1.sideRefusal c m.src m.len 1).or (s1.sideRefusal c m.dst m.len 2)
        let who := fun m : Move => [s1.copyServer c m.src m.len, s1.copyServer c m.dst m.len]
        (∀ reason, refusal = some reason → chunk r fun t => fails t reason)
        ∧ (refusal = none →
          ((∃ m ∈ ms, .refused ∈ who m) → chunk r fun t => fails t 2)
          ∧ ((∀ m ∈ ms, .refused ∉ who m) → (∃ m ∈ ms, .away ∈ who m) →
            (chunk .refused fun t => fails t 2) ∧ (chunk .linkDown fun t => fails t 3))
          ∧ (∀ a b : Move → Nat, (∀ m ∈ ms, who m = [.here (a m), .here (b m)] ∧ m.src.sp ≠ .ctx ∧ m.dst.sp ≠ .ctx
                ∧ (m.src.sp = .dram → ∀ i, i < m.len → s.stackShut (a m + i) = false) ∧ (m.dst.sp = .dram → s.stackShut (b m) = false)) →
            let from_ := fun m : Move => ({ m.src with off := a m } : Loc).key
            let to_ := fun m : Move => ({ m.dst with off := b m } : Loc).key
            ms.Pairwise (fun x y => to_ x + x.len ≤ to_ y ∨ to_ y + y.len ≤ to_ x) →
            (∀ m ∈ ms, a m % 8 = m.low % 8) →
            (∀ x ∈ ms, ∀ y ∈ ms, ∀ i j, i < x.len → j < y.len → (x.low + i) / 8 = (y.low + j) / 8 →
              from_ x + y.low = from_ y + x.low ∧ a x + y.low = a y + x.low) →
            MemOk s → s.poison = [] → c.early = [] → c.held = [] →
            chunk r fun t => (∀ m ∈ ms, ∀ i, i < m.len → byteAt t.mem (to_ m + i) = byteAt s.mem (from_ m + i))
              ∧ (∀ key, (∀ m ∈ ms, key < to_ m ∨ to_ m + m.len ≤ key) → byteAt t.mem key = byteAt s.mem key)
              ∧ (∃ h, (t.coreAt k).fifo = becomes { gone with held := h })
              ∧ t = { s with mem := t.mem, cores := t.cores }))))
    ∧ (s.copyGoes k c = true → c.rows ≤ c.rowsDone →
      let ends := fun u : State => ∃ t, exec (.copyComplete k ch) s = .next t
        ∧ (t.coreAt k).fifo = (u.coreAt k).fifo.filter (fun x => !(x.ch = ch && x.id = c.id))
        ∧ (t.coreAt k).chans[ch].completed = (t.coreAt k).completedOf ch ∧ t = { u with cores := t.cores }
      (c.sig = false → c.tagfull = false → ends s)
      ∧ (∀ l, s.sideOf c.launch c.w1 = .loc l →
        (c.tagfull = false → c.sig = true → ∀ u, s.addSem l.tile c.sem 1 = some u → ends u)
        ∧ (c.tagfull = true → c.sig = false → ends (s.changeTag (c.lastWord l) true))))
    ∧ ((∃ x ∈ s.culvert, x.slot = c.slot ∧ (c.ch, c.id) ∈ x.copies) → s.copyGoes k c = false)
    ∧ (s.copyGoes k c = false → exec (.copyChunk k ch r) s = .next s ∧ exec (.copyComplete k ch) s = .next s)
    ∧ (∀ sub va, c.fault = some (sub, va) → c.stopping = false → chanFailed core.chans[ch] = false →
      (sl.state = .live → c.told = false → sl.hold = none → ∃ t, exec (.page k ch) s = .next t
        ∧ (t.slotAt c.slot).pending = (sl.pending.filter fun p => p.cause ≠ 0x0C) ++ [⟨0x0C, sub, va⟩]
        ∧ (t.slotAt c.slot).wait = (match sl.wait with
            | some (.sluice x y z) => some (.sluice x y z)
            | some (.sleep x) => some (.sleep x)
            | some (.globalIn x y) => some (.globalIn x y)
            | _ => none)
        ∧ (t.coreAt k).fifo = becomes { c with told := true })
      ∧ (sl.state ≠ .live → sl.pageRecord = none →
        exec (.page k ch) s = .next (s.setSlot c.slot { sl with pageRecord := some ⟨0x0C, sub, va, (s.img c.slot).pc, true⟩ }))
      ∧ (sl.state ≠ .live → sl.pageRecord ≠ none →
        let u := s.setSlot c.slot { sl with pageRecord := none }
        (u.pageThere c va = true → ∃ t, exec (.page k ch) s = .next t
          ∧ (t.coreAt k).fifo = becomes { c with fault := none, told := false } ∧ t = { u with cores := t.cores })
        ∧ (u.pageThere c va = false → ∃ t, exec (.page k ch) s = .next t ∧ fails t 4
          ∧ (t.slotAt c.slot).pageRecord = none
          ∧ (t.partAt part).reports = (s.partAt part).reports ++ [⟨c.slot, sub * 256 + 0x0C, va, 0⟩])))

/-- DISPATCH of the oldest record of a queue, where no higher queue's oldest can be placed, on a placement that it may
stand on allots the tiles as logical tiles 0, 1, ..., gives the empty work-queue shares and keeps the windows closed;
of any other it does nothing. LAUNCH_START of a dispatched launch that is not killed or faulted makes it run with open
windows and starts each slot of BINDS: LIVE, bound to its engine, at its entry, g5 its logical number, g6 ARG, the
other g registers 0, first turn at cycle 32 + s. LAUNCH_COMPLETE of a run that is over ends a launch: the accesses
that other launches have under way at its stores are performed or, where they wait, refused with WINDOW 1 (log 80),
and its slots, tiles, groups and shares are released, and its cores emptied of messages, ready entries and checked
ranges; its outcome is KILLED, FAULTED, BREACHED or COMPLETE in that order, with its completion record; a witness
launch that completed its first run instead keeps its digest, gives its power tokens back and waits for
WITNESS_SECOND_RUN, which empties the pump-class cores that it alone uses and prepares it to start again with another
seed of the dike rings. The order of the outcomes and the detail word (log 38), and the emptied pump-class cores (log
44), are the model's readings. (R65, R67, R68, R69, R70, R71, R73, R76, R79, R82.) -/
def Obligations.LaunchesStartAndEnd : Prop :=
  ∀ (l seed : Nat) (place : List Nat) (s : State),
    let lc := s.launchAt l
    let plan := s.readPlan lc.part lc.record
    let v := s.verdict l
    (s.canDispatch l plan place = true → ∃ t, exec (.dispatch l place) s = .next t
      ∧ (t.launchAt l).phase = .dispatched ∧ (t.launchAt l).place = place ∧ (t.launchAt l).plan = plan ∧ (t.launchAt l).closed = true
      ∧ (∀ i, i < place.length → (t.tileAt (place.getD i 0)).launch = some l ∧ (t.tileAt (place.getD i 0)).logTile = i)
      ∧ (∀ x, x ∉ place → t.tileAt x = s.tileAt x)
      ∧ (∀ r ∈ regionsOf place, t.shareAt r l = { size := lc.record.wqshare })
      ∧ t.slots = s.slots ∧ t.images = s.images ∧ t.cores = s.cores)
    ∧ ((lc.phase ≠ .queued ∨ s.queueHead lc.record.prio ≠ some l ∨ s.placeOk lc plan.groups place = false
        ∨ ∃ p, p < lc.record.prio ∧ s.headFits p = true) → exec (.dispatch l place) s = .next s)
    ∧ (lc.phase = .dispatched → lc.killed = false → lc.fault = none → lc.place.Nodup → (∀ p ∈ lc.place, p < 1024) →
      ∃ t, exec (.launchStart l) s = .next t
        ∧ (t.launchAt l).phase = .running ∧ (t.launchAt l).closed = false ∧ t.mem = s.mem
        ∧ ((∀ e ∈ lc.plan.binds, bindLog e / 64 < lc.place.length) → ∀ e ∈ lc.plan.binds, (∀ e' ∈ lc.plan.binds, bindLog e' = bindLog e → e' = e) →
          let n := lc.slotOf (bindLog e)
          (t.slotAt n).state = .live ∧ (t.slotAt n).engine = bindEngine e ∧ (t.slotAt n).launch = l
            ∧ (t.slotAt n).logSlot.toNat = bindLog e ∧ (t.slotAt n).turnFrom = 32 + bindSlot e
            ∧ (t.img n).pc = word (bits e 63 32) ∧ (t.img n).g[5] = word (bindLog e) ∧ (t.img n).g[6] = lc.record.arg
            ∧ (∀ r : Reg, r ≠ 5 → r ≠ 6 → (t.img n).g[r] = 0))
        ∧ (∀ i, i < lc.place.length → let x := t.tileAt (lc.place.getD i 0)
          x.launch = some l ∧ x.logTile = i ∧ x.cycle = 0 ∧ x.mx.queue = [] ∧ x.mx.act = false ∧ (∀ k : Fin 16, x.sems[k] = 0)
            ∧ x.mx.mconf = BitVec.ofNat 10 (i % 4 * 16 + 2 ^ (i % 4))))
    ∧ ((lc.phase ≠ .dispatched ∨ lc.killed = true ∨ lc.fault ≠ none) → exec (.launchStart l) s = .next s)
    ∧ (s.runOver l = false → exec (.launchComplete l) s = .next s)
    ∧ (let q := s.quitStores l
      (s.culvert = [] → q.mem = s.mem)
      ∧ (∀ n op r x ea k, (s.slotAt n).launch ≠ l → (s.slotAt n).wait = some (.tagged op r x ea k) → x.tile ∈ lc.place →
          (q.slotAt n).wait = some (.globalIn ⟨op.access, 8, 1, r, [], ea, x⟩ (.window 1)))
      ∧ (∀ n, (∀ op r x ea k, (s.slotAt n).wait = some (.tagged op r x ea k) → x.tile ∉ lc.place) → q.slotAt n = s.slotAt n))
    ∧ (s.runOver l = true → lc.isWitness = false → let u := (s.writeDone lc v.1 true v.2 0 0).quitStores l
      ∃ t, exec (.launchComplete l) s = .next t
      ∧ (t.launchAt l).phase = .done ∧ (t.launchAt l).closed = true ∧ (t.launchAt l).groups = []
      ∧ (∀ n ∈ s.slotsOf l, t.slotAt n = {})
      ∧ (∀ n, n ∉ s.slotsOf l → ¬ (coreOf n ∈ lc.cores ∧ s.pumpCoreShared l (coreOf n) = true) → t.slotAt n = u.slotAt n)
      ∧ (∀ p ∈ lc.place, (t.tileAt p).launch = none) ∧ (∀ p, p ∉ lc.place → t.tileAt p = s.tileAt p)
      ∧ (∀ r, find (t.regionAt r).shares l = none)
      ∧ (∀ c ∈ lc.cores, s.pumpCoreShared l c = false → t.coreAt c = { s.coreAt c with
          rx := [], arms := [], ready := .replicate 4 [], ranges := [], marks := [], seqs := [], expect := [] })
      ∧ (∀ c ∈ lc.cores, s.pumpCoreShared l c = true → (t.coreAt c).rx = (s.coreAt c).rx.filter fun m => m.launch ≠ l)
      ∧ t.mem = u.mem)
    ∧ (s.runOver l = true → lc.isWitness = true → v.1 = 0 → lc.run = 0 → let u := s.quitStores l
      ∃ t, exec (.launchComplete l) s = .next t
      ∧ t.launchAt l = { lc with phase := .between, run := 1, closed := true, digestA := digestOf (u.outWords lc) }
      ∧ (∀ p ∈ lc.place, (t.tileAt p).mx.queue = [] ∧ (t.tileAt p).mx.token = none ∧ (t.tileAt p).launch = (s.tileAt p).launch)
      ∧ (∀ p, p ∉ lc.place → t.tileAt p = s.tileAt p)
      ∧ t.mem = u.mem ∧ t.slots = u.slots ∧ t.images = s.images ∧ t.cores = s.cores)
    ∧ (s.runOver l = true → lc.isWitness = true → v.1 = 0 → lc.run ≠ 0 → ∃ t, exec (.launchComplete l) s = .next t
      ∧ (t.launchAt l).phase = .done
      ∧ t.mem = ((s.writeDone lc (if lc.digestA = digestOf (s.outWords lc) then 0 else 1) true 0 lc.digestA
          (digestOf (s.outWords lc))).quitStores l).mem)
    ∧ (lc.phase = .between → lc.killed = false → lc.fault = none → ∃ t, exec (.witnessSecondRun ⟨l, seed⟩) s = .next t
      ∧ (t.launchAt l).phase = .dispatched ∧ (t.launchAt l).run = lc.run ∧ (t.launchAt l).breach = none
      ∧ (∀ r ∈ regionsOf lc.place, t.shareAt r l = { size := lc.record.wqshare } ∧ (t.regionAt r).lastHolder = seed % 16)
      ∧ (∀ n, ¬ (coreOf n ∈ lc.pumpSlots.map coreOf ∧ s.pumpCoreShared l (coreOf n) = true) →
          t.slotAt n = if n ∈ lc.begun ∧ (s.slotAt n).launch = l then {} else s.slotAt n) ∧ t.tiles = s.tiles
      ∧ (∀ c, c ∉ lc.pumpSlots.map coreOf → t.coreAt c = s.coreAt c)
      ∧ (∀ c ∈ lc.pumpSlots.map coreOf, if s.pumpCoreShared l c then (t.coreAt c).rx = (s.coreAt c).rx.filter fun m => m.launch ≠ l
        else t.coreAt c = (s.coreAt c).emptied))
    ∧ ((lc.phase ≠ .between ∨ lc.killed = true ∨ lc.fault ≠ none) → exec (.witnessSecondRun ⟨l, seed⟩) s = .next s)
    ∧ (lc.killed = true → v = (3, 0))
    ∧ (∀ n c, lc.killed = false → lc.fault = some (n, c) → v = (4, n * 2 ^ 32 + c % 65536))
    ∧ (lc.killed = false → lc.fault = none → s.failedCopy l = none →
      (∀ g i, lc.breach = some (g, i) → v = (5, g * 256 + i)) ∧ (lc.breach = none → v = (0, 0)))

/-- LAUNCH_PREEMPT of a running launch at a launch safe point frees its tiles and saves it; of any other it does nothing.
What the launch has on pump-class cores goes with it (log 16). Restored from the state that the pre-emption left, at
any tide, on a placement that it may stand on, tile for tile, the general, vector and mask registers and every other
register of its images, every byte of its stores, its mailboxes, ready queues (where no buffered message has an arm to
fire) and copy channels are what they were on the old tiles, and the launch runs again there; a launch that is not
saved, is killed, faulted or paused by its quota, or does not fit, on its tiles or on its pump-class cores, is not
restored. CONTEXT_SWITCH points a slot that may be switched at an image that no other slot of its core uses, and
changes no image; the wait, the hold and the boundary causes of the thread that leaves are kept for it, and those of
the other return; otherwise it does nothing. A switch of a member of a sluice group points the slots of all its LIVE
members at other images, or back at their own, at once or not at all. Which slots may be switched, the switch of a
whole group and what is kept beside the image are the model's readings (log 42). (R80, R96, R201, R202, R263, R264,
R265, R362.) -/
def Obligations.LaunchesAreSavedAndRestored : Prop :=
  ∀ (l : Nat) (place : List Nat) (slot : Nat) (sel : Fin 16) (s : State),
    let lc := s.launchAt l
    ((lc.phase ≠ .running ∨ s.launchSafe l = false) → exec (.launchPreempt l) s = .next s)
    ∧ (lc.phase = .running → s.launchSafe l = true → ∃ t, exec (.launchPreempt l) s = .next t
      ∧ (t.launchAt l).phase = .saved ∧ (t.launchAt l).place = [] ∧ t.mem = (s.quitStores l).mem
      ∧ (∀ p ∈ lc.place, (t.tileAt p).launch = none)
      ∧ ((∀ n ∈ lc.begun, isOrdinary n = false) → (∀ p ∈ lc.place, p < 1024) → ∀ c ∈ lc.pumpCores,
          (t.coreAt c).rx = ((s.coreAt c).rx.filter fun m => m.launch ≠ l)
          ∧ (t.coreAt c).fifo = ((s.coreAt c).fifo.filter fun x => x.launch ≠ l)
          ∧ (s.coreAt c).savePump l c ∈ (t.launchAt l).savedPumps)
      ∧ (MemOk s → (∀ n ∈ lc.begun, isOrdinary n = false) → lc.place.length = lc.record.tiles → (∀ p ∈ lc.place, p < 1024) → ∀ u : State,
        u = { t with tide := u.tide } → lc.killed = false → lc.fault = none → s.quotaDue l = false → lc.inbox = [] →
        ((t.launchAt l).savedPumps.all fun p => (t.coreAt p.core).hasRoom p) = true →
        u.placeOk (u.launchAt l) (u.launchAt l).groups place = true →
        ∃ w, exec (.launchRestore l place) u = .next w
          ∧ (w.launchAt l).phase = .running ∧ (w.launchAt l).place = place
          ∧ (∀ c ∈ lc.pumpCores, (∀ a ∈ (s.coreAt c).arms, a.2.launch ≠ l) →
              (w.coreAt c).rx = ((s.coreAt c).rx.filter fun m => m.launch = l) ++ (t.coreAt c).rx)
          ∧ ∀ i, i < place.length →
            let old := lc.place.getD i 0
            let new := place.getD i 0
            (w.tileAt new).launch = some l ∧ (w.tileAt new).logTile = i ∧ (w.tileAt new).sems = (s.tileAt old).sems
            ∧ (∀ c, c < 4 → let x := w.coreAt (4 * new + c); let y := s.coreAt (4 * old + c)
              x.mailbox = y.mailbox ∧ ((s.lateArms y l).1 = [] → x.ready = y.ready) ∧ x.win = y.win
              ∧ ((∀ ch : Fin 4, y.chans[ch].nextId < 2 ^ 64 ∧ y.chans[ch].completed < 2 ^ 64) → x.chans = y.chans))
            ∧ (∀ k, k < 64 → w.imageAt (64 * new + k) = s.imageAt (64 * old + k)
              ∧ (w.slotAt (64 * new + k)).state = (s.slotAt (64 * old + k)).state
              ∧ (w.slotAt (64 * new + k)).sel = (s.slotAt (64 * old + k)).sel)
            ∧ (∀ off, off < 0x200000 → byteAt w.mem ((⟨.g, 4 * new, off⟩ : Loc).key) = byteAt t.mem ((⟨.g, 4 * old, off⟩ : Loc).key)
              ∧ byteAt w.mem ((⟨.a, new, off⟩ : Loc).key) = byteAt t.mem ((⟨.a, old, off⟩ : Loc).key))
            ∧ (∀ off, off < 0x100000 → byteAt w.mem ((⟨.c, new, off⟩ : Loc).key) = byteAt t.mem ((⟨.c, old, off⟩ : Loc).key)
              ∧ byteAt w.mem ((⟨.w, new, off⟩ : Loc).key) = byteAt t.mem ((⟨.w, old, off⟩ : Loc).key))))
    ∧ ((lc.phase ≠ .saved ∨ lc.killed = true ∨ lc.fault ≠ none ∨ lc.quotaPaused = true
        ∨ s.placeOk lc lc.groups place = false ∨ (lc.savedPumps.all fun p => (s.coreAt p.core).hasRoom p) = false) →
      exec (.launchRestore l place) s = .next s)
    ∧ (s.canSwitch slot = true → s.imageShared slot sel.val = false → s.groupSwitch slot sel.val = none → ∃ t, exec (.contextSwitch slot sel) s = .next t
      ∧ t.images = s.images ∧ (∀ m, m ≠ slot → t.slotAt m = s.slotAt m)
      ∧ t.imageKey slot = 16 * coreOf slot + sel.val ∧ (t.slotAt slot).state = .live
      ∧ (16 * coreOf slot + sel.val ≠ s.imageKey slot →
        let x := t.slotAt slot
        let r := look {} s.residues (16 * coreOf slot + sel.val)
        let y := s.slotAt slot
        let z := look {} t.residues (s.imageKey slot)
        x.wait = r.wait ∧ x.hold = r.hold ∧ x.pending = r.pending ∧ x.tickDue = r.tickDue ∧ x.wdDue = r.wdDue
        ∧ z.wait = (if withdrawable y.wait then none else y.wait) ∧ z.hold = y.hold ∧ z.pending = y.pending
        ∧ z.tickDue = y.tickDue ∧ z.wdDue = y.wdDue)
      ∧ t = { s.finishSnap slot with slots := t.slots, residues := t.residues })
    ∧ (∀ h g, s.canSwitch slot = true → s.imageShared slot sel.val = false → s.groupSwitch slot sel.val = some (h, g) →
      let ms := s.groupMoves (s.launchAt h) g slot sel.val
      let able := ∀ m ∈ ms, s.standsStill m.2.1 = true ∧ (g.out = [] ∨ s.atSwitchPoint m.2.1 = true) ∧ s.imageHeld (coreOf m.2.1) m.2.2 (ms.map (·.2.1)) = false
      (¬ able → exec (.contextSwitch slot sel) s = .next s)
      ∧ (able → (ms.map (·.2.1)).Nodup → ∃ t, exec (.contextSwitch slot sel) s = .next t ∧ t.images = s.images
        ∧ (∀ m ∈ ms, t.imageKey m.2.1 = 16 * coreOf m.2.1 + m.2.2 % 16)
        ∧ (∀ n, n ∉ ms.map (·.2.1) → t.slotAt n = s.slotAt n)
        ∧ (∀ x ∈ (t.launchAt h).groups, x.num = g.num →
          x.out = if g.out = [] then ms.map (fun m => (m.1, s.imageNum m.2.1)) else [])))
    ∧ ((s.canSwitch slot = false ∨ s.imageShared slot sel.val = true) → exec (.contextSwitch slot sel) s = .next s)

/-- OPERATING_POINT_CHANGE on a rotation edge lowers a clock domain, a polder's or a pump-class core's, to its target at
once; for a raise it asks for the voltage, then the rail has settled, and the next edge raises the point; a polder's
target is above neither the crest nor its region's FBMAX, and 0 while the rail holds. DROOP marks the peers.
FBMAX_UPDATE takes a curve of 61 points, its guard band and the rail's limit, sets FBMAX to the highest point that
fits, and takes the region out of service where none of at least 24 does. ENERGY_UPDATE of a launch adds the energy of
the work counted and of the standing power to USED, starts the count anew and makes QUOTA pending in every LIVE thread
when QUOTA is reached; the period boundary carries the overrun on, and a pre-emption that is due with it.
ALLOWANCE_UPDATE and DRAMTEMP_UPDATE set their fields every 10,000 ticks; an allowance that falls to zero never raises
the limit; a stack at 105 degrees is shut down. Loss of a reference holds the crest at 24 or below until its return
and tells the group 24. TIDE_SET sets the tide once, before the first dispatch, TIDE_SLEW adds or withholds one tick
at most once in 10,000. A withheld tick that changes only its mark (log 22) and the own limit at a loss of reference
(log 58) are the model's readings. (R351, R372, R373, R374, R375, R376, R380, R382, R384, R385, R391, R414.) -/
def Obligations.PowerFollowsItsLimits : Prop :=
  ∀ (tl rg die l nj mw fb lim : Nat) (cv : List Nat) (on up : Bool) (w : Word) (d0 d1 d2 d3 : BitVec 16) (s : State),
    let now := s.tide.toNat
    let tile := s.tileAt tl
    let goal := s.targetOf tl
    let r := s.regionAt rg
    let lc := s.launchAt l
    let keeps := fun i : Instr => exec i s = .next s
    let own := fun u : State => u.crest.own.limitAt now
    (s.railHold = false → goal ≤ s.crestNow ∧ goal ≤ (s.regionAt (regionOf tl)).fbmax) ∧ (s.railHold = true → goal = 0)
    ∧ (tl < 1024 →
      (goal = tile.point ∨ (goal < tile.point ∧ s.mayStep tl = false) → keeps (.operatingPointChange tl))
      ∧ (s.mayStep tl = true → goal < tile.point → ∃ t, exec (.operatingPointChange tl) s = .next t
        ∧ (∀ u ∈ s.peers tl, (t.tileAt u).point = goal ∧ (t.tileAt u).volt = none) ∧ t = { s with tiles := t.tiles })
      ∧ (tile.point < goal → ∃ t, exec (.operatingPointChange tl) s = .next t
        ∧ (∀ u, (t.tileAt u).point = (s.tileAt u).point) ∧ t = { s with tiles := t.tiles }
        ∧ (tile.volt = none → ∀ u ∈ s.peers tl, (t.tileAt u).volt = some (goal, false))
        ∧ (∀ q x, tile.volt = some (q, x) → ∀ u ∈ s.peers tl, (t.tileAt u).volt = some (q, true)))
      ∧ (∀ q, s.mayStep tl = true → tile.volt = some (q, true) → tile.point < min goal q → ∀ u ∈ s.peers tl,
        ((s.edgePoint tl).tileAt u).point = min goal q ∧ ((s.edgePoint tl).tileAt u).volt = none)
      ∧ (goal = tile.point ∨ s.mayStep tl = false → s.edgePoint tl = s)
      ∧ (∃ t, exec (.droop tl on) s = .next t ∧ t = { s with tiles := t.tiles }
        ∧ ∀ u, (t.tileAt u).droop = (if u ∈ s.peers tl then on else (s.tileAt u).droop) ∧ (t.tileAt u).point = (s.tileAt u).point))
    ∧ (∀ p, p < 304 → let c := s.coreAt (4096 + p)
      let goal := s.pumpTarget p
      let becomes := fun (i : Instr) (x : Core) => exec i s = .next (s.setCore (4096 + p) x)
      let move := Instr.operatingPointChange (1024 + p)
      (goal ≤ s.crestNow ∨ s.railHold = true)
      ∧ (goal = c.point ∨ (goal < c.point ∧ c.cycle % 16 ≠ 0) → keeps move)
      ∧ (c.cycle % 16 = 0 → goal < c.point → becomes move { c with point := goal, volt := none })
      ∧ (c.point < goal → c.volt = none → becomes move { c with volt := some (goal, false) })
      ∧ (∀ q x, c.point < goal → c.volt = some (q, x) → becomes move { c with volt := some (q, true) })
      ∧ (∀ q, c.cycle % 16 = 0 → c.volt = some (q, true) → c.point < min goal q →
          s.edgePump p = s.setCore (4096 + p) { c with point := min goal q, volt := none })
      ∧ becomes (.droop (1024 + p) on) { c with droop := on, droopAt := if on then c.droopAt else some now })
    ∧ (rg < 64 → cv.length = 61 → (s.regionBusy rg = false ∨ ∀ k, r.fbAt = some k → k + 10000000 ≤ now) →
      let fits := fun q : Nat => cv.getD q 0 + fb ≤ lim
      let told := { r with fbAt := some now, curve := cv, freeboard := fb, railLimit := lim }
      (∀ v, 24 ≤ v → v ≤ 60 → fits v → (∀ q, v < q → q ≤ 60 → ¬ fits q) →
        exec (.fbmaxUpdate rg ⟨cv, fb, lim⟩) s = .next (s.setRegion rg { told with fbmax := v }))
      ∧ ((∀ q, 24 ≤ q → q ≤ 60 → ¬ fits q) → ∃ t, exec (.fbmaxUpdate rg ⟨cv, fb, lim⟩) s = .next t
        ∧ t.regionAt rg = { told with outOfService := true } ∧ t.errSeq = s.errSeq + 1
        ∧ t = { s with regions := t.regions, errSeq := t.errSeq, errOut := t.errOut }))
    ∧ ((64 ≤ rg ∨ cv.length ≠ 61 ∨ (s.regionBusy rg = true ∧ ∃ k, r.fbAt = some k ∧ now < k + 10000000)) →
        keeps (.fbmaxUpdate rg ⟨cv, fb, lim⟩))
    ∧ (now % 1000 = 0 → l ≠ 0 → (lc.phase = .running ∨ lc.phase = .saved) →
      let used := lc.used + Config.energyOf (addCount lc.work Activity.standing.index (mw * lc.place.length))
      ∃ t, exec (.energyUpdate l mw) s = .next t ∧ (t.launchAt l).used = used ∧ (t.launchAt l).work = [] ∧ t.mem = s.mem
      ∧ (lc.record.quota ≠ 0 → lc.record.quota ≤ used → lc.quotaHit = false →
        ∀ n ∈ s.liveSlots l, (⟨0x17, 0, word used⟩ : Raised) ∈ (t.slotAt n).pending))
    ∧ (now % 1000 = 0 → exec (.energyUpdate 0 mw) s = .next { s with house := s.house + Config.houseEnergy s.houseWork mw, houseWork := [] })
    ∧ ((now % 1000 ≠ 0 ∨ (l ≠ 0 ∧ lc.phase ≠ .running ∧ lc.phase ≠ .saved)) → keeps (.energyUpdate l mw))
    ∧ (now % 1000000 = 0 → s.quotaAt ≠ now → let used := if lc.record.quota = 0 then 0 else lc.used - lc.record.quota
      ∃ t, exec .quotaPeriodBoundary s = .next t ∧ (t.launchAt l).used = used
      ∧ (t.launchAt l).quotaOwed = (decide (lc.phase = .running) && s.quotaDue l)
      ∧ (t.launchAt l).quotaHit = (lc.quotaHit && decide (lc.phase = .running) && s.quotaOpen l && !s.quotaDue l)
      ∧ (t.launchAt l).quotaPaused = (lc.quotaPaused && decide (lc.record.quota ≤ used))
      ∧ t = { s with launches := t.launches, quotaAt := now })
    ∧ (now % 1000000 ≠ 0 ∨ s.quotaAt = now → keeps .quotaPeriodBoundary)
    ∧ (now % 10000 = 0 → ∃ t, exec (.allowanceUpdate d0 d1 d2 d3) s = .next t ∧ t.mem = s.mem
      ∧ (t.dieAt 0).allowance = d0 ∧ (t.dieAt 1).allowance = d1 ∧ (t.dieAt 2).allowance = d2 ∧ (t.dieAt 3).allowance = d3
      ∧ (min (min d0.toNat d1.toNat) (min d2.toNat d3.toNat) = 0 → s.leastAllowance ≠ 0 → own t ≤ own s))
    ∧ (now % 10000 = 0 → ∃ t, exec (.dramtempUpdate d0 d1 d2 d3) s = .next t
      ∧ ∀ p ∈ [(0, d0), (1, d1), (2, d2), (3, d3)], (t.dieAt p.1).temp = p.2
        ∧ (t.dieAt p.1).shut = ((s.dieAt p.1).shut || decide (840 ≤ p.2.toInt)))
    ∧ (now % 10000 ≠ 0 → keeps (.allowanceUpdate d0 d1 d2 d3) ∧ keeps (.dramtempUpdate d0 d1 d2 d3))
    ∧ (die < 4 → (s.dieAt die).refLost = false → ∃ t, exec (.referenceLoss die) s = .next t
      ∧ (t.dieAt die).refLost = true ∧ t.crestNow ≤ 24 ∧ own t ≤ 24 ∧ t.errSeq = s.errSeq + 1
      ∧ (s.crest.group ≠ none → ∃ a ∈ t.crest.outbox, a.typ = 7 ∧ a.point = 24 ∧ a.sent = now))
    ∧ (die < 4 → (s.dieAt die).refLost = true → ∃ t, exec (.referenceReturn die) s = .next t
      ∧ (t.dieAt die).refLost = false ∧ (t.dieAt die).refBackAt = some now)
    ∧ ((s.dieAt die).refLost = true → ∀ y, s.crestPoint y ≤ 24)
    ∧ (die < 4 → (s.dieAt die).refLost = false →
      ((∀ k, (s.dieAt die).refBackAt = some k → now < k + 1000000) → keeps (.referenceReturn die))
      ∧ (∀ k, (s.dieAt die).refBackAt = some k → k + 1000000 ≤ now → ∃ t, exec (.referenceReturn die) s = .next t
        ∧ (t.dieAt die).refBackAt = none ∧ t.mem = s.mem ∧ ∀ d, (t.dieAt d).refLost = (s.dieAt d).refLost))
    ∧ (s.tideSet = false → s.everDispatched = false → ∃ t, exec (.tideSet w) s = .next t
      ∧ t.tide = w ∧ t.tideSet = true ∧ t.mem = s.mem)
    ∧ (s.tideSet = true ∨ s.everDispatched = true → keeps (.tideSet w))
    ∧ ((∀ k, s.slewAt = some k → k + 10000 ≤ now) →
      (∃ t, exec (.tideSlew true nj) s = .next t ∧ t.tide = s.tide + 1 ∧ t.mem = s.mem)
      ∧ (nj ≤ 1000 → exec (.tideSlew false nj) s = .next { s with slewAt := some now }))
    ∧ (∀ k, s.slewAt = some k → now < k + 10000 → nj ≤ 1000 → keeps (.tideSlew up nj))

/-- A message that is not valid for its type is discarded. After ANNOUNCE of a member its limit is the announced point
from the bite on (a raise not sooner than 1 ms after it was sent) and the old one before, or at once where a lowering
gives less than the notice; EMERGENCY sets it at once. A HEARTBEAT ends the sender's silence; HEARTBEAT_SEND sends the
own limit when it is due. JOIN is answered by the lowest member, with ACCEPT or, of another notice, with EXPEL, at one
tide in ascending order of the joiners, ACCEPT makes the module or the joiner a member from its effective tide, LEAVE
sets the leaver's last tide, EXPEL removes a member, or leaves the module itself under the safe crest of at most 24. A
member unheard for 200 us is silent and the crest safe; one silent for 2 ms is expelled, but not by a module that
hears no member. CREST_BITE takes due changes into force; CRESTNOW's INDEX is then the crest point. The place of an
answer in the outbox, what is kept of a removed or returning member and the tide from which silence counts are the
model's readings (log 22). (R387, R388, R389, R391, R392, R393, R394, R396.) -/
def Obligations.CrestMessagesChangeLimits : Prop :=
  ∀ (m : CrestMsg) (j : Nat) (s : State),
    let now := s.tide.toNat
    let mem := fun (u : State) (k : Nat) => look ({} : Member) u.crest.members k
    let x := mem s m.sender
    let known := find s.crest.members m.sender ≠ none ∧ x.standing = .member
    let keeps := fun i : Instr => exec i s = .next s
    let late := fun a : CrestMsg => (a.typ = 4 || a.typ = 6) && decide (a.sent = now ∧ m.sender < crestAbout a)
    let answered := fun a : CrestMsg => s.crest.outbox.filter (fun y => !late y) ++ [a] ++ s.crest.outbox.filter late
    (s.crestValid m 1 = false → keeps (.announce m)) ∧ (s.crestValid m 2 = false → keeps (.heartbeat m))
    ∧ (s.crestValid m 3 = false → ∀ c, keeps (.join m c)) ∧ (s.crestValid m 4 = false → keeps (.accept m))
    ∧ (s.crestValid m 5 = false → keeps (.leave m)) ∧ (s.crestValid m 6 = false → keeps (.expel m))
    ∧ (s.crestValid m 7 = false → keeps (.emergency m))
    ∧ (s.crestValid m 1 = true → known → ∃ t, exec (.announce m) s = .next t ∧ t.mem = s.mem
      ∧ let old := x.inForceAt m.sent
        let from_ := fun b : Nat => ∀ y, now ≤ y → (mem t m.sender).limitAt y = if b ≤ y then m.point else x.limitAt now
        (m.point < old → m.sent + 1000 * s.crest.notice ≤ m.bite → from_ m.bite)
        ∧ (m.point < old → m.bite < m.sent + 1000 * s.crest.notice → ∀ y, (mem t m.sender).limitAt y = m.point)
        ∧ (old < m.point → from_ (max m.bite (m.sent + 1000000))) ∧ (old = m.point → from_ (max m.bite m.sent)))
    ∧ (s.crestValid m 7 = true → known → ∃ t, exec (.emergency m) s = .next t ∧ t.mem = s.mem
      ∧ ∀ y, (mem t m.sender).limitAt y = m.point)
    ∧ (s.crestValid m 2 = true → find s.crest.members m.sender ≠ none → x.standing ≠ .gone →
      ∃ t, exec (.heartbeat m) s = .next t ∧ t.mem = s.mem ∧ (mem t m.sender).silent = false ∧ (mem t m.sender).lastHeard = now)
    ∧ (s.beatDue = false → keeps .heartbeatSend)
    ∧ (s.beatDue = true → s.crest.expelled = false → s.crest.own.pend = none → ∃ t g, exec .heartbeatSend s = .next t
      ∧ s.crest.group = some g ∧ t = { s with crest := { s.crest with
          lastBeat := now
          outbox := s.crest.outbox ++ [⟨2, 0, g, s.crest.self, s.crest.own.limit, 0, now, 0, 0, true⟩] } })
    ∧ (s.crestValid m 3 = true → s.isLowest m.sender = true → s.crest.expelled = false → ∃ t, exec (.join m s.crest.notice) s = .next t
      ∧ (mem t m.sender).standing = .member ∧ (mem t m.sender).limit = m.point
      ∧ (∃ e a, (mem t m.sender).joinAt = some e ∧ m.sent < e + 1 ∧ t.crest.outbox = answered a
        ∧ a.typ = 4 ∧ crestAbout a = m.sender ∧ a.bite = e ∧ a.point = s.crestNow))
    ∧ (∀ c, s.crestValid m 3 = true → c ≠ s.crest.notice → s.isLowest m.sender = true → s.crest.expelled = false →
      ∃ t a, exec (.join m c) s = .next t ∧ t = { s with crest := { s.crest with outbox := answered a } }
        ∧ a.typ = 6 ∧ crestAbout a = m.sender ∧ a.bite = now ∧ a.sent = now)
    ∧ (s.crestValid m 3 = true → s.isLowest m.sender = false → ∃ t, exec (.join m s.crest.notice) s = .next t
      ∧ (mem t m.sender).standing = .asked ∧ t.crest.outbox = s.crest.outbox)
    ∧ (s.crestValid m 4 = true → crestAbout m = s.crest.self → ∃ t, exec (.accept m) s = .next t
      ∧ t.crest.own.joinAt = some m.bite ∧ t.crest.own.standing = .member ∧ t.crest.expelled = false)
    ∧ (s.crestValid m 4 = true → crestAbout m = j → j ≠ s.crest.self → find s.crest.members j ≠ none → (mem s j).standing = .asked →
      ∃ t, exec (.accept m) s = .next t ∧ (mem t j).standing = .member ∧ (mem t j).joinAt = some m.bite)
    ∧ (s.crestValid m 5 = true → known → ∃ t, exec (.leave m) s = .next t ∧ (mem t m.sender).leaveAt = some m.bite)
    ∧ (s.crestValid m 6 = true → crestAbout m = s.crest.self → ∃ t, exec (.expel m) s = .next t
      ∧ t.crest.expelled = true ∧ t.crestNow ≤ 24)
    ∧ (s.crestValid m 6 = true → crestAbout m = j → j ≠ s.crest.self → find s.crest.members j ≠ none →
      (mem s j).standing = .member → ∃ t, exec (.expel m) s = .next t ∧ (mem t j).standing = .gone)
    ∧ (s.silentDue j = false → keeps (.memberSilent j))
    ∧ (s.silentDue j = true → ∃ t, exec (.memberSilent j) s = .next t ∧ (mem t j).silent = true ∧ t.crestNow ≤ 24)
    ∧ (find s.crest.members j ≠ none → (mem s j).standing = .member → (mem s j).silent = true →
      (mem s j).lastHeard + 2000000 ≤ now → s.isLowest j = true → s.cutOff = false → s.crest.expelled = false →
      ∃ t, exec (.expelTimeout j) s = .next t ∧ (mem t j).standing = .gone
        ∧ (∀ g, s.crest.group = some g → ∃ a, t.crest.outbox = s.crest.outbox ++ [a] ∧ a.typ = 6 ∧ (j < 1024 → crestAbout a = j)))
    ∧ ((mem s j).silent = false ∨ s.cutOff = true → keeps (.expelTimeout j))
    ∧ (∃ t, exec .crestBite s = .next t ∧ bits t.crest.now 5 0 = t.crestPoint now ∧ t.crestPoint now ≤ 60 ∧ t.mem = s.mem
      ∧ ∀ k, (∀ y, now ≤ y → (mem t k).limitAt y = (mem s k).limitAt y)
        ∧ ∀ p b, (mem t k).pend = some (p, b) → now < b)

/-- For a configured partition: a BAR2 read of mapped bytes answers them, those of another module from its reply; of
others, and where a reeve refuses it or the link is down, all ones with ERR set; a write of a mapped byte stores it,
of others only sets ERR. A DOORBELL value joins a queue of fewer than 64, else LOST is set; DBSTAT_CLEAR clears the
bits written 1. MODULE_RESET frees every slot, sets the tide to 0, keeps DRAM and host memory, never lowers the anti-
rollback counter, and boots on only where the controller boots and the reeve's image is good; without the controller
it stays in reset. ATTESTATION of a 32-byte nonce and TELEMETRY answer on the management bus where the controller has
booted. The eighth LINK_REPLAY in a row starts a retrain, or, while the link retrains, is a failed one; the third
failed one takes the link down with a record; LINK_RETRAIN ends a retrain; LINK_DOWN of a link that is down traps each
access that waits behind it with WINDOW 3 and each SEND with MSGFAULT 4, and fails each running copy that reaches over
it with REASON 3; it leaves every other slot, channel and the memory as they are. Below 40 V the rail holds every
polder at point 0, with a record where the controller has booted, below 36 V the module resets, RAIL_RESTORED ends the
hold. A BAR2 access that is refused or cut off (log 60, the model's choice), what a module reset keeps (log 41) and
the counting of failed retrains (log 43) are the model's readings. (R403, R405, R406, R407, R409, R412, R413, R414.) -/
def Obligations.HostAndLinksAreServed : Prop :=
  ∀ (p n mv port : Nat) (addr v : Word) (b : Byte) (bs nonce : List Byte) (ms : List Nat) (r : Remote) (s : State),
    let pt := s.partAt p
    let link := s.linkAt port
    let keeps := fun i : Instr => exec i s = .next s
    let resets := fun i : Instr => ∃ t, exec i s = .next t ∧ (∀ k, (t.slotAt k).state = .free) ∧ t.tide = 0 ∧ t.launches = []
      ∧ t.mem = s.mem.filter (fun c => decide (c.1 < 2 ^ 60)) ∧ s.rollback ≤ t.rollback
      ∧ (t.boot = .running ↔ s.romFails = false ∧ s.flash.reeve.good rootKey s.rollback = true)
      ∧ (s.romFails = true → t.boot = .held)
    let shifted := fun k => s.setLink port k
    (pt.configured = true → addr.toNat < 2 ^ 40 →
      let who := fun (right : Right) (i : Nat) => s.barServer p (addr.toNat + i) right
      let data := fun (x : Remote) (l : List Byte) => exec (.bar2Access p addr ⟨.read n, x⟩) s = .next { s with hostData := l }
      let fails := fun x : Remote => exec (.bar2Access p addr ⟨.read n, x⟩) s = .next (({ s with
          hostData := List.replicate n 0xFF } : State).setPart p { pt with err := true })
      (s.mapped p addr.toNat n .r = true → (∀ i, i < n → ∃ pa, who .r i = .here pa) →
          data r ((List.range n).map fun i => s.partByte p (addr.toNat + i)))
      ∧ (s.mapped p addr.toNat n .r = true → (∀ i, i < n → who .r i = .away) → 0 < n →
          data (.data bs) ((List.range n).map fun i => bs.getD i 0) ∧ fails .refused ∧ fails .linkDown)
      ∧ ((s.mapped p addr.toNat n .r = false ∨ ∃ i, i < n ∧ who .r i = .refused) → fails r)
      ∧ ((s.mapped p addr.toNat bs.length .w = false ∨ ∃ i, i < bs.length ∧ who .w i = .refused) →
          exec (.bar2Access p addr ⟨.write bs, r⟩) s = .next (s.setPart p { pt with err := true }))
      ∧ (∀ pa, s.mapped p addr.toNat 1 .w = true → s.translate p addr.toNat .w = .ok pa → inFabric pa = false →
        s.stackShut pa = false → ∃ t, exec (.bar2Access p addr ⟨.write [b], r⟩) s = .next t
          ∧ t = { s with mem := setByte s.mem pa b, poison := t.poison }))
    ∧ (pt.configured = false → ∀ op, keeps (.bar2Access p addr ⟨op, r⟩) ∧ keeps (.doorbell p v) ∧ keeps (.dbstatClear p v))
    ∧ (pt.configured = true →
      (pt.doorbell.length < 64 → exec (.doorbell p v) s = .next (s.setPart p { pt with doorbell := pt.doorbell ++ [v] }))
      ∧ (64 ≤ pt.doorbell.length → exec (.doorbell p v) s = .next (s.setPart p { pt with lost := true }))
      ∧ exec (.dbstatClear p v) s = .next (s.setPart p { pt with err := pt.err && !bit v 8, lost := pt.lost && !bit v 7 }))
    ∧ resets .moduleReset ∧ (mv < 36000 → resets (.railUndervoltage mv))
    ∧ (36000 ≤ mv → mv < 40000 → ∃ t, exec (.railUndervoltage mv) s = .next t
      ∧ t = { s with railMv := mv, railHold := true, errSeq := t.errSeq, errOut := t.errOut }
      ∧ (s.boot ≠ .held → t.errSeq = s.errSeq + 1) ∧ (s.boot = .held → t.errOut = s.errOut))
    ∧ (40000 ≤ mv → exec (.railRestored mv) s = .next { s with railMv := mv, railHold := false })
    ∧ (mv < 40000 → keeps (.railRestored mv))
    ∧ (nonce.length = 32 → s.boot ≠ .held → ∃ x, exec (.attestation nonce) s = .next { s with mctp := s.mctp ++ [.attestation x] })
    ∧ ((nonce.length ≠ 32 ∨ s.boot = .held) → keeps (.attestation nonce))
    ∧ (s.boot = .held → keeps .telemetry)
    ∧ (s.boot ≠ .held → ∃ x, exec .telemetry s = .next { s with
        fresh := s.fresh + 1
        mctp := s.mctp ++ [.telemetry ((List.range 4).flatMap fun d => (List.range 64).map fun c =>
            (d, c, look (0, 0, 0) (s.dieAt d).chanStats c)) [(s.dieAt 0).temp.toNat, (s.dieAt 1).temp.toNat, (s.dieAt 2).temp.toNat,
            (s.dieAt 3).temp.toNat] [(s.dieAt 0).allowance.toNat, (s.dieAt 1).allowance.toNat, (s.dieAt 2).allowance.toNat,
            (s.dieAt 3).allowance.toNat] ((List.range 64).map fun r => (s.regionAt r).curve.map (· + (s.regionAt r).freeboard)) x] })
    ∧ (port < 16 → link.down = false →
      (link.replays < 7 → exec (.linkReplay port) s = .next (shifted { link with replays := link.replays + 1 }))
      ∧ (7 ≤ link.replays → link.retraining = false →
          exec (.linkReplay port) s = .next (shifted { link with replays := 0, retraining := true }))
      ∧ (7 ≤ link.replays → link.retraining = true → link.retrains < 2 →
          exec (.linkReplay port) s = .next (shifted { link with replays := 0, retrains := link.retrains + 1 }))
      ∧ (7 ≤ link.replays → link.retraining = true → 2 ≤ link.retrains → ∃ t, exec (.linkReplay port) s = .next t
        ∧ (t.linkAt port).down = true ∧ (t.linkAt port).retraining = false
        ∧ t = { s with links := t.links, errSeq := s.errSeq + 1, errOut := t.errOut })
      ∧ (link.retraining = true → exec (.linkRetrain port) s = .next (shifted {}))
      ∧ keeps (.linkDown port ms))
    ∧ (port < 16 → link.down = true → keeps (.linkReplay port) ∧ keeps (.linkRetrain port)
      ∧ (let lost := fun (k c sub : Nat) (x : Word) =>
          (∃ a, (s.slotAt k).wait = some (.dram a) ∧ behindLink ms a.loc.off = true ∧ c = 0x0A ∧ sub = 3 ∧ x = a.ea)
          ∨ (∃ m, (s.slotAt k).wait = some (.send m) ∧ s.destination k m.far m.dst = some .away ∧ bits m.dst 57 48 ∈ ms
              ∧ c = 0x23 ∧ sub = 4 ∧ x = m.dst)
        ∃ t, exec (.linkDown port ms) s = .next t ∧ t = { s with slots := t.slots, images := t.images, cores := t.cores }
          ∧ (∀ k c sub x, lost k c sub x → (∀ m, m ≠ k → s.imageKey m ≠ s.imageKey k) → (t.slotAt k).wait = none
            ∧ (if s.toReeve k c then t.img k = s.img k ∧ (t.slotAt k).hold = some ⟨c, sub, x, s.pcOf k, false⟩
              else t.img k = (s.img k).enter c sub x (s.pcOf k) false))
          ∧ (∀ k, (∀ c sub x, ¬ lost k c sub x) → t.slotAt k = s.slotAt k)
          ∧ ∀ (k : Nat) (ch : Fin 4) (c : Copy), (s.coreAt k).running ch = some c →
            let old := (s.coreAt k).chans[ch]
            let end_ := fun (w : Word) (stride : Nat) => (s.sideOf c.launch w).at_ (c.rowsDone * stride + c.bytesDone)
            let hit := c.moved = false ∧ c.stopping = false ∧ chanFailed old = false
              ∧ (s.sideBeyond (s.launchAt c.launch).part (end_ c.w0 c.sstride) .r ms
                || s.sideBeyond (s.launchAt c.launch).part (end_ c.w1 c.dstride) .w ms) = true
            (t.coreAt k).fifo = (s.coreAt k).fifo ∧ (¬ hit → (t.coreAt k).chans[ch] = old)
            ∧ (hit → (t.coreAt k).chans[ch].error = (old.error &&& 0x4000000000000000) ||| word (2 ^ 63 + 3 * 2 ^ 56 + c.id))))
    ∧ (16 ≤ port → keeps (.linkReplay port) ∧ keeps (.linkDown port ms))
end

