-- ==== Sys2Proof/Laws/Encoding.lean ====
section
/-! SUPPORT. The round trip of the encoding, format by format: packing the fields of an instruction and splitting the
words again gives the fields back, and the code of every table over field codes reads as what it stands for. -/
set_option Elab.async false
namespace Sys2Proof

/-! ## Field codes read back -/

@[simp] theorem rg_val (r : Reg) : rg r.val = r := by simp [rg]
@[simp] theorem vr_val (r : VReg) : vr r.val = r := by simp [vr]
@[simp] theorem kr_val (r : KReg) : kr r.val = r := by simp [kr]
@[simp] theorem fn4_val (r : Fin 4) : fn4 r.val = r := by simp [fn4]
@[simp] theorem fn8_val (r : Fin 8) : fn8 r.val = r := by simp [fn8]
@[simp] theorem fn16_val (r : Fin 16) : fn16 r.val = r := by simp [fn16]
@[simp] theorem fn64_val (r : Fin 64) : fn64 r.val = r := by simp [fn64]
@[simp] theorem fn65_val (r : Fin 65) : fn65 r.val = r := by simp [fn65]
@[simp] theorem bt_toNat (b : Bool) : bt b.toNat = b := by cases b <;> rfl

theorem bool_lt_two (b : Bool) : b.toNat < 2 := by cases b <;> decide

theorem fn4_mod {n : Nat} (r : Fin 4) (h : n % 4 = r.val) : fn4 n = r := by
  apply Fin.ext; simpa [fn4] using h
theorem fn16_mod {n : Nat} (r : Fin 16) (h : n % 16 = r.val) : fn16 n = r := by
  apply Fin.ext; simpa [fn16] using h
theorem bt_mod {n : Nat} (b : Bool) (h : n % 2 = b.toNat) : bt n = b := by
  cases b <;> simp_all [bt]

theorem fn8_mod {n : Nat} (r : Fin 8) (h : n % 8 = r.val) : fn8 n = r := by
  apply Fin.ext; simpa [fn8] using h
theorem fn64_mod {n : Nat} (r : Fin 64) (h : n % 64 = r.val) : fn64 n = r := by
  apply Fin.ext; simpa [fn64] using h
theorem vr_mod {n : Nat} (r : VReg) (h : n % 16 = r.val) : vr n = r := by
  apply Fin.ext; simpa [vr] using h
theorem kr_mod {n : Nat} (r : KReg) (h : n % 8 = r.val) : kr n = r := by
  apply Fin.ext; simpa [kr] using h
theorem ofNat_eq {w n : Nat} (x : BitVec w) (h : n % 2 ^ w = x.toNat) : BitVec.ofNat w n = x := by
  apply BitVec.eq_of_toNat_eq; simpa using h

@[simp] theorem wd_code (w : Width) : wd w.code = w := by cases w <;> rfl
@[simp] theorem cnd_code (c : Cond) : cnd c.code = c := by cases c <;> rfl
@[simp] theorem condBad_code (c : Cond) : condBad c.code = false := by cases c <;> rfl
@[simp] theorem cond_mod (c : Cond) : c.code % 32 = c.code := by cases c <;> rfl
@[simp] theorem cond_div (c : Cond) : c.code / 32 = 0 := by cases c <;> rfl
@[simp] theorem brCond_code (c : Option Cond) : brCond (brCode c) = c := by
  rcases c with _ | c
  · rfl
  · cases c <;> rfl
@[simp] theorem spc_code (x : SP) : spc x.code = x := by cases x <;> rfl
@[simp] theorem ordr_code (x : Ord) : ordr x.code = x := by cases x <;> rfl
@[simp] theorem aop_code (x : Aop) : aop x.code = x := by cases x <;> rfl
@[simp] theorem ety_code (x : ET) : ety x.code = x := by cases x <;> rfl
@[simp] theorem bfmt_code (x : BFmt) : bfmt x.code = x := by cases x <;> rfl
@[simp] theorem rmd_code (x : RM) : rmd x.code = x := by cases x <;> rfl
@[simp] theorem mulForm_code (x : MulForm) : mulForm x.code = x := by cases x <;> rfl
@[simp] theorem selfForm_code (x : SelfForm) : selfForm x.code = x := by cases x <;> rfl
@[simp] theorem phaseForm_code (x : PhaseForm) : phaseForm x.code = x := by cases x <;> rfl
@[simp] theorem mstatForm_code (x : MstatForm) : mstatForm x.code = x := by cases x <;> rfl
@[simp] theorem tlbiForm_code (x : TlbiForm) : tlbiForm x.code = x := by cases x <;> rfl
@[simp] theorem swrForm_code (x : SwrForm) : swrForm x.code = x := by cases x <;> rfl
@[simp] theorem vcond_code (x : VCond) : vcond x.code = x := by cases x <;> rfl
@[simp] theorem scope_code (x : Scope) : scope x.code = x := by cases x <;> rfl
theorem scope_eq {n : Nat} (x : Scope) (h : n = x.code) : scope n = x := by subst h; exact scope_code x
theorem bfmt_eq {n : Nat} (x : BFmt) (h : n % 16 = x.code) : bfmt n = x := by
  rw [← bfmt_code x, ← h]; simp [bfmt]
@[simp] theorem engine_code (x : Engine) : engine x.code = x := by cases x <;> rfl
@[simp] theorem redOp_code (x : RedOp) : redOp x.code = x := by cases x <;> rfl
theorem redOp_eq {n : Nat} (x : RedOp) (h : n % 4 = x.code) : redOp n = x := by
  rw [← redOp_code x, ← h]; simp [redOp]
@[simp] theorem cpyxForm_code (x : CpyxForm) : cpyxForm x.code = x := by
  rcases x with _ | c
  · rfl
  · revert c; decide

@[simp] theorem par_parCode (p : Params) : par (parCode p) = p := by
  have := bool_lt_two p.sig
  simp only [par, parCode, BitVec.ofNat_toNat, BitVec.setWidth_eq]
  rw [fn16_mod p.sem (by omega), bt_mod p.sig (by omega)]

/-! ## Bounds of the codes -/

@[simp] theorem width_lt (w : Width) : w.code < 4 := by cases w <;> decide
@[simp] theorem cond_lt (c : Cond) : c.code < 7 := by cases c <;> decide
@[simp] theorem brCode_lt (c : Option Cond) : brCode c < 7 := by
  rcases c with _ | c
  · decide
  · cases c <;> decide
@[simp] theorem sp_lt (x : SP) : x.code < 7 := by cases x <;> decide
@[simp] theorem ord_lt (x : Ord) : x.code < 5 := by cases x <;> decide
@[simp] theorem aop_lt (x : Aop) : x.code < 9 := by cases x <;> decide
@[simp] theorem et_lt (x : ET) : x.code < 11 := by cases x <;> decide
@[simp] theorem bfmt_lt (x : BFmt) : x.code < 8 := by cases x <;> decide
@[simp] theorem rm_lt (x : RM) : x.code < 5 := by cases x <;> decide
@[simp] theorem mulForm_lt (x : MulForm) : x.code < 4 := by cases x <;> decide
@[simp] theorem selfForm_lt (x : SelfForm) : x.code < 3 := by cases x <;> decide
@[simp] theorem phaseForm_lt (x : PhaseForm) : x.code < 3 := by cases x <;> decide
@[simp] theorem mstatForm_lt (x : MstatForm) : x.code < 3 := by cases x <;> decide
@[simp] theorem tlbiForm_lt (x : TlbiForm) : x.code < 3 := by cases x <;> decide
@[simp] theorem swrForm_lt (x : SwrForm) : x.code < 3 := by cases x <;> decide
@[simp] theorem vcond_lt (x : VCond) : x.code < 6 := by cases x <;> decide
@[simp] theorem scope_lt (x : Scope) : x.code < 7 := by cases x <;> decide
@[simp] theorem engine_lt (x : Engine) : x.code < 4 := by cases x <;> decide
@[simp] theorem redOp_lt (x : RedOp) : x.code < 3 := by cases x <;> decide
@[simp] theorem cpyxForm_lt (x : CpyxForm) : x.code < 8 := by
  rcases x with _ | c
  · decide
  · revert c; decide
theorem bool_lt (b : Bool) : b.toNat < 2 := bool_lt_two b

/-! ## Fields that fit their places -/

/-- Every field fits its place (03 R42). -/
def FieldsR.fits (f : FieldsR) : Prop :=
  f.d < 32 ∧ f.a < 32 ∧ f.b < 32 ∧ f.c < 32 ∧ f.w < 4 ∧ f.fn < 65536 ∧ f.z < 65536
/-- Every field fits its place (03 R43). -/
def FieldsI.fits (f : FieldsI) : Prop :=
  f.d < 32 ∧ f.a < 32 ∧ f.fn < 1024 ∧ f.w < 4 ∧ f.imm < 4294967296
/-- Every field fits its place (03 R43). -/
def FieldsX.fits (f : FieldsX) : Prop :=
  f.d < 32 ∧ f.a < 32 ∧ f.fn < 1024 ∧ f.w < 4 ∧ f.imm < 18446744073709551616
/-- Every field fits its place (03 R44). -/
def FieldsY.fits (f : FieldsY) : Prop :=
  f.d < 32 ∧ f.a < 32 ∧ f.b < 32 ∧ f.c < 32 ∧ f.w < 4 ∧ f.fn < 4294967296 ∧ f.imm < 18446744073709551616
/-- Every field fits its place (03 R45). -/
def FieldsM.fits (f : FieldsM) : Prop :=
  f.d < 32 ∧ f.a < 32 ∧ f.b < 32 ∧ f.sc < 4 ∧ f.sp < 8 ∧ f.w < 4 ∧ f.ord < 8 ∧ f.sg < 2 ∧ f.aop < 16 ∧ f.off < 16777216
/-- Every field fits its place (03 R46). -/
def FieldsB.fits (f : FieldsB) : Prop :=
  f.cnd < 32 ∧ f.a < 32 ∧ f.b < 32 ∧ f.z < 32 ∧ f.w < 4 ∧ f.off < 4294967296
/-- Every field fits its place (03 R47). -/
def FieldsV.fits (f : FieldsV) : Prop :=
  f.d < 16 ∧ f.a < 16 ∧ f.b < 16 ∧ f.c < 16 ∧ f.k < 8 ∧ f.zm < 2 ∧ f.z < 4 ∧ f.et < 16 ∧ f.et2 < 16 ∧ f.rm < 8 ∧
  f.ga < 32 ∧ f.fn < 65536
/-- Every field fits its place (03 R48). -/
def FieldsP.fits (f : FieldsP) : Prop :=
  f.d < 32 ∧ f.a < 32 ∧ f.b < 32 ∧ f.c < 32 ∧ f.w < 4 ∧ f.fn < 65536 ∧ f.subst < 16 ∧ f.z < 4096 ∧
  f.p0 < 4294967296 ∧ f.p1 < 4294967296 ∧ f.p2 < 4294967296 ∧ f.p3 < 4294967296

theorem split_packR {op : Nat} {f : FieldsR} (h : f.fits) (ho : op < 256) :
    splitR (packR op f) = f ∧ packR op f / 4 % 256 = op ∧ packR op f % 4 = 0 := by
  obtain ⟨d, a, b, c, w, fn, z⟩ := f
  simp only [FieldsR.fits] at h
  simp only [packR, splitR, FieldsR.mk.injEq]
  omega
theorem split_packI {op : Nat} {f : FieldsI} (h : f.fits) (ho : op < 256) :
    splitI (packI op f) = f ∧ packI op f / 4 % 256 = op ∧ packI op f % 4 = 0 := by
  obtain ⟨d, a, fn, w, imm⟩ := f
  simp only [FieldsI.fits] at h
  simp only [packI, splitI, FieldsI.mk.injEq]
  omega
theorem split_packX {op : Nat} {f : FieldsX} (h : f.fits) (ho : op < 256) :
    splitX (packX op f) = f ∧ packX op f / 4 % 256 = op ∧ packX op f % 4 = 1 := by
  obtain ⟨d, a, fn, w, imm⟩ := f
  simp only [FieldsX.fits] at h
  simp only [packX, splitX, FieldsX.mk.injEq]
  omega
theorem split_packY {op : Nat} {f : FieldsY} (h : f.fits) (ho : op < 256) :
    splitY (packY op f) = f ∧ packY op f / 4 % 256 = op ∧ packY op f % 4 = 2 := by
  obtain ⟨d, a, b, c, w, fn, imm⟩ := f
  simp only [FieldsY.fits] at h
  simp only [packY, splitY, FieldsY.mk.injEq]
  omega
theorem split_packM {op : Nat} {f : FieldsM} (h : f.fits) (ho : op < 256) :
    splitM (packM op f) = f ∧ packM op f / 4 % 256 = op ∧ packM op f % 4 = 0 := by
  obtain ⟨d, a, b, sc, sp, w, ord, sg, aop, off⟩ := f
  simp only [FieldsM.fits] at h
  simp only [packM, splitM, FieldsM.mk.injEq]
  omega
theorem split_packB {op : Nat} {f : FieldsB} (h : f.fits) (ho : op < 256) :
    splitB (packB op f) = f ∧ packB op f / 4 % 256 = op ∧ packB op f % 4 = 0 := by
  obtain ⟨cnd, a, b, z, w, off⟩ := f
  simp only [FieldsB.fits] at h
  simp only [packB, splitB, FieldsB.mk.injEq]
  omega
theorem split_packV {op : Nat} {f : FieldsV} (h : f.fits) (ho : op < 256) :
    splitV (packV op f) = f ∧ packV op f / 4 % 256 = op ∧ packV op f % 4 = 0 := by
  obtain ⟨d, a, b, c, k, zm, z, et, et2, rm, ga, fn⟩ := f
  simp only [FieldsV.fits] at h
  simp only [packV, splitV, FieldsV.mk.injEq]
  omega
theorem split_packP {op : Nat} {f : FieldsP} (h : f.fits) (ho : op < 256) :
    splitP (packP op f) = f ∧ packP op f / 4 % 256 = op ∧ packP op f % 4 = 3 := by
  obtain ⟨d, a, b, c, w, fn, subst, z, p0, p1, p2, p3⟩ := f
  simp only [FieldsP.fits] at h
  simp only [packP, splitP, FieldsP.mk.injEq]
  omega

/-! ## Checks that all pass -/

theorem lowest_none : ∀ (l : List (Nat × Bool)), l.all (fun p => !p.2) = true → lowest l = none
  | [], _ => rfl
  | (b, bad) :: r, h => by
    simp only [List.all_cons, Bool.and_eq_true, Bool.not_eq_true'] at h
    simp [lowest, lowest_none r h.2, h.1]

theorem finish_ok {c : Checked} {i : Instr} (hi : c.instr = i) (hc : c.checks.all (fun p => !p.2) = true)
    (hw : i.wf = true) : c.finish = .ok i := by
  subst hi
  simp only [Instr.wf, Instr.unrestricted, Bool.and_eq_true] at hw
  simp [Checked.finish, lowest_none (c.checks ++ c.instr.restrictions) (by simp only [List.all_append, hc, hw.2, Bool.and_self])]

theorem trip_R {op : Nat} {f : FieldsR} {i : Instr} (ho : op < 256) (hf : opFormat op = some .r) (h : f.fits)
    (hi : (readR op f).instr = i) (hc : (readR op f).checks.all (fun p => !p.2) = true) (hw : i.wf = true) :
    decode (packR op f) = .ok i := by
  obtain ⟨h1, h2, h3⟩ := split_packR h ho
  simp only [decode, h2, h3, hf, Format.lenCode, readAs, h1, ↓reduceIte, finish_ok hi hc hw]
theorem trip_I {op : Nat} {f : FieldsI} {i : Instr} (ho : op < 256) (hf : opFormat op = some .i) (h : f.fits)
    (hi : (readI op f).instr = i) (hc : (readI op f).checks.all (fun p => !p.2) = true) (hw : i.wf = true) :
    decode (packI op f) = .ok i := by
  obtain ⟨h1, h2, h3⟩ := split_packI h ho
  simp only [decode, h2, h3, hf, Format.lenCode, readAs, h1, ↓reduceIte, finish_ok hi hc hw]
theorem trip_X {op : Nat} {f : FieldsX} {i : Instr} (ho : op < 256) (hf : opFormat op = some .x) (h : f.fits)
    (hi : (readX op f).instr = i) (hc : (readX op f).checks.all (fun p => !p.2) = true) (hw : i.wf = true) :
    decode (packX op f) = .ok i := by
  obtain ⟨h1, h2, h3⟩ := split_packX h ho
  simp only [decode, h2, h3, hf, Format.lenCode, readAs, h1, ↓reduceIte, finish_ok hi hc hw]
theorem trip_Y {op : Nat} {f : FieldsY} {i : Instr} (ho : op < 256) (hf : opFormat op = some .y) (h : f.fits)
    (hi : (readY op f).instr = i) (hc : (readY op f).checks.all (fun p => !p.2) = true) (hw : i.wf = true) :
    decode (packY op f) = .ok i := by
  obtain ⟨h1, h2, h3⟩ := split_packY h ho
  simp only [decode, h2, h3, hf, Format.lenCode, readAs, h1, ↓reduceIte, finish_ok hi hc hw]
theorem trip_M {op : Nat} {f : FieldsM} {i : Instr} (ho : op < 256) (hf : opFormat op = some .m) (h : f.fits)
    (hi : (readM op f).instr = i) (hc : (readM op f).checks.all (fun p => !p.2) = true) (hw : i.wf = true) :
    decode (packM op f) = .ok i := by
  obtain ⟨h1, h2, h3⟩ := split_packM h ho
  simp only [decode, h2, h3, hf, Format.lenCode, readAs, h1, ↓reduceIte, finish_ok hi hc hw]
theorem trip_B {op : Nat} {f : FieldsB} {i : Instr} (ho : op < 256) (hf : opFormat op = some .b) (h : f.fits)
    (hi : (readB op f).instr = i) (hc : (readB op f).checks.all (fun p => !p.2) = true) (hw : i.wf = true) :
    decode (packB op f) = .ok i := by
  obtain ⟨h1, h2, h3⟩ := split_packB h ho
  simp only [decode, h2, h3, hf, Format.lenCode, readAs, h1, ↓reduceIte, finish_ok hi hc hw]
theorem trip_V {op : Nat} {f : FieldsV} {i : Instr} (ho : op < 256) (hf : opFormat op = some .v) (h : f.fits)
    (hi : (readV op f).instr = i) (hc : (readV op f).checks.all (fun p => !p.2) = true) (hw : i.wf = true) :
    decode (packV op f) = .ok i := by
  obtain ⟨h1, h2, h3⟩ := split_packV h ho
  simp only [decode, h2, h3, hf, Format.lenCode, readAs, h1, ↓reduceIte, finish_ok hi hc hw]
theorem trip_P {op : Nat} {f : FieldsP} {i : Instr} (ho : op < 256) (hf : opFormat op = some .p) (h : f.fits)
    (hi : (readP op f).instr = i) (hc : (readP op f).checks.all (fun p => !p.2) = true) (hw : i.wf = true) :
    decode (packP op f) = .ok i := by
  obtain ⟨h1, h2, h3⟩ := split_packP h ho
  simp only [decode, h2, h3, hf, Format.lenCode, readAs, h1, ↓reduceIte, finish_ok hi hc hw]

end Sys2Proof
end

