-- ==== Sys2Proof/Laws/State.lean ====
section
/-! SUPPORT. What each update of the state changes and what it leaves: one lemma for each field and update, and what reading
a unit gives after one is replaced. -/
set_option Elab.async false
namespace Sys2Proof.Machine
open Sys2Proof

/-! ## Collections keyed by a number -/

@[simp] theorem look_put_same {α : Type} (d : α) (m : List (Nat × α)) (n : Nat) (x : α) : look d (put m n x) n = x := by
  induction m with
  | nil => simp [put, look]
  | cons p r ih =>
    obtain ⟨k, v⟩ := p
    simp only [put]
    split
    · simp [look]
    · split
      · simp [look]
      · simp only [look, *, ↓reduceIte]

theorem look_put_of_ne {α : Type} (d : α) (m : List (Nat × α)) {n k : Nat} (x : α) (h : k ≠ n) :
    look d (put m n x) k = look d m k := by
  induction m with
  | nil => simp [put, look, h]
  | cons p r ih =>
    obtain ⟨k', v⟩ := p
    simp only [put]
    split
    · subst_vars; simp [look, h]
    · split
      · simp [look, h]
      · simp only [look, ih]

/-- A collection of keys n and above. -/
theorem rising_tail {α : Type} {a : Nat × α} {r : List (Nat × α)} (h : rising (a :: r) = true) : rising r = true := by
  cases r with
  | nil => rfl
  | cons b r => simp only [rising, Bool.and_eq_true] at h; exact h.2

theorem rising_cons {α : Type} {a : Nat × α} {r : List (Nat × α)} :
    rising (a :: r) = true ↔ rising r = true ∧ ∀ p ∈ r, a.1 < p.1 := by
  induction r generalizing a with
  | nil => simp [rising]
  | cons b r ih =>
    simp only [rising, Bool.and_eq_true, decide_eq_true_eq, List.mem_cons, forall_eq_or_imp]
    constructor
    · rintro ⟨h1, h2⟩
      exact ⟨h2, h1, fun p hp => Nat.lt_trans h1 ((ih.1 h2).2 p hp)⟩
    · rintro ⟨h1, h2, -⟩
      exact ⟨h2, h1⟩

theorem mem_put {α : Type} {m : List (Nat × α)} {n : Nat} {x : α} {p : Nat × α} (h : p ∈ put m n x) : p = (n, x) ∨ p ∈ m := by
  induction m with
  | nil => simpa [put] using h
  | cons q r ih =>
    simp only [put] at h
    split at h
    · rcases List.mem_cons.1 h with h | h
      · exact .inl h
      · exact .inr (List.mem_cons_of_mem _ h)
    · split at h
      · rcases List.mem_cons.1 h with h | h
        · exact .inl h
        · exact .inr h
      · rcases List.mem_cons.1 h with h | h
        · exact .inr (h ▸ List.mem_cons_self ..)
        · rcases ih h with h | h
          · exact .inl h
          · exact .inr (List.mem_cons_of_mem _ h)

theorem rising_put {α : Type} {m : List (Nat × α)} (n : Nat) (x : α) (h : rising m = true) : rising (put m n x) = true := by
  induction m with
  | nil => rfl
  | cons q r ih =>
    obtain ⟨h1, h2⟩ := rising_cons.1 h
    simp only [put]
    split
    · subst_vars; exact rising_cons.2 ⟨h1, h2⟩
    · split
      · next hlt => exact rising_cons.2 ⟨h, fun p hp => by
          rcases List.mem_cons.1 hp with e | hp
          · exact e ▸ hlt
          · exact Nat.lt_trans hlt (h2 p hp)⟩
      · next h3 h4 => exact rising_cons.2 ⟨ih h1, fun p hp => by
          rcases mem_put hp with e | hp
          · rw [e]; simp only; omega
          · exact h2 p hp⟩

theorem rising_filter {α : Type} {m : List (Nat × α)} (f : Nat × α → Bool) (h : rising m = true) :
    rising (m.filter f) = true := by
  induction m with
  | nil => rfl
  | cons q r ih =>
    obtain ⟨h1, h2⟩ := rising_cons.1 h
    simp only [List.filter_cons]
    split
    · exact rising_cons.2 ⟨ih h1, fun p hp => h2 p (List.mem_filter.1 hp).1⟩
    · exact ih h1

/-! ## Updates leave every field but their own -/

@[simp] theorem State.setSlot_images (s : State) (n : Nat) (x : Slot) : (s.setSlot n x).images = s.images := rfl
@[simp] theorem State.setSlot_cores (s : State) (n : Nat) (x : Slot) : (s.setSlot n x).cores = s.cores := rfl
@[simp] theorem State.setSlot_tiles (s : State) (n : Nat) (x : Slot) : (s.setSlot n x).tiles = s.tiles := rfl
@[simp] theorem State.setSlot_regions (s : State) (n : Nat) (x : Slot) : (s.setSlot n x).regions = s.regions := rfl
@[simp] theorem State.setSlot_dies (s : State) (n : Nat) (x : Slot) : (s.setSlot n x).dies = s.dies := rfl
@[simp] theorem State.setSlot_mem (s : State) (n : Nat) (x : Slot) : (s.setSlot n x).mem = s.mem := rfl
@[simp] theorem State.setSlot_empties (s : State) (n : Nat) (x : Slot) : (s.setSlot n x).empties = s.empties := rfl
@[simp] theorem State.setSlot_poison (s : State) (n : Nat) (x : Slot) : (s.setSlot n x).poison = s.poison := rfl
@[simp] theorem State.setSlot_stamps (s : State) (n : Nat) (x : Slot) : (s.setSlot n x).stamps = s.stamps := rfl
@[simp] theorem State.setSlot_culvert (s : State) (n : Nat) (x : Slot) : (s.setSlot n x).culvert = s.culvert := rfl
@[simp] theorem State.setSlot_launches (s : State) (n : Nat) (x : Slot) : (s.setSlot n x).launches = s.launches := rfl
@[simp] theorem State.setSlot_nextLaunch (s : State) (n : Nat) (x : Slot) : (s.setSlot n x).nextLaunch = s.nextLaunch := rfl
@[simp] theorem State.setSlot_partitions (s : State) (n : Nat) (x : Slot) : (s.setSlot n x).partitions = s.partitions := rfl
@[simp] theorem State.setSlot_tide (s : State) (n : Nat) (x : Slot) : (s.setSlot n x).tide = s.tide := rfl
@[simp] theorem State.setSlot_tideSet (s : State) (n : Nat) (x : Slot) : (s.setSlot n x).tideSet = s.tideSet := rfl
@[simp] theorem State.setSlot_slewAt (s : State) (n : Nat) (x : Slot) : (s.setSlot n x).slewAt = s.slewAt := rfl
@[simp] theorem State.setSlot_quotaAt (s : State) (n : Nat) (x : Slot) : (s.setSlot n x).quotaAt = s.quotaAt := rfl
@[simp] theorem State.setSlot_crest (s : State) (n : Nat) (x : Slot) : (s.setSlot n x).crest = s.crest := rfl
@[simp] theorem State.setSlot_links (s : State) (n : Nat) (x : Slot) : (s.setSlot n x).links = s.links := rfl
@[simp] theorem State.setSlot_errSeq (s : State) (n : Nat) (x : Slot) : (s.setSlot n x).errSeq = s.errSeq := rfl
@[simp] theorem State.setSlot_errOut (s : State) (n : Nat) (x : Slot) : (s.setSlot n x).errOut = s.errOut := rfl
@[simp] theorem State.setSlot_errSent (s : State) (n : Nat) (x : Slot) : (s.setSlot n x).errSent = s.errSent := rfl
@[simp] theorem State.setSlot_flash (s : State) (n : Nat) (x : Slot) : (s.setSlot n x).flash = s.flash := rfl
@[simp] theorem State.setSlot_rollback (s : State) (n : Nat) (x : Slot) : (s.setSlot n x).rollback = s.rollback := rfl
@[simp] theorem State.setSlot_boot (s : State) (n : Nat) (x : Slot) : (s.setSlot n x).boot = s.boot := rfl
@[simp] theorem State.setSlot_romFails (s : State) (n : Nat) (x : Slot) : (s.setSlot n x).romFails = s.romFails := rfl
@[simp] theorem State.setSlot_railMv (s : State) (n : Nat) (x : Slot) : (s.setSlot n x).railMv = s.railMv := rfl
@[simp] theorem State.setSlot_railHold (s : State) (n : Nat) (x : Slot) : (s.setSlot n x).railHold = s.railHold := rfl
@[simp] theorem State.setSlot_mctp (s : State) (n : Nat) (x : Slot) : (s.setSlot n x).mctp = s.mctp := rfl
@[simp] theorem State.setSlot_hostData (s : State) (n : Nat) (x : Slot) : (s.setSlot n x).hostData = s.hostData := rfl
@[simp] theorem State.setSlot_fabricReply (s : State) (n : Nat) (x : Slot) : (s.setSlot n x).fabricReply = s.fabricReply := rfl
@[simp] theorem State.setSlot_grants (s : State) (n : Nat) (x : Slot) : (s.setSlot n x).grants = s.grants := rfl
@[simp] theorem State.setSlot_linked (s : State) (n : Nat) (x : Slot) : (s.setSlot n x).linked = s.linked := rfl
@[simp] theorem State.setSlot_everDispatched (s : State) (n : Nat) (x : Slot) : (s.setSlot n x).everDispatched = s.everDispatched := rfl
@[simp] theorem State.setSlot_house (s : State) (n : Nat) (x : Slot) : (s.setSlot n x).house = s.house := rfl
@[simp] theorem State.setSlot_houseWork (s : State) (n : Nat) (x : Slot) : (s.setSlot n x).houseWork = s.houseWork := rfl
@[simp] theorem State.setSlot_residues (s : State) (n : Nat) (x : Slot) : (s.setSlot n x).residues = s.residues := rfl
@[simp] theorem State.setSlot_savedImages (s : State) (n : Nat) (x : Slot) : (s.setSlot n x).savedImages = s.savedImages := rfl
@[simp] theorem State.setSlot_cur (s : State) (n : Nat) (x : Slot) : (s.setSlot n x).cur = s.cur := rfl
@[simp] theorem State.setSlot_agenda (s : State) (n : Nat) (x : Slot) : (s.setSlot n x).agenda = s.agenda := rfl
@[simp] theorem State.setSlot_fresh (s : State) (n : Nat) (x : Slot) : (s.setSlot n x).fresh = s.fresh := rfl
@[simp] theorem State.setCore_images (s : State) (n : Nat) (x : Core) : (s.setCore n x).images = s.images := rfl
@[simp] theorem State.setCore_slots (s : State) (n : Nat) (x : Core) : (s.setCore n x).slots = s.slots := rfl
@[simp] theorem State.setCore_tiles (s : State) (n : Nat) (x : Core) : (s.setCore n x).tiles = s.tiles := rfl
@[simp] theorem State.setCore_regions (s : State) (n : Nat) (x : Core) : (s.setCore n x).regions = s.regions := rfl
@[simp] theorem State.setCore_dies (s : State) (n : Nat) (x : Core) : (s.setCore n x).dies = s.dies := rfl
@[simp] theorem State.setCore_mem (s : State) (n : Nat) (x : Core) : (s.setCore n x).mem = s.mem := rfl
@[simp] theorem State.setCore_empties (s : State) (n : Nat) (x : Core) : (s.setCore n x).empties = s.empties := rfl
@[simp] theorem State.setCore_poison (s : State) (n : Nat) (x : Core) : (s.setCore n x).poison = s.poison := rfl
@[simp] theorem State.setCore_stamps (s : State) (n : Nat) (x : Core) : (s.setCore n x).stamps = s.stamps := rfl
@[simp] theorem State.setCore_culvert (s : State) (n : Nat) (x : Core) : (s.setCore n x).culvert = s.culvert := rfl
@[simp] theorem State.setCore_launches (s : State) (n : Nat) (x : Core) : (s.setCore n x).launches = s.launches := rfl
@[simp] theorem State.setCore_nextLaunch (s : State) (n : Nat) (x : Core) : (s.setCore n x).nextLaunch = s.nextLaunch := rfl
@[simp] theorem State.setCore_partitions (s : State) (n : Nat) (x : Core) : (s.setCore n x).partitions = s.partitions := rfl
@[simp] theorem State.setCore_tide (s : State) (n : Nat) (x : Core) : (s.setCore n x).tide = s.tide := rfl
@[simp] theorem State.setCore_tideSet (s : State) (n : Nat) (x : Core) : (s.setCore n x).tideSet = s.tideSet := rfl
@[simp] theorem State.setCore_slewAt (s : State) (n : Nat) (x : Core) : (s.setCore n x).slewAt = s.slewAt := rfl
@[simp] theorem State.setCore_quotaAt (s : State) (n : Nat) (x : Core) : (s.setCore n x).quotaAt = s.quotaAt := rfl
@[simp] theorem State.setCore_crest (s : State) (n : Nat) (x : Core) : (s.setCore n x).crest = s.crest := rfl
@[simp] theorem State.setCore_links (s : State) (n : Nat) (x : Core) : (s.setCore n x).links = s.links := rfl
@[simp] theorem State.setCore_errSeq (s : State) (n : Nat) (x : Core) : (s.setCore n x).errSeq = s.errSeq := rfl
@[simp] theorem State.setCore_errOut (s : State) (n : Nat) (x : Core) : (s.setCore n x).errOut = s.errOut := rfl
@[simp] theorem State.setCore_errSent (s : State) (n : Nat) (x : Core) : (s.setCore n x).errSent = s.errSent := rfl
@[simp] theorem State.setCore_flash (s : State) (n : Nat) (x : Core) : (s.setCore n x).flash = s.flash := rfl
@[simp] theorem State.setCore_rollback (s : State) (n : Nat) (x : Core) : (s.setCore n x).rollback = s.rollback := rfl
@[simp] theorem State.setCore_boot (s : State) (n : Nat) (x : Core) : (s.setCore n x).boot = s.boot := rfl
@[simp] theorem State.setCore_romFails (s : State) (n : Nat) (x : Core) : (s.setCore n x).romFails = s.romFails := rfl
@[simp] theorem State.setCore_railMv (s : State) (n : Nat) (x : Core) : (s.setCore n x).railMv = s.railMv := rfl
@[simp] theorem State.setCore_railHold (s : State) (n : Nat) (x : Core) : (s.setCore n x).railHold = s.railHold := rfl
@[simp] theorem State.setCore_mctp (s : State) (n : Nat) (x : Core) : (s.setCore n x).mctp = s.mctp := rfl
@[simp] theorem State.setCore_hostData (s : State) (n : Nat) (x : Core) : (s.setCore n x).hostData = s.hostData := rfl
@[simp] theorem State.setCore_fabricReply (s : State) (n : Nat) (x : Core) : (s.setCore n x).fabricReply = s.fabricReply := rfl
@[simp] theorem State.setCore_grants (s : State) (n : Nat) (x : Core) : (s.setCore n x).grants = s.grants := rfl
@[simp] theorem State.setCore_linked (s : State) (n : Nat) (x : Core) : (s.setCore n x).linked = s.linked := rfl
@[simp] theorem State.setCore_everDispatched (s : State) (n : Nat) (x : Core) : (s.setCore n x).everDispatched = s.everDispatched := rfl
@[simp] theorem State.setCore_house (s : State) (n : Nat) (x : Core) : (s.setCore n x).house = s.house := rfl
@[simp] theorem State.setCore_houseWork (s : State) (n : Nat) (x : Core) : (s.setCore n x).houseWork = s.houseWork := rfl
@[simp] theorem State.setCore_residues (s : State) (n : Nat) (x : Core) : (s.setCore n x).residues = s.residues := rfl
@[simp] theorem State.setCore_savedImages (s : State) (n : Nat) (x : Core) : (s.setCore n x).savedImages = s.savedImages := rfl
@[simp] theorem State.setCore_cur (s : State) (n : Nat) (x : Core) : (s.setCore n x).cur = s.cur := rfl
@[simp] theorem State.setCore_agenda (s : State) (n : Nat) (x : Core) : (s.setCore n x).agenda = s.agenda := rfl
@[simp] theorem State.setCore_fresh (s : State) (n : Nat) (x : Core) : (s.setCore n x).fresh = s.fresh := rfl
@[simp] theorem State.setTile_images (s : State) (n : Nat) (x : Tile) : (s.setTile n x).images = s.images := rfl
@[simp] theorem State.setTile_slots (s : State) (n : Nat) (x : Tile) : (s.setTile n x).slots = s.slots := rfl
@[simp] theorem State.setTile_cores (s : State) (n : Nat) (x : Tile) : (s.setTile n x).cores = s.cores := rfl
@[simp] theorem State.setTile_regions (s : State) (n : Nat) (x : Tile) : (s.setTile n x).regions = s.regions := rfl
@[simp] theorem State.setTile_dies (s : State) (n : Nat) (x : Tile) : (s.setTile n x).dies = s.dies := rfl
@[simp] theorem State.setTile_mem (s : State) (n : Nat) (x : Tile) : (s.setTile n x).mem = s.mem := rfl
@[simp] theorem State.setTile_empties (s : State) (n : Nat) (x : Tile) : (s.setTile n x).empties = s.empties := rfl
@[simp] theorem State.setTile_poison (s : State) (n : Nat) (x : Tile) : (s.setTile n x).poison = s.poison := rfl
@[simp] theorem State.setTile_stamps (s : State) (n : Nat) (x : Tile) : (s.setTile n x).stamps = s.stamps := rfl
@[simp] theorem State.setTile_culvert (s : State) (n : Nat) (x : Tile) : (s.setTile n x).culvert = s.culvert := rfl
@[simp] theorem State.setTile_launches (s : State) (n : Nat) (x : Tile) : (s.setTile n x).launches = s.launches := rfl
@[simp] theorem State.setTile_nextLaunch (s : State) (n : Nat) (x : Tile) : (s.setTile n x).nextLaunch = s.nextLaunch := rfl
@[simp] theorem State.setTile_partitions (s : State) (n : Nat) (x : Tile) : (s.setTile n x).partitions = s.partitions := rfl
@[simp] theorem State.setTile_tide (s : State) (n : Nat) (x : Tile) : (s.setTile n x).tide = s.tide := rfl
@[simp] theorem State.setTile_tideSet (s : State) (n : Nat) (x : Tile) : (s.setTile n x).tideSet = s.tideSet := rfl
@[simp] theorem State.setTile_slewAt (s : State) (n : Nat) (x : Tile) : (s.setTile n x).slewAt = s.slewAt := rfl
@[simp] theorem State.setTile_quotaAt (s : State) (n : Nat) (x : Tile) : (s.setTile n x).quotaAt = s.quotaAt := rfl
@[simp] theorem State.setTile_crest (s : State) (n : Nat) (x : Tile) : (s.setTile n x).crest = s.crest := rfl
@[simp] theorem State.setTile_links (s : State) (n : Nat) (x : Tile) : (s.setTile n x).links = s.links := rfl
@[simp] theorem State.setTile_errSeq (s : State) (n : Nat) (x : Tile) : (s.setTile n x).errSeq = s.errSeq := rfl
@[simp] theorem State.setTile_errOut (s : State) (n : Nat) (x : Tile) : (s.setTile n x).errOut = s.errOut := rfl
@[simp] theorem State.setTile_errSent (s : State) (n : Nat) (x : Tile) : (s.setTile n x).errSent = s.errSent := rfl
@[simp] theorem State.setTile_flash (s : State) (n : Nat) (x : Tile) : (s.setTile n x).flash = s.flash := rfl
@[simp] theorem State.setTile_rollback (s : State) (n : Nat) (x : Tile) : (s.setTile n x).rollback = s.rollback := rfl
@[simp] theorem State.setTile_boot (s : State) (n : Nat) (x : Tile) : (s.setTile n x).boot = s.boot := rfl
@[simp] theorem State.setTile_romFails (s : State) (n : Nat) (x : Tile) : (s.setTile n x).romFails = s.romFails := rfl
@[simp] theorem State.setTile_railMv (s : State) (n : Nat) (x : Tile) : (s.setTile n x).railMv = s.railMv := rfl
@[simp] theorem State.setTile_railHold (s : State) (n : Nat) (x : Tile) : (s.setTile n x).railHold = s.railHold := rfl
@[simp] theorem State.setTile_mctp (s : State) (n : Nat) (x : Tile) : (s.setTile n x).mctp = s.mctp := rfl
@[simp] theorem State.setTile_hostData (s : State) (n : Nat) (x : Tile) : (s.setTile n x).hostData = s.hostData := rfl
@[simp] theorem State.setTile_fabricReply (s : State) (n : Nat) (x : Tile) : (s.setTile n x).fabricReply = s.fabricReply := rfl
@[simp] theorem State.setTile_grants (s : State) (n : Nat) (x : Tile) : (s.setTile n x).grants = s.grants := rfl
@[simp] theorem State.setTile_linked (s : State) (n : Nat) (x : Tile) : (s.setTile n x).linked = s.linked := rfl
@[simp] theorem State.setTile_everDispatched (s : State) (n : Nat) (x : Tile) : (s.setTile n x).everDispatched = s.everDispatched := rfl
@[simp] theorem State.setTile_house (s : State) (n : Nat) (x : Tile) : (s.setTile n x).house = s.house := rfl
@[simp] theorem State.setTile_houseWork (s : State) (n : Nat) (x : Tile) : (s.setTile n x).houseWork = s.houseWork := rfl
@[simp] theorem State.setTile_residues (s : State) (n : Nat) (x : Tile) : (s.setTile n x).residues = s.residues := rfl
@[simp] theorem State.setTile_savedImages (s : State) (n : Nat) (x : Tile) : (s.setTile n x).savedImages = s.savedImages := rfl
@[simp] theorem State.setTile_cur (s : State) (n : Nat) (x : Tile) : (s.setTile n x).cur = s.cur := rfl
@[simp] theorem State.setTile_agenda (s : State) (n : Nat) (x : Tile) : (s.setTile n x).agenda = s.agenda := rfl
@[simp] theorem State.setTile_fresh (s : State) (n : Nat) (x : Tile) : (s.setTile n x).fresh = s.fresh := rfl
@[simp] theorem State.setRegion_images (s : State) (n : Nat) (x : Region) : (s.setRegion n x).images = s.images := rfl
@[simp] theorem State.setRegion_slots (s : State) (n : Nat) (x : Region) : (s.setRegion n x).slots = s.slots := rfl
@[simp] theorem State.setRegion_cores (s : State) (n : Nat) (x : Region) : (s.setRegion n x).cores = s.cores := rfl
@[simp] theorem State.setRegion_tiles (s : State) (n : Nat) (x : Region) : (s.setRegion n x).tiles = s.tiles := rfl
@[simp] theorem State.setRegion_dies (s : State) (n : Nat) (x : Region) : (s.setRegion n x).dies = s.dies := rfl
@[simp] theorem State.setRegion_mem (s : State) (n : Nat) (x : Region) : (s.setRegion n x).mem = s.mem := rfl
@[simp] theorem State.setRegion_empties (s : State) (n : Nat) (x : Region) : (s.setRegion n x).empties = s.empties := rfl
@[simp] theorem State.setRegion_poison (s : State) (n : Nat) (x : Region) : (s.setRegion n x).poison = s.poison := rfl
@[simp] theorem State.setRegion_stamps (s : State) (n : Nat) (x : Region) : (s.setRegion n x).stamps = s.stamps := rfl
@[simp] theorem State.setRegion_culvert (s : State) (n : Nat) (x : Region) : (s.setRegion n x).culvert = s.culvert := rfl
@[simp] theorem State.setRegion_launches (s : State) (n : Nat) (x : Region) : (s.setRegion n x).launches = s.launches := rfl
@[simp] theorem State.setRegion_nextLaunch (s : State) (n : Nat) (x : Region) : (s.setRegion n x).nextLaunch = s.nextLaunch := rfl
@[simp] theorem State.setRegion_partitions (s : State) (n : Nat) (x : Region) : (s.setRegion n x).partitions = s.partitions := rfl
@[simp] theorem State.setRegion_tide (s : State) (n : Nat) (x : Region) : (s.setRegion n x).tide = s.tide := rfl
@[simp] theorem State.setRegion_tideSet (s : State) (n : Nat) (x : Region) : (s.setRegion n x).tideSet = s.tideSet := rfl
@[simp] theorem State.setRegion_slewAt (s : State) (n : Nat) (x : Region) : (s.setRegion n x).slewAt = s.slewAt := rfl
@[simp] theorem State.setRegion_quotaAt (s : State) (n : Nat) (x : Region) : (s.setRegion n x).quotaAt = s.quotaAt := rfl
@[simp] theorem State.setRegion_crest (s : State) (n : Nat) (x : Region) : (s.setRegion n x).crest = s.crest := rfl
@[simp] theorem State.setRegion_links (s : State) (n : Nat) (x : Region) : (s.setRegion n x).links = s.links := rfl
@[simp] theorem State.setRegion_errSeq (s : State) (n : Nat) (x : Region) : (s.setRegion n x).errSeq = s.errSeq := rfl
@[simp] theorem State.setRegion_errOut (s : State) (n : Nat) (x : Region) : (s.setRegion n x).errOut = s.errOut := rfl
@[simp] theorem State.setRegion_errSent (s : State) (n : Nat) (x : Region) : (s.setRegion n x).errSent = s.errSent := rfl
@[simp] theorem State.setRegion_flash (s : State) (n : Nat) (x : Region) : (s.setRegion n x).flash = s.flash := rfl
@[simp] theorem State.setRegion_rollback (s : State) (n : Nat) (x : Region) : (s.setRegion n x).rollback = s.rollback := rfl
@[simp] theorem State.setRegion_boot (s : State) (n : Nat) (x : Region) : (s.setRegion n x).boot = s.boot := rfl
@[simp] theorem State.setRegion_romFails (s : State) (n : Nat) (x : Region) : (s.setRegion n x).romFails = s.romFails := rfl
@[simp] theorem State.setRegion_railMv (s : State) (n : Nat) (x : Region) : (s.setRegion n x).railMv = s.railMv := rfl
@[simp] theorem State.setRegion_railHold (s : State) (n : Nat) (x : Region) : (s.setRegion n x).railHold = s.railHold := rfl
@[simp] theorem State.setRegion_mctp (s : State) (n : Nat) (x : Region) : (s.setRegion n x).mctp = s.mctp := rfl
@[simp] theorem State.setRegion_hostData (s : State) (n : Nat) (x : Region) : (s.setRegion n x).hostData = s.hostData := rfl
@[simp] theorem State.setRegion_fabricReply (s : State) (n : Nat) (x : Region) : (s.setRegion n x).fabricReply = s.fabricReply := rfl
@[simp] theorem State.setRegion_grants (s : State) (n : Nat) (x : Region) : (s.setRegion n x).grants = s.grants := rfl
@[simp] theorem State.setRegion_linked (s : State) (n : Nat) (x : Region) : (s.setRegion n x).linked = s.linked := rfl
@[simp] theorem State.setRegion_everDispatched (s : State) (n : Nat) (x : Region) : (s.setRegion n x).everDispatched = s.everDispatched := rfl
@[simp] theorem State.setRegion_house (s : State) (n : Nat) (x : Region) : (s.setRegion n x).house = s.house := rfl
@[simp] theorem State.setRegion_houseWork (s : State) (n : Nat) (x : Region) : (s.setRegion n x).houseWork = s.houseWork := rfl
@[simp] theorem State.setRegion_residues (s : State) (n : Nat) (x : Region) : (s.setRegion n x).residues = s.residues := rfl
@[simp] theorem State.setRegion_savedImages (s : State) (n : Nat) (x : Region) : (s.setRegion n x).savedImages = s.savedImages := rfl
@[simp] theorem State.setRegion_cur (s : State) (n : Nat) (x : Region) : (s.setRegion n x).cur = s.cur := rfl
@[simp] theorem State.setRegion_agenda (s : State) (n : Nat) (x : Region) : (s.setRegion n x).agenda = s.agenda := rfl
@[simp] theorem State.setRegion_fresh (s : State) (n : Nat) (x : Region) : (s.setRegion n x).fresh = s.fresh := rfl
@[simp] theorem State.setDie_images (s : State) (n : Nat) (x : Die) : (s.setDie n x).images = s.images := rfl
@[simp] theorem State.setDie_slots (s : State) (n : Nat) (x : Die) : (s.setDie n x).slots = s.slots := rfl
@[simp] theorem State.setDie_cores (s : State) (n : Nat) (x : Die) : (s.setDie n x).cores = s.cores := rfl
@[simp] theorem State.setDie_tiles (s : State) (n : Nat) (x : Die) : (s.setDie n x).tiles = s.tiles := rfl
@[simp] theorem State.setDie_regions (s : State) (n : Nat) (x : Die) : (s.setDie n x).regions = s.regions := rfl
@[simp] theorem State.setDie_mem (s : State) (n : Nat) (x : Die) : (s.setDie n x).mem = s.mem := rfl
@[simp] theorem State.setDie_empties (s : State) (n : Nat) (x : Die) : (s.setDie n x).empties = s.empties := rfl
@[simp] theorem State.setDie_poison (s : State) (n : Nat) (x : Die) : (s.setDie n x).poison = s.poison := rfl
@[simp] theorem State.setDie_stamps (s : State) (n : Nat) (x : Die) : (s.setDie n x).stamps = s.stamps := rfl
@[simp] theorem State.setDie_culvert (s : State) (n : Nat) (x : Die) : (s.setDie n x).culvert = s.culvert := rfl
@[simp] theorem State.setDie_launches (s : State) (n : Nat) (x : Die) : (s.setDie n x).launches = s.launches := rfl
@[simp] theorem State.setDie_nextLaunch (s : State) (n : Nat) (x : Die) : (s.setDie n x).nextLaunch = s.nextLaunch := rfl
@[simp] theorem State.setDie_partitions (s : State) (n : Nat) (x : Die) : (s.setDie n x).partitions = s.partitions := rfl
@[simp] theorem State.setDie_tide (s : State) (n : Nat) (x : Die) : (s.setDie n x).tide = s.tide := rfl
@[simp] theorem State.setDie_tideSet (s : State) (n : Nat) (x : Die) : (s.setDie n x).tideSet = s.tideSet := rfl
@[simp] theorem State.setDie_slewAt (s : State) (n : Nat) (x : Die) : (s.setDie n x).slewAt = s.slewAt := rfl
@[simp] theorem State.setDie_quotaAt (s : State) (n : Nat) (x : Die) : (s.setDie n x).quotaAt = s.quotaAt := rfl
@[simp] theorem State.setDie_crest (s : State) (n : Nat) (x : Die) : (s.setDie n x).crest = s.crest := rfl
@[simp] theorem State.setDie_links (s : State) (n : Nat) (x : Die) : (s.setDie n x).links = s.links := rfl
@[simp] theorem State.setDie_errSeq (s : State) (n : Nat) (x : Die) : (s.setDie n x).errSeq = s.errSeq := rfl
@[simp] theorem State.setDie_errOut (s : State) (n : Nat) (x : Die) : (s.setDie n x).errOut = s.errOut := rfl
@[simp] theorem State.setDie_errSent (s : State) (n : Nat) (x : Die) : (s.setDie n x).errSent = s.errSent := rfl
@[simp] theorem State.setDie_flash (s : State) (n : Nat) (x : Die) : (s.setDie n x).flash = s.flash := rfl
@[simp] theorem State.setDie_rollback (s : State) (n : Nat) (x : Die) : (s.setDie n x).rollback = s.rollback := rfl
@[simp] theorem State.setDie_boot (s : State) (n : Nat) (x : Die) : (s.setDie n x).boot = s.boot := rfl
@[simp] theorem State.setDie_romFails (s : State) (n : Nat) (x : Die) : (s.setDie n x).romFails = s.romFails := rfl
@[simp] theorem State.setDie_railMv (s : State) (n : Nat) (x : Die) : (s.setDie n x).railMv = s.railMv := rfl
@[simp] theorem State.setDie_railHold (s : State) (n : Nat) (x : Die) : (s.setDie n x).railHold = s.railHold := rfl
@[simp] theorem State.setDie_mctp (s : State) (n : Nat) (x : Die) : (s.setDie n x).mctp = s.mctp := rfl
@[simp] theorem State.setDie_hostData (s : State) (n : Nat) (x : Die) : (s.setDie n x).hostData = s.hostData := rfl
@[simp] theorem State.setDie_fabricReply (s : State) (n : Nat) (x : Die) : (s.setDie n x).fabricReply = s.fabricReply := rfl
@[simp] theorem State.setDie_grants (s : State) (n : Nat) (x : Die) : (s.setDie n x).grants = s.grants := rfl
@[simp] theorem State.setDie_linked (s : State) (n : Nat) (x : Die) : (s.setDie n x).linked = s.linked := rfl
@[simp] theorem State.setDie_everDispatched (s : State) (n : Nat) (x : Die) : (s.setDie n x).everDispatched = s.everDispatched := rfl
@[simp] theorem State.setDie_house (s : State) (n : Nat) (x : Die) : (s.setDie n x).house = s.house := rfl
@[simp] theorem State.setDie_houseWork (s : State) (n : Nat) (x : Die) : (s.setDie n x).houseWork = s.houseWork := rfl
@[simp] theorem State.setDie_residues (s : State) (n : Nat) (x : Die) : (s.setDie n x).residues = s.residues := rfl
@[simp] theorem State.setDie_savedImages (s : State) (n : Nat) (x : Die) : (s.setDie n x).savedImages = s.savedImages := rfl
@[simp] theorem State.setDie_cur (s : State) (n : Nat) (x : Die) : (s.setDie n x).cur = s.cur := rfl
@[simp] theorem State.setDie_agenda (s : State) (n : Nat) (x : Die) : (s.setDie n x).agenda = s.agenda := rfl
@[simp] theorem State.setDie_fresh (s : State) (n : Nat) (x : Die) : (s.setDie n x).fresh = s.fresh := rfl
@[simp] theorem State.setLaunch_images (s : State) (n : Nat) (x : Launch) : (s.setLaunch n x).images = s.images := rfl
@[simp] theorem State.setLaunch_slots (s : State) (n : Nat) (x : Launch) : (s.setLaunch n x).slots = s.slots := rfl
@[simp] theorem State.setLaunch_cores (s : State) (n : Nat) (x : Launch) : (s.setLaunch n x).cores = s.cores := rfl
@[simp] theorem State.setLaunch_tiles (s : State) (n : Nat) (x : Launch) : (s.setLaunch n x).tiles = s.tiles := rfl
@[simp] theorem State.setLaunch_regions (s : State) (n : Nat) (x : Launch) : (s.setLaunch n x).regions = s.regions := rfl
@[simp] theorem State.setLaunch_dies (s : State) (n : Nat) (x : Launch) : (s.setLaunch n x).dies = s.dies := rfl
@[simp] theorem State.setLaunch_mem (s : State) (n : Nat) (x : Launch) : (s.setLaunch n x).mem = s.mem := rfl
@[simp] theorem State.setLaunch_empties (s : State) (n : Nat) (x : Launch) : (s.setLaunch n x).empties = s.empties := rfl
@[simp] theorem State.setLaunch_poison (s : State) (n : Nat) (x : Launch) : (s.setLaunch n x).poison = s.poison := rfl
@[simp] theorem State.setLaunch_stamps (s : State) (n : Nat) (x : Launch) : (s.setLaunch n x).stamps = s.stamps := rfl
@[simp] theorem State.setLaunch_culvert (s : State) (n : Nat) (x : Launch) : (s.setLaunch n x).culvert = s.culvert := rfl
@[simp] theorem State.setLaunch_nextLaunch (s : State) (n : Nat) (x : Launch) : (s.setLaunch n x).nextLaunch = s.nextLaunch := rfl
@[simp] theorem State.setLaunch_partitions (s : State) (n : Nat) (x : Launch) : (s.setLaunch n x).partitions = s.partitions := rfl
@[simp] theorem State.setLaunch_tide (s : State) (n : Nat) (x : Launch) : (s.setLaunch n x).tide = s.tide := rfl
@[simp] theorem State.setLaunch_tideSet (s : State) (n : Nat) (x : Launch) : (s.setLaunch n x).tideSet = s.tideSet := rfl
@[simp] theorem State.setLaunch_slewAt (s : State) (n : Nat) (x : Launch) : (s.setLaunch n x).slewAt = s.slewAt := rfl
@[simp] theorem State.setLaunch_quotaAt (s : State) (n : Nat) (x : Launch) : (s.setLaunch n x).quotaAt = s.quotaAt := rfl
@[simp] theorem State.setLaunch_crest (s : State) (n : Nat) (x : Launch) : (s.setLaunch n x).crest = s.crest := rfl
@[simp] theorem State.setLaunch_links (s : State) (n : Nat) (x : Launch) : (s.setLaunch n x).links = s.links := rfl
@[simp] theorem State.setLaunch_errSeq (s : State) (n : Nat) (x : Launch) : (s.setLaunch n x).errSeq = s.errSeq := rfl
@[simp] theorem State.setLaunch_errOut (s : State) (n : Nat) (x : Launch) : (s.setLaunch n x).errOut = s.errOut := rfl
@[simp] theorem State.setLaunch_errSent (s : State) (n : Nat) (x : Launch) : (s.setLaunch n x).errSent = s.errSent := rfl
@[simp] theorem State.setLaunch_flash (s : State) (n : Nat) (x : Launch) : (s.setLaunch n x).flash = s.flash := rfl
@[simp] theorem State.setLaunch_rollback (s : State) (n : Nat) (x : Launch) : (s.setLaunch n x).rollback = s.rollback := rfl
@[simp] theorem State.setLaunch_boot (s : State) (n : Nat) (x : Launch) : (s.setLaunch n x).boot = s.boot := rfl
@[simp] theorem State.setLaunch_romFails (s : State) (n : Nat) (x : Launch) : (s.setLaunch n x).romFails = s.romFails := rfl
@[simp] theorem State.setLaunch_railMv (s : State) (n : Nat) (x : Launch) : (s.setLaunch n x).railMv = s.railMv := rfl
@[simp] theorem State.setLaunch_railHold (s : State) (n : Nat) (x : Launch) : (s.setLaunch n x).railHold = s.railHold := rfl
@[simp] theorem State.setLaunch_mctp (s : State) (n : Nat) (x : Launch) : (s.setLaunch n x).mctp = s.mctp := rfl
@[simp] theorem State.setLaunch_hostData (s : State) (n : Nat) (x : Launch) : (s.setLaunch n x).hostData = s.hostData := rfl
@[simp] theorem State.setLaunch_fabricReply (s : State) (n : Nat) (x : Launch) : (s.setLaunch n x).fabricReply = s.fabricReply := rfl
@[simp] theorem State.setLaunch_grants (s : State) (n : Nat) (x : Launch) : (s.setLaunch n x).grants = s.grants := rfl
@[simp] theorem State.setLaunch_linked (s : State) (n : Nat) (x : Launch) : (s.setLaunch n x).linked = s.linked := rfl
@[simp] theorem State.setLaunch_everDispatched (s : State) (n : Nat) (x : Launch) : (s.setLaunch n x).everDispatched = s.everDispatched := rfl
@[simp] theorem State.setLaunch_house (s : State) (n : Nat) (x : Launch) : (s.setLaunch n x).house = s.house := rfl
@[simp] theorem State.setLaunch_houseWork (s : State) (n : Nat) (x : Launch) : (s.setLaunch n x).houseWork = s.houseWork := rfl
@[simp] theorem State.setLaunch_residues (s : State) (n : Nat) (x : Launch) : (s.setLaunch n x).residues = s.residues := rfl
@[simp] theorem State.setLaunch_savedImages (s : State) (n : Nat) (x : Launch) : (s.setLaunch n x).savedImages = s.savedImages := rfl
@[simp] theorem State.setLaunch_cur (s : State) (n : Nat) (x : Launch) : (s.setLaunch n x).cur = s.cur := rfl
@[simp] theorem State.setLaunch_agenda (s : State) (n : Nat) (x : Launch) : (s.setLaunch n x).agenda = s.agenda := rfl
@[simp] theorem State.setLaunch_fresh (s : State) (n : Nat) (x : Launch) : (s.setLaunch n x).fresh = s.fresh := rfl
@[simp] theorem State.setPart_images (s : State) (n : Nat) (x : Partition) : (s.setPart n x).images = s.images := rfl
@[simp] theorem State.setPart_slots (s : State) (n : Nat) (x : Partition) : (s.setPart n x).slots = s.slots := rfl
@[simp] theorem State.setPart_cores (s : State) (n : Nat) (x : Partition) : (s.setPart n x).cores = s.cores := rfl
@[simp] theorem State.setPart_tiles (s : State) (n : Nat) (x : Partition) : (s.setPart n x).tiles = s.tiles := rfl
@[simp] theorem State.setPart_regions (s : State) (n : Nat) (x : Partition) : (s.setPart n x).regions = s.regions := rfl
@[simp] theorem State.setPart_dies (s : State) (n : Nat) (x : Partition) : (s.setPart n x).dies = s.dies := rfl
@[simp] theorem State.setPart_mem (s : State) (n : Nat) (x : Partition) : (s.setPart n x).mem = s.mem := rfl
@[simp] theorem State.setPart_empties (s : State) (n : Nat) (x : Partition) : (s.setPart n x).empties = s.empties := rfl
@[simp] theorem State.setPart_poison (s : State) (n : Nat) (x : Partition) : (s.setPart n x).poison = s.poison := rfl
@[simp] theorem State.setPart_stamps (s : State) (n : Nat) (x : Partition) : (s.setPart n x).stamps = s.stamps := rfl
@[simp] theorem State.setPart_culvert (s : State) (n : Nat) (x : Partition) : (s.setPart n x).culvert = s.culvert := rfl
@[simp] theorem State.setPart_launches (s : State) (n : Nat) (x : Partition) : (s.setPart n x).launches = s.launches := rfl
@[simp] theorem State.setPart_nextLaunch (s : State) (n : Nat) (x : Partition) : (s.setPart n x).nextLaunch = s.nextLaunch := rfl
@[simp] theorem State.setPart_tide (s : State) (n : Nat) (x : Partition) : (s.setPart n x).tide = s.tide := rfl
@[simp] theorem State.setPart_tideSet (s : State) (n : Nat) (x : Partition) : (s.setPart n x).tideSet = s.tideSet := rfl
@[simp] theorem State.setPart_slewAt (s : State) (n : Nat) (x : Partition) : (s.setPart n x).slewAt = s.slewAt := rfl
@[simp] theorem State.setPart_quotaAt (s : State) (n : Nat) (x : Partition) : (s.setPart n x).quotaAt = s.quotaAt := rfl
@[simp] theorem State.setPart_crest (s : State) (n : Nat) (x : Partition) : (s.setPart n x).crest = s.crest := rfl
@[simp] theorem State.setPart_links (s : State) (n : Nat) (x : Partition) : (s.setPart n x).links = s.links := rfl
@[simp] theorem State.setPart_errSeq (s : State) (n : Nat) (x : Partition) : (s.setPart n x).errSeq = s.errSeq := rfl
@[simp] theorem State.setPart_errOut (s : State) (n : Nat) (x : Partition) : (s.setPart n x).errOut = s.errOut := rfl
@[simp] theorem State.setPart_errSent (s : State) (n : Nat) (x : Partition) : (s.setPart n x).errSent = s.errSent := rfl
@[simp] theorem State.setPart_flash (s : State) (n : Nat) (x : Partition) : (s.setPart n x).flash = s.flash := rfl
@[simp] theorem State.setPart_rollback (s : State) (n : Nat) (x : Partition) : (s.setPart n x).rollback = s.rollback := rfl
@[simp] theorem State.setPart_boot (s : State) (n : Nat) (x : Partition) : (s.setPart n x).boot = s.boot := rfl
@[simp] theorem State.setPart_romFails (s : State) (n : Nat) (x : Partition) : (s.setPart n x).romFails = s.romFails := rfl
@[simp] theorem State.setPart_railMv (s : State) (n : Nat) (x : Partition) : (s.setPart n x).railMv = s.railMv := rfl
@[simp] theorem State.setPart_railHold (s : State) (n : Nat) (x : Partition) : (s.setPart n x).railHold = s.railHold := rfl
@[simp] theorem State.setPart_mctp (s : State) (n : Nat) (x : Partition) : (s.setPart n x).mctp = s.mctp := rfl
@[simp] theorem State.setPart_hostData (s : State) (n : Nat) (x : Partition) : (s.setPart n x).hostData = s.hostData := rfl
@[simp] theorem State.setPart_fabricReply (s : State) (n : Nat) (x : Partition) : (s.setPart n x).fabricReply = s.fabricReply := rfl
@[simp] theorem State.setPart_grants (s : State) (n : Nat) (x : Partition) : (s.setPart n x).grants = s.grants := rfl
@[simp] theorem State.setPart_linked (s : State) (n : Nat) (x : Partition) : (s.setPart n x).linked = s.linked := rfl
@[simp] theorem State.setPart_everDispatched (s : State) (n : Nat) (x : Partition) : (s.setPart n x).everDispatched = s.everDispatched := rfl
@[simp] theorem State.setPart_house (s : State) (n : Nat) (x : Partition) : (s.setPart n x).house = s.house := rfl
@[simp] theorem State.setPart_houseWork (s : State) (n : Nat) (x : Partition) : (s.setPart n x).houseWork = s.houseWork := rfl
@[simp] theorem State.setPart_residues (s : State) (n : Nat) (x : Partition) : (s.setPart n x).residues = s.residues := rfl
@[simp] theorem State.setPart_savedImages (s : State) (n : Nat) (x : Partition) : (s.setPart n x).savedImages = s.savedImages := rfl
@[simp] theorem State.setPart_cur (s : State) (n : Nat) (x : Partition) : (s.setPart n x).cur = s.cur := rfl
@[simp] theorem State.setPart_agenda (s : State) (n : Nat) (x : Partition) : (s.setPart n x).agenda = s.agenda := rfl
@[simp] theorem State.setPart_fresh (s : State) (n : Nat) (x : Partition) : (s.setPart n x).fresh = s.fresh := rfl
@[simp] theorem State.setImage_slots (s : State) (n : Nat) (x : Image) : (s.setImage n x).slots = s.slots := rfl
@[simp] theorem State.setImage_cores (s : State) (n : Nat) (x : Image) : (s.setImage n x).cores = s.cores := rfl
@[simp] theorem State.setImage_tiles (s : State) (n : Nat) (x : Image) : (s.setImage n x).tiles = s.tiles := rfl
@[simp] theorem State.setImage_regions (s : State) (n : Nat) (x : Image) : (s.setImage n x).regions = s.regions := rfl
@[simp] theorem State.setImage_dies (s : State) (n : Nat) (x : Image) : (s.setImage n x).dies = s.dies := rfl
@[simp] theorem State.setImage_mem (s : State) (n : Nat) (x : Image) : (s.setImage n x).mem = s.mem := rfl
@[simp] theorem State.setImage_empties (s : State) (n : Nat) (x : Image) : (s.setImage n x).empties = s.empties := rfl
@[simp] theorem State.setImage_poison (s : State) (n : Nat) (x : Image) : (s.setImage n x).poison = s.poison := rfl
@[simp] theorem State.setImage_stamps (s : State) (n : Nat) (x : Image) : (s.setImage n x).stamps = s.stamps := rfl
@[simp] theorem State.setImage_culvert (s : State) (n : Nat) (x : Image) : (s.setImage n x).culvert = s.culvert := rfl
@[simp] theorem State.setImage_launches (s : State) (n : Nat) (x : Image) : (s.setImage n x).launches = s.launches := rfl
@[simp] theorem State.setImage_nextLaunch (s : State) (n : Nat) (x : Image) : (s.setImage n x).nextLaunch = s.nextLaunch := rfl
@[simp] theorem State.setImage_partitions (s : State) (n : Nat) (x : Image) : (s.setImage n x).partitions = s.partitions := rfl
@[simp] theorem State.setImage_tide (s : State) (n : Nat) (x : Image) : (s.setImage n x).tide = s.tide := rfl
@[simp] theorem State.setImage_tideSet (s : State) (n : Nat) (x : Image) : (s.setImage n x).tideSet = s.tideSet := rfl
@[simp] theorem State.setImage_slewAt (s : State) (n : Nat) (x : Image) : (s.setImage n x).slewAt = s.slewAt := rfl
@[simp] theorem State.setImage_quotaAt (s : State) (n : Nat) (x : Image) : (s.setImage n x).quotaAt = s.quotaAt := rfl
@[simp] theorem State.setImage_crest (s : State) (n : Nat) (x : Image) : (s.setImage n x).crest = s.crest := rfl
@[simp] theorem State.setImage_links (s : State) (n : Nat) (x : Image) : (s.setImage n x).links = s.links := rfl
@[simp] theorem State.setImage_errSeq (s : State) (n : Nat) (x : Image) : (s.setImage n x).errSeq = s.errSeq := rfl
@[simp] theorem State.setImage_errOut (s : State) (n : Nat) (x : Image) : (s.setImage n x).errOut = s.errOut := rfl
@[simp] theorem State.setImage_errSent (s : State) (n : Nat) (x : Image) : (s.setImage n x).errSent = s.errSent := rfl
@[simp] theorem State.setImage_flash (s : State) (n : Nat) (x : Image) : (s.setImage n x).flash = s.flash := rfl
@[simp] theorem State.setImage_rollback (s : State) (n : Nat) (x : Image) : (s.setImage n x).rollback = s.rollback := rfl
@[simp] theorem State.setImage_boot (s : State) (n : Nat) (x : Image) : (s.setImage n x).boot = s.boot := rfl
@[simp] theorem State.setImage_romFails (s : State) (n : Nat) (x : Image) : (s.setImage n x).romFails = s.romFails := rfl
@[simp] theorem State.setImage_railMv (s : State) (n : Nat) (x : Image) : (s.setImage n x).railMv = s.railMv := rfl
@[simp] theorem State.setImage_railHold (s : State) (n : Nat) (x : Image) : (s.setImage n x).railHold = s.railHold := rfl
@[simp] theorem State.setImage_mctp (s : State) (n : Nat) (x : Image) : (s.setImage n x).mctp = s.mctp := rfl
@[simp] theorem State.setImage_hostData (s : State) (n : Nat) (x : Image) : (s.setImage n x).hostData = s.hostData := rfl
@[simp] theorem State.setImage_fabricReply (s : State) (n : Nat) (x : Image) : (s.setImage n x).fabricReply = s.fabricReply := rfl
@[simp] theorem State.setImage_grants (s : State) (n : Nat) (x : Image) : (s.setImage n x).grants = s.grants := rfl
@[simp] theorem State.setImage_linked (s : State) (n : Nat) (x : Image) : (s.setImage n x).linked = s.linked := rfl
@[simp] theorem State.setImage_everDispatched (s : State) (n : Nat) (x : Image) : (s.setImage n x).everDispatched = s.everDispatched := rfl
@[simp] theorem State.setImage_house (s : State) (n : Nat) (x : Image) : (s.setImage n x).house = s.house := rfl
@[simp] theorem State.setImage_houseWork (s : State) (n : Nat) (x : Image) : (s.setImage n x).houseWork = s.houseWork := rfl
@[simp] theorem State.setImage_residues (s : State) (n : Nat) (x : Image) : (s.setImage n x).residues = s.residues := rfl
@[simp] theorem State.setImage_savedImages (s : State) (n : Nat) (x : Image) : (s.setImage n x).savedImages = s.savedImages := rfl
@[simp] theorem State.setImage_cur (s : State) (n : Nat) (x : Image) : (s.setImage n x).cur = s.cur := rfl
@[simp] theorem State.setImage_agenda (s : State) (n : Nat) (x : Image) : (s.setImage n x).agenda = s.agenda := rfl
@[simp] theorem State.setImage_fresh (s : State) (n : Nat) (x : Image) : (s.setImage n x).fresh = s.fresh := rfl
@[simp] theorem State.setImg_slots (s : State) (n : Nat) (x : Image) : (s.setImg n x).slots = s.slots := rfl
@[simp] theorem State.setImg_cores (s : State) (n : Nat) (x : Image) : (s.setImg n x).cores = s.cores := rfl
@[simp] theorem State.setImg_tiles (s : State) (n : Nat) (x : Image) : (s.setImg n x).tiles = s.tiles := rfl
@[simp] theorem State.setImg_regions (s : State) (n : Nat) (x : Image) : (s.setImg n x).regions = s.regions := rfl
@[simp] theorem State.setImg_dies (s : State) (n : Nat) (x : Image) : (s.setImg n x).dies = s.dies := rfl
@[simp] theorem State.setImg_mem (s : State) (n : Nat) (x : Image) : (s.setImg n x).mem = s.mem := rfl
@[simp] theorem State.setImg_empties (s : State) (n : Nat) (x : Image) : (s.setImg n x).empties = s.empties := rfl
@[simp] theorem State.setImg_poison (s : State) (n : Nat) (x : Image) : (s.setImg n x).poison = s.poison := rfl
@[simp] theorem State.setImg_stamps (s : State) (n : Nat) (x : Image) : (s.setImg n x).stamps = s.stamps := rfl
@[simp] theorem State.setImg_culvert (s : State) (n : Nat) (x : Image) : (s.setImg n x).culvert = s.culvert := rfl
@[simp] theorem State.setImg_launches (s : State) (n : Nat) (x : Image) : (s.setImg n x).launches = s.launches := rfl
@[simp] theorem State.setImg_nextLaunch (s : State) (n : Nat) (x : Image) : (s.setImg n x).nextLaunch = s.nextLaunch := rfl
@[simp] theorem State.setImg_partitions (s : State) (n : Nat) (x : Image) : (s.setImg n x).partitions = s.partitions := rfl
@[simp] theorem State.setImg_tide (s : State) (n : Nat) (x : Image) : (s.setImg n x).tide = s.tide := rfl
@[simp] theorem State.setImg_tideSet (s : State) (n : Nat) (x : Image) : (s.setImg n x).tideSet = s.tideSet := rfl
@[simp] theorem State.setImg_slewAt (s : State) (n : Nat) (x : Image) : (s.setImg n x).slewAt = s.slewAt := rfl
@[simp] theorem State.setImg_quotaAt (s : State) (n : Nat) (x : Image) : (s.setImg n x).quotaAt = s.quotaAt := rfl
@[simp] theorem State.setImg_crest (s : State) (n : Nat) (x : Image) : (s.setImg n x).crest = s.crest := rfl
@[simp] theorem State.setImg_links (s : State) (n : Nat) (x : Image) : (s.setImg n x).links = s.links := rfl
@[simp] theorem State.setImg_errSeq (s : State) (n : Nat) (x : Image) : (s.setImg n x).errSeq = s.errSeq := rfl
@[simp] theorem State.setImg_errOut (s : State) (n : Nat) (x : Image) : (s.setImg n x).errOut = s.errOut := rfl
@[simp] theorem State.setImg_errSent (s : State) (n : Nat) (x : Image) : (s.setImg n x).errSent = s.errSent := rfl
@[simp] theorem State.setImg_flash (s : State) (n : Nat) (x : Image) : (s.setImg n x).flash = s.flash := rfl
@[simp] theorem State.setImg_rollback (s : State) (n : Nat) (x : Image) : (s.setImg n x).rollback = s.rollback := rfl
@[simp] theorem State.setImg_boot (s : State) (n : Nat) (x : Image) : (s.setImg n x).boot = s.boot := rfl
@[simp] theorem State.setImg_romFails (s : State) (n : Nat) (x : Image) : (s.setImg n x).romFails = s.romFails := rfl
@[simp] theorem State.setImg_railMv (s : State) (n : Nat) (x : Image) : (s.setImg n x).railMv = s.railMv := rfl
@[simp] theorem State.setImg_railHold (s : State) (n : Nat) (x : Image) : (s.setImg n x).railHold = s.railHold := rfl
@[simp] theorem State.setImg_mctp (s : State) (n : Nat) (x : Image) : (s.setImg n x).mctp = s.mctp := rfl
@[simp] theorem State.setImg_hostData (s : State) (n : Nat) (x : Image) : (s.setImg n x).hostData = s.hostData := rfl
@[simp] theorem State.setImg_fabricReply (s : State) (n : Nat) (x : Image) : (s.setImg n x).fabricReply = s.fabricReply := rfl
@[simp] theorem State.setImg_grants (s : State) (n : Nat) (x : Image) : (s.setImg n x).grants = s.grants := rfl
@[simp] theorem State.setImg_linked (s : State) (n : Nat) (x : Image) : (s.setImg n x).linked = s.linked := rfl
@[simp] theorem State.setImg_everDispatched (s : State) (n : Nat) (x : Image) : (s.setImg n x).everDispatched = s.everDispatched := rfl
@[simp] theorem State.setImg_house (s : State) (n : Nat) (x : Image) : (s.setImg n x).house = s.house := rfl
@[simp] theorem State.setImg_houseWork (s : State) (n : Nat) (x : Image) : (s.setImg n x).houseWork = s.houseWork := rfl
@[simp] theorem State.setImg_residues (s : State) (n : Nat) (x : Image) : (s.setImg n x).residues = s.residues := rfl
@[simp] theorem State.setImg_savedImages (s : State) (n : Nat) (x : Image) : (s.setImg n x).savedImages = s.savedImages := rfl
@[simp] theorem State.setImg_cur (s : State) (n : Nat) (x : Image) : (s.setImg n x).cur = s.cur := rfl
@[simp] theorem State.setImg_agenda (s : State) (n : Nat) (x : Image) : (s.setImg n x).agenda = s.agenda := rfl
@[simp] theorem State.setImg_fresh (s : State) (n : Nat) (x : Image) : (s.setImg n x).fresh = s.fresh := rfl
@[simp] theorem State.setPc_slots (s : State) (n : Nat) (x : Word) : (s.setPc n x).slots = s.slots := rfl
@[simp] theorem State.setPc_cores (s : State) (n : Nat) (x : Word) : (s.setPc n x).cores = s.cores := rfl
@[simp] theorem State.setPc_tiles (s : State) (n : Nat) (x : Word) : (s.setPc n x).tiles = s.tiles := rfl
@[simp] theorem State.setPc_regions (s : State) (n : Nat) (x : Word) : (s.setPc n x).regions = s.regions := rfl
@[simp] theorem State.setPc_dies (s : State) (n : Nat) (x : Word) : (s.setPc n x).dies = s.dies := rfl
@[simp] theorem State.setPc_mem (s : State) (n : Nat) (x : Word) : (s.setPc n x).mem = s.mem := rfl
@[simp] theorem State.setPc_empties (s : State) (n : Nat) (x : Word) : (s.setPc n x).empties = s.empties := rfl
@[simp] theorem State.setPc_poison (s : State) (n : Nat) (x : Word) : (s.setPc n x).poison = s.poison := rfl
@[simp] theorem State.setPc_stamps (s : State) (n : Nat) (x : Word) : (s.setPc n x).stamps = s.stamps := rfl
@[simp] theorem State.setPc_culvert (s : State) (n : Nat) (x : Word) : (s.setPc n x).culvert = s.culvert := rfl
@[simp] theorem State.setPc_launches (s : State) (n : Nat) (x : Word) : (s.setPc n x).launches = s.launches := rfl
@[simp] theorem State.setPc_nextLaunch (s : State) (n : Nat) (x : Word) : (s.setPc n x).nextLaunch = s.nextLaunch := rfl
@[simp] theorem State.setPc_partitions (s : State) (n : Nat) (x : Word) : (s.setPc n x).partitions = s.partitions := rfl
@[simp] theorem State.setPc_tide (s : State) (n : Nat) (x : Word) : (s.setPc n x).tide = s.tide := rfl
@[simp] theorem State.setPc_tideSet (s : State) (n : Nat) (x : Word) : (s.setPc n x).tideSet = s.tideSet := rfl
@[simp] theorem State.setPc_slewAt (s : State) (n : Nat) (x : Word) : (s.setPc n x).slewAt = s.slewAt := rfl
@[simp] theorem State.setPc_quotaAt (s : State) (n : Nat) (x : Word) : (s.setPc n x).quotaAt = s.quotaAt := rfl
@[simp] theorem State.setPc_crest (s : State) (n : Nat) (x : Word) : (s.setPc n x).crest = s.crest := rfl
@[simp] theorem State.setPc_links (s : State) (n : Nat) (x : Word) : (s.setPc n x).links = s.links := rfl
@[simp] theorem State.setPc_errSeq (s : State) (n : Nat) (x : Word) : (s.setPc n x).errSeq = s.errSeq := rfl
@[simp] theorem State.setPc_errOut (s : State) (n : Nat) (x : Word) : (s.setPc n x).errOut = s.errOut := rfl
@[simp] theorem State.setPc_errSent (s : State) (n : Nat) (x : Word) : (s.setPc n x).errSent = s.errSent := rfl
@[simp] theorem State.setPc_flash (s : State) (n : Nat) (x : Word) : (s.setPc n x).flash = s.flash := rfl
@[simp] theorem State.setPc_rollback (s : State) (n : Nat) (x : Word) : (s.setPc n x).rollback = s.rollback := rfl
@[simp] theorem State.setPc_boot (s : State) (n : Nat) (x : Word) : (s.setPc n x).boot = s.boot := rfl
@[simp] theorem State.setPc_romFails (s : State) (n : Nat) (x : Word) : (s.setPc n x).romFails = s.romFails := rfl
@[simp] theorem State.setPc_railMv (s : State) (n : Nat) (x : Word) : (s.setPc n x).railMv = s.railMv := rfl
@[simp] theorem State.setPc_railHold (s : State) (n : Nat) (x : Word) : (s.setPc n x).railHold = s.railHold := rfl
@[simp] theorem State.setPc_mctp (s : State) (n : Nat) (x : Word) : (s.setPc n x).mctp = s.mctp := rfl
@[simp] theorem State.setPc_hostData (s : State) (n : Nat) (x : Word) : (s.setPc n x).hostData = s.hostData := rfl
@[simp] theorem State.setPc_fabricReply (s : State) (n : Nat) (x : Word) : (s.setPc n x).fabricReply = s.fabricReply := rfl
@[simp] theorem State.setPc_grants (s : State) (n : Nat) (x : Word) : (s.setPc n x).grants = s.grants := rfl
@[simp] theorem State.setPc_linked (s : State) (n : Nat) (x : Word) : (s.setPc n x).linked = s.linked := rfl
@[simp] theorem State.setPc_everDispatched (s : State) (n : Nat) (x : Word) : (s.setPc n x).everDispatched = s.everDispatched := rfl
@[simp] theorem State.setPc_house (s : State) (n : Nat) (x : Word) : (s.setPc n x).house = s.house := rfl
@[simp] theorem State.setPc_houseWork (s : State) (n : Nat) (x : Word) : (s.setPc n x).houseWork = s.houseWork := rfl
@[simp] theorem State.setPc_residues (s : State) (n : Nat) (x : Word) : (s.setPc n x).residues = s.residues := rfl
@[simp] theorem State.setPc_savedImages (s : State) (n : Nat) (x : Word) : (s.setPc n x).savedImages = s.savedImages := rfl
@[simp] theorem State.setPc_cur (s : State) (n : Nat) (x : Word) : (s.setPc n x).cur = s.cur := rfl
@[simp] theorem State.setPc_agenda (s : State) (n : Nat) (x : Word) : (s.setPc n x).agenda = s.agenda := rfl
@[simp] theorem State.setPc_fresh (s : State) (n : Nat) (x : Word) : (s.setPc n x).fresh = s.fresh := rfl
@[simp] theorem State.write_images (s : State) (l : Loc) (n x : Nat) : (s.write l n x).images = s.images := rfl
@[simp] theorem State.write_slots (s : State) (l : Loc) (n x : Nat) : (s.write l n x).slots = s.slots := rfl
@[simp] theorem State.write_cores (s : State) (l : Loc) (n x : Nat) : (s.write l n x).cores = s.cores := rfl
@[simp] theorem State.write_tiles (s : State) (l : Loc) (n x : Nat) : (s.write l n x).tiles = s.tiles := rfl
@[simp] theorem State.write_regions (s : State) (l : Loc) (n x : Nat) : (s.write l n x).regions = s.regions := rfl
@[simp] theorem State.write_dies (s : State) (l : Loc) (n x : Nat) : (s.write l n x).dies = s.dies := rfl
@[simp] theorem State.write_empties (s : State) (l : Loc) (n x : Nat) : (s.write l n x).empties = s.empties := rfl
@[simp] theorem State.write_poison (s : State) (l : Loc) (n x : Nat) : (s.write l n x).poison = s.poison := rfl
@[simp] theorem State.write_stamps (s : State) (l : Loc) (n x : Nat) : (s.write l n x).stamps = s.stamps := rfl
@[simp] theorem State.write_culvert (s : State) (l : Loc) (n x : Nat) : (s.write l n x).culvert = s.culvert := rfl
@[simp] theorem State.write_launches (s : State) (l : Loc) (n x : Nat) : (s.write l n x).launches = s.launches := rfl
@[simp] theorem State.write_nextLaunch (s : State) (l : Loc) (n x : Nat) : (s.write l n x).nextLaunch = s.nextLaunch := rfl
@[simp] theorem State.write_partitions (s : State) (l : Loc) (n x : Nat) : (s.write l n x).partitions = s.partitions := rfl
@[simp] theorem State.write_tide (s : State) (l : Loc) (n x : Nat) : (s.write l n x).tide = s.tide := rfl
@[simp] theorem State.write_tideSet (s : State) (l : Loc) (n x : Nat) : (s.write l n x).tideSet = s.tideSet := rfl
@[simp] theorem State.write_slewAt (s : State) (l : Loc) (n x : Nat) : (s.write l n x).slewAt = s.slewAt := rfl
@[simp] theorem State.write_quotaAt (s : State) (l : Loc) (n x : Nat) : (s.write l n x).quotaAt = s.quotaAt := rfl
@[simp] theorem State.write_crest (s : State) (l : Loc) (n x : Nat) : (s.write l n x).crest = s.crest := rfl
@[simp] theorem State.write_links (s : State) (l : Loc) (n x : Nat) : (s.write l n x).links = s.links := rfl
@[simp] theorem State.write_errSeq (s : State) (l : Loc) (n x : Nat) : (s.write l n x).errSeq = s.errSeq := rfl
@[simp] theorem State.write_errOut (s : State) (l : Loc) (n x : Nat) : (s.write l n x).errOut = s.errOut := rfl
@[simp] theorem State.write_errSent (s : State) (l : Loc) (n x : Nat) : (s.write l n x).errSent = s.errSent := rfl
@[simp] theorem State.write_flash (s : State) (l : Loc) (n x : Nat) : (s.write l n x).flash = s.flash := rfl
@[simp] theorem State.write_rollback (s : State) (l : Loc) (n x : Nat) : (s.write l n x).rollback = s.rollback := rfl
@[simp] theorem State.write_boot (s : State) (l : Loc) (n x : Nat) : (s.write l n x).boot = s.boot := rfl
@[simp] theorem State.write_romFails (s : State) (l : Loc) (n x : Nat) : (s.write l n x).romFails = s.romFails := rfl
@[simp] theorem State.write_railMv (s : State) (l : Loc) (n x : Nat) : (s.write l n x).railMv = s.railMv := rfl
@[simp] theorem State.write_railHold (s : State) (l : Loc) (n x : Nat) : (s.write l n x).railHold = s.railHold := rfl
@[simp] theorem State.write_mctp (s : State) (l : Loc) (n x : Nat) : (s.write l n x).mctp = s.mctp := rfl
@[simp] theorem State.write_hostData (s : State) (l : Loc) (n x : Nat) : (s.write l n x).hostData = s.hostData := rfl
@[simp] theorem State.write_fabricReply (s : State) (l : Loc) (n x : Nat) : (s.write l n x).fabricReply = s.fabricReply := rfl
@[simp] theorem State.write_grants (s : State) (l : Loc) (n x : Nat) : (s.write l n x).grants = s.grants := rfl
@[simp] theorem State.write_linked (s : State) (l : Loc) (n x : Nat) : (s.write l n x).linked = s.linked := rfl
@[simp] theorem State.write_everDispatched (s : State) (l : Loc) (n x : Nat) : (s.write l n x).everDispatched = s.everDispatched := rfl
@[simp] theorem State.write_house (s : State) (l : Loc) (n x : Nat) : (s.write l n x).house = s.house := rfl
@[simp] theorem State.write_houseWork (s : State) (l : Loc) (n x : Nat) : (s.write l n x).houseWork = s.houseWork := rfl
@[simp] theorem State.write_residues (s : State) (l : Loc) (n x : Nat) : (s.write l n x).residues = s.residues := rfl
@[simp] theorem State.write_savedImages (s : State) (l : Loc) (n x : Nat) : (s.write l n x).savedImages = s.savedImages := rfl
@[simp] theorem State.write_cur (s : State) (l : Loc) (n x : Nat) : (s.write l n x).cur = s.cur := rfl
@[simp] theorem State.write_agenda (s : State) (l : Loc) (n x : Nat) : (s.write l n x).agenda = s.agenda := rfl
@[simp] theorem State.write_fresh (s : State) (l : Loc) (n x : Nat) : (s.write l n x).fresh = s.fresh := rfl
@[simp] theorem State.setGOf_slots (s : State) (n : Nat) (r : Reg) (x : Word) : (s.setGOf n r x).slots = s.slots := by
  unfold State.setGOf; split <;> rfl
@[simp] theorem State.setGOf_cores (s : State) (n : Nat) (r : Reg) (x : Word) : (s.setGOf n r x).cores = s.cores := by
  unfold State.setGOf; split <;> rfl
@[simp] theorem State.setGOf_tiles (s : State) (n : Nat) (r : Reg) (x : Word) : (s.setGOf n r x).tiles = s.tiles := by
  unfold State.setGOf; split <;> rfl
@[simp] theorem State.setGOf_regions (s : State) (n : Nat) (r : Reg) (x : Word) : (s.setGOf n r x).regions = s.regions := by
  unfold State.setGOf; split <;> rfl
@[simp] theorem State.setGOf_dies (s : State) (n : Nat) (r : Reg) (x : Word) : (s.setGOf n r x).dies = s.dies := by
  unfold State.setGOf; split <;> rfl
@[simp] theorem State.setGOf_mem (s : State) (n : Nat) (r : Reg) (x : Word) : (s.setGOf n r x).mem = s.mem := by
  unfold State.setGOf; split <;> rfl
@[simp] theorem State.setGOf_empties (s : State) (n : Nat) (r : Reg) (x : Word) : (s.setGOf n r x).empties = s.empties := by
  unfold State.setGOf; split <;> rfl
@[simp] theorem State.setGOf_poison (s : State) (n : Nat) (r : Reg) (x : Word) : (s.setGOf n r x).poison = s.poison := by
  unfold State.setGOf; split <;> rfl
@[simp] theorem State.setGOf_stamps (s : State) (n : Nat) (r : Reg) (x : Word) : (s.setGOf n r x).stamps = s.stamps := by
  unfold State.setGOf; split <;> rfl
@[simp] theorem State.setGOf_culvert (s : State) (n : Nat) (r : Reg) (x : Word) : (s.setGOf n r x).culvert = s.culvert := by
  unfold State.setGOf; split <;> rfl
@[simp] theorem State.setGOf_launches (s : State) (n : Nat) (r : Reg) (x : Word) : (s.setGOf n r x).launches = s.launches := by
  unfold State.setGOf; split <;> rfl
@[simp] theorem State.setGOf_nextLaunch (s : State) (n : Nat) (r : Reg) (x : Word) : (s.setGOf n r x).nextLaunch = s.nextLaunch := by
  unfold State.setGOf; split <;> rfl
@[simp] theorem State.setGOf_partitions (s : State) (n : Nat) (r : Reg) (x : Word) : (s.setGOf n r x).partitions = s.partitions := by
  unfold State.setGOf; split <;> rfl
@[simp] theorem State.setGOf_tide (s : State) (n : Nat) (r : Reg) (x : Word) : (s.setGOf n r x).tide = s.tide := by
  unfold State.setGOf; split <;> rfl
@[simp] theorem State.setGOf_tideSet (s : State) (n : Nat) (r : Reg) (x : Word) : (s.setGOf n r x).tideSet = s.tideSet := by
  unfold State.setGOf; split <;> rfl
@[simp] theorem State.setGOf_slewAt (s : State) (n : Nat) (r : Reg) (x : Word) : (s.setGOf n r x).slewAt = s.slewAt := by
  unfold State.setGOf; split <;> rfl
@[simp] theorem State.setGOf_quotaAt (s : State) (n : Nat) (r : Reg) (x : Word) : (s.setGOf n r x).quotaAt = s.quotaAt := by
  unfold State.setGOf; split <;> rfl
@[simp] theorem State.setGOf_crest (s : State) (n : Nat) (r : Reg) (x : Word) : (s.setGOf n r x).crest = s.crest := by
  unfold State.setGOf; split <;> rfl
@[simp] theorem State.setGOf_links (s : State) (n : Nat) (r : Reg) (x : Word) : (s.setGOf n r x).links = s.links := by
  unfold State.setGOf; split <;> rfl
@[simp] theorem State.setGOf_errSeq (s : State) (n : Nat) (r : Reg) (x : Word) : (s.setGOf n r x).errSeq = s.errSeq := by
  unfold State.setGOf; split <;> rfl
@[simp] theorem State.setGOf_errOut (s : State) (n : Nat) (r : Reg) (x : Word) : (s.setGOf n r x).errOut = s.errOut := by
  unfold State.setGOf; split <;> rfl
@[simp] theorem State.setGOf_errSent (s : State) (n : Nat) (r : Reg) (x : Word) : (s.setGOf n r x).errSent = s.errSent := by
  unfold State.setGOf; split <;> rfl
@[simp] theorem State.setGOf_flash (s : State) (n : Nat) (r : Reg) (x : Word) : (s.setGOf n r x).flash = s.flash := by
  unfold State.setGOf; split <;> rfl
@[simp] theorem State.setGOf_rollback (s : State) (n : Nat) (r : Reg) (x : Word) : (s.setGOf n r x).rollback = s.rollback := by
  unfold State.setGOf; split <;> rfl
@[simp] theorem State.setGOf_boot (s : State) (n : Nat) (r : Reg) (x : Word) : (s.setGOf n r x).boot = s.boot := by
  unfold State.setGOf; split <;> rfl
@[simp] theorem State.setGOf_romFails (s : State) (n : Nat) (r : Reg) (x : Word) : (s.setGOf n r x).romFails = s.romFails := by
  unfold State.setGOf; split <;> rfl
@[simp] theorem State.setGOf_railMv (s : State) (n : Nat) (r : Reg) (x : Word) : (s.setGOf n r x).railMv = s.railMv := by
  unfold State.setGOf; split <;> rfl
@[simp] theorem State.setGOf_railHold (s : State) (n : Nat) (r : Reg) (x : Word) : (s.setGOf n r x).railHold = s.railHold := by
  unfold State.setGOf; split <;> rfl
@[simp] theorem State.setGOf_mctp (s : State) (n : Nat) (r : Reg) (x : Word) : (s.setGOf n r x).mctp = s.mctp := by
  unfold State.setGOf; split <;> rfl
@[simp] theorem State.setGOf_hostData (s : State) (n : Nat) (r : Reg) (x : Word) : (s.setGOf n r x).hostData = s.hostData := by
  unfold State.setGOf; split <;> rfl
@[simp] theorem State.setGOf_fabricReply (s : State) (n : Nat) (r : Reg) (x : Word) : (s.setGOf n r x).fabricReply = s.fabricReply := by
  unfold State.setGOf; split <;> rfl
@[simp] theorem State.setGOf_grants (s : State) (n : Nat) (r : Reg) (x : Word) : (s.setGOf n r x).grants = s.grants := by
  unfold State.setGOf; split <;> rfl
@[simp] theorem State.setGOf_linked (s : State) (n : Nat) (r : Reg) (x : Word) : (s.setGOf n r x).linked = s.linked := by
  unfold State.setGOf; split <;> rfl
@[simp] theorem State.setGOf_everDispatched (s : State) (n : Nat) (r : Reg) (x : Word) : (s.setGOf n r x).everDispatched = s.everDispatched := by
  unfold State.setGOf; split <;> rfl
@[simp] theorem State.setGOf_house (s : State) (n : Nat) (r : Reg) (x : Word) : (s.setGOf n r x).house = s.house := by
  unfold State.setGOf; split <;> rfl
@[simp] theorem State.setGOf_houseWork (s : State) (n : Nat) (r : Reg) (x : Word) : (s.setGOf n r x).houseWork = s.houseWork := by
  unfold State.setGOf; split <;> rfl
@[simp] theorem State.setGOf_residues (s : State) (n : Nat) (r : Reg) (x : Word) : (s.setGOf n r x).residues = s.residues := by
  unfold State.setGOf; split <;> rfl
@[simp] theorem State.setGOf_savedImages (s : State) (n : Nat) (r : Reg) (x : Word) : (s.setGOf n r x).savedImages = s.savedImages := by
  unfold State.setGOf; split <;> rfl
@[simp] theorem State.setGOf_cur (s : State) (n : Nat) (r : Reg) (x : Word) : (s.setGOf n r x).cur = s.cur := by
  unfold State.setGOf; split <;> rfl
@[simp] theorem State.setGOf_agenda (s : State) (n : Nat) (r : Reg) (x : Word) : (s.setGOf n r x).agenda = s.agenda := by
  unfold State.setGOf; split <;> rfl
@[simp] theorem State.setGOf_fresh (s : State) (n : Nat) (r : Reg) (x : Word) : (s.setGOf n r x).fresh = s.fresh := by
  unfold State.setGOf; split <;> rfl
@[simp] theorem State.setKOf_slots (s : State) (n : Nat) (r : KReg) (x : BitVec 128) : (s.setKOf n r x).slots = s.slots := by
  unfold State.setKOf; split <;> rfl
@[simp] theorem State.setKOf_cores (s : State) (n : Nat) (r : KReg) (x : BitVec 128) : (s.setKOf n r x).cores = s.cores := by
  unfold State.setKOf; split <;> rfl
@[simp] theorem State.setKOf_tiles (s : State) (n : Nat) (r : KReg) (x : BitVec 128) : (s.setKOf n r x).tiles = s.tiles := by
  unfold State.setKOf; split <;> rfl
@[simp] theorem State.setKOf_regions (s : State) (n : Nat) (r : KReg) (x : BitVec 128) : (s.setKOf n r x).regions = s.regions := by
  unfold State.setKOf; split <;> rfl
@[simp] theorem State.setKOf_dies (s : State) (n : Nat) (r : KReg) (x : BitVec 128) : (s.setKOf n r x).dies = s.dies := by
  unfold State.setKOf; split <;> rfl
@[simp] theorem State.setKOf_mem (s : State) (n : Nat) (r : KReg) (x : BitVec 128) : (s.setKOf n r x).mem = s.mem := by
  unfold State.setKOf; split <;> rfl
@[simp] theorem State.setKOf_empties (s : State) (n : Nat) (r : KReg) (x : BitVec 128) : (s.setKOf n r x).empties = s.empties := by
  unfold State.setKOf; split <;> rfl
@[simp] theorem State.setKOf_poison (s : State) (n : Nat) (r : KReg) (x : BitVec 128) : (s.setKOf n r x).poison = s.poison := by
  unfold State.setKOf; split <;> rfl
@[simp] theorem State.setKOf_stamps (s : State) (n : Nat) (r : KReg) (x : BitVec 128) : (s.setKOf n r x).stamps = s.stamps := by
  unfold State.setKOf; split <;> rfl
@[simp] theorem State.setKOf_culvert (s : State) (n : Nat) (r : KReg) (x : BitVec 128) : (s.setKOf n r x).culvert = s.culvert := by
  unfold State.setKOf; split <;> rfl
@[simp] theorem State.setKOf_launches (s : State) (n : Nat) (r : KReg) (x : BitVec 128) : (s.setKOf n r x).launches = s.launches := by
  unfold State.setKOf; split <;> rfl
@[simp] theorem State.setKOf_nextLaunch (s : State) (n : Nat) (r : KReg) (x : BitVec 128) : (s.setKOf n r x).nextLaunch = s.nextLaunch := by
  unfold State.setKOf; split <;> rfl
@[simp] theorem State.setKOf_partitions (s : State) (n : Nat) (r : KReg) (x : BitVec 128) : (s.setKOf n r x).partitions = s.partitions := by
  unfold State.setKOf; split <;> rfl
@[simp] theorem State.setKOf_tide (s : State) (n : Nat) (r : KReg) (x : BitVec 128) : (s.setKOf n r x).tide = s.tide := by
  unfold State.setKOf; split <;> rfl
@[simp] theorem State.setKOf_tideSet (s : State) (n : Nat) (r : KReg) (x : BitVec 128) : (s.setKOf n r x).tideSet = s.tideSet := by
  unfold State.setKOf; split <;> rfl
@[simp] theorem State.setKOf_slewAt (s : State) (n : Nat) (r : KReg) (x : BitVec 128) : (s.setKOf n r x).slewAt = s.slewAt := by
  unfold State.setKOf; split <;> rfl
@[simp] theorem State.setKOf_quotaAt (s : State) (n : Nat) (r : KReg) (x : BitVec 128) : (s.setKOf n r x).quotaAt = s.quotaAt := by
  unfold State.setKOf; split <;> rfl
@[simp] theorem State.setKOf_crest (s : State) (n : Nat) (r : KReg) (x : BitVec 128) : (s.setKOf n r x).crest = s.crest := by
  unfold State.setKOf; split <;> rfl
@[simp] theorem State.setKOf_links (s : State) (n : Nat) (r : KReg) (x : BitVec 128) : (s.setKOf n r x).links = s.links := by
  unfold State.setKOf; split <;> rfl
@[simp] theorem State.setKOf_errSeq (s : State) (n : Nat) (r : KReg) (x : BitVec 128) : (s.setKOf n r x).errSeq = s.errSeq := by
  unfold State.setKOf; split <;> rfl
@[simp] theorem State.setKOf_errOut (s : State) (n : Nat) (r : KReg) (x : BitVec 128) : (s.setKOf n r x).errOut = s.errOut := by
  unfold State.setKOf; split <;> rfl
@[simp] theorem State.setKOf_errSent (s : State) (n : Nat) (r : KReg) (x : BitVec 128) : (s.setKOf n r x).errSent = s.errSent := by
  unfold State.setKOf; split <;> rfl
@[simp] theorem State.setKOf_flash (s : State) (n : Nat) (r : KReg) (x : BitVec 128) : (s.setKOf n r x).flash = s.flash := by
  unfold State.setKOf; split <;> rfl
@[simp] theorem State.setKOf_rollback (s : State) (n : Nat) (r : KReg) (x : BitVec 128) : (s.setKOf n r x).rollback = s.rollback := by
  unfold State.setKOf; split <;> rfl
@[simp] theorem State.setKOf_boot (s : State) (n : Nat) (r : KReg) (x : BitVec 128) : (s.setKOf n r x).boot = s.boot := by
  unfold State.setKOf; split <;> rfl
@[simp] theorem State.setKOf_romFails (s : State) (n : Nat) (r : KReg) (x : BitVec 128) : (s.setKOf n r x).romFails = s.romFails := by
  unfold State.setKOf; split <;> rfl
@[simp] theorem State.setKOf_railMv (s : State) (n : Nat) (r : KReg) (x : BitVec 128) : (s.setKOf n r x).railMv = s.railMv := by
  unfold State.setKOf; split <;> rfl
@[simp] theorem State.setKOf_railHold (s : State) (n : Nat) (r : KReg) (x : BitVec 128) : (s.setKOf n r x).railHold = s.railHold := by
  unfold State.setKOf; split <;> rfl
@[simp] theorem State.setKOf_mctp (s : State) (n : Nat) (r : KReg) (x : BitVec 128) : (s.setKOf n r x).mctp = s.mctp := by
  unfold State.setKOf; split <;> rfl
@[simp] theorem State.setKOf_hostData (s : State) (n : Nat) (r : KReg) (x : BitVec 128) : (s.setKOf n r x).hostData = s.hostData := by
  unfold State.setKOf; split <;> rfl
@[simp] theorem State.setKOf_fabricReply (s : State) (n : Nat) (r : KReg) (x : BitVec 128) : (s.setKOf n r x).fabricReply = s.fabricReply := by
  unfold State.setKOf; split <;> rfl
@[simp] theorem State.setKOf_grants (s : State) (n : Nat) (r : KReg) (x : BitVec 128) : (s.setKOf n r x).grants = s.grants := by
  unfold State.setKOf; split <;> rfl
@[simp] theorem State.setKOf_linked (s : State) (n : Nat) (r : KReg) (x : BitVec 128) : (s.setKOf n r x).linked = s.linked := by
  unfold State.setKOf; split <;> rfl
@[simp] theorem State.setKOf_everDispatched (s : State) (n : Nat) (r : KReg) (x : BitVec 128) : (s.setKOf n r x).everDispatched = s.everDispatched := by
  unfold State.setKOf; split <;> rfl
@[simp] theorem State.setKOf_house (s : State) (n : Nat) (r : KReg) (x : BitVec 128) : (s.setKOf n r x).house = s.house := by
  unfold State.setKOf; split <;> rfl
@[simp] theorem State.setKOf_houseWork (s : State) (n : Nat) (r : KReg) (x : BitVec 128) : (s.setKOf n r x).houseWork = s.houseWork := by
  unfold State.setKOf; split <;> rfl
@[simp] theorem State.setKOf_residues (s : State) (n : Nat) (r : KReg) (x : BitVec 128) : (s.setKOf n r x).residues = s.residues := by
  unfold State.setKOf; split <;> rfl
@[simp] theorem State.setKOf_savedImages (s : State) (n : Nat) (r : KReg) (x : BitVec 128) : (s.setKOf n r x).savedImages = s.savedImages := by
  unfold State.setKOf; split <;> rfl
@[simp] theorem State.setKOf_cur (s : State) (n : Nat) (r : KReg) (x : BitVec 128) : (s.setKOf n r x).cur = s.cur := by
  unfold State.setKOf; split <;> rfl
@[simp] theorem State.setKOf_agenda (s : State) (n : Nat) (r : KReg) (x : BitVec 128) : (s.setKOf n r x).agenda = s.agenda := by
  unfold State.setKOf; split <;> rfl
@[simp] theorem State.setKOf_fresh (s : State) (n : Nat) (r : KReg) (x : BitVec 128) : (s.setKOf n r x).fresh = s.fresh := by
  unfold State.setKOf; split <;> rfl
@[simp] theorem State.setG_slots (s : State) (r : Reg) (x : Word) : (s.setG r x).slots = s.slots := by
  unfold State.setG State.setGOf; split <;> rfl
@[simp] theorem State.setG_cores (s : State) (r : Reg) (x : Word) : (s.setG r x).cores = s.cores := by
  unfold State.setG State.setGOf; split <;> rfl
@[simp] theorem State.setG_tiles (s : State) (r : Reg) (x : Word) : (s.setG r x).tiles = s.tiles := by
  unfold State.setG State.setGOf; split <;> rfl
@[simp] theorem State.setG_regions (s : State) (r : Reg) (x : Word) : (s.setG r x).regions = s.regions := by
  unfold State.setG State.setGOf; split <;> rfl
@[simp] theorem State.setG_dies (s : State) (r : Reg) (x : Word) : (s.setG r x).dies = s.dies := by
  unfold State.setG State.setGOf; split <;> rfl
@[simp] theorem State.setG_mem (s : State) (r : Reg) (x : Word) : (s.setG r x).mem = s.mem := by
  unfold State.setG State.setGOf; split <;> rfl
@[simp] theorem State.setG_empties (s : State) (r : Reg) (x : Word) : (s.setG r x).empties = s.empties := by
  unfold State.setG State.setGOf; split <;> rfl
@[simp] theorem State.setG_poison (s : State) (r : Reg) (x : Word) : (s.setG r x).poison = s.poison := by
  unfold State.setG State.setGOf; split <;> rfl
@[simp] theorem State.setG_stamps (s : State) (r : Reg) (x : Word) : (s.setG r x).stamps = s.stamps := by
  unfold State.setG State.setGOf; split <;> rfl
@[simp] theorem State.setG_culvert (s : State) (r : Reg) (x : Word) : (s.setG r x).culvert = s.culvert := by
  unfold State.setG State.setGOf; split <;> rfl
@[simp] theorem State.setG_launches (s : State) (r : Reg) (x : Word) : (s.setG r x).launches = s.launches := by
  unfold State.setG State.setGOf; split <;> rfl
@[simp] theorem State.setG_nextLaunch (s : State) (r : Reg) (x : Word) : (s.setG r x).nextLaunch = s.nextLaunch := by
  unfold State.setG State.setGOf; split <;> rfl
@[simp] theorem State.setG_partitions (s : State) (r : Reg) (x : Word) : (s.setG r x).partitions = s.partitions := by
  unfold State.setG State.setGOf; split <;> rfl
@[simp] theorem State.setG_tide (s : State) (r : Reg) (x : Word) : (s.setG r x).tide = s.tide := by
  unfold State.setG State.setGOf; split <;> rfl
@[simp] theorem State.setG_tideSet (s : State) (r : Reg) (x : Word) : (s.setG r x).tideSet = s.tideSet := by
  unfold State.setG State.setGOf; split <;> rfl
@[simp] theorem State.setG_slewAt (s : State) (r : Reg) (x : Word) : (s.setG r x).slewAt = s.slewAt := by
  unfold State.setG State.setGOf; split <;> rfl
@[simp] theorem State.setG_quotaAt (s : State) (r : Reg) (x : Word) : (s.setG r x).quotaAt = s.quotaAt := by
  unfold State.setG State.setGOf; split <;> rfl
@[simp] theorem State.setG_crest (s : State) (r : Reg) (x : Word) : (s.setG r x).crest = s.crest := by
  unfold State.setG State.setGOf; split <;> rfl
@[simp] theorem State.setG_links (s : State) (r : Reg) (x : Word) : (s.setG r x).links = s.links := by
  unfold State.setG State.setGOf; split <;> rfl
@[simp] theorem State.setG_errSeq (s : State) (r : Reg) (x : Word) : (s.setG r x).errSeq = s.errSeq := by
  unfold State.setG State.setGOf; split <;> rfl
@[simp] theorem State.setG_errOut (s : State) (r : Reg) (x : Word) : (s.setG r x).errOut = s.errOut := by
  unfold State.setG State.setGOf; split <;> rfl
@[simp] theorem State.setG_errSent (s : State) (r : Reg) (x : Word) : (s.setG r x).errSent = s.errSent := by
  unfold State.setG State.setGOf; split <;> rfl
@[simp] theorem State.setG_flash (s : State) (r : Reg) (x : Word) : (s.setG r x).flash = s.flash := by
  unfold State.setG State.setGOf; split <;> rfl
@[simp] theorem State.setG_rollback (s : State) (r : Reg) (x : Word) : (s.setG r x).rollback = s.rollback := by
  unfold State.setG State.setGOf; split <;> rfl
@[simp] theorem State.setG_boot (s : State) (r : Reg) (x : Word) : (s.setG r x).boot = s.boot := by
  unfold State.setG State.setGOf; split <;> rfl
@[simp] theorem State.setG_romFails (s : State) (r : Reg) (x : Word) : (s.setG r x).romFails = s.romFails := by
  unfold State.setG State.setGOf; split <;> rfl
@[simp] theorem State.setG_railMv (s : State) (r : Reg) (x : Word) : (s.setG r x).railMv = s.railMv := by
  unfold State.setG State.setGOf; split <;> rfl
@[simp] theorem State.setG_railHold (s : State) (r : Reg) (x : Word) : (s.setG r x).railHold = s.railHold := by
  unfold State.setG State.setGOf; split <;> rfl
@[simp] theorem State.setG_mctp (s : State) (r : Reg) (x : Word) : (s.setG r x).mctp = s.mctp := by
  unfold State.setG State.setGOf; split <;> rfl
@[simp] theorem State.setG_hostData (s : State) (r : Reg) (x : Word) : (s.setG r x).hostData = s.hostData := by
  unfold State.setG State.setGOf; split <;> rfl
@[simp] theorem State.setG_fabricReply (s : State) (r : Reg) (x : Word) : (s.setG r x).fabricReply = s.fabricReply := by
  unfold State.setG State.setGOf; split <;> rfl
@[simp] theorem State.setG_grants (s : State) (r : Reg) (x : Word) : (s.setG r x).grants = s.grants := by
  unfold State.setG State.setGOf; split <;> rfl
@[simp] theorem State.setG_linked (s : State) (r : Reg) (x : Word) : (s.setG r x).linked = s.linked := by
  unfold State.setG State.setGOf; split <;> rfl
@[simp] theorem State.setG_everDispatched (s : State) (r : Reg) (x : Word) : (s.setG r x).everDispatched = s.everDispatched := by
  unfold State.setG State.setGOf; split <;> rfl
@[simp] theorem State.setG_house (s : State) (r : Reg) (x : Word) : (s.setG r x).house = s.house := by
  unfold State.setG State.setGOf; split <;> rfl
@[simp] theorem State.setG_houseWork (s : State) (r : Reg) (x : Word) : (s.setG r x).houseWork = s.houseWork := by
  unfold State.setG State.setGOf; split <;> rfl
@[simp] theorem State.setG_residues (s : State) (r : Reg) (x : Word) : (s.setG r x).residues = s.residues := by
  unfold State.setG State.setGOf; split <;> rfl
@[simp] theorem State.setG_savedImages (s : State) (r : Reg) (x : Word) : (s.setG r x).savedImages = s.savedImages := by
  unfold State.setG State.setGOf; split <;> rfl
@[simp] theorem State.setG_cur (s : State) (r : Reg) (x : Word) : (s.setG r x).cur = s.cur := by
  unfold State.setG State.setGOf; split <;> rfl
@[simp] theorem State.setG_agenda (s : State) (r : Reg) (x : Word) : (s.setG r x).agenda = s.agenda := by
  unfold State.setG State.setGOf; split <;> rfl
@[simp] theorem State.setG_fresh (s : State) (r : Reg) (x : Word) : (s.setG r x).fresh = s.fresh := by
  unfold State.setG State.setGOf; split <;> rfl
@[simp] theorem State.setVOf_slots (s : State) (n : Nat) (r : VReg) (x : BitVec 1024) : (s.setVOf n r x).slots = s.slots := rfl
@[simp] theorem State.setVOf_cores (s : State) (n : Nat) (r : VReg) (x : BitVec 1024) : (s.setVOf n r x).cores = s.cores := rfl
@[simp] theorem State.setVOf_tiles (s : State) (n : Nat) (r : VReg) (x : BitVec 1024) : (s.setVOf n r x).tiles = s.tiles := rfl
@[simp] theorem State.setVOf_regions (s : State) (n : Nat) (r : VReg) (x : BitVec 1024) : (s.setVOf n r x).regions = s.regions := rfl
@[simp] theorem State.setVOf_dies (s : State) (n : Nat) (r : VReg) (x : BitVec 1024) : (s.setVOf n r x).dies = s.dies := rfl
@[simp] theorem State.setVOf_mem (s : State) (n : Nat) (r : VReg) (x : BitVec 1024) : (s.setVOf n r x).mem = s.mem := rfl
@[simp] theorem State.setVOf_empties (s : State) (n : Nat) (r : VReg) (x : BitVec 1024) : (s.setVOf n r x).empties = s.empties := rfl
@[simp] theorem State.setVOf_poison (s : State) (n : Nat) (r : VReg) (x : BitVec 1024) : (s.setVOf n r x).poison = s.poison := rfl
@[simp] theorem State.setVOf_stamps (s : State) (n : Nat) (r : VReg) (x : BitVec 1024) : (s.setVOf n r x).stamps = s.stamps := rfl
@[simp] theorem State.setVOf_culvert (s : State) (n : Nat) (r : VReg) (x : BitVec 1024) : (s.setVOf n r x).culvert = s.culvert := rfl
@[simp] theorem State.setVOf_launches (s : State) (n : Nat) (r : VReg) (x : BitVec 1024) : (s.setVOf n r x).launches = s.launches := rfl
@[simp] theorem State.setVOf_nextLaunch (s : State) (n : Nat) (r : VReg) (x : BitVec 1024) : (s.setVOf n r x).nextLaunch = s.nextLaunch := rfl
@[simp] theorem State.setVOf_partitions (s : State) (n : Nat) (r : VReg) (x : BitVec 1024) : (s.setVOf n r x).partitions = s.partitions := rfl
@[simp] theorem State.setVOf_tide (s : State) (n : Nat) (r : VReg) (x : BitVec 1024) : (s.setVOf n r x).tide = s.tide := rfl
@[simp] theorem State.setVOf_tideSet (s : State) (n : Nat) (r : VReg) (x : BitVec 1024) : (s.setVOf n r x).tideSet = s.tideSet := rfl
@[simp] theorem State.setVOf_slewAt (s : State) (n : Nat) (r : VReg) (x : BitVec 1024) : (s.setVOf n r x).slewAt = s.slewAt := rfl
@[simp] theorem State.setVOf_quotaAt (s : State) (n : Nat) (r : VReg) (x : BitVec 1024) : (s.setVOf n r x).quotaAt = s.quotaAt := rfl
@[simp] theorem State.setVOf_crest (s : State) (n : Nat) (r : VReg) (x : BitVec 1024) : (s.setVOf n r x).crest = s.crest := rfl
@[simp] theorem State.setVOf_links (s : State) (n : Nat) (r : VReg) (x : BitVec 1024) : (s.setVOf n r x).links = s.links := rfl
@[simp] theorem State.setVOf_errSeq (s : State) (n : Nat) (r : VReg) (x : BitVec 1024) : (s.setVOf n r x).errSeq = s.errSeq := rfl
@[simp] theorem State.setVOf_errOut (s : State) (n : Nat) (r : VReg) (x : BitVec 1024) : (s.setVOf n r x).errOut = s.errOut := rfl
@[simp] theorem State.setVOf_errSent (s : State) (n : Nat) (r : VReg) (x : BitVec 1024) : (s.setVOf n r x).errSent = s.errSent := rfl
@[simp] theorem State.setVOf_flash (s : State) (n : Nat) (r : VReg) (x : BitVec 1024) : (s.setVOf n r x).flash = s.flash := rfl
@[simp] theorem State.setVOf_rollback (s : State) (n : Nat) (r : VReg) (x : BitVec 1024) : (s.setVOf n r x).rollback = s.rollback := rfl
@[simp] theorem State.setVOf_boot (s : State) (n : Nat) (r : VReg) (x : BitVec 1024) : (s.setVOf n r x).boot = s.boot := rfl
@[simp] theorem State.setVOf_romFails (s : State) (n : Nat) (r : VReg) (x : BitVec 1024) : (s.setVOf n r x).romFails = s.romFails := rfl
@[simp] theorem State.setVOf_railMv (s : State) (n : Nat) (r : VReg) (x : BitVec 1024) : (s.setVOf n r x).railMv = s.railMv := rfl
@[simp] theorem State.setVOf_railHold (s : State) (n : Nat) (r : VReg) (x : BitVec 1024) : (s.setVOf n r x).railHold = s.railHold := rfl
@[simp] theorem State.setVOf_mctp (s : State) (n : Nat) (r : VReg) (x : BitVec 1024) : (s.setVOf n r x).mctp = s.mctp := rfl
@[simp] theorem State.setVOf_hostData (s : State) (n : Nat) (r : VReg) (x : BitVec 1024) : (s.setVOf n r x).hostData = s.hostData := rfl
@[simp] theorem State.setVOf_fabricReply (s : State) (n : Nat) (r : VReg) (x : BitVec 1024) : (s.setVOf n r x).fabricReply = s.fabricReply := rfl
@[simp] theorem State.setVOf_grants (s : State) (n : Nat) (r : VReg) (x : BitVec 1024) : (s.setVOf n r x).grants = s.grants := rfl
@[simp] theorem State.setVOf_linked (s : State) (n : Nat) (r : VReg) (x : BitVec 1024) : (s.setVOf n r x).linked = s.linked := rfl
@[simp] theorem State.setVOf_everDispatched (s : State) (n : Nat) (r : VReg) (x : BitVec 1024) : (s.setVOf n r x).everDispatched = s.everDispatched := rfl
@[simp] theorem State.setVOf_house (s : State) (n : Nat) (r : VReg) (x : BitVec 1024) : (s.setVOf n r x).house = s.house := rfl
@[simp] theorem State.setVOf_houseWork (s : State) (n : Nat) (r : VReg) (x : BitVec 1024) : (s.setVOf n r x).houseWork = s.houseWork := rfl
@[simp] theorem State.setVOf_residues (s : State) (n : Nat) (r : VReg) (x : BitVec 1024) : (s.setVOf n r x).residues = s.residues := rfl
@[simp] theorem State.setVOf_savedImages (s : State) (n : Nat) (r : VReg) (x : BitVec 1024) : (s.setVOf n r x).savedImages = s.savedImages := rfl
@[simp] theorem State.setVOf_cur (s : State) (n : Nat) (r : VReg) (x : BitVec 1024) : (s.setVOf n r x).cur = s.cur := rfl
@[simp] theorem State.setVOf_agenda (s : State) (n : Nat) (r : VReg) (x : BitVec 1024) : (s.setVOf n r x).agenda = s.agenda := rfl
@[simp] theorem State.setVOf_fresh (s : State) (n : Nat) (r : VReg) (x : BitVec 1024) : (s.setVOf n r x).fresh = s.fresh := rfl

/-! ## Reading a unit after one is replaced -/

@[simp] theorem State.slotAt_setSlot (s : State) (n : Nat) (x : Slot) : (s.setSlot n x).slotAt n = x := look_put_same _ _ _ _
theorem State.slotAt_setSlot_of_ne (s : State) (x : Slot) {n m : Nat} (h : m ≠ n) : (s.setSlot n x).slotAt m = s.slotAt m :=
  look_put_of_ne _ _ _ h
@[simp] theorem State.slotAt_setCore (s : State) (m n : Nat) (x : Core) : (s.setCore n x).slotAt m = s.slotAt m := rfl
@[simp] theorem State.slotAt_setTile (s : State) (m n : Nat) (x : Tile) : (s.setTile n x).slotAt m = s.slotAt m := rfl
@[simp] theorem State.slotAt_setRegion (s : State) (m n : Nat) (x : Region) : (s.setRegion n x).slotAt m = s.slotAt m := rfl
@[simp] theorem State.slotAt_setDie (s : State) (m n : Nat) (x : Die) : (s.setDie n x).slotAt m = s.slotAt m := rfl
@[simp] theorem State.slotAt_setLaunch (s : State) (m n : Nat) (x : Launch) : (s.setLaunch n x).slotAt m = s.slotAt m := rfl
@[simp] theorem State.slotAt_setPart (s : State) (m n : Nat) (x : Partition) : (s.setPart n x).slotAt m = s.slotAt m := rfl
@[simp] theorem State.slotAt_setImage (s : State) (m n : Nat) (x : Image) : (s.setImage n x).slotAt m = s.slotAt m := rfl
@[simp] theorem State.coreAt_setCore (s : State) (n : Nat) (x : Core) : (s.setCore n x).coreAt n = x := look_put_same _ _ _ _
theorem State.coreAt_setCore_of_ne (s : State) (x : Core) {n m : Nat} (h : m ≠ n) : (s.setCore n x).coreAt m = s.coreAt m :=
  look_put_of_ne _ _ _ h
@[simp] theorem State.coreAt_setSlot (s : State) (m n : Nat) (x : Slot) : (s.setSlot n x).coreAt m = s.coreAt m := rfl
@[simp] theorem State.coreAt_setTile (s : State) (m n : Nat) (x : Tile) : (s.setTile n x).coreAt m = s.coreAt m := rfl
@[simp] theorem State.coreAt_setRegion (s : State) (m n : Nat) (x : Region) : (s.setRegion n x).coreAt m = s.coreAt m := rfl
@[simp] theorem State.coreAt_setDie (s : State) (m n : Nat) (x : Die) : (s.setDie n x).coreAt m = s.coreAt m := rfl
@[simp] theorem State.coreAt_setLaunch (s : State) (m n : Nat) (x : Launch) : (s.setLaunch n x).coreAt m = s.coreAt m := rfl
@[simp] theorem State.coreAt_setPart (s : State) (m n : Nat) (x : Partition) : (s.setPart n x).coreAt m = s.coreAt m := rfl
@[simp] theorem State.coreAt_setImage (s : State) (m n : Nat) (x : Image) : (s.setImage n x).coreAt m = s.coreAt m := rfl
@[simp] theorem State.tileAt_setTile (s : State) (n : Nat) (x : Tile) : (s.setTile n x).tileAt n = x := look_put_same _ _ _ _
theorem State.tileAt_setTile_of_ne (s : State) (x : Tile) {n m : Nat} (h : m ≠ n) : (s.setTile n x).tileAt m = s.tileAt m :=
  look_put_of_ne _ _ _ h
@[simp] theorem State.tileAt_setSlot (s : State) (m n : Nat) (x : Slot) : (s.setSlot n x).tileAt m = s.tileAt m := rfl
@[simp] theorem State.tileAt_setCore (s : State) (m n : Nat) (x : Core) : (s.setCore n x).tileAt m = s.tileAt m := rfl
@[simp] theorem State.tileAt_setRegion (s : State) (m n : Nat) (x : Region) : (s.setRegion n x).tileAt m = s.tileAt m := rfl
@[simp] theorem State.tileAt_setDie (s : State) (m n : Nat) (x : Die) : (s.setDie n x).tileAt m = s.tileAt m := rfl
@[simp] theorem State.tileAt_setLaunch (s : State) (m n : Nat) (x : Launch) : (s.setLaunch n x).tileAt m = s.tileAt m := rfl
@[simp] theorem State.tileAt_setPart (s : State) (m n : Nat) (x : Partition) : (s.setPart n x).tileAt m = s.tileAt m := rfl
@[simp] theorem State.tileAt_setImage (s : State) (m n : Nat) (x : Image) : (s.setImage n x).tileAt m = s.tileAt m := rfl
@[simp] theorem State.regionAt_setRegion (s : State) (n : Nat) (x : Region) : (s.setRegion n x).regionAt n = x := look_put_same _ _ _ _
theorem State.regionAt_setRegion_of_ne (s : State) (x : Region) {n m : Nat} (h : m ≠ n) : (s.setRegion n x).regionAt m = s.regionAt m :=
  look_put_of_ne _ _ _ h
@[simp] theorem State.regionAt_setSlot (s : State) (m n : Nat) (x : Slot) : (s.setSlot n x).regionAt m = s.regionAt m := rfl
@[simp] theorem State.regionAt_setCore (s : State) (m n : Nat) (x : Core) : (s.setCore n x).regionAt m = s.regionAt m := rfl
@[simp] theorem State.regionAt_setTile (s : State) (m n : Nat) (x : Tile) : (s.setTile n x).regionAt m = s.regionAt m := rfl
@[simp] theorem State.regionAt_setDie (s : State) (m n : Nat) (x : Die) : (s.setDie n x).regionAt m = s.regionAt m := rfl
@[simp] theorem State.regionAt_setLaunch (s : State) (m n : Nat) (x : Launch) : (s.setLaunch n x).regionAt m = s.regionAt m := rfl
@[simp] theorem State.regionAt_setPart (s : State) (m n : Nat) (x : Partition) : (s.setPart n x).regionAt m = s.regionAt m := rfl
@[simp] theorem State.regionAt_setImage (s : State) (m n : Nat) (x : Image) : (s.setImage n x).regionAt m = s.regionAt m := rfl
@[simp] theorem State.dieAt_setDie (s : State) (n : Nat) (x : Die) : (s.setDie n x).dieAt n = x := look_put_same _ _ _ _
theorem State.dieAt_setDie_of_ne (s : State) (x : Die) {n m : Nat} (h : m ≠ n) : (s.setDie n x).dieAt m = s.dieAt m :=
  look_put_of_ne _ _ _ h
@[simp] theorem State.dieAt_setSlot (s : State) (m n : Nat) (x : Slot) : (s.setSlot n x).dieAt m = s.dieAt m := rfl
@[simp] theorem State.dieAt_setCore (s : State) (m n : Nat) (x : Core) : (s.setCore n x).dieAt m = s.dieAt m := rfl
@[simp] theorem State.dieAt_setTile (s : State) (m n : Nat) (x : Tile) : (s.setTile n x).dieAt m = s.dieAt m := rfl
@[simp] theorem State.dieAt_setRegion (s : State) (m n : Nat) (x : Region) : (s.setRegion n x).dieAt m = s.dieAt m := rfl
@[simp] theorem State.dieAt_setLaunch (s : State) (m n : Nat) (x : Launch) : (s.setLaunch n x).dieAt m = s.dieAt m := rfl
@[simp] theorem State.dieAt_setPart (s : State) (m n : Nat) (x : Partition) : (s.setPart n x).dieAt m = s.dieAt m := rfl
@[simp] theorem State.dieAt_setImage (s : State) (m n : Nat) (x : Image) : (s.setImage n x).dieAt m = s.dieAt m := rfl
@[simp] theorem State.launchAt_setLaunch (s : State) (n : Nat) (x : Launch) : (s.setLaunch n x).launchAt n = x := look_put_same _ _ _ _
theorem State.launchAt_setLaunch_of_ne (s : State) (x : Launch) {n m : Nat} (h : m ≠ n) : (s.setLaunch n x).launchAt m = s.launchAt m :=
  look_put_of_ne _ _ _ h
@[simp] theorem State.launchAt_setSlot (s : State) (m n : Nat) (x : Slot) : (s.setSlot n x).launchAt m = s.launchAt m := rfl
@[simp] theorem State.launchAt_setCore (s : State) (m n : Nat) (x : Core) : (s.setCore n x).launchAt m = s.launchAt m := rfl
@[simp] theorem State.launchAt_setTile (s : State) (m n : Nat) (x : Tile) : (s.setTile n x).launchAt m = s.launchAt m := rfl
@[simp] theorem State.launchAt_setRegion (s : State) (m n : Nat) (x : Region) : (s.setRegion n x).launchAt m = s.launchAt m := rfl
@[simp] theorem State.launchAt_setDie (s : State) (m n : Nat) (x : Die) : (s.setDie n x).launchAt m = s.launchAt m := rfl
@[simp] theorem State.launchAt_setPart (s : State) (m n : Nat) (x : Partition) : (s.setPart n x).launchAt m = s.launchAt m := rfl
@[simp] theorem State.launchAt_setImage (s : State) (m n : Nat) (x : Image) : (s.setImage n x).launchAt m = s.launchAt m := rfl
@[simp] theorem State.partAt_setPart (s : State) (n : Nat) (x : Partition) : (s.setPart n x).partAt n = x := look_put_same _ _ _ _
theorem State.partAt_setPart_of_ne (s : State) (x : Partition) {n m : Nat} (h : m ≠ n) : (s.setPart n x).partAt m = s.partAt m :=
  look_put_of_ne _ _ _ h
@[simp] theorem State.partAt_setSlot (s : State) (m n : Nat) (x : Slot) : (s.setSlot n x).partAt m = s.partAt m := rfl
@[simp] theorem State.partAt_setCore (s : State) (m n : Nat) (x : Core) : (s.setCore n x).partAt m = s.partAt m := rfl
@[simp] theorem State.partAt_setTile (s : State) (m n : Nat) (x : Tile) : (s.setTile n x).partAt m = s.partAt m := rfl
@[simp] theorem State.partAt_setRegion (s : State) (m n : Nat) (x : Region) : (s.setRegion n x).partAt m = s.partAt m := rfl
@[simp] theorem State.partAt_setDie (s : State) (m n : Nat) (x : Die) : (s.setDie n x).partAt m = s.partAt m := rfl
@[simp] theorem State.partAt_setLaunch (s : State) (m n : Nat) (x : Launch) : (s.setLaunch n x).partAt m = s.partAt m := rfl
@[simp] theorem State.partAt_setImage (s : State) (m n : Nat) (x : Image) : (s.setImage n x).partAt m = s.partAt m := rfl
@[simp] theorem State.imageAt_setImage (s : State) (n : Nat) (x : Image) : (s.setImage n x).imageAt n = x := look_put_same _ _ _ _
theorem State.imageAt_setImage_of_ne (s : State) (x : Image) {n m : Nat} (h : m ≠ n) : (s.setImage n x).imageAt m = s.imageAt m :=
  look_put_of_ne _ _ _ h
@[simp] theorem State.imageAt_setSlot (s : State) (m n : Nat) (x : Slot) : (s.setSlot n x).imageAt m = s.imageAt m := rfl
@[simp] theorem State.imageAt_setCore (s : State) (m n : Nat) (x : Core) : (s.setCore n x).imageAt m = s.imageAt m := rfl
@[simp] theorem State.imageAt_setTile (s : State) (m n : Nat) (x : Tile) : (s.setTile n x).imageAt m = s.imageAt m := rfl
@[simp] theorem State.imageAt_setRegion (s : State) (m n : Nat) (x : Region) : (s.setRegion n x).imageAt m = s.imageAt m := rfl
@[simp] theorem State.imageAt_setDie (s : State) (m n : Nat) (x : Die) : (s.setDie n x).imageAt m = s.imageAt m := rfl
@[simp] theorem State.imageAt_setLaunch (s : State) (m n : Nat) (x : Launch) : (s.setLaunch n x).imageAt m = s.imageAt m := rfl
@[simp] theorem State.imageAt_setPart (s : State) (m n : Nat) (x : Partition) : (s.setPart n x).imageAt m = s.imageAt m := rfl

end Sys2Proof.Machine
end

