-- ==== Sys2Proof/Laws/Memory.lean ====
section
/-! SUPPORT. The laws of memory: every operation keeps the canonical form, a read after a write gives the value written, and
a write leaves every other byte alone (07 R136, R137). -/
set_option Elab.async false
namespace Sys2Proof.Machine
open Sys2Proof

/-! ## One byte -/

theorem mem_wf_iff {m : List Host.Cell} : Memory.wf m = true ↔ rising m = true ∧ ∀ p ∈ m, p.2 ≠ blank := by
  simp [Memory.wf]

@[simp] theorem wf_nil : Memory.wf [] = true := rfl

theorem wf_filter {m : List Host.Cell} (f : Host.Cell → Bool) (h : Memory.wf m = true) : Memory.wf (m.filter f) = true := by
  obtain ⟨h1, h2⟩ := mem_wf_iff.1 h
  exact mem_wf_iff.2 ⟨rising_filter f h1, fun p hp => h2 p (List.mem_filter.1 hp).1⟩

theorem wf_setByte {m : List Host.Cell} (a : Nat) (b : Byte) (h : Memory.wf m = true) : Memory.wf (setByte m a b) = true := by
  unfold setByte
  split
  · exact wf_filter _ h
  · next hb =>
    obtain ⟨h1, h2⟩ := mem_wf_iff.1 h
    refine mem_wf_iff.2 ⟨rising_put a b h1, fun p hp => ?_⟩
    rcases mem_put hp with e | hp
    · rw [e]; exact hb
    · exact h2 p hp

theorem look_drop_same {α : Type} (d : α) (m : List (Nat × α)) (n : Nat) : look d (drop m n) n = d := by
  induction m with
  | nil => rfl
  | cons p r ih =>
    obtain ⟨k, v⟩ := p
    simp only [drop, List.filter_cons] at *
    split
    · next h => simp only [decide_eq_true_eq] at h; simp only [look, Ne.symm h, ↓reduceIte, ih]
    · exact ih

theorem look_drop_of_ne {α : Type} (d : α) (m : List (Nat × α)) {n k : Nat} (h : k ≠ n) : look d (drop m n) k = look d m k := by
  induction m with
  | nil => rfl
  | cons p r ih =>
    obtain ⟨k', v⟩ := p
    simp only [drop, List.filter_cons] at *
    split
    · simp only [look, ih]
    · next h' =>
      have : k' = n := by simpa using h'
      subst this
      simp only [look, h, ↓reduceIte, ih]

@[simp] theorem byteAt_setByte_same (m : List Host.Cell) (a : Nat) (b : Byte) : byteAt (setByte m a b) a = b := by
  unfold setByte byteAt
  split
  · next h => rw [look_drop_same, h]
  · exact look_put_same ..

theorem byteAt_setByte_of_ne (m : List Host.Cell) {a k : Nat} (b : Byte) (h : k ≠ a) :
    byteAt (setByte m a b) k = byteAt m k := by
  unfold setByte byteAt
  split
  · exact look_drop_of_ne _ _ h
  · exact look_put_of_ne _ _ _ h

/-! ## Several bytes -/

theorem wf_storeNat {m : List Host.Cell} (a n x : Nat) (h : Memory.wf m = true) : Memory.wf (storeNat m a n x) = true := by
  induction n generalizing m a x with
  | zero => exact h
  | succ n ih => exact ih _ _ (wf_setByte a _ h)

theorem wf_storeBytes {m : List Host.Cell} (a : Nat) (l : List Byte) (h : Memory.wf m = true) :
    Memory.wf (storeBytes m a l) = true := by
  induction l generalizing m a with
  | nil => exact h
  | cons b r ih => exact ih _ (wf_setByte a b h)

theorem wf_clearMem {m : List Host.Cell} (a b : Nat) (h : Memory.wf m = true) : Memory.wf (clearMem m a b) = true :=
  wf_filter _ h

theorem wf_foldl_setByte {α : Type} {m : List Host.Cell} (l : List α) (k : α → Nat) (v : α → Byte) (h : Memory.wf m = true) :
    Memory.wf (l.foldl (fun acc p => setByte acc (k p) (v p)) m) = true := by
  induction l generalizing m with
  | nil => exact h
  | cons p r ih => exact ih (wf_setByte _ _ h)

theorem wf_copyMem {m : List Host.Cell} (src dst n : Nat) (h : Memory.wf m = true) : Memory.wf (copyMem m src dst n) = true :=
  wf_foldl_setByte _ _ _ (wf_clearMem _ _ h)

/-- A store changes no byte outside the bytes that it names. -/
theorem byteAt_storeNat_of_out {m : List Host.Cell} {a n x k : Nat} (h : k < a ∨ a + n ≤ k) :
    byteAt (storeNat m a n x) k = byteAt m k := by
  induction n generalizing m a x with
  | zero => rfl
  | succ n ih => rw [storeNat, ih (by omega), byteAt_setByte_of_ne _ _ (by omega)]

/-- What a store leaves in the bytes that it names. -/
theorem byteAt_storeNat {m : List Host.Cell} {a n x i : Nat} (h : i < n) :
    byteAt (storeNat m a n x) (a + i) = .ofNat 8 (x / 256 ^ i) := by
  induction n generalizing m a x i with
  | zero => omega
  | succ n ih =>
    rw [storeNat]
    cases i with
    | zero => rw [byteAt_storeNat_of_out (by omega), Nat.add_zero, byteAt_setByte_same]; simp
    | succ i =>
      rw [show a + (i + 1) = (a + 1) + i by omega, ih (by omega), Nat.div_div_eq_div_mul, Nat.pow_succ, Nat.mul_comm]

/-- Reading what was just stored gives its low bytes. -/
@[simp] theorem loadNat_storeNat (m : List Host.Cell) (a n x : Nat) : loadNat (storeNat m a n x) a n = x % 256 ^ n := by
  induction n generalizing m a x with
  | zero => simp [loadNat, Nat.mod_one]
  | succ n ih =>
    rw [storeNat, loadNat, ih, byteAt_storeNat_of_out (by omega), byteAt_setByte_same, BitVec.toNat_ofNat,
      show 256 ^ (n + 1) = 256 * 256 ^ n by omega, Nat.mod_mul]

/-- A load sees only its own bytes. -/
theorem loadNat_congr {m m' : List Host.Cell} {a n : Nat} (h : ∀ k, a ≤ k → k < a + n → byteAt m k = byteAt m' k) :
    loadNat m a n = loadNat m' a n := by
  induction n generalizing a with
  | zero => rfl
  | succ n ih =>
    rw [loadNat, loadNat, h a (by omega) (by omega), ih fun k h1 h2 => h k (by omega) (by omega)]

theorem loadNat_storeNat_of_out {m : List Host.Cell} {a n x b k : Nat} (h : b + k ≤ a ∨ a + n ≤ b) :
    loadNat (storeNat m a n x) b k = loadNat m b k :=
  loadNat_congr fun j h1 h2 => byteAt_storeNat_of_out (by omega)

theorem byteAt_storeBytes_of_out {m : List Host.Cell} {a : Nat} {l : List Byte} {k : Nat} (h : k < a ∨ a + l.length ≤ k) :
    byteAt (storeBytes m a l) k = byteAt m k := by
  induction l generalizing m a with
  | nil => rfl
  | cons b r ih =>
    simp only [List.length_cons] at h
    rw [storeBytes, ih (by omega), byteAt_setByte_of_ne _ _ (by omega)]

@[simp] theorem loadBytes_storeBytes (m : List Host.Cell) (a : Nat) (l : List Byte) :
    loadBytes (storeBytes m a l) a l.length = l := by
  induction l generalizing m a with
  | nil => rfl
  | cons b r ih => rw [storeBytes, List.length_cons, loadBytes, ih, byteAt_storeBytes_of_out (by omega), byteAt_setByte_same]

/-! ## The machine's stores -/

theorem write_mem_wf {s : State} (l : Loc) (n x : Nat) (h : Memory.wf s.mem = true) :
    Memory.wf (s.write l n x).mem = true := wf_storeNat _ _ _ h

@[simp] theorem read_write (s : State) (l : Loc) (n x : Nat) : (s.write l n x).read l n = x % 256 ^ n :=
  loadNat_storeNat ..

theorem byteAt_write_of_out {s : State} {l : Loc} {n x k : Nat} (h : k < l.key ∨ l.key + n ≤ k) :
    byteAt (s.write l n x).mem k = byteAt s.mem k := byteAt_storeNat_of_out h

@[simp] theorem unpoison_mem (s : State) (l : Loc) (n : Nat) : (s.unpoison l n).mem = s.mem := by
  unfold State.unpoison; split <;> rfl
@[simp] theorem heal_mem (s : State) (ks : List Nat) : (s.heal ks).mem = s.mem := by
  unfold State.heal; split <;> rfl
@[simp] theorem setTag_mem (s : State) (l : Loc) (f : Bool) : (s.setTag l f).mem = s.mem := by
  unfold State.setTag; split <;> rfl

/-! ## Stores that have left their thread -/

theorem land_mem_wf {s : State} (x : Counted) (h : Memory.wf s.mem = true) : Memory.wf (s.land x).mem = true := by
  unfold State.land
  rw [unpoison_mem]
  exact wf_storeBytes _ _ h

/-- Performing a store changes no byte outside its own. -/
theorem byteAt_land_of_out {s : State} {x : Counted} {k : Nat} (h : k < x.loc.key ∨ x.loc.key + x.data.length ≤ k) :
    byteAt (s.land x).mem k = byteAt s.mem k := by
  unfold State.land
  rw [unpoison_mem]
  exact byteAt_storeBytes_of_out h

theorem foldl_land_mem_wf (l : List Counted) {s : State} (h : Memory.wf s.mem = true) :
    Memory.wf (l.foldl (fun s x => s.land x) s).mem = true := by
  induction l generalizing s with
  | nil => exact h
  | cons x r ih => exact ih (land_mem_wf x h)

theorem landAll_mem_wf {s : State} (p : Counted → Bool) (h : Memory.wf s.mem = true) : Memory.wf (s.landAll p).mem = true :=
  foldl_land_mem_wf _ h

theorem landMarked_mem_wf {s : State} (ok must : Counted → Bool) (ms : List (Counted × Bool)) (h : Memory.wf s.mem = true) :
    Memory.wf (s.landMarked ok must ms).mem = true := by
  suffices H : ∀ (ms : List (Counted × Bool)) (acc : State × List Counted), Memory.wf acc.1.mem = true →
      Memory.wf ((ms.foldl (fun (acc : State × List Counted) m =>
        if m.2 && (must m.1 || (ok m.1 && !acc.2.any m.1.follows)) then (acc.1.land m.1, acc.2) else (acc.1, acc.2 ++ [m.1])) acc).1).mem = true from
    H ms (s, []) h
  intro ms
  induction ms with
  | nil => exact fun _ h => h
  | cons m r ih =>
    intro acc h
    refine ih _ ?_
    dsimp only
    split
    · exact land_mem_wf _ h
    · exact h

/-- Nothing is performed where no store is outstanding. -/
theorem landOwn_nil {s : State} (n : Nat) (h : s.culvert = []) : s.landOwn n = s := by
  unfold State.landOwn; rw [if_pos h]

end Sys2Proof.Machine
end

