-- ==== Sys2Proof/Laws/Ops.lean ====
section
/-! SUPPORT. What the shared operations can do, each said once: registers and images, retirement, the frame of a meaning, and
taking a trap. -/
set_option Elab.async false
namespace Sys2Proof.Machine
open Sys2Proof

/-! ## Images and registers -/

@[simp] theorem imageKey_setImage (s : State) (k : Nat) (x : Image) (n : Nat) : (s.setImage k x).imageKey n = s.imageKey n := rfl
@[simp] theorem imageKey_setImg (s : State) (m : Nat) (x : Image) (n : Nat) : (s.setImg m x).imageKey n = s.imageKey n := rfl
@[simp] theorem img_setImg (s : State) (n : Nat) (x : Image) : (s.setImg n x).img n = x := look_put_same ..
@[simp] theorem slotAt_setImg (s : State) (m : Nat) (x : Image) (n : Nat) : (s.setImg m x).slotAt n = s.slotAt n := rfl
theorem imageAt_setImg_of_ne (s : State) (n : Nat) (x : Image) {k : Nat} (h : k ≠ s.imageKey n) :
    (s.setImg n x).imageAt k = s.imageAt k := look_put_of_ne _ _ _ h
theorem imageKey_setSlot_of_ne (s : State) {m n : Nat} (x : Slot) (h : n ≠ m) : (s.setSlot m x).imageKey n = s.imageKey n := by
  unfold State.imageKey; rw [State.slotAt_setSlot_of_ne _ _ h]
theorem imageKey_setSlot_same (s : State) (n : Nat) (x : Slot) (h : x.sel = (s.slotAt n).sel) :
    (s.setSlot n x).imageKey n = s.imageKey n := by
  unfold State.imageKey; rw [State.slotAt_setSlot, h]
theorem img_setSlot_same (s : State) (n : Nat) (x : Slot) (h : x.sel = (s.slotAt n).sel) :
    (s.setSlot n x).img n = s.img n := by
  unfold State.img; rw [imageKey_setSlot_same _ _ _ h]; rfl

@[simp] theorem gOf_zero (s : State) (n : Nat) : s.gOf n 0 = 0 := rfl
theorem gOf_setGOf_same (s : State) (n : Nat) (r : Reg) (x : Word) (h : r ≠ 0) : (s.setGOf n r x).gOf n r = x := by
  simp [State.setGOf, State.gOf, h]
theorem setGOf_zero (s : State) (n : Nat) (x : Word) : s.setGOf n 0 x = s := rfl
theorem setGOf_eq (s : State) (n : Nat) (r : Reg) (x : Word) (h : r ≠ 0) :
    s.setGOf n r x = s.setImg n ((s.img n).withG r x) := by
  simp [State.setGOf, Image.withG, h]
@[simp] theorem img_setGOf (s : State) (n : Nat) (r : Reg) (x : Word) : (s.setGOf n r x).img n = (s.img n).withG r x := by
  unfold State.setGOf Image.withG
  split
  · rfl
  · rw [img_setImg]

theorem withG_g_of_ne (im : Image) {r q : Reg} (x : Word) (h : q ≠ r) : (im.withG r x).g[q] = im.g[q] := by
  unfold Image.withG
  split
  · rfl
  · exact Vector.getElem_set_ne r.isLt q.isLt fun e => h (Fin.ext e.symm)
theorem gOf_setGOf_of_ne (s : State) (n : Nat) {r q : Reg} (x : Word) (h : q ≠ r) : (s.setGOf n r x).gOf n q = s.gOf n q := by
  unfold State.gOf
  split
  · rfl
  · simp only [img_setGOf]
    exact withG_g_of_ne _ _ h

/-! ## What touches one slot only -/

theorem OnlySlot.refl (n : Nat) (s : State) : OnlySlot n s s := ⟨rfl, fun _ _ => rfl, fun _ _ => rfl, rfl⟩

theorem OnlySlot.key {n : Nat} {s t : State} (h : OnlySlot n s t) : t.imageKey n = s.imageKey n := by
  unfold State.imageKey; rw [h.2.2.2]

theorem OnlySlot.trans {n : Nat} {s t u : State} (h : OnlySlot n s t) (k : OnlySlot n t u) : OnlySlot n s u := by
  refine ⟨?_, fun i hi => ?_, fun m hm => ?_, ?_⟩
  · rw [k.1, h.1]
  · rw [k.2.1 i (by rwa [h.key]), h.2.1 i hi]
  · rw [k.2.2.1 m hm, h.2.2.1 m hm]
  · rw [k.2.2.2, h.2.2.2]

theorem onlySlot_setImg (s : State) (n : Nat) (x : Image) : OnlySlot n s (s.setImg n x) :=
  ⟨rfl, fun _ h => imageAt_setImg_of_ne _ _ _ h, fun _ _ => rfl, rfl⟩

theorem onlySlot_setSlot (s : State) (n : Nat) (x : Slot) (h : x.sel = (s.slotAt n).sel) : OnlySlot n s (s.setSlot n x) :=
  ⟨rfl, fun _ _ => rfl, fun _ hm => State.slotAt_setSlot_of_ne _ _ hm, by rw [State.slotAt_setSlot, h]⟩

theorem onlySlot_setGOf (s : State) (n : Nat) (r : Reg) (x : Word) : OnlySlot n s (s.setGOf n r x) := by
  unfold State.setGOf
  split
  · exact OnlySlot.refl n s
  · exact onlySlot_setImg ..

theorem onlySlot_awake (s : State) (n : Nat) : OnlySlot n s (s.awake n) := onlySlot_setSlot _ _ _ rfl

@[simp] theorem slotAt_awake (s : State) (n : Nat) :
    (s.awake n).slotAt n = { s.slotAt n with turnFrom := max (s.slotAt n).turnFrom (s.now n + 1) } := State.slotAt_setSlot ..

/-! ## Retirement -/

theorem img_tickRetired (s : State) (n : Nat) : (s.tickRetired n).img n = (s.img n).countTick := by
  unfold State.tickRetired
  simp only
  split
  · rw [img_setSlot_same, img_setImg]
    rfl
  · rw [img_setImg]

theorem slotAt_tickRetired (s : State) (n : Nat) :
    (s.tickRetired n).slotAt n = { s.slotAt n with tickDue := (s.slotAt n).tickDue || (s.img n).tickHits } := by
  unfold State.tickRetired
  simp only
  split
  · next h => rw [State.slotAt_setSlot, h]; simp
  · next h =>
    have : (s.img n).tickHits = false := by simpa using h
    rw [this]; simp

theorem onlySlot_tickRetired (s : State) (n : Nat) : OnlySlot n s (s.tickRetired n) := by
  unfold State.tickRetired
  simp only
  split
  · exact (onlySlot_setImg s n _).trans (onlySlot_setSlot _ _ _ rfl)
  · exact onlySlot_setImg s n _

/-- What a retirement leaves, and that it touches no more. -/
theorem moves_tickRetired (s : State) (n : Nat) : Moves n (s.img n) s (s.tickRetired n) :=
  ⟨onlySlot_tickRetired .., img_tickRetired .., slotAt_tickRetired ..⟩

/-- From a state that slot n's instruction has brought to `u`, touching only that slot's image. -/
theorem Moves.after {n : Nat} {im : Image} {s u t : State} (ho : OnlySlot n s u) (hs : u.slotAt n = s.slotAt n)
    (h : Moves n im u t) : Moves n im s t := ⟨ho.trans h.1, h.2.1, by rw [h.2.2, hs]⟩

theorem settle_eq (s : State) (n : Nat) (next : Word) : s.settle n next = s.setImg n ((s.img n).atNext next) := rfl

theorem retiresTo_retireTo (s : State) (n : Nat) (next : Word) : RetiresTo n next (s.img n) s (s.retireTo n next) := by
  have h := moves_tickRetired (s.settle n next) n
  rw [settle_eq, img_setImg] at h
  exact h.after (onlySlot_setImg ..) rfl

/-- A retirement after an instruction has left slot n's image as `im`: what it leaves, and that it touches no more. -/
theorem retires_of {n len : Nat} {im : Image} {s u : State} (ho : OnlySlot n s u) (hs : u.slotAt n = s.slotAt n)
    (hi : u.img n = im) : Retires n len im s (u.retireOf n len) := by
  subst hi
  exact (retiresTo_retireTo u n _).after ho hs

/-- Writing a register of slot n and retiring. -/
theorem retires_setGOf (s : State) (n len : Nat) (r : Reg) (x : Word) :
    Retires n len ((s.img n).withG r x) s ((s.setGOf n r x).retireOf n len) := by
  refine retires_of (onlySlot_setGOf ..) ?_ (img_setGOf ..)
  unfold State.setGOf
  split <;> rfl

/-- Retiring alone. -/
theorem retires_retireOf (s : State) (n len : Nat) : Retires n len (s.img n) s (s.retireOf n len) :=
  retires_of (OnlySlot.refl n s) rfl rfl

theorem img_progress (s : State) (n : Nat) : (s.progress n).img n = { s.img n with wdCount := 0 } := by
  unfold State.progress
  simp only
  rw [img_setSlot_same, img_setImg]
  rfl

theorem slotAt_progress (s : State) (n : Nat) : (s.progress n).slotAt n = { s.slotAt n with wdDue := false } := by
  unfold State.progress
  simp only
  rw [State.slotAt_setSlot, slotAt_setImg]

theorem onlySlot_progress (s : State) (n : Nat) : OnlySlot n s (s.progress n) :=
  (onlySlot_setImg s n _).trans (onlySlot_setSlot _ _ _ rfl)

/-- Ending a wait and retiring (04 R81). -/
theorem completes_complete (s : State) (n len : Nat) : Completes n len (s.img n) s (s.complete n len) := by
  have e : s.complete n len = ((s.setSlot n { s.slotAt n with wait := none }).progress n).retireOf n len := rfl
  have hi : ((s.setSlot n { s.slotAt n with wait := none }).progress n).img n = { s.img n with wdCount := 0 } := by
    rw [img_progress, img_setSlot_same]
    rfl
  have ho : OnlySlot n s ((s.setSlot n { s.slotAt n with wait := none }).progress n) :=
    (onlySlot_setSlot s n { s.slotAt n with wait := none } rfl).trans (onlySlot_progress _ _)
  obtain ⟨h1, h2, h3⟩ := retires_of (len := len) (OnlySlot.refl n _) rfl hi
  refine ⟨ho.trans (e ▸ h1), e ▸ h2, ?_⟩
  rw [e, h3, slotAt_progress, State.slotAt_setSlot]
  rfl

/-- Ending an instruction, whether the slot had waited for it or not. -/
theorem ends_finish (s : State) (len : Nat) : Ends s.cur len (s.img s.cur) s (s.finish len) := by
  unfold Ends State.finish
  split
  · exact completes_complete ..
  · exact retires_retireOf ..

/-! ## The frame of a meaning -/

theorem issue_ok {i : Instr} {s : State} {body : State → State} (h : s.issueFault i = none) :
    issue i s body = .next (body s) := by unfold issue; rw [h]

theorem issue_fault {i : Instr} {s : State} {body : State → State} {c sub : Nat} {v : Word}
    (h : s.issueFault i = some (c, sub, v)) : issue i s body = .next (s.trap c sub v) := by unfold issue; rw [h]

/-- A meaning in the frame always answers a next state. -/
theorem issue_next (i : Instr) (s : State) (body : State → State) : ∃ t, issue i s body = .next t := by
  unfold issue
  split
  · exact ⟨_, rfl⟩
  · exact ⟨_, rfl⟩

theorem writes_gives {i : Instr} {s : State} {len : Nat} {d : Reg} {x : State → Word} (h : s.issueFault i = none) :
    ∃ t, writes i len s d x = .next t ∧ Retires s.cur len ((s.img s.cur).withG d (x s)) s t := by
  refine ⟨_, issue_ok h, ?_⟩
  have hc : (s.setG d (x s)).cur = s.cur := State.setG_cur ..
  unfold State.retire
  rw [hc]
  exact retires_setGOf ..

/-! ## Traps -/

theorem traps_takeTrap (s : State) (n cause sub : Nat) (v : Word) : Traps n cause sub v s (s.takeTrap n cause sub v false) := by
  have hi : (s.setSlot n { s.slotAt n with wait := none }).img n = s.img n := img_setSlot_same _ _ _ rfl
  have hr : (s.setSlot n { s.slotAt n with wait := none }).toReeve n cause = s.toReeve n cause := by
    unfold State.toReeve; rw [hi]
  have ho : OnlySlot n s (s.setSlot n { s.slotAt n with wait := none }) := onlySlot_setSlot _ _ _ rfl
  unfold Traps State.takeTrap
  simp only [hr]
  split
  · refine ⟨ho.trans (onlySlot_setSlot _ _ _ rfl), ?_, ?_⟩
    · rw [img_setSlot_same, hi]
      rw [State.slotAt_setSlot]
    · rw [State.slotAt_setSlot, State.slotAt_setSlot]; simp only [State.pcOf, hi]
  · refine ⟨ho.trans (onlySlot_setImg _ _ _), ?_, ?_⟩
    · rw [img_setImg, hi]; simp only [State.pcOf, hi]
    · rw [slotAt_setImg, State.slotAt_setSlot]

theorem traps_trap (s : State) (cause sub : Nat) (v : Word) : Traps s.cur cause sub v s (s.trap cause sub v) :=
  traps_takeTrap ..

/-! ## Words of a matrix instruction that are written ahead -/

theorem putLeft_mem_wf (ws : List (Nat × List Byte)) {s : State} (h : Memory.wf s.mem = true) :
    Memory.wf (s.putLeft ws).mem = true := by
  induction ws generalizing s with
  | nil => exact h
  | cons w r ih =>
    refine ih ?_
    rw [heal_mem]
    exact wf_storeBytes _ _ h

/-- A write of left words changes no byte outside them. -/
theorem byteAt_putLeft_of_out (ws : List (Nat × List Byte)) {s : State} {k : Nat}
    (h : ∀ w ∈ ws, k < w.1 ∨ w.1 + w.2.length ≤ k) : byteAt (s.putLeft ws).mem k = byteAt s.mem k := by
  induction ws generalizing s with
  | nil => rfl
  | cons w r ih =>
    refine (ih fun x hx => h x (List.mem_cons_of_mem _ hx)).trans ?_
    rw [heal_mem]
    exact byteAt_storeBytes_of_out (h w (List.mem_cons_self ..))

/-- A start of an instruction whose words are left writes no memory. -/
@[simp] theorem startLeft_mem (s : State) (t : Nat) : (s.startLeft t).mem = s.mem := by
  have go : ∀ (ms : List Nat) (f : State → Nat → MatrixUnit) (z : State),
      (ms.foldl (fun s m => s.setUnit m (f s m)) z).mem = z.mem := by
    intro ms f
    induction ms with
    | nil => exact fun _ => rfl
    | cons m r ih => exact fun z => (ih _).trans rfl
  unfold State.startLeft
  split
  · rfl
  · dsimp only
    split
    · split
      · rfl
      · exact go _ _ s
    · rfl

theorem matrixWord_mem_wf {s : State} (t i : Nat) (h : Memory.wf s.mem = true) : Memory.wf (s.matrixWord t i).mem = true := by
  have h' : Memory.wf (s.startLeft t).mem = true := by rw [startLeft_mem]; exact h
  unfold State.matrixWord
  dsimp only
  split
  · exact h'
  · exact putLeft_mem_wf _ h'

end Sys2Proof.Machine
end

