-- ==== Sys2Proof/Laws/PerInstr.lean ====
section
/-! SUPPORT. The round trip for each constructor: a well-formed instruction is what the decoder reads from its words. -/
set_option Elab.async false
set_option linter.unusedTactic false
set_option linter.unreachableTactic false
set_option linter.unnecessarySeqFocus false
set_option linter.unusedSimpArgs false
namespace Sys2Proof.Laws.RoundTrip
open Sys2Proof

/-- What its words decode to is the instruction, with every operand at every value that its encoding admits (03 R37 to
R63). -/
def Statement (i : Instr) : Prop := i.wf = true → decode (encodeNat i) = .ok i

theorem add (w : Width) (d : Reg) (a : Reg) (b : Reg) : Statement (.add w d a b) := by
  intro h
  have f0 := width_lt w
  refine trip_R (by decide) rfl ?_ ?_ ?_ h
  · simp only [FieldsR.fits]; omega
  · simp [readR] <;> repeat' first | apply And.intro | apply fn4_mod | apply fn16_mod | apply bt_mod | apply fn8_mod | apply fn64_mod | apply ofNat_eq | apply scope_eq | apply bfmt_eq | apply redOp_eq | apply vr_mod | apply kr_mod | omega
  · simp [readR] <;> omega
theorem addi (w : Width) (d : Reg) (a : Reg) (imm : BitVec 32) : Statement (.addi w d a imm) := by
  intro h
  have f0 := width_lt w
  refine trip_I (by decide) rfl ?_ ?_ ?_ h
  · simp only [FieldsI.fits]; omega
  · simp [readI] <;> repeat' first | apply And.intro | apply fn4_mod | apply fn16_mod | apply bt_mod | apply fn8_mod | apply fn64_mod | apply ofNat_eq | apply scope_eq | apply bfmt_eq | apply redOp_eq | apply vr_mod | apply kr_mod | omega
  · simp [readI] <;> omega
theorem sub (w : Width) (d : Reg) (a : Reg) (b : Reg) : Statement (.sub w d a b) := by
  intro h
  have f0 := width_lt w
  refine trip_R (by decide) rfl ?_ ?_ ?_ h
  · simp only [FieldsR.fits]; omega
  · simp [readR] <;> repeat' first | apply And.intro | apply fn4_mod | apply fn16_mod | apply bt_mod | apply fn8_mod | apply fn64_mod | apply ofNat_eq | apply scope_eq | apply bfmt_eq | apply redOp_eq | apply vr_mod | apply kr_mod | omega
  · simp [readR] <;> omega
theorem mul (w : Width) (f : MulForm) (d : Reg) (a : Reg) (b : Reg) : Statement (.mul w f d a b) := by
  intro h
  have f0 := width_lt w
  have f1 := mulForm_lt f
  refine trip_R (by decide) rfl ?_ ?_ ?_ h
  · simp only [FieldsR.fits]; omega
  · simp [readR] <;> repeat' first | apply And.intro | apply fn4_mod | apply fn16_mod | apply bt_mod | apply fn8_mod | apply fn64_mod | apply ofNat_eq | apply scope_eq | apply bfmt_eq | apply redOp_eq | apply vr_mod | apply kr_mod | omega
  · simp [readR] <;> omega
theorem div (w : Width) (sg : Bool) (d : Reg) (a : Reg) (b : Reg) : Statement (.div w sg d a b) := by
  intro h
  have f0 := width_lt w
  have f1 := bool_lt sg
  refine trip_R (by decide) rfl ?_ ?_ ?_ h
  · simp only [FieldsR.fits]; omega
  · simp [readR] <;> repeat' first | apply And.intro | apply fn4_mod | apply fn16_mod | apply bt_mod | apply fn8_mod | apply fn64_mod | apply ofNat_eq | apply scope_eq | apply bfmt_eq | apply redOp_eq | apply vr_mod | apply kr_mod | omega
  · simp [readR] <;> omega
theorem rem (w : Width) (sg : Bool) (d : Reg) (a : Reg) (b : Reg) : Statement (.rem w sg d a b) := by
  intro h
  have f0 := width_lt w
  have f1 := bool_lt sg
  refine trip_R (by decide) rfl ?_ ?_ ?_ h
  · simp only [FieldsR.fits]; omega
  · simp [readR] <;> repeat' first | apply And.intro | apply fn4_mod | apply fn16_mod | apply bt_mod | apply fn8_mod | apply fn64_mod | apply ofNat_eq | apply scope_eq | apply bfmt_eq | apply redOp_eq | apply vr_mod | apply kr_mod | omega
  · simp [readR] <;> omega
theorem and (w : Width) (d : Reg) (a : Reg) (b : Reg) : Statement (.and w d a b) := by
  intro h
  have f0 := width_lt w
  refine trip_R (by decide) rfl ?_ ?_ ?_ h
  · simp only [FieldsR.fits]; omega
  · simp [readR] <;> repeat' first | apply And.intro | apply fn4_mod | apply fn16_mod | apply bt_mod | apply fn8_mod | apply fn64_mod | apply ofNat_eq | apply scope_eq | apply bfmt_eq | apply redOp_eq | apply vr_mod | apply kr_mod | omega
  · simp [readR] <;> omega
theorem andi (w : Width) (d : Reg) (a : Reg) (imm : BitVec 32) : Statement (.andi w d a imm) := by
  intro h
  have f0 := width_lt w
  refine trip_I (by decide) rfl ?_ ?_ ?_ h
  · simp only [FieldsI.fits]; omega
  · simp [readI] <;> repeat' first | apply And.intro | apply fn4_mod | apply fn16_mod | apply bt_mod | apply fn8_mod | apply fn64_mod | apply ofNat_eq | apply scope_eq | apply bfmt_eq | apply redOp_eq | apply vr_mod | apply kr_mod | omega
  · simp [readI] <;> omega
theorem or (w : Width) (d : Reg) (a : Reg) (b : Reg) : Statement (.or w d a b) := by
  intro h
  have f0 := width_lt w
  refine trip_R (by decide) rfl ?_ ?_ ?_ h
  · simp only [FieldsR.fits]; omega
  · simp [readR] <;> repeat' first | apply And.intro | apply fn4_mod | apply fn16_mod | apply bt_mod | apply fn8_mod | apply fn64_mod | apply ofNat_eq | apply scope_eq | apply bfmt_eq | apply redOp_eq | apply vr_mod | apply kr_mod | omega
  · simp [readR] <;> omega
theorem ori (w : Width) (d : Reg) (a : Reg) (imm : BitVec 32) : Statement (.ori w d a imm) := by
  intro h
  have f0 := width_lt w
  refine trip_I (by decide) rfl ?_ ?_ ?_ h
  · simp only [FieldsI.fits]; omega
  · simp [readI] <;> repeat' first | apply And.intro | apply fn4_mod | apply fn16_mod | apply bt_mod | apply fn8_mod | apply fn64_mod | apply ofNat_eq | apply scope_eq | apply bfmt_eq | apply redOp_eq | apply vr_mod | apply kr_mod | omega
  · simp [readI] <;> omega
theorem xor (w : Width) (d : Reg) (a : Reg) (b : Reg) : Statement (.xor w d a b) := by
  intro h
  have f0 := width_lt w
  refine trip_R (by decide) rfl ?_ ?_ ?_ h
  · simp only [FieldsR.fits]; omega
  · simp [readR] <;> repeat' first | apply And.intro | apply fn4_mod | apply fn16_mod | apply bt_mod | apply fn8_mod | apply fn64_mod | apply ofNat_eq | apply scope_eq | apply bfmt_eq | apply redOp_eq | apply vr_mod | apply kr_mod | omega
  · simp [readR] <;> omega
theorem xori (w : Width) (d : Reg) (a : Reg) (imm : BitVec 32) : Statement (.xori w d a imm) := by
  intro h
  have f0 := width_lt w
  refine trip_I (by decide) rfl ?_ ?_ ?_ h
  · simp only [FieldsI.fits]; omega
  · simp [readI] <;> repeat' first | apply And.intro | apply fn4_mod | apply fn16_mod | apply bt_mod | apply fn8_mod | apply fn64_mod | apply ofNat_eq | apply scope_eq | apply bfmt_eq | apply redOp_eq | apply vr_mod | apply kr_mod | omega
  · simp [readI] <;> omega
theorem andn (w : Width) (d : Reg) (a : Reg) (b : Reg) : Statement (.andn w d a b) := by
  intro h
  have f0 := width_lt w
  refine trip_R (by decide) rfl ?_ ?_ ?_ h
  · simp only [FieldsR.fits]; omega
  · simp [readR] <;> repeat' first | apply And.intro | apply fn4_mod | apply fn16_mod | apply bt_mod | apply fn8_mod | apply fn64_mod | apply ofNat_eq | apply scope_eq | apply bfmt_eq | apply redOp_eq | apply vr_mod | apply kr_mod | omega
  · simp [readR] <;> omega
theorem shl (w : Width) (d : Reg) (a : Reg) (b : Reg) : Statement (.shl w d a b) := by
  intro h
  have f0 := width_lt w
  refine trip_R (by decide) rfl ?_ ?_ ?_ h
  · simp only [FieldsR.fits]; omega
  · simp [readR] <;> repeat' first | apply And.intro | apply fn4_mod | apply fn16_mod | apply bt_mod | apply fn8_mod | apply fn64_mod | apply ofNat_eq | apply scope_eq | apply bfmt_eq | apply redOp_eq | apply vr_mod | apply kr_mod | omega
  · simp [readR] <;> omega
theorem shli (w : Width) (d : Reg) (a : Reg) (n : Fin 64) : Statement (.shli w d a n) := by
  intro h
  have f0 := width_lt w
  refine trip_I (by decide) rfl ?_ ?_ ?_ h
  · simp only [FieldsI.fits]; omega
  · simp [readI] <;> repeat' first | apply And.intro | apply fn4_mod | apply fn16_mod | apply bt_mod | apply fn8_mod | apply fn64_mod | apply ofNat_eq | apply scope_eq | apply bfmt_eq | apply redOp_eq | apply vr_mod | apply kr_mod | omega
  · simp [readI] <;> omega
theorem shr (w : Width) (sg : Bool) (d : Reg) (a : Reg) (b : Reg) : Statement (.shr w sg d a b) := by
  intro h
  have f0 := width_lt w
  have f1 := bool_lt sg
  refine trip_R (by decide) rfl ?_ ?_ ?_ h
  · simp only [FieldsR.fits]; omega
  · simp [readR] <;> repeat' first | apply And.intro | apply fn4_mod | apply fn16_mod | apply bt_mod | apply fn8_mod | apply fn64_mod | apply ofNat_eq | apply scope_eq | apply bfmt_eq | apply redOp_eq | apply vr_mod | apply kr_mod | omega
  · simp [readR] <;> omega
theorem shri (w : Width) (sg : Bool) (d : Reg) (a : Reg) (n : Fin 64) : Statement (.shri w sg d a n) := by
  intro h
  have f0 := width_lt w
  have f1 := bool_lt sg
  refine trip_I (by decide) rfl ?_ ?_ ?_ h
  · simp only [FieldsI.fits]; omega
  · simp [readI] <;> repeat' first | apply And.intro | apply fn4_mod | apply fn16_mod | apply bt_mod | apply fn8_mod | apply fn64_mod | apply ofNat_eq | apply scope_eq | apply bfmt_eq | apply redOp_eq | apply vr_mod | apply kr_mod | omega
  · simp [readI] <;> omega
theorem rot (w : Width) (right : Bool) (d : Reg) (a : Reg) (b : Reg) : Statement (.rot w right d a b) := by
  intro h
  have f0 := width_lt w
  have f1 := bool_lt right
  refine trip_R (by decide) rfl ?_ ?_ ?_ h
  · simp only [FieldsR.fits]; omega
  · simp [readR] <;> repeat' first | apply And.intro | apply fn4_mod | apply fn16_mod | apply bt_mod | apply fn8_mod | apply fn64_mod | apply ofNat_eq | apply scope_eq | apply bfmt_eq | apply redOp_eq | apply vr_mod | apply kr_mod | omega
  · simp [readR] <;> omega
theorem clz (w : Width) (d : Reg) (a : Reg) : Statement (.clz w d a) := by
  intro h
  have f0 := width_lt w
  refine trip_R (by decide) rfl ?_ ?_ ?_ h
  · simp only [FieldsR.fits]; omega
  · simp [readR] <;> repeat' first | apply And.intro | apply fn4_mod | apply fn16_mod | apply bt_mod | apply fn8_mod | apply fn64_mod | apply ofNat_eq | apply scope_eq | apply bfmt_eq | apply redOp_eq | apply vr_mod | apply kr_mod | omega
  · simp [readR] <;> omega
theorem ctz (w : Width) (d : Reg) (a : Reg) : Statement (.ctz w d a) := by
  intro h
  have f0 := width_lt w
  refine trip_R (by decide) rfl ?_ ?_ ?_ h
  · simp only [FieldsR.fits]; omega
  · simp [readR] <;> repeat' first | apply And.intro | apply fn4_mod | apply fn16_mod | apply bt_mod | apply fn8_mod | apply fn64_mod | apply ofNat_eq | apply scope_eq | apply bfmt_eq | apply redOp_eq | apply vr_mod | apply kr_mod | omega
  · simp [readR] <;> omega
theorem popc (w : Width) (d : Reg) (a : Reg) : Statement (.popc w d a) := by
  intro h
  have f0 := width_lt w
  refine trip_R (by decide) rfl ?_ ?_ ?_ h
  · simp only [FieldsR.fits]; omega
  · simp [readR] <;> repeat' first | apply And.intro | apply fn4_mod | apply fn16_mod | apply bt_mod | apply fn8_mod | apply fn64_mod | apply ofNat_eq | apply scope_eq | apply bfmt_eq | apply redOp_eq | apply vr_mod | apply kr_mod | omega
  · simp [readR] <;> omega
theorem min (w : Width) (sg : Bool) (d : Reg) (a : Reg) (b : Reg) : Statement (.min w sg d a b) := by
  intro h
  have f0 := width_lt w
  have f1 := bool_lt sg
  refine trip_R (by decide) rfl ?_ ?_ ?_ h
  · simp only [FieldsR.fits]; omega
  · simp [readR] <;> repeat' first | apply And.intro | apply fn4_mod | apply fn16_mod | apply bt_mod | apply fn8_mod | apply fn64_mod | apply ofNat_eq | apply scope_eq | apply bfmt_eq | apply redOp_eq | apply vr_mod | apply kr_mod | omega
  · simp [readR] <;> omega
theorem max (w : Width) (sg : Bool) (d : Reg) (a : Reg) (b : Reg) : Statement (.max w sg d a b) := by
  intro h
  have f0 := width_lt w
  have f1 := bool_lt sg
  refine trip_R (by decide) rfl ?_ ?_ ?_ h
  · simp only [FieldsR.fits]; omega
  · simp [readR] <;> repeat' first | apply And.intro | apply fn4_mod | apply fn16_mod | apply bt_mod | apply fn8_mod | apply fn64_mod | apply ofNat_eq | apply scope_eq | apply bfmt_eq | apply redOp_eq | apply vr_mod | apply kr_mod | omega
  · simp [readR] <;> omega
theorem cmp (w : Width) (c : Cond) (d : Reg) (a : Reg) (b : Reg) : Statement (.cmp w c d a b) := by
  intro h
  have f0 := width_lt w
  have f1 := cond_lt c
  refine trip_R (by decide) rfl ?_ ?_ ?_ h
  · simp only [FieldsR.fits]; omega
  · simp [readR] <;> repeat' first | apply And.intro | apply fn4_mod | apply fn16_mod | apply bt_mod | apply fn8_mod | apply fn64_mod | apply ofNat_eq | apply scope_eq | apply bfmt_eq | apply redOp_eq | apply vr_mod | apply kr_mod | omega
  · simp [readR] <;> omega
theorem cmpi (w : Width) (c : Cond) (d : Reg) (a : Reg) (imm : BitVec 32) : Statement (.cmpi w c d a imm) := by
  intro h
  have f0 := width_lt w
  have f1 := cond_lt c
  refine trip_I (by decide) rfl ?_ ?_ ?_ h
  · simp only [FieldsI.fits]; omega
  · simp [readI] <;> repeat' first | apply And.intro | apply fn4_mod | apply fn16_mod | apply bt_mod | apply fn8_mod | apply fn64_mod | apply ofNat_eq | apply scope_eq | apply bfmt_eq | apply redOp_eq | apply vr_mod | apply kr_mod | omega
  · simp [readI] <;> omega
theorem sel (w : Width) (d : Reg) (a : Reg) (b : Reg) (c : Reg) : Statement (.sel w d a b c) := by
  intro h
  have f0 := width_lt w
  refine trip_R (by decide) rfl ?_ ?_ ?_ h
  · simp only [FieldsR.fits]; omega
  · simp [readR] <;> repeat' first | apply And.intro | apply fn4_mod | apply fn16_mod | apply bt_mod | apply fn8_mod | apply fn64_mod | apply ofNat_eq | apply scope_eq | apply bfmt_eq | apply redOp_eq | apply vr_mod | apply kr_mod | omega
  · simp [readR] <;> omega
theorem ext (sg : Bool) (d : Reg) (a : Reg) (pos : Fin 64) (len : Fin 65) : Statement (.ext sg d a pos len) := by
  intro h
  have f0 := bool_lt sg
  refine trip_I (by decide) rfl ?_ ?_ ?_ h
  · simp only [FieldsI.fits]; omega
  · simp [readI] <;> repeat' first | apply And.intro | apply fn4_mod | apply fn16_mod | apply bt_mod | apply fn8_mod | apply fn64_mod | apply ofNat_eq | apply scope_eq | apply bfmt_eq | apply redOp_eq | apply vr_mod | apply kr_mod | omega
  · simp [readI] <;> omega
theorem ins (d : Reg) (a : Reg) (pos : Fin 64) (len : Fin 65) : Statement (.ins d a pos len) := by
  intro h
  refine trip_I (by decide) rfl ?_ ?_ ?_ h
  · simp only [FieldsI.fits]; omega
  · simp [readI] <;> repeat' first | apply And.intro | apply fn4_mod | apply fn16_mod | apply bt_mod | apply fn8_mod | apply fn64_mod | apply ofNat_eq | apply scope_eq | apply bfmt_eq | apply redOp_eq | apply vr_mod | apply kr_mod | omega
  · simp [readI] <;> omega
theorem bswap (w : Width) (d : Reg) (a : Reg) : Statement (.bswap w d a) := by
  intro h
  have f0 := width_lt w
  refine trip_R (by decide) rfl ?_ ?_ ?_ h
  · simp only [FieldsR.fits]; omega
  · simp [readR] <;> repeat' first | apply And.intro | apply fn4_mod | apply fn16_mod | apply bt_mod | apply fn8_mod | apply fn64_mod | apply ofNat_eq | apply scope_eq | apply bfmt_eq | apply redOp_eq | apply vr_mod | apply kr_mod | omega
  · simp [readR] <;> omega
theorem adds (w : Width) (sg : Bool) (d : Reg) (a : Reg) (b : Reg) : Statement (.adds w sg d a b) := by
  intro h
  have f0 := width_lt w
  have f1 := bool_lt sg
  refine trip_R (by decide) rfl ?_ ?_ ?_ h
  · simp only [FieldsR.fits]; omega
  · simp [readR] <;> repeat' first | apply And.intro | apply fn4_mod | apply fn16_mod | apply bt_mod | apply fn8_mod | apply fn64_mod | apply ofNat_eq | apply scope_eq | apply bfmt_eq | apply redOp_eq | apply vr_mod | apply kr_mod | omega
  · simp [readR] <;> omega
theorem subs (w : Width) (sg : Bool) (d : Reg) (a : Reg) (b : Reg) : Statement (.subs w sg d a b) := by
  intro h
  have f0 := width_lt w
  have f1 := bool_lt sg
  refine trip_R (by decide) rfl ?_ ?_ ?_ h
  · simp only [FieldsR.fits]; omega
  · simp [readR] <;> repeat' first | apply And.intro | apply fn4_mod | apply fn16_mod | apply bt_mod | apply fn8_mod | apply fn64_mod | apply ofNat_eq | apply scope_eq | apply bfmt_eq | apply redOp_eq | apply vr_mod | apply kr_mod | omega
  · simp [readR] <;> omega
theorem madd (w : Width) (d : Reg) (a : Reg) (b : Reg) (c : Reg) : Statement (.madd w d a b c) := by
  intro h
  have f0 := width_lt w
  refine trip_R (by decide) rfl ?_ ?_ ?_ h
  · simp only [FieldsR.fits]; omega
  · simp [readR] <;> repeat' first | apply And.intro | apply fn4_mod | apply fn16_mod | apply bt_mod | apply fn8_mod | apply fn64_mod | apply ofNat_eq | apply scope_eq | apply bfmt_eq | apply redOp_eq | apply vr_mod | apply kr_mod | omega
  · simp [readR] <;> omega
theorem li (d : Reg) (imm : BitVec 64) : Statement (.li d imm) := by
  intro h
  refine trip_X (by decide) rfl ?_ ?_ ?_ h
  · simp only [FieldsX.fits]; omega
  · simp [readX] <;> repeat' first | apply And.intro | apply fn4_mod | apply fn16_mod | apply bt_mod | apply fn8_mod | apply fn64_mod | apply ofNat_eq | apply scope_eq | apply bfmt_eq | apply redOp_eq | apply vr_mod | apply kr_mod | omega
  · simp [readX] <;> omega
theorem lea (d : Reg) (m : Addr) : Statement (.lea d m) := by
  intro h
  refine trip_M (by decide) rfl ?_ ?_ ?_ h
  · simp only [FieldsM.fits]; omega
  · simp [readM, adr] <;> repeat' first | apply And.intro | apply fn4_mod | apply fn16_mod | apply bt_mod | apply fn8_mod | apply fn64_mod | apply ofNat_eq | apply scope_eq | apply bfmt_eq | apply redOp_eq | apply vr_mod | apply kr_mod | omega
  · simp [readM] <;> omega
theorem gaddr (phys : Bool) (self : Bool) (sp : Fin 4) (d : Reg) (a : Reg) (off : BitVec 32) : Statement (.gaddr phys self sp d a off) := by
  intro h
  have f0 := bool_lt phys
  have f1 := bool_lt self
  refine trip_I (by decide) rfl ?_ ?_ ?_ h
  · simp only [FieldsI.fits]; omega
  · simp [readI] <;> repeat' first | apply And.intro | apply fn4_mod | apply fn16_mod | apply bt_mod | apply fn8_mod | apply fn64_mod | apply ofNat_eq | apply scope_eq | apply bfmt_eq | apply redOp_eq | apply vr_mod | apply kr_mod | omega
  · simp [readI] <;> omega
theorem localq (d : Reg) (a : Reg) : Statement (.localq d a) := by
  intro h
  refine trip_R (by decide) rfl ?_ ?_ ?_ h
  · simp only [FieldsR.fits]; omega
  · simp [readR] <;> repeat' first | apply And.intro | apply fn4_mod | apply fn16_mod | apply bt_mod | apply fn8_mod | apply fn64_mod | apply ofNat_eq | apply scope_eq | apply bfmt_eq | apply redOp_eq | apply vr_mod | apply kr_mod | omega
  · simp [readR] <;> omega
theorem abs (w : Width) (d : Reg) (a : Reg) : Statement (.abs w d a) := by
  intro h
  have f0 := width_lt w
  refine trip_R (by decide) rfl ?_ ?_ ?_ h
  · simp only [FieldsR.fits]; omega
  · simp [readR] <;> repeat' first | apply And.intro | apply fn4_mod | apply fn16_mod | apply bt_mod | apply fn8_mod | apply fn64_mod | apply ofNat_eq | apply scope_eq | apply bfmt_eq | apply redOp_eq | apply vr_mod | apply kr_mod | omega
  · simp [readR] <;> omega
theorem sext (w : Width) (d : Reg) (a : Reg) : Statement (.sext w d a) := by
  intro h
  have f0 := width_lt w
  refine trip_R (by decide) rfl ?_ ?_ ?_ h
  · simp only [FieldsR.fits]; omega
  · simp [readR] <;> repeat' first | apply And.intro | apply fn4_mod | apply fn16_mod | apply bt_mod | apply fn8_mod | apply fn64_mod | apply ofNat_eq | apply scope_eq | apply bfmt_eq | apply redOp_eq | apply vr_mod | apply kr_mod | omega
  · simp [readR] <;> omega
theorem zext (w : Width) (d : Reg) (a : Reg) : Statement (.zext w d a) := by
  intro h
  have f0 := width_lt w
  refine trip_R (by decide) rfl ?_ ?_ ?_ h
  · simp only [FieldsR.fits]; omega
  · simp [readR] <;> repeat' first | apply And.intro | apply fn4_mod | apply fn16_mod | apply bt_mod | apply fn8_mod | apply fn64_mod | apply ofNat_eq | apply scope_eq | apply bfmt_eq | apply redOp_eq | apply vr_mod | apply kr_mod | omega
  · simp [readR] <;> omega
theorem illegalOp (w0 : BitVec 32) (w1 : BitVec 32) : Statement (.illegalOp w0 w1) := fun h => (Bool.false_ne_true h).elim
theorem nop : Statement (.nop) := by
  intro h
  refine trip_R (by decide) rfl ?_ ?_ ?_ h
  · simp only [FieldsR.fits]; omega
  · simp [readR] <;> repeat' first | apply And.intro | apply fn4_mod | apply fn16_mod | apply bt_mod | apply fn8_mod | apply fn64_mod | apply ofNat_eq | apply scope_eq | apply bfmt_eq | apply redOp_eq | apply vr_mod | apply kr_mod | omega
  · simp [readR] <;> omega
theorem br (w : Width) (c : Option Cond) (a : Reg) (b : Reg) (off : BitVec 32) : Statement (.br w c a b off) := by
  intro h
  have f0 := width_lt w
  have f1 := brCode_lt c
  refine trip_B (by decide) rfl ?_ ?_ ?_ h
  · simp only [FieldsB.fits]; omega
  · simp [readB] <;> repeat' first | apply And.intro | apply fn4_mod | apply fn16_mod | apply bt_mod | apply fn8_mod | apply fn64_mod | apply ofNat_eq | apply scope_eq | apply bfmt_eq | apply redOp_eq | apply vr_mod | apply kr_mod | omega
  · simp [readB] <;> omega
theorem call (d : Reg) (off : BitVec 32) : Statement (.call d off) := by
  intro h
  refine trip_I (by decide) rfl ?_ ?_ ?_ h
  · simp only [FieldsI.fits]; omega
  · simp [readI] <;> repeat' first | apply And.intro | apply fn4_mod | apply fn16_mod | apply bt_mod | apply fn8_mod | apply fn64_mod | apply ofNat_eq | apply scope_eq | apply bfmt_eq | apply redOp_eq | apply vr_mod | apply kr_mod | omega
  · simp [readI] <;> omega
theorem jr (a : Reg) : Statement (.jr a) := by
  intro h
  refine trip_R (by decide) rfl ?_ ?_ ?_ h
  · simp only [FieldsR.fits]; omega
  · simp [readR] <;> repeat' first | apply And.intro | apply fn4_mod | apply fn16_mod | apply bt_mod | apply fn8_mod | apply fn64_mod | apply ofNat_eq | apply scope_eq | apply bfmt_eq | apply redOp_eq | apply vr_mod | apply kr_mod | omega
  · simp [readR] <;> omega
theorem callr (d : Reg) (a : Reg) : Statement (.callr d a) := by
  intro h
  refine trip_R (by decide) rfl ?_ ?_ ?_ h
  · simp only [FieldsR.fits]; omega
  · simp [readR] <;> repeat' first | apply And.intro | apply fn4_mod | apply fn16_mod | apply bt_mod | apply fn8_mod | apply fn64_mod | apply ofNat_eq | apply scope_eq | apply bfmt_eq | apply redOp_eq | apply vr_mod | apply kr_mod | omega
  · simp [readR] <;> omega
theorem loop (a : Reg) (off : BitVec 32) : Statement (.loop a off) := by
  intro h
  refine trip_I (by decide) rfl ?_ ?_ ?_ h
  · simp only [FieldsI.fits]; omega
  · simp [readI] <;> repeat' first | apply And.intro | apply fn4_mod | apply fn16_mod | apply bt_mod | apply fn8_mod | apply fn64_mod | apply ofNat_eq | apply scope_eq | apply bfmt_eq | apply redOp_eq | apply vr_mod | apply kr_mod | omega
  · simp [readI] <;> omega
theorem loopi (off : BitVec 32) (count : BitVec 32) : Statement (.loopi off count) := by
  intro h
  refine trip_X (by decide) rfl ?_ ?_ ?_ h
  · simp only [FieldsX.fits]; omega
  · simp [readX] <;> repeat' first | apply And.intro | apply fn4_mod | apply fn16_mod | apply bt_mod | apply fn8_mod | apply fn64_mod | apply ofNat_eq | apply scope_eq | apply bfmt_eq | apply redOp_eq | apply vr_mod | apply kr_mod | omega
  · simp [readX] <;> omega
theorem lbrk : Statement (.lbrk) := by
  intro h
  refine trip_R (by decide) rfl ?_ ?_ ?_ h
  · simp only [FieldsR.fits]; omega
  · simp [readR] <;> repeat' first | apply And.intro | apply fn4_mod | apply fn16_mod | apply bt_mod | apply fn8_mod | apply fn64_mod | apply ofNat_eq | apply scope_eq | apply bfmt_eq | apply redOp_eq | apply vr_mod | apply kr_mod | omega
  · simp [readR] <;> omega
theorem sleep (abs_ : Bool) (a : Reg) (imm : BitVec 32) : Statement (.sleep abs_ a imm) := by
  intro h
  have f0 := bool_lt abs_
  refine trip_I (by decide) rfl ?_ ?_ ?_ h
  · simp only [FieldsI.fits]; omega
  · simp [readI] <;> repeat' first | apply And.intro | apply fn4_mod | apply fn16_mod | apply bt_mod | apply fn8_mod | apply fn64_mod | apply ofNat_eq | apply scope_eq | apply bfmt_eq | apply redOp_eq | apply vr_mod | apply kr_mod | omega
  · simp [readI] <;> omega
theorem sleepWake (slot : Nat) : Statement (.sleepWake slot) := fun h => (Bool.false_ne_true h).elim
theorem wdog : Statement (.wdog) := by
  intro h
  refine trip_R (by decide) rfl ?_ ?_ ?_ h
  · simp only [FieldsR.fits]; omega
  · simp [readR] <;> repeat' first | apply And.intro | apply fn4_mod | apply fn16_mod | apply bt_mod | apply fn8_mod | apply fn64_mod | apply ofNat_eq | apply scope_eq | apply bfmt_eq | apply redOp_eq | apply vr_mod | apply kr_mod | omega
  · simp [readR] <;> omega
theorem yield : Statement (.yield) := by
  intro h
  refine trip_R (by decide) rfl ?_ ?_ ?_ h
  · simp only [FieldsR.fits]; omega
  · simp [readR] <;> repeat' first | apply And.intro | apply fn4_mod | apply fn16_mod | apply bt_mod | apply fn8_mod | apply fn64_mod | apply ofNat_eq | apply scope_eq | apply bfmt_eq | apply redOp_eq | apply vr_mod | apply kr_mod | omega
  · simp [readR] <;> omega
theorem halt (a : Reg) : Statement (.halt a) := by
  intro h
  refine trip_R (by decide) rfl ?_ ?_ ?_ h
  · simp only [FieldsR.fits]; omega
  · simp [readR] <;> repeat' first | apply And.intro | apply fn4_mod | apply fn16_mod | apply bt_mod | apply fn8_mod | apply fn64_mod | apply ofNat_eq | apply scope_eq | apply bfmt_eq | apply redOp_eq | apply vr_mod | apply kr_mod | omega
  · simp [readR] <;> omega
theorem ld (w : Width) (sg : Bool) (o : Ord) (sp : SP) (d : Reg) (m : Addr) : Statement (.ld w sg o sp d m) := by
  intro h
  have f0 := width_lt w
  have f1 := bool_lt sg
  have f2 := ord_lt o
  have f3 := sp_lt sp
  refine trip_M (by decide) rfl ?_ ?_ ?_ h
  · simp only [FieldsM.fits]; omega
  · simp [readM, adr] <;> repeat' first | apply And.intro | apply fn4_mod | apply fn16_mod | apply bt_mod | apply fn8_mod | apply fn64_mod | apply ofNat_eq | apply scope_eq | apply bfmt_eq | apply redOp_eq | apply vr_mod | apply kr_mod | omega
  · simp [readM] <;> omega
theorem st (w : Width) (o : Ord) (sp : SP) (d : Reg) (m : Addr) : Statement (.st w o sp d m) := by
  intro h
  have f0 := width_lt w
  have f1 := ord_lt o
  have f2 := sp_lt sp
  refine trip_M (by decide) rfl ?_ ?_ ?_ h
  · simp only [FieldsM.fits]; omega
  · simp [readM, adr] <;> repeat' first | apply And.intro | apply fn4_mod | apply fn16_mod | apply bt_mod | apply fn8_mod | apply fn64_mod | apply ofNat_eq | apply scope_eq | apply bfmt_eq | apply redOp_eq | apply vr_mod | apply kr_mod | omega
  · simp [readM] <;> omega
theorem ldm (w : Width) (sg : Bool) (o : Ord) (sp : SP) (d : Reg) (m : Addr) : Statement (.ldm w sg o sp d m) := by
  intro h
  have f0 := width_lt w
  have f1 := bool_lt sg
  have f2 := ord_lt o
  have f3 := sp_lt sp
  refine trip_M (by decide) rfl ?_ ?_ ?_ h
  · simp only [FieldsM.fits]; omega
  · simp [readM, adr] <;> repeat' first | apply And.intro | apply fn4_mod | apply fn16_mod | apply bt_mod | apply fn8_mod | apply fn64_mod | apply ofNat_eq | apply scope_eq | apply bfmt_eq | apply redOp_eq | apply vr_mod | apply kr_mod | omega
  · simp [readM] <;> omega
theorem stm (w : Width) (o : Ord) (sp : SP) (d : Reg) (m : Addr) : Statement (.stm w o sp d m) := by
  intro h
  have f0 := width_lt w
  have f1 := ord_lt o
  have f2 := sp_lt sp
  refine trip_M (by decide) rfl ?_ ?_ ?_ h
  · simp only [FieldsM.fits]; omega
  · simp [readM, adr] <;> repeat' first | apply And.intro | apply fn4_mod | apply fn16_mod | apply bt_mod | apply fn8_mod | apply fn64_mod | apply ofNat_eq | apply scope_eq | apply bfmt_eq | apply redOp_eq | apply vr_mod | apply kr_mod | omega
  · simp [readM] <;> omega
theorem ldf (sp : SP) (d : Reg) (m : Addr) : Statement (.ldf sp d m) := by
  intro h
  have f0 := sp_lt sp
  refine trip_M (by decide) rfl ?_ ?_ ?_ h
  · simp only [FieldsM.fits]; omega
  · simp [readM, adr] <;> repeat' first | apply And.intro | apply fn4_mod | apply fn16_mod | apply bt_mod | apply fn8_mod | apply fn64_mod | apply ofNat_eq | apply scope_eq | apply bfmt_eq | apply redOp_eq | apply vr_mod | apply kr_mod | omega
  · simp [readM] <;> omega
theorem lde (sp : SP) (d : Reg) (m : Addr) : Statement (.lde sp d m) := by
  intro h
  have f0 := sp_lt sp
  refine trip_M (by decide) rfl ?_ ?_ ?_ h
  · simp only [FieldsM.fits]; omega
  · simp [readM, adr] <;> repeat' first | apply And.intro | apply fn4_mod | apply fn16_mod | apply bt_mod | apply fn8_mod | apply fn64_mod | apply ofNat_eq | apply scope_eq | apply bfmt_eq | apply redOp_eq | apply vr_mod | apply kr_mod | omega
  · simp [readM] <;> omega
theorem stf (sp : SP) (d : Reg) (m : Addr) : Statement (.stf sp d m) := by
  intro h
  have f0 := sp_lt sp
  refine trip_M (by decide) rfl ?_ ?_ ?_ h
  · simp only [FieldsM.fits]; omega
  · simp [readM, adr] <;> repeat' first | apply And.intro | apply fn4_mod | apply fn16_mod | apply bt_mod | apply fn8_mod | apply fn64_mod | apply ofNat_eq | apply scope_eq | apply bfmt_eq | apply redOp_eq | apply vr_mod | apply kr_mod | omega
  · simp [readM] <;> omega
theorem stff (sp : SP) (d : Reg) (m : Addr) : Statement (.stff sp d m) := by
  intro h
  have f0 := sp_lt sp
  refine trip_M (by decide) rfl ?_ ?_ ?_ h
  · simp only [FieldsM.fits]; omega
  · simp [readM, adr] <;> repeat' first | apply And.intro | apply fn4_mod | apply fn16_mod | apply bt_mod | apply fn8_mod | apply fn64_mod | apply ofNat_eq | apply scope_eq | apply bfmt_eq | apply redOp_eq | apply vr_mod | apply kr_mod | omega
  · simp [readM] <;> omega
theorem tagq (sp : SP) (d : Reg) (m : Addr) : Statement (.tagq sp d m) := by
  intro h
  have f0 := sp_lt sp
  refine trip_M (by decide) rfl ?_ ?_ ?_ h
  · simp only [FieldsM.fits]; omega
  · simp [readM, adr] <;> repeat' first | apply And.intro | apply fn4_mod | apply fn16_mod | apply bt_mod | apply fn8_mod | apply fn64_mod | apply ofNat_eq | apply scope_eq | apply bfmt_eq | apply redOp_eq | apply vr_mod | apply kr_mod | omega
  · simp [readM] <;> omega
theorem tagset (sp : SP) (d : Reg) (m : Addr) : Statement (.tagset sp d m) := by
  intro h
  have f0 := sp_lt sp
  refine trip_M (by decide) rfl ?_ ?_ ?_ h
  · simp only [FieldsM.fits]; omega
  · simp [readM, adr] <;> repeat' first | apply And.intro | apply fn4_mod | apply fn16_mod | apply bt_mod | apply fn8_mod | apply fn64_mod | apply ofNat_eq | apply scope_eq | apply bfmt_eq | apply redOp_eq | apply vr_mod | apply kr_mod | omega
  · simp [readM] <;> omega
theorem amo (w : Width) (o : Ord) (op : Aop) (sp : SP) (d : Reg) (a : Reg) (b : Reg) (off : BitVec 24) : Statement (.amo w o op sp d a b off) := by
  intro h
  have f0 := width_lt w
  have f1 := ord_lt o
  have f2 := aop_lt op
  have f3 := sp_lt sp
  refine trip_M (by decide) rfl ?_ ?_ ?_ h
  · simp only [FieldsM.fits]; omega
  · simp [readM] <;> repeat' first | apply And.intro | apply fn4_mod | apply fn16_mod | apply bt_mod | apply fn8_mod | apply fn64_mod | apply ofNat_eq | apply scope_eq | apply bfmt_eq | apply redOp_eq | apply vr_mod | apply kr_mod | omega
  · simp [readM] <;> omega
theorem cas (w : Width) (o : Ord) (sp : SP) (d : Reg) (a : Reg) (b : Reg) (off : BitVec 24) : Statement (.cas w o sp d a b off) := by
  intro h
  have f0 := width_lt w
  have f1 := ord_lt o
  have f2 := sp_lt sp
  refine trip_M (by decide) rfl ?_ ?_ ?_ h
  · simp only [FieldsM.fits]; omega
  · simp [readM] <;> repeat' first | apply And.intro | apply fn4_mod | apply fn16_mod | apply bt_mod | apply fn8_mod | apply fn64_mod | apply ofNat_eq | apply scope_eq | apply bfmt_eq | apply redOp_eq | apply vr_mod | apply kr_mod | omega
  · simp [readM] <;> omega
theorem fence (classes : BitVec 8) (scope : Scope) : Statement (.fence classes scope) := by
  intro h
  have f0 := scope_lt scope
  refine trip_R (by decide) rfl ?_ ?_ ?_ h
  · simp only [FieldsR.fits]; omega
  · simp [readR] <;> repeat' first | apply And.intro | apply fn4_mod | apply fn16_mod | apply bt_mod | apply fn8_mod | apply fn64_mod | apply ofNat_eq | apply scope_eq | apply bfmt_eq | apply redOp_eq | apply vr_mod | apply kr_mod | omega
  · simp [readR] <;> omega
theorem racem (sp : SP) (d : Reg) (m : Addr) : Statement (.racem sp d m) := by
  intro h
  have f0 := sp_lt sp
  refine trip_M (by decide) rfl ?_ ?_ ?_ h
  · simp only [FieldsM.fits]; omega
  · simp [readM, adr] <;> repeat' first | apply And.intro | apply fn4_mod | apply fn16_mod | apply bt_mod | apply fn8_mod | apply fn64_mod | apply ofNat_eq | apply scope_eq | apply bfmt_eq | apply redOp_eq | apply vr_mod | apply kr_mod | omega
  · simp [readM] <;> omega
theorem dld (w : Width) (sg : Bool) (o : Ord) (d : Reg) (m : Addr) : Statement (.dld w sg o d m) := by
  intro h
  have f0 := width_lt w
  have f1 := bool_lt sg
  have f2 := ord_lt o
  refine trip_M (by decide) rfl ?_ ?_ ?_ h
  · simp only [FieldsM.fits]; omega
  · simp [readM, adr] <;> repeat' first | apply And.intro | apply fn4_mod | apply fn16_mod | apply bt_mod | apply fn8_mod | apply fn64_mod | apply ofNat_eq | apply scope_eq | apply bfmt_eq | apply redOp_eq | apply vr_mod | apply kr_mod | omega
  · simp [readM] <;> omega
theorem dst (w : Width) (o : Ord) (d : Reg) (m : Addr) : Statement (.dst w o d m) := by
  intro h
  have f0 := width_lt w
  have f1 := ord_lt o
  refine trip_M (by decide) rfl ?_ ?_ ?_ h
  · simp only [FieldsM.fits]; omega
  · simp [readM, adr] <;> repeat' first | apply And.intro | apply fn4_mod | apply fn16_mod | apply bt_mod | apply fn8_mod | apply fn64_mod | apply ofNat_eq | apply scope_eq | apply bfmt_eq | apply redOp_eq | apply vr_mod | apply kr_mod | omega
  · simp [readM] <;> omega
theorem damo (w : Width) (o : Ord) (op : Aop) (d : Reg) (a : Reg) (b : Reg) (off : BitVec 24) : Statement (.damo w o op d a b off) := by
  intro h
  have f0 := width_lt w
  have f1 := ord_lt o
  have f2 := aop_lt op
  refine trip_M (by decide) rfl ?_ ?_ ?_ h
  · simp only [FieldsM.fits]; omega
  · simp [readM] <;> repeat' first | apply And.intro | apply fn4_mod | apply fn16_mod | apply bt_mod | apply fn8_mod | apply fn64_mod | apply ofNat_eq | apply scope_eq | apply bfmt_eq | apply redOp_eq | apply vr_mod | apply kr_mod | omega
  · simp [readM] <;> omega
theorem globalRequest (slot : Nat) : Statement (.globalRequest slot) := fun h => (Bool.false_ne_true h).elim
theorem globalReply (slot : Nat) : Statement (.globalReply slot) := fun h => (Bool.false_ne_true h).elim
theorem countedStoreVisible (index : Nat) : Statement (.countedStoreVisible index) := fun h => (Bool.false_ne_true h).elim
theorem waitlimit (slot : Nat) : Statement (.waitlimit slot) := fun h => (Bool.false_ne_true h).elim
theorem wqpop (nowait : Bool) (d : Reg) : Statement (.wqpop nowait d) := by
  intro h
  have f0 := bool_lt nowait
  refine trip_R (by decide) rfl ?_ ?_ ?_ h
  · simp only [FieldsR.fits]; omega
  · simp [readR] <;> repeat' first | apply And.intro | apply fn4_mod | apply fn16_mod | apply bt_mod | apply fn8_mod | apply fn64_mod | apply ofNat_eq | apply scope_eq | apply bfmt_eq | apply redOp_eq | apply vr_mod | apply kr_mod | omega
  · simp [readR] <;> omega
theorem wqpush (far : Bool) (close : Bool) (d : Reg) (a : Reg) (b : Reg) : Statement (.wqpush far close d a b) := by
  intro h
  have f0 := bool_lt far
  have f1 := bool_lt close
  refine trip_R (by decide) rfl ?_ ?_ ?_ h
  · simp only [FieldsR.fits]; omega
  · simp [readR] <;> repeat' first | apply And.intro | apply fn4_mod | apply fn16_mod | apply bt_mod | apply fn8_mod | apply fn64_mod | apply ofNat_eq | apply scope_eq | apply bfmt_eq | apply redOp_eq | apply vr_mod | apply kr_mod | omega
  · simp [readR] <;> omega
theorem spillwayReturn (region : Nat) (launch : Nat) : Statement (.spillwayReturn region launch) := fun h => (Bool.false_ne_true h).elim
theorem wait : Statement (.wait) := by
  intro h
  refine trip_R (by decide) rfl ?_ ?_ ?_ h
  · simp only [FieldsR.fits]; omega
  · simp [readR] <;> repeat' first | apply And.intro | apply fn4_mod | apply fn16_mod | apply bt_mod | apply fn8_mod | apply fn64_mod | apply ofNat_eq | apply scope_eq | apply bfmt_eq | apply redOp_eq | apply vr_mod | apply kr_mod | omega
  · simp [readR] <;> omega
theorem phase (f : PhaseForm) (d : Reg) : Statement (.phase f d) := by
  intro h
  have f0 := phaseForm_lt f
  refine trip_R (by decide) rfl ?_ ?_ ?_ h
  · simp only [FieldsR.fits]; omega
  · simp [readR] <;> repeat' first | apply And.intro | apply fn4_mod | apply fn16_mod | apply bt_mod | apply fn8_mod | apply fn64_mod | apply ofNat_eq | apply scope_eq | apply bfmt_eq | apply redOp_eq | apply vr_mod | apply kr_mod | omega
  · simp [readR] <;> omega
theorem sluiceFiring (launch : Nat) (grp : Nat) : Statement (.sluiceFiring launch grp) := fun h => (Bool.false_ne_true h).elim
theorem sluiceRelease (launch : Nat) (grp : Nat) (pos : Nat) (mem : Nat) : Statement (.sluiceRelease launch grp pos mem) := fun h => (Bool.false_ne_true h).elim
theorem linkReady (launch : Nat) (grp : Nat) : Statement (.linkReady launch grp) := fun h => (Bool.false_ne_true h).elim
theorem semv (sem : Fin 16) (n : BitVec 8) : Statement (.semv sem n) := by
  intro h
  refine trip_R (by decide) rfl ?_ ?_ ?_ h
  · simp only [FieldsR.fits]; omega
  · simp [readR] <;> repeat' first | apply And.intro | apply fn4_mod | apply fn16_mod | apply bt_mod | apply fn8_mod | apply fn64_mod | apply ofNat_eq | apply scope_eq | apply bfmt_eq | apply redOp_eq | apply vr_mod | apply kr_mod | omega
  · simp [readR] <;> omega
theorem semw (sem : Fin 16) : Statement (.semw sem) := by
  intro h
  refine trip_R (by decide) rfl ?_ ?_ ?_ h
  · simp only [FieldsR.fits]; omega
  · simp [readR] <;> repeat' first | apply And.intro | apply fn4_mod | apply fn16_mod | apply bt_mod | apply fn8_mod | apply fn64_mod | apply ofNat_eq | apply scope_eq | apply bfmt_eq | apply redOp_eq | apply vr_mod | apply kr_mod | omega
  · simp [readR] <;> omega
theorem send (count : Fin 4) (far : Bool) (a : Reg) (b : Reg) : Statement (.send count far a b) := by
  intro h
  have f0 := bool_lt far
  refine trip_R (by decide) rfl ?_ ?_ ?_ h
  · simp only [FieldsR.fits]; omega
  · simp [readR] <;> repeat' first | apply And.intro | apply fn4_mod | apply fn16_mod | apply bt_mod | apply fn8_mod | apply fn64_mod | apply ofNat_eq | apply scope_eq | apply bfmt_eq | apply redOp_eq | apply vr_mod | apply kr_mod | omega
  · simp [readR] <;> omega
theorem messageAccept (slot : Nat) (remote : Remote) : Statement (.messageAccept slot remote) := fun h => (Bool.false_ne_true h).elim
theorem recv (nowait : Bool) (d : Reg) (a : Reg) : Statement (.recv nowait d a) := by
  intro h
  have f0 := bool_lt nowait
  refine trip_R (by decide) rfl ?_ ?_ ?_ h
  · simp only [FieldsR.fits]; omega
  · simp [readR] <;> repeat' first | apply And.intro | apply fn4_mod | apply fn16_mod | apply bt_mod | apply fn8_mod | apply fn64_mod | apply ofNat_eq | apply scope_eq | apply bfmt_eq | apply redOp_eq | apply vr_mod | apply kr_mod | omega
  · simp [readR] <;> omega
theorem rarm (pri : Fin 4) (d : Reg) (a : Reg) (b : Reg) : Statement (.rarm pri d a b) := by
  intro h
  refine trip_R (by decide) rfl ?_ ?_ ?_ h
  · simp only [FieldsR.fits]; omega
  · simp [readR] <;> repeat' first | apply And.intro | apply fn4_mod | apply fn16_mod | apply bt_mod | apply fn8_mod | apply fn64_mod | apply ofNat_eq | apply scope_eq | apply bfmt_eq | apply redOp_eq | apply vr_mod | apply kr_mod | omega
  · simp [readR] <;> omega
theorem mbx (d : Reg) (word_ : Fin 8) : Statement (.mbx d word_) := by
  intro h
  refine trip_R (by decide) rfl ?_ ?_ ?_ h
  · simp only [FieldsR.fits]; omega
  · simp [readR] <;> repeat' first | apply And.intro | apply fn4_mod | apply fn16_mod | apply bt_mod | apply fn8_mod | apply fn64_mod | apply ofNat_eq | apply scope_eq | apply bfmt_eq | apply redOp_eq | apply vr_mod | apply kr_mod | omega
  · simp [readR] <;> omega
theorem mbxw (a : Reg) (b : Reg) (word_ : Fin 8) : Statement (.mbxw a b word_) := by
  intro h
  refine trip_R (by decide) rfl ?_ ?_ ?_ h
  · simp only [FieldsR.fits]; omega
  · simp [readR] <;> repeat' first | apply And.intro | apply fn4_mod | apply fn16_mod | apply bt_mod | apply fn8_mod | apply fn64_mod | apply ofNat_eq | apply scope_eq | apply bfmt_eq | apply redOp_eq | apply vr_mod | apply kr_mod | omega
  · simp [readR] <;> omega
theorem rqpush (pri : Fin 4) (nowait : Bool) (d : Reg) (a : Reg) : Statement (.rqpush pri nowait d a) := by
  intro h
  have f0 := bool_lt nowait
  refine trip_R (by decide) rfl ?_ ?_ ?_ h
  · simp only [FieldsR.fits]; omega
  · simp [readR] <;> repeat' first | apply And.intro | apply fn4_mod | apply fn16_mod | apply bt_mod | apply fn8_mod | apply fn64_mod | apply ofNat_eq | apply scope_eq | apply bfmt_eq | apply redOp_eq | apply vr_mod | apply kr_mod | omega
  · simp [readR] <;> omega
theorem rqpop (nowait : Bool) (d : Reg) : Statement (.rqpop nowait d) := by
  intro h
  have f0 := bool_lt nowait
  refine trip_R (by decide) rfl ?_ ?_ ?_ h
  · simp only [FieldsR.fits]; omega
  · simp [readR] <;> repeat' first | apply And.intro | apply fn4_mod | apply fn16_mod | apply bt_mod | apply fn8_mod | apply fn64_mod | apply ofNat_eq | apply scope_eq | apply bfmt_eq | apply redOp_eq | apply vr_mod | apply kr_mod | omega
  · simp [readR] <;> omega
theorem tstart (e : Engine) (d : Reg) (a : Reg) (b : Reg) (c : Reg) : Statement (.tstart e d a b c) := by
  intro h
  have f0 := engine_lt e
  refine trip_R (by decide) rfl ?_ ?_ ?_ h
  · simp only [FieldsR.fits]; omega
  · simp [readR] <;> repeat' first | apply And.intro | apply fn4_mod | apply fn16_mod | apply bt_mod | apply fn8_mod | apply fn64_mod | apply ofNat_eq | apply scope_eq | apply bfmt_eq | apply redOp_eq | apply vr_mod | apply kr_mod | omega
  · simp [readR] <;> omega
theorem slotStart (slot : Nat) : Statement (.slotStart slot) := fun h => (Bool.false_ne_true h).elim
theorem tstop (d : Reg) (a : Reg) : Statement (.tstop d a) := by
  intro h
  refine trip_R (by decide) rfl ?_ ?_ ?_ h
  · simp only [FieldsR.fits]; omega
  · simp [readR] <;> repeat' first | apply And.intro | apply fn4_mod | apply fn16_mod | apply bt_mod | apply fn8_mod | apply fn64_mod | apply ofNat_eq | apply scope_eq | apply bfmt_eq | apply redOp_eq | apply vr_mod | apply kr_mod | omega
  · simp [readR] <;> omega
theorem treap (nowait : Bool) (d : Reg) (a : Reg) : Statement (.treap nowait d a) := by
  intro h
  have f0 := bool_lt nowait
  refine trip_R (by decide) rfl ?_ ?_ ?_ h
  · simp only [FieldsR.fits]; omega
  · simp [readR] <;> repeat' first | apply And.intro | apply fn4_mod | apply fn16_mod | apply bt_mod | apply fn8_mod | apply fn64_mod | apply ofNat_eq | apply scope_eq | apply bfmt_eq | apply redOp_eq | apply vr_mod | apply kr_mod | omega
  · simp [readR] <;> omega
theorem tstat (d : Reg) (a : Reg) : Statement (.tstat d a) := by
  intro h
  refine trip_R (by decide) rfl ?_ ?_ ?_ h
  · simp only [FieldsR.fits]; omega
  · simp [readR] <;> repeat' first | apply And.intro | apply fn4_mod | apply fn16_mod | apply bt_mod | apply fn8_mod | apply fn64_mod | apply ofNat_eq | apply scope_eq | apply bfmt_eq | apply redOp_eq | apply vr_mod | apply kr_mod | omega
  · simp [readR] <;> omega
theorem tself (f : SelfForm) (d : Reg) : Statement (.tself f d) := by
  intro h
  have f0 := selfForm_lt f
  refine trip_R (by decide) rfl ?_ ?_ ?_ h
  · simp only [FieldsR.fits]; omega
  · simp [readR] <;> repeat' first | apply And.intro | apply fn4_mod | apply fn16_mod | apply bt_mod | apply fn8_mod | apply fn64_mod | apply ofNat_eq | apply scope_eq | apply bfmt_eq | apply redOp_eq | apply vr_mod | apply kr_mod | omega
  · simp [readR] <;> omega
theorem handle (multi : Bool) (id : BitVec 16) (mask : BitVec 16) (hOff : BitVec 32) (eOff : BitVec 32) : Statement (.handle multi id mask hOff eOff) := by
  intro h
  have f0 := bool_lt multi
  refine trip_Y (by decide) rfl ?_ ?_ ?_ h
  · simp only [FieldsY.fits]; omega
  · simp [readY] <;> repeat' first | apply And.intro | apply fn4_mod | apply fn16_mod | apply bt_mod | apply fn8_mod | apply fn64_mod | apply ofNat_eq | apply scope_eq | apply bfmt_eq | apply redOp_eq | apply vr_mod | apply kr_mod | omega
  · simp [readY] <;> omega
theorem endh : Statement (.endh) := by
  intro h
  refine trip_R (by decide) rfl ?_ ?_ ?_ h
  · simp only [FieldsR.fits]; omega
  · simp [readR] <;> repeat' first | apply And.intro | apply fn4_mod | apply fn16_mod | apply bt_mod | apply fn8_mod | apply fn64_mod | apply ofNat_eq | apply scope_eq | apply bfmt_eq | apply redOp_eq | apply vr_mod | apply kr_mod | omega
  · simp [readR] <;> omega
theorem perform (arg : PerfArg) : Statement (.perform arg) :=
  by
  rcases arg with id | a <;> intro h
  · refine trip_I (op := 0x72) (f := ⟨0, 0, 0, 0, id.toNat⟩) (by decide) rfl ?_ ?_ ?_ h
    · simp only [FieldsI.fits]; omega
    · simp [readI, bt]
    · simp [readI, bt] <;> omega
  · refine trip_I (op := 0x72) (f := ⟨0, a.val, 1, 0, 0⟩) (by decide) rfl ?_ ?_ ?_ h
    · simp only [FieldsI.fits]; omega
    · simp [readI, bt]
    · simp [readI, bt]
theorem vperform (et : ET) (d : VReg) (k : KReg) (id : BitVec 16) : Statement (.vperform et d k id) := by
  intro h
  have f0 := et_lt et
  refine trip_V (by decide) rfl ?_ ?_ ?_ h
  · simp only [FieldsV.fits]; omega
  · simp [readV] <;> repeat' first | apply And.intro | apply fn4_mod | apply fn16_mod | apply bt_mod | apply fn8_mod | apply fn64_mod | apply ofNat_eq | apply scope_eq | apply bfmt_eq | apply redOp_eq | apply vr_mod | apply kr_mod | omega
  · simp [readV] <;> omega
theorem resume (a : Reg) (b : Reg) : Statement (.resume a b) := by
  intro h
  refine trip_R (by decide) rfl ?_ ?_ ?_ h
  · simp only [FieldsR.fits]; omega
  · simp [readR] <;> repeat' first | apply And.intro | apply fn4_mod | apply fn16_mod | apply bt_mod | apply fn8_mod | apply fn64_mod | apply ofNat_eq | apply scope_eq | apply bfmt_eq | apply redOp_eq | apply vr_mod | apply kr_mod | omega
  · simp [readR] <;> omega
theorem resumec (a : Reg) (b : Reg) : Statement (.resumec a b) := by
  intro h
  refine trip_R (by decide) rfl ?_ ?_ ?_ h
  · simp only [FieldsR.fits]; omega
  · simp [readR] <;> repeat' first | apply And.intro | apply fn4_mod | apply fn16_mod | apply bt_mod | apply fn8_mod | apply fn64_mod | apply ofNat_eq | apply scope_eq | apply bfmt_eq | apply redOp_eq | apply vr_mod | apply kr_mod | omega
  · simp [readR] <;> omega
theorem discard (a : Reg) : Statement (.discard a) := by
  intro h
  refine trip_R (by decide) rfl ?_ ?_ ?_ h
  · simp only [FieldsR.fits]; omega
  · simp [readR] <;> repeat' first | apply And.intro | apply fn4_mod | apply fn16_mod | apply bt_mod | apply fn8_mod | apply fn64_mod | apply ofNat_eq | apply scope_eq | apply bfmt_eq | apply redOp_eq | apply vr_mod | apply kr_mod | omega
  · simp [readR] <;> omega
theorem hexit : Statement (.hexit) := by
  intro h
  refine trip_R (by decide) rfl ?_ ?_ ?_ h
  · simp only [FieldsR.fits]; omega
  · simp [readR] <;> repeat' first | apply And.intro | apply fn4_mod | apply fn16_mod | apply bt_mod | apply fn8_mod | apply fn64_mod | apply ofNat_eq | apply scope_eq | apply bfmt_eq | apply redOp_eq | apply vr_mod | apply kr_mod | omega
  · simp [readR] <;> omega
theorem tokq (d : Reg) (a : Reg) : Statement (.tokq d a) := by
  intro h
  refine trip_R (by decide) rfl ?_ ?_ ?_ h
  · simp only [FieldsR.fits]; omega
  · simp [readR] <;> repeat' first | apply And.intro | apply fn4_mod | apply fn16_mod | apply bt_mod | apply fn8_mod | apply fn64_mod | apply ofNat_eq | apply scope_eq | apply bfmt_eq | apply redOp_eq | apply vr_mod | apply kr_mod | omega
  · simp [readR] <;> omega
theorem effectDelivery (slot : Nat) : Statement (.effectDelivery slot) := fun h => (Bool.false_ne_true h).elim
theorem tick (slot : Nat) : Statement (.tick slot) := fun h => (Bool.false_ne_true h).elim
theorem watchdogExpiry (slot : Nat) : Statement (.watchdogExpiry slot) := fun h => (Bool.false_ne_true h).elim
theorem srd (d : Reg) (r : BitVec 12) : Statement (.srd d r) := by
  intro h
  refine trip_I (by decide) rfl ?_ ?_ ?_ h
  · simp only [FieldsI.fits]; omega
  · simp [readI] <;> repeat' first | apply And.intro | apply fn4_mod | apply fn16_mod | apply bt_mod | apply fn8_mod | apply fn64_mod | apply ofNat_eq | apply scope_eq | apply bfmt_eq | apply redOp_eq | apply vr_mod | apply kr_mod | omega
  · simp [readI] <;> omega
theorem swr (f : SwrForm) (d : Reg) (a : Reg) (r : BitVec 12) : Statement (.swr f d a r) := by
  intro h
  have f0 := swrForm_lt f
  refine trip_I (by decide) rfl ?_ ?_ ?_ h
  · simp only [FieldsI.fits]; omega
  · simp [readI] <;> repeat' first | apply And.intro | apply fn4_mod | apply fn16_mod | apply bt_mod | apply fn8_mod | apply fn64_mod | apply ofNat_eq | apply scope_eq | apply bfmt_eq | apply redOp_eq | apply vr_mod | apply kr_mod | omega
  · simp [readI] <;> omega
theorem fpxsumUpdate (tile : Nat) : Statement (.fpxsumUpdate tile) := fun h => (Bool.false_ne_true h).elim
theorem contextWrite (core : Nat) (off : Nat) (w : Width) (v : Word) : Statement (.contextWrite core off w v) := fun h => (Bool.false_ne_true h).elim
theorem svc (n : BitVec 32) : Statement (.svc n) := by
  intro h
  refine trip_I (by decide) rfl ?_ ?_ ?_ h
  · simp only [FieldsI.fits]; omega
  · simp [readI] <;> repeat' first | apply And.intro | apply fn4_mod | apply fn16_mod | apply bt_mod | apply fn8_mod | apply fn64_mod | apply ofNat_eq | apply scope_eq | apply bfmt_eq | apply redOp_eq | apply vr_mod | apply kr_mod | omega
  · simp [readI] <;> omega
theorem hvc (n : BitVec 32) : Statement (.hvc n) := by
  intro h
  refine trip_I (by decide) rfl ?_ ?_ ?_ h
  · simp only [FieldsI.fits]; omega
  · simp [readI] <;> repeat' first | apply And.intro | apply fn4_mod | apply fn16_mod | apply bt_mod | apply fn8_mod | apply fn64_mod | apply ofNat_eq | apply scope_eq | apply bfmt_eq | apply redOp_eq | apply vr_mod | apply kr_mod | omega
  · simp [readI] <;> omega
theorem setvec (c : Caller) : Statement (.setvec c) := fun h => (Bool.false_ne_true h).elim
theorem unpark (c : Caller) : Statement (.unpark c) := fun h => (Bool.false_ne_true h).elim
theorem setroot (c : Caller) : Statement (.setroot c) := fun h => (Bool.false_ne_true h).elim
theorem pumprun (c : Caller) : Statement (.pumprun c) := fun h => (Bool.false_ne_true h).elim
theorem dbpop (c : Caller) : Statement (.dbpop c) := fun h => (Bool.false_ne_true h).elim
theorem submit (c : Caller) : Statement (.submit c) := fun h => (Bool.false_ne_true h).elim
theorem cancel (c : Caller) : Statement (.cancel c) := fun h => (Bool.false_ne_true h).elim
theorem tret (next : Bool) : Statement (.tret next) := by
  intro h
  have f0 := bool_lt next
  refine trip_R (by decide) rfl ?_ ?_ ?_ h
  · simp only [FieldsR.fits]; omega
  · simp [readR] <;> repeat' first | apply And.intro | apply fn4_mod | apply fn16_mod | apply bt_mod | apply fn8_mod | apply fn64_mod | apply ofNat_eq | apply scope_eq | apply bfmt_eq | apply redOp_eq | apply vr_mod | apply kr_mod | omega
  · simp [readR] <;> omega
theorem tkill (d : Reg) (a : Reg) : Statement (.tkill d a) := by
  intro h
  refine trip_R (by decide) rfl ?_ ?_ ?_ h
  · simp only [FieldsR.fits]; omega
  · simp [readR] <;> repeat' first | apply And.intro | apply fn4_mod | apply fn16_mod | apply bt_mod | apply fn8_mod | apply fn64_mod | apply ofNat_eq | apply scope_eq | apply bfmt_eq | apply redOp_eq | apply vr_mod | apply kr_mod | omega
  · simp [readR] <;> omega
theorem pair (off : Bool) (d : Reg) (a : Reg) : Statement (.pair off d a) := by
  intro h
  have f0 := bool_lt off
  refine trip_R (by decide) rfl ?_ ?_ ?_ h
  · simp only [FieldsR.fits]; omega
  · simp [readR] <;> repeat' first | apply And.intro | apply fn4_mod | apply fn16_mod | apply bt_mod | apply fn8_mod | apply fn64_mod | apply ofNat_eq | apply scope_eq | apply bfmt_eq | apply redOp_eq | apply vr_mod | apply kr_mod | omega
  · simp [readR] <;> omega
theorem trapEntry (slot : Nat) : Statement (.trapEntry slot) := fun h => (Bool.false_ne_true h).elim
theorem hypervisorTrap (slot : Nat) : Statement (.hypervisorTrap slot) := fun h => (Bool.false_ne_true h).elim
theorem hctlResume (slot : Nat) : Statement (.hctlResume slot) := fun h => (Bool.false_ne_true h).elim
theorem hctlNext (slot : Nat) : Statement (.hctlNext slot) := fun h => (Bool.false_ne_true h).elim
theorem hctlReflect (slot : Nat) : Statement (.hctlReflect slot) := fun h => (Bool.false_ne_true h).elim
theorem hctlPark (slot : Nat) : Statement (.hctlPark slot) := fun h => (Bool.false_ne_true h).elim
theorem hctlFault (slot : Nat) : Statement (.hctlFault slot) := fun h => (Bool.false_ne_true h).elim
theorem poison (p : PoisonEvent) : Statement (.poison p) := fun h => (Bool.false_ne_true h).elim
theorem vadd (et : ET) (rm : RM) (sat : Bool) (x : VDst) (a : VReg) (b : VReg) : Statement (.vadd et rm sat x a b) := by
  intro h
  have f0 := et_lt et
  have f1 := rm_lt rm
  have f2 := bool_lt sat
  have f3 := bool_lt x.zm
  refine trip_V (by decide) rfl ?_ ?_ ?_ h
  · simp only [FieldsV.fits]; omega
  · simp [readV, vd] <;> repeat' first | apply And.intro | apply fn4_mod | apply fn16_mod | apply bt_mod | apply fn8_mod | apply fn64_mod | apply ofNat_eq | apply scope_eq | apply bfmt_eq | apply redOp_eq | apply vr_mod | apply kr_mod | omega
  · simp [readV] <;> omega
theorem vsub (et : ET) (rm : RM) (sat : Bool) (x : VDst) (a : VReg) (b : VReg) : Statement (.vsub et rm sat x a b) := by
  intro h
  have f0 := et_lt et
  have f1 := rm_lt rm
  have f2 := bool_lt sat
  have f3 := bool_lt x.zm
  refine trip_V (by decide) rfl ?_ ?_ ?_ h
  · simp only [FieldsV.fits]; omega
  · simp [readV, vd] <;> repeat' first | apply And.intro | apply fn4_mod | apply fn16_mod | apply bt_mod | apply fn8_mod | apply fn64_mod | apply ofNat_eq | apply scope_eq | apply bfmt_eq | apply redOp_eq | apply vr_mod | apply kr_mod | omega
  · simp [readV] <;> omega
theorem vmul (et : ET) (rm : RM) (hi : Bool) (x : VDst) (a : VReg) (b : VReg) : Statement (.vmul et rm hi x a b) := by
  intro h
  have f0 := et_lt et
  have f1 := rm_lt rm
  have f2 := bool_lt hi
  have f3 := bool_lt x.zm
  refine trip_V (by decide) rfl ?_ ?_ ?_ h
  · simp only [FieldsV.fits]; omega
  · simp [readV, vd] <;> repeat' first | apply And.intro | apply fn4_mod | apply fn16_mod | apply bt_mod | apply fn8_mod | apply fn64_mod | apply ofNat_eq | apply scope_eq | apply bfmt_eq | apply redOp_eq | apply vr_mod | apply kr_mod | omega
  · simp [readV] <;> omega
theorem vfma (et : ET) (rm : RM) (x : VDst) (a : VReg) (b : VReg) (c : VReg) : Statement (.vfma et rm x a b c) := by
  intro h
  have f0 := et_lt et
  have f1 := rm_lt rm
  have f2 := bool_lt x.zm
  refine trip_V (by decide) rfl ?_ ?_ ?_ h
  · simp only [FieldsV.fits]; omega
  · simp [readV, vd] <;> repeat' first | apply And.intro | apply fn4_mod | apply fn16_mod | apply bt_mod | apply fn8_mod | apply fn64_mod | apply ofNat_eq | apply scope_eq | apply bfmt_eq | apply redOp_eq | apply vr_mod | apply kr_mod | omega
  · simp [readV] <;> omega
theorem vdiv (et : ET) (rm : RM) (x : VDst) (a : VReg) (b : VReg) : Statement (.vdiv et rm x a b) := by
  intro h
  have f0 := et_lt et
  have f1 := rm_lt rm
  have f2 := bool_lt x.zm
  refine trip_V (by decide) rfl ?_ ?_ ?_ h
  · simp only [FieldsV.fits]; omega
  · simp [readV, vd] <;> repeat' first | apply And.intro | apply fn4_mod | apply fn16_mod | apply bt_mod | apply fn8_mod | apply fn64_mod | apply ofNat_eq | apply scope_eq | apply bfmt_eq | apply redOp_eq | apply vr_mod | apply kr_mod | omega
  · simp [readV] <;> omega
theorem vsqrt (et : ET) (rm : RM) (x : VDst) (a : VReg) : Statement (.vsqrt et rm x a) := by
  intro h
  have f0 := et_lt et
  have f1 := rm_lt rm
  have f2 := bool_lt x.zm
  refine trip_V (by decide) rfl ?_ ?_ ?_ h
  · simp only [FieldsV.fits]; omega
  · simp [readV, vd] <;> repeat' first | apply And.intro | apply fn4_mod | apply fn16_mod | apply bt_mod | apply fn8_mod | apply fn64_mod | apply ofNat_eq | apply scope_eq | apply bfmt_eq | apply redOp_eq | apply vr_mod | apply kr_mod | omega
  · simp [readV] <;> omega
theorem vmin (et : ET) (x : VDst) (a : VReg) (b : VReg) : Statement (.vmin et x a b) := by
  intro h
  have f0 := et_lt et
  have f1 := bool_lt x.zm
  refine trip_V (by decide) rfl ?_ ?_ ?_ h
  · simp only [FieldsV.fits]; omega
  · simp [readV, vd] <;> repeat' first | apply And.intro | apply fn4_mod | apply fn16_mod | apply bt_mod | apply fn8_mod | apply fn64_mod | apply ofNat_eq | apply scope_eq | apply bfmt_eq | apply redOp_eq | apply vr_mod | apply kr_mod | omega
  · simp [readV] <;> omega
theorem vmax (et : ET) (x : VDst) (a : VReg) (b : VReg) : Statement (.vmax et x a b) := by
  intro h
  have f0 := et_lt et
  have f1 := bool_lt x.zm
  refine trip_V (by decide) rfl ?_ ?_ ?_ h
  · simp only [FieldsV.fits]; omega
  · simp [readV, vd] <;> repeat' first | apply And.intro | apply fn4_mod | apply fn16_mod | apply bt_mod | apply fn8_mod | apply fn64_mod | apply ofNat_eq | apply scope_eq | apply bfmt_eq | apply redOp_eq | apply vr_mod | apply kr_mod | omega
  · simp [readV] <;> omega
theorem vabs (et : ET) (x : VDst) (a : VReg) : Statement (.vabs et x a) := by
  intro h
  have f0 := et_lt et
  have f1 := bool_lt x.zm
  refine trip_V (by decide) rfl ?_ ?_ ?_ h
  · simp only [FieldsV.fits]; omega
  · simp [readV, vd] <;> repeat' first | apply And.intro | apply fn4_mod | apply fn16_mod | apply bt_mod | apply fn8_mod | apply fn64_mod | apply ofNat_eq | apply scope_eq | apply bfmt_eq | apply redOp_eq | apply vr_mod | apply kr_mod | omega
  · simp [readV] <;> omega
theorem vneg (et : ET) (x : VDst) (a : VReg) : Statement (.vneg et x a) := by
  intro h
  have f0 := et_lt et
  have f1 := bool_lt x.zm
  refine trip_V (by decide) rfl ?_ ?_ ?_ h
  · simp only [FieldsV.fits]; omega
  · simp [readV, vd] <;> repeat' first | apply And.intro | apply fn4_mod | apply fn16_mod | apply bt_mod | apply fn8_mod | apply fn64_mod | apply ofNat_eq | apply scope_eq | apply bfmt_eq | apply redOp_eq | apply vr_mod | apply kr_mod | omega
  · simp [readV] <;> omega
theorem vand (et : ET) (x : VDst) (a : VReg) (b : VReg) : Statement (.vand et x a b) := by
  intro h
  have f0 := et_lt et
  have f1 := bool_lt x.zm
  refine trip_V (by decide) rfl ?_ ?_ ?_ h
  · simp only [FieldsV.fits]; omega
  · simp [readV, vd] <;> repeat' first | apply And.intro | apply fn4_mod | apply fn16_mod | apply bt_mod | apply fn8_mod | apply fn64_mod | apply ofNat_eq | apply scope_eq | apply bfmt_eq | apply redOp_eq | apply vr_mod | apply kr_mod | omega
  · simp [readV] <;> omega
theorem vor (et : ET) (x : VDst) (a : VReg) (b : VReg) : Statement (.vor et x a b) := by
  intro h
  have f0 := et_lt et
  have f1 := bool_lt x.zm
  refine trip_V (by decide) rfl ?_ ?_ ?_ h
  · simp only [FieldsV.fits]; omega
  · simp [readV, vd] <;> repeat' first | apply And.intro | apply fn4_mod | apply fn16_mod | apply bt_mod | apply fn8_mod | apply fn64_mod | apply ofNat_eq | apply scope_eq | apply bfmt_eq | apply redOp_eq | apply vr_mod | apply kr_mod | omega
  · simp [readV] <;> omega
theorem vxor (et : ET) (x : VDst) (a : VReg) (b : VReg) : Statement (.vxor et x a b) := by
  intro h
  have f0 := et_lt et
  have f1 := bool_lt x.zm
  refine trip_V (by decide) rfl ?_ ?_ ?_ h
  · simp only [FieldsV.fits]; omega
  · simp [readV, vd] <;> repeat' first | apply And.intro | apply fn4_mod | apply fn16_mod | apply bt_mod | apply fn8_mod | apply fn64_mod | apply ofNat_eq | apply scope_eq | apply bfmt_eq | apply redOp_eq | apply vr_mod | apply kr_mod | omega
  · simp [readV] <;> omega
theorem vshl (et : ET) (x : VDst) (a : VReg) (b : VReg) : Statement (.vshl et x a b) := by
  intro h
  have f0 := et_lt et
  have f1 := bool_lt x.zm
  refine trip_V (by decide) rfl ?_ ?_ ?_ h
  · simp only [FieldsV.fits]; omega
  · simp [readV, vd] <;> repeat' first | apply And.intro | apply fn4_mod | apply fn16_mod | apply bt_mod | apply fn8_mod | apply fn64_mod | apply ofNat_eq | apply scope_eq | apply bfmt_eq | apply redOp_eq | apply vr_mod | apply kr_mod | omega
  · simp [readV] <;> omega
theorem vshr (et : ET) (x : VDst) (a : VReg) (b : VReg) : Statement (.vshr et x a b) := by
  intro h
  have f0 := et_lt et
  have f1 := bool_lt x.zm
  refine trip_V (by decide) rfl ?_ ?_ ?_ h
  · simp only [FieldsV.fits]; omega
  · simp [readV, vd] <;> repeat' first | apply And.intro | apply fn4_mod | apply fn16_mod | apply bt_mod | apply fn8_mod | apply fn64_mod | apply ofNat_eq | apply scope_eq | apply bfmt_eq | apply redOp_eq | apply vr_mod | apply kr_mod | omega
  · simp [readV] <;> omega
theorem vcmp (et : ET) (c : VCond) (kd : KReg) (k : KReg) (zm : Bool) (a : VReg) (b : VReg) : Statement (.vcmp et c kd k zm a b) := by
  intro h
  have f0 := et_lt et
  have f1 := vcond_lt c
  have f2 := bool_lt zm
  refine trip_V (by decide) rfl ?_ ?_ ?_ h
  · simp only [FieldsV.fits]; omega
  · simp [readV] <;> repeat' first | apply And.intro | apply fn4_mod | apply fn16_mod | apply bt_mod | apply fn8_mod | apply fn64_mod | apply ofNat_eq | apply scope_eq | apply bfmt_eq | apply redOp_eq | apply vr_mod | apply kr_mod | omega
  · simp [readV] <;> omega
theorem vsel (et : ET) (d : VReg) (k : KReg) (a : VReg) (b : VReg) : Statement (.vsel et d k a b) := by
  intro h
  have f0 := et_lt et
  refine trip_V (by decide) rfl ?_ ?_ ?_ h
  · simp only [FieldsV.fits]; omega
  · simp [readV] <;> repeat' first | apply And.intro | apply fn4_mod | apply fn16_mod | apply bt_mod | apply fn8_mod | apply fn64_mod | apply ofNat_eq | apply scope_eq | apply bfmt_eq | apply redOp_eq | apply vr_mod | apply kr_mod | omega
  · simp [readV] <;> omega
theorem vcvt (et : ET) (et2 : ET) (rm : RM) (part : Fin 4) (sat : Bool) (x : VDst) (a : VReg) : Statement (.vcvt et et2 rm part sat x a) := by
  intro h
  have f0 := et_lt et
  have f1 := et_lt et2
  have f2 := rm_lt rm
  have f3 := bool_lt sat
  have f4 := bool_lt x.zm
  refine trip_V (by decide) rfl ?_ ?_ ?_ h
  · simp only [FieldsV.fits]; omega
  · simp [readV, vd] <;> repeat' first | apply And.intro | apply fn4_mod | apply fn16_mod | apply bt_mod | apply fn8_mod | apply fn64_mod | apply ofNat_eq | apply scope_eq | apply bfmt_eq | apply redOp_eq | apply vr_mod | apply kr_mod | omega
  · simp [readV] <;> omega
theorem vquant (et : ET) (et2 : ET) (rm : RM) (part : Fin 4) (gs : Bool) (sat : Bool) (x : VDst) (a : VReg) (b : VReg) (ga : Reg) : Statement (.vquant et et2 rm part gs sat x a b ga) := by
  intro h
  have f0 := et_lt et
  have f1 := et_lt et2
  have f2 := rm_lt rm
  have f3 := bool_lt gs
  have f4 := bool_lt sat
  have f5 := bool_lt x.zm
  refine trip_V (by decide) rfl ?_ ?_ ?_ h
  · simp only [FieldsV.fits]; omega
  · simp [readV, vd] <;> repeat' first | apply And.intro | apply fn4_mod | apply fn16_mod | apply bt_mod | apply fn8_mod | apply fn64_mod | apply ofNat_eq | apply scope_eq | apply bfmt_eq | apply redOp_eq | apply vr_mod | apply kr_mod | omega
  · simp [readV] <;> omega
theorem vdeq (et : ET) (et2 : ET) (rm : RM) (part : Fin 4) (gs : Bool) (x : VDst) (a : VReg) (b : VReg) (ga : Reg) : Statement (.vdeq et et2 rm part gs x a b ga) := by
  intro h
  have f0 := et_lt et
  have f1 := et_lt et2
  have f2 := rm_lt rm
  have f3 := bool_lt gs
  have f4 := bool_lt x.zm
  refine trip_V (by decide) rfl ?_ ?_ ?_ h
  · simp only [FieldsV.fits]; omega
  · simp [readV, vd] <;> repeat' first | apply And.intro | apply fn4_mod | apply fn16_mod | apply bt_mod | apply fn8_mod | apply fn64_mod | apply ofNat_eq | apply scope_eq | apply bfmt_eq | apply redOp_eq | apply vr_mod | apply kr_mod | omega
  · simp [readV] <;> omega
theorem vred (et : ET) (rm : RM) (op : RedOp) (wide : Bool) (d : VReg) (k : KReg) (a : VReg) (ga : Reg) : Statement (.vred et rm op wide d k a ga) := by
  intro h
  have f0 := et_lt et
  have f1 := rm_lt rm
  have f2 := redOp_lt op
  have f3 := bool_lt wide
  refine trip_V (by decide) rfl ?_ ?_ ?_ h
  · simp only [FieldsV.fits]; omega
  · simp [readV] <;> repeat' first | apply And.intro | apply fn4_mod | apply fn16_mod | apply bt_mod | apply fn8_mod | apply fn64_mod | apply ofNat_eq | apply scope_eq | apply bfmt_eq | apply redOp_eq | apply vr_mod | apply kr_mod | omega
  · simp [readV] <;> omega
theorem vscan (et : ET) (rm : RM) (op : RedOp) (x : VDst) (a : VReg) : Statement (.vscan et rm op x a) := by
  intro h
  have f0 := et_lt et
  have f1 := rm_lt rm
  have f2 := redOp_lt op
  have f3 := bool_lt x.zm
  refine trip_V (by decide) rfl ?_ ?_ ?_ h
  · simp only [FieldsV.fits]; omega
  · simp [readV, vd] <;> repeat' first | apply And.intro | apply fn4_mod | apply fn16_mod | apply bt_mod | apply fn8_mod | apply fn64_mod | apply ofNat_eq | apply scope_eq | apply bfmt_eq | apply redOp_eq | apply vr_mod | apply kr_mod | omega
  · simp [readV] <;> omega
theorem vbcast (et : ET) (fromLane : Bool) (lane : BitVec 8) (x : VDst) (a : VReg) (ga : Reg) : Statement (.vbcast et fromLane lane x a ga) := by
  intro h
  have f0 := et_lt et
  have f1 := bool_lt fromLane
  have f2 := bool_lt x.zm
  refine trip_V (by decide) rfl ?_ ?_ ?_ h
  · simp only [FieldsV.fits]; omega
  · simp [readV, vd] <;> repeat' first | apply And.intro | apply fn4_mod | apply fn16_mod | apply bt_mod | apply fn8_mod | apply fn64_mod | apply ofNat_eq | apply scope_eq | apply bfmt_eq | apply redOp_eq | apply vr_mod | apply kr_mod | omega
  · simp [readV] <;> omega
theorem vmovg (et : ET) (ins : Bool) (lane : BitVec 7) (v : VReg) (ga : Reg) : Statement (.vmovg et ins lane v ga) :=
  by
  intro h
  have f0 := et_lt et
  cases ins
  · refine trip_V (op := 0x97) (f := ⟨0, v.val, 0, 0, 0, 0, 0, et.code, et.code, 0, ga.val, lane.toNat⟩)
      (by decide) rfl ?_ ?_ ?_ h
    · simp only [FieldsV.fits]; omega
    · have e : lane.toNat / 128 = 0 := by omega
      simp [readV, e, bt]
    · have e : lane.toNat / 128 = 0 := by omega
      simp [readV, e]; omega
  · refine trip_V (op := 0x97) (f := ⟨v.val, 0, 0, 0, 0, 0, 0, et.code, et.code, 0, ga.val, lane.toNat + 128⟩)
      (by decide) rfl ?_ ?_ ?_ h
    · simp only [FieldsV.fits]; omega
    · have e : (lane.toNat + 128) / 128 = 1 := by omega
      simp only [readV, e, bt, ety_code, rg_val]
      simp
      apply ofNat_eq; omega
    · have e : (lane.toNat + 128) / 128 = 1 := by omega
      simp only [readV, e]; simp; omega
theorem vshuf (et : ET) (x : VDst) (a : VReg) (b : VReg) (c : VReg) : Statement (.vshuf et x a b c) := by
  intro h
  have f0 := et_lt et
  have f1 := bool_lt x.zm
  refine trip_V (by decide) rfl ?_ ?_ ?_ h
  · simp only [FieldsV.fits]; omega
  · simp [readV, vd] <;> repeat' first | apply And.intro | apply fn4_mod | apply fn16_mod | apply bt_mod | apply fn8_mod | apply fn64_mod | apply ofNat_eq | apply scope_eq | apply bfmt_eq | apply redOp_eq | apply vr_mod | apply kr_mod | omega
  · simp [readV] <;> omega
theorem vslide (et : ET) (n : BitVec 8) (up : Bool) (fromG : Bool) (x : VDst) (a : VReg) (c : VReg) (ga : Reg) : Statement (.vslide et n up fromG x a c ga) := by
  intro h
  have f0 := et_lt et
  have f1 := bool_lt up
  have f2 := bool_lt fromG
  have f3 := bool_lt x.zm
  refine trip_V (by decide) rfl ?_ ?_ ?_ h
  · simp only [FieldsV.fits]; omega
  · simp [readV, vd] <;> repeat' first | apply And.intro | apply fn4_mod | apply fn16_mod | apply bt_mod | apply fn8_mod | apply fn64_mod | apply ofNat_eq | apply scope_eq | apply bfmt_eq | apply redOp_eq | apply vr_mod | apply kr_mod | omega
  · simp [readV] <;> omega
theorem viota (et : ET) (idx : Bool) (x : VDst) : Statement (.viota et idx x) := by
  intro h
  have f0 := et_lt et
  have f1 := bool_lt idx
  have f2 := bool_lt x.zm
  refine trip_V (by decide) rfl ?_ ?_ ?_ h
  · simp only [FieldsV.fits]; omega
  · simp [readV, vd] <;> repeat' first | apply And.intro | apply fn4_mod | apply fn16_mod | apply bt_mod | apply fn8_mod | apply fn64_mod | apply ofNat_eq | apply scope_eq | apply bfmt_eq | apply redOp_eq | apply vr_mod | apply kr_mod | omega
  · simp [readV] <;> omega
theorem vtlu (et : ET) (et2 : ET) (rm : RM) (slot : Fin 4) (extend : Bool) (x : VDst) (a : VReg) : Statement (.vtlu et et2 rm slot extend x a) := by
  intro h
  have f0 := et_lt et
  have f1 := et_lt et2
  have f2 := rm_lt rm
  have f3 := bool_lt extend
  have f4 := bool_lt x.zm
  refine trip_V (by decide) rfl ?_ ?_ ?_ h
  · simp only [FieldsV.fits]; omega
  · simp [readV, vd] <;> repeat' first | apply And.intro | apply fn4_mod | apply fn16_mod | apply bt_mod | apply fn8_mod | apply fn64_mod | apply ofNat_eq | apply scope_eq | apply bfmt_eq | apply redOp_eq | apply vr_mod | apply kr_mod | omega
  · simp [readV] <;> omega
theorem vtcfg (slot : Fin 4) (ga : Reg) : Statement (.vtcfg slot ga) := by
  intro h
  refine trip_V (by decide) rfl ?_ ?_ ?_ h
  · simp only [FieldsV.fits]; omega
  · simp [readV] <;> repeat' first | apply And.intro | apply fn4_mod | apply fn16_mod | apply bt_mod | apply fn8_mod | apply fn64_mod | apply ofNat_eq | apply scope_eq | apply bfmt_eq | apply redOp_eq | apply vr_mod | apply kr_mod | omega
  · simp [readV] <;> omega
theorem vld (et : ET) (inC : Bool) (off : BitVec 14) (x : VDst) (ga : Reg) : Statement (.vld et inC off x ga) :=
  by
  intro h
  have f0 := et_lt et
  have f1 := bool_lt x.zm
  cases inC
  · obtain ⟨fn, hn⟩ : ∃ fn, fn = off.toNat + 16384 := ⟨_, rfl⟩
    have e1 : fn / 32768 = 0 := by omega
    have e2 : fn / 16384 = 1 := by omega
    have e3 : fn % 16384 = off.toNat := by omega
    have t := trip_V (op := 0x9D) (f := ⟨x.d.val, 0, 0, 0, x.k.val, x.zm.toNat, 0, et.code, et.code, 0, ga.val, fn⟩) (i := .vld et false off x ga) (by decide) rfl
      (by simp only [FieldsV.fits]; omega)
      (by simp only [readV, e1, ety_code, rg_val, vd, bt_toNat]; simp [bt]; exact ofNat_eq off e3)
      (by simp only [readV, e2]; simp; omega) h
    rw [hn] at t
    exact t
  · obtain ⟨fn, hn⟩ : ∃ fn, fn = off.toNat + 32768 := ⟨_, rfl⟩
    have e1 : fn / 32768 = 1 := by omega
    have e2 : fn / 16384 = 2 := by omega
    have e3 : fn % 16384 = off.toNat := by omega
    have t := trip_V (op := 0x9D) (f := ⟨x.d.val, 0, 0, 0, x.k.val, x.zm.toNat, 0, et.code, et.code, 0, ga.val, fn⟩) (i := .vld et true off x ga) (by decide) rfl
      (by simp only [FieldsV.fits]; omega)
      (by simp only [readV, e1, ety_code, rg_val, vd, bt_toNat]; simp [bt]; exact ofNat_eq off e3)
      (by simp only [readV, e2]; simp; omega) h
    rw [hn] at t
    exact t
theorem vst (et : ET) (inC : Bool) (off : BitVec 14) (d : VReg) (k : KReg) (ga : Reg) : Statement (.vst et inC off d k ga) :=
  by
  intro h
  have f0 := et_lt et
  cases inC
  · obtain ⟨fn, hn⟩ : ∃ fn, fn = off.toNat + 16384 := ⟨_, rfl⟩
    have e1 : fn / 32768 = 0 := by omega
    have e2 : fn / 16384 = 1 := by omega
    have e3 : fn % 16384 = off.toNat := by omega
    have t := trip_V (op := 0x9E) (f := ⟨d.val, 0, 0, 0, k.val, 0, 0, et.code, et.code, 0, ga.val, fn⟩) (i := .vst et false off d k ga) (by decide) rfl
      (by simp only [FieldsV.fits]; omega)
      (by simp only [readV, e1, ety_code, rg_val]; simp [bt]; exact ofNat_eq off e3)
      (by simp only [readV, e2]; simp; omega) h
    rw [hn] at t
    exact t
  · obtain ⟨fn, hn⟩ : ∃ fn, fn = off.toNat + 32768 := ⟨_, rfl⟩
    have e1 : fn / 32768 = 1 := by omega
    have e2 : fn / 16384 = 2 := by omega
    have e3 : fn % 16384 = off.toNat := by omega
    have t := trip_V (op := 0x9E) (f := ⟨d.val, 0, 0, 0, k.val, 0, 0, et.code, et.code, 0, ga.val, fn⟩) (i := .vst et true off d k ga) (by decide) rfl
      (by simp only [FieldsV.fits]; omega)
      (by simp only [readV, e1, ety_code, rg_val]; simp [bt]; exact ofNat_eq off e3)
      (by simp only [readV, e2]; simp; omega) h
    rw [hn] at t
    exact t
theorem vgath (et : ET) (inC : Bool) (sh : Fin 4) (x : VDst) (b : VReg) (ga : Reg) : Statement (.vgath et inC sh x b ga) :=
  by
  intro h
  have f0 := et_lt et
  have f1 := bool_lt x.zm
  cases inC
  · obtain ⟨fn, hn⟩ : ∃ fn, fn = sh.val + 16384 := ⟨_, rfl⟩
    have e1 : fn / 32768 = 0 := by omega
    have e2 : fn / 16384 = 1 := by omega
    have e3 : fn % 4 = sh.val := by omega
    have t := trip_V (op := 0x9F) (f := ⟨x.d.val, 0, b.val, 0, x.k.val, x.zm.toNat, 0, et.code, et.code, 0, ga.val, fn⟩) (i := .vgath et false sh x b ga) (by decide) rfl
      (by simp only [FieldsV.fits]; omega)
      (by simp only [readV, e1, ety_code, rg_val, vd, bt_toNat]; simp [bt]; exact fn4_mod sh e3)
      (by simp only [readV, e2]; simp; omega) h
    rw [hn] at t
    exact t
  · obtain ⟨fn, hn⟩ : ∃ fn, fn = sh.val + 32768 := ⟨_, rfl⟩
    have e1 : fn / 32768 = 1 := by omega
    have e2 : fn / 16384 = 2 := by omega
    have e3 : fn % 4 = sh.val := by omega
    have t := trip_V (op := 0x9F) (f := ⟨x.d.val, 0, b.val, 0, x.k.val, x.zm.toNat, 0, et.code, et.code, 0, ga.val, fn⟩) (i := .vgath et true sh x b ga) (by decide) rfl
      (by simp only [FieldsV.fits]; omega)
      (by simp only [readV, e1, ety_code, rg_val, vd, bt_toNat]; simp [bt]; exact fn4_mod sh e3)
      (by simp only [readV, e2]; simp; omega) h
    rw [hn] at t
    exact t
theorem vscat (et : ET) (inC : Bool) (sh : Fin 4) (d : VReg) (k : KReg) (b : VReg) (ga : Reg) : Statement (.vscat et inC sh d k b ga) :=
  by
  intro h
  have f0 := et_lt et
  cases inC
  · obtain ⟨fn, hn⟩ : ∃ fn, fn = sh.val + 16384 := ⟨_, rfl⟩
    have e1 : fn / 32768 = 0 := by omega
    have e2 : fn / 16384 = 1 := by omega
    have e3 : fn % 4 = sh.val := by omega
    have t := trip_V (op := 0xA0) (f := ⟨d.val, 0, b.val, 0, k.val, 0, 0, et.code, et.code, 0, ga.val, fn⟩) (i := .vscat et false sh d k b ga) (by decide) rfl
      (by simp only [FieldsV.fits]; omega)
      (by simp only [readV, e1, ety_code, rg_val]; simp [bt]; exact fn4_mod sh e3)
      (by simp only [readV, e2]; simp; omega) h
    rw [hn] at t
    exact t
  · obtain ⟨fn, hn⟩ : ∃ fn, fn = sh.val + 32768 := ⟨_, rfl⟩
    have e1 : fn / 32768 = 1 := by omega
    have e2 : fn / 16384 = 2 := by omega
    have e3 : fn % 4 = sh.val := by omega
    have t := trip_V (op := 0xA0) (f := ⟨d.val, 0, b.val, 0, k.val, 0, 0, et.code, et.code, 0, ga.val, fn⟩) (i := .vscat et true sh d k b ga) (by decide) rfl
      (by simp only [FieldsV.fits]; omega)
      (by simp only [readV, e1, ety_code, rg_val]; simp [bt]; exact fn4_mod sh e3)
      (by simp only [readV, e2]; simp; omega) h
    rw [hn] at t
    exact t
theorem kand (d : KReg) (a : KReg) (b : KReg) : Statement (.kand d a b) := by
  intro h
  refine trip_V (by decide) rfl ?_ ?_ ?_ h
  · simp only [FieldsV.fits]; omega
  · simp [readV] <;> repeat' first | apply And.intro | apply fn4_mod | apply fn16_mod | apply bt_mod | apply fn8_mod | apply fn64_mod | apply ofNat_eq | apply scope_eq | apply bfmt_eq | apply redOp_eq | apply vr_mod | apply kr_mod | omega
  · simp [readV] <;> omega
theorem kor (d : KReg) (a : KReg) (b : KReg) : Statement (.kor d a b) := by
  intro h
  refine trip_V (by decide) rfl ?_ ?_ ?_ h
  · simp only [FieldsV.fits]; omega
  · simp [readV] <;> repeat' first | apply And.intro | apply fn4_mod | apply fn16_mod | apply bt_mod | apply fn8_mod | apply fn64_mod | apply ofNat_eq | apply scope_eq | apply bfmt_eq | apply redOp_eq | apply vr_mod | apply kr_mod | omega
  · simp [readV] <;> omega
theorem kxor (d : KReg) (a : KReg) (b : KReg) : Statement (.kxor d a b) := by
  intro h
  refine trip_V (by decide) rfl ?_ ?_ ?_ h
  · simp only [FieldsV.fits]; omega
  · simp [readV] <;> repeat' first | apply And.intro | apply fn4_mod | apply fn16_mod | apply bt_mod | apply fn8_mod | apply fn64_mod | apply ofNat_eq | apply scope_eq | apply bfmt_eq | apply redOp_eq | apply vr_mod | apply kr_mod | omega
  · simp [readV] <;> omega
theorem knot (d : KReg) (a : KReg) : Statement (.knot d a) := by
  intro h
  refine trip_V (by decide) rfl ?_ ?_ ?_ h
  · simp only [FieldsV.fits]; omega
  · simp [readV] <;> repeat' first | apply And.intro | apply fn4_mod | apply fn16_mod | apply bt_mod | apply fn8_mod | apply fn64_mod | apply ofNat_eq | apply scope_eq | apply bfmt_eq | apply redOp_eq | apply vr_mod | apply kr_mod | omega
  · simp [readV] <;> omega
theorem kpop (et : ET) (a : KReg) (ga : Reg) : Statement (.kpop et a ga) := by
  intro h
  have f0 := et_lt et
  refine trip_V (by decide) rfl ?_ ?_ ?_ h
  · simp only [FieldsV.fits]; omega
  · simp [readV] <;> repeat' first | apply And.intro | apply fn4_mod | apply fn16_mod | apply bt_mod | apply fn8_mod | apply fn64_mod | apply ofNat_eq | apply scope_eq | apply bfmt_eq | apply redOp_eq | apply vr_mod | apply kr_mod | omega
  · simp [readV] <;> omega
theorem kset (et : ET) (d : KReg) (ga : Reg) : Statement (.kset et d ga) := by
  intro h
  have f0 := et_lt et
  refine trip_V (by decide) rfl ?_ ?_ ?_ h
  · simp only [FieldsV.fits]; omega
  · simp [readV] <;> repeat' first | apply And.intro | apply fn4_mod | apply fn16_mod | apply bt_mod | apply fn8_mod | apply fn64_mod | apply ofNat_eq | apply scope_eq | apply bfmt_eq | apply redOp_eq | apply vr_mod | apply kr_mod | omega
  · simp [readV] <;> omega
theorem kfirst (et : ET) (a : KReg) (ga : Reg) : Statement (.kfirst et a ga) := by
  intro h
  have f0 := et_lt et
  refine trip_V (by decide) rfl ?_ ?_ ?_ h
  · simp only [FieldsV.fits]; omega
  · simp [readV] <;> repeat' first | apply And.intro | apply fn4_mod | apply fn16_mod | apply bt_mod | apply fn8_mod | apply fn64_mod | apply ofNat_eq | apply scope_eq | apply bfmt_eq | apply redOp_eq | apply vr_mod | apply kr_mod | omega
  · simp [readV] <;> omega
theorem vpack (et : ET) (rm : RM) (f : BFmt) (off : BitVec 8) (d : VReg) (a : VReg) : Statement (.vpack et rm f off d a) :=
  by
  intro h
  have f0 := et_lt et
  have f1 := rm_lt rm
  have f2 : f.code < 4 := by
    cases f <;> simp_all [Instr.wf, Instr.unrestricted, Instr.restrictions, recordBad, BFmt.isRecord, BFmt.code]
  refine trip_V (by decide) rfl ?_ ?_ ?_ h
  · simp only [FieldsV.fits]; omega
  · simp [readV] <;> repeat' first | apply And.intro | apply ofNat_eq | apply bfmt_eq | omega
  · simp [readV] <;> omega
theorem vunpk (et : ET) (rm : RM) (f : BFmt) (off : BitVec 8) (x : VDst) (a : VReg) : Statement (.vunpk et rm f off x a) :=
  by
  intro h
  have f0 := et_lt et
  have f1 := rm_lt rm
  have f2 : f.code < 4 := by
    cases f <;> simp_all [Instr.wf, Instr.unrestricted, Instr.restrictions, recordBad, BFmt.isRecord, BFmt.code]
  have f3 := bool_lt x.zm
  refine trip_V (by decide) rfl ?_ ?_ ?_ h
  · simp only [FieldsV.fits]; omega
  · simp [readV, vd] <;> repeat' first | apply And.intro | apply ofNat_eq | apply bfmt_eq | omega
  · simp [readV] <;> omega
theorem vclass (et : ET) (classes : BitVec 10) (kd : KReg) (k : KReg) (zm : Bool) (a : VReg) : Statement (.vclass et classes kd k zm a) := by
  intro h
  have f0 := et_lt et
  have f1 := bool_lt zm
  refine trip_V (by decide) rfl ?_ ?_ ?_ h
  · simp only [FieldsV.fits]; omega
  · simp [readV] <;> repeat' first | apply And.intro | apply fn4_mod | apply fn16_mod | apply bt_mod | apply fn8_mod | apply fn64_mod | apply ofNat_eq | apply scope_eq | apply bfmt_eq | apply redOp_eq | apply vr_mod | apply kr_mod | omega
  · simp [readV] <;> omega
theorem kmovg (put : Bool) (hi : Bool) (k : KReg) (ga : Reg) : Statement (.kmovg put hi k ga) :=
  by
  intro h
  have f0 := bool_lt hi
  cases put
  · refine trip_V (op := 0xAB) (f := ⟨0, k.val, 0, 0, 0, 0, 0, 0, 0, 0, ga.val, 0 + 2 * hi.toNat⟩) (by decide) ?_ ?_ ?_ ?_ h
    · rfl
    · simp only [FieldsV.fits]; omega
    · cases hi <;> simp [readV, bt]
    · cases hi <;> simp [readV, bt] <;> omega
  · refine trip_V (op := 0xAB) (f := ⟨k.val, 0, 0, 0, 0, 0, 0, 0, 0, 0, ga.val, 1 + 2 * hi.toNat⟩) (by decide) rfl ?_ ?_ ?_ h
    · simp only [FieldsV.fits]; omega
    · cases hi <;> simp [readV, bt]
    · cases hi <;> simp [readV, bt] <;> omega
theorem mcfg (qmask : BitVec 4) (leader : Fin 4) (afmt : BFmt) : Statement (.mcfg qmask leader afmt) := by
  intro h
  have f0 := bfmt_lt afmt
  refine trip_R (by decide) rfl ?_ ?_ ?_ h
  · simp only [FieldsR.fits]; omega
  · simp [readR] <;> repeat' first | apply And.intro | apply fn4_mod | apply fn16_mod | apply bt_mod | apply fn8_mod | apply fn64_mod | apply ofNat_eq | apply scope_eq | apply bfmt_eq | apply redOp_eq | apply vr_mod | apply kr_mod | omega
  · simp [readR] <;> omega
theorem mldb (p : Params) : Statement (.mldb p) :=
  by
  intro h
  have f0 := bool_lt p.sig
  refine trip_P (by decide) rfl ?_ ?_ ?_ h
  · simp only [FieldsP.fits, parCode]; omega
  · simp [readP]
  · simp [readP, parCode] <;> omega
theorem mswap : Statement (.mswap) := by
  intro h
  refine trip_R (by decide) rfl ?_ ?_ ?_ h
  · simp only [FieldsR.fits]; omega
  · simp [readR] <;> repeat' first | apply And.intro | apply fn4_mod | apply fn16_mod | apply bt_mod | apply fn8_mod | apply fn64_mod | apply ofNat_eq | apply scope_eq | apply bfmt_eq | apply redOp_eq | apply vr_mod | apply kr_mod | omega
  · simp [readR] <;> omega
theorem mmul (p : Params) : Statement (.mmul p) :=
  by
  intro h
  have f0 := bool_lt p.sig
  refine trip_P (by decide) rfl ?_ ?_ ?_ h
  · simp only [FieldsP.fits, parCode]; omega
  · simp [readP]
  · simp [readP, parCode] <;> omega
theorem mzero (a : Reg) (b : Reg) : Statement (.mzero a b) := by
  intro h
  refine trip_R (by decide) rfl ?_ ?_ ?_ h
  · simp only [FieldsR.fits]; omega
  · simp [readR] <;> repeat' first | apply And.intro | apply fn4_mod | apply fn16_mod | apply bt_mod | apply fn8_mod | apply fn64_mod | apply ofNat_eq | apply scope_eq | apply bfmt_eq | apply redOp_eq | apply vr_mod | apply kr_mod | omega
  · simp [readR] <;> omega
theorem mout (p : Params) : Statement (.mout p) :=
  by
  intro h
  have f0 := bool_lt p.sig
  refine trip_P (by decide) rfl ?_ ?_ ?_ h
  · simp only [FieldsP.fits, parCode]; omega
  · simp [readP]
  · simp [readP, parCode] <;> omega
theorem mstat (f : MstatForm) (d : Reg) : Statement (.mstat f d) := by
  intro h
  have f0 := mstatForm_lt f
  refine trip_R (by decide) rfl ?_ ?_ ?_ h
  · simp only [FieldsR.fits]; omega
  · simp [readR] <;> repeat' first | apply And.intro | apply fn4_mod | apply fn16_mod | apply bt_mod | apply fn8_mod | apply fn64_mod | apply ofNat_eq | apply scope_eq | apply bfmt_eq | apply redOp_eq | apply vr_mod | apply kr_mod | omega
  · simp [readR] <;> omega
theorem mred (p : Params) : Statement (.mred p) :=
  by
  intro h
  have f0 := bool_lt p.sig
  refine trip_P (by decide) rfl ?_ ?_ ?_ h
  · simp only [FieldsP.fits, parCode]; omega
  · simp [readP]
  · simp [readP, parCode] <;> omega
theorem mcfgTurn (tile : Nat) : Statement (.mcfgTurn tile) := fun h => (Bool.false_ne_true h).elim
theorem mldbTurn (tile : Nat) : Statement (.mldbTurn tile) := fun h => (Bool.false_ne_true h).elim
theorem mswapTurn (tile : Nat) : Statement (.mswapTurn tile) := fun h => (Bool.false_ne_true h).elim
theorem mmulTurn (tile : Nat) : Statement (.mmulTurn tile) := fun h => (Bool.false_ne_true h).elim
theorem mzeroTurn (tile : Nat) : Statement (.mzeroTurn tile) := fun h => (Bool.false_ne_true h).elim
theorem moutTurn (tile : Nat) : Statement (.moutTurn tile) := fun h => (Bool.false_ne_true h).elim
theorem mredTurn (tile : Nat) : Statement (.mredTurn tile) := fun h => (Bool.false_ne_true h).elim
theorem dikeRingGrant (region : Nat) : Statement (.dikeRingGrant region) := fun h => (Bool.false_ne_true h).elim
theorem ballast (region : Nat) : Statement (.ballast region) := fun h => (Bool.false_ne_true h).elim
theorem cpy (nowait : Bool) (d : Reg) : Statement (.cpy nowait d) := by
  intro h
  have f0 := bool_lt nowait
  refine trip_R (by decide) rfl ?_ ?_ ?_ h
  · simp only [FieldsR.fits]; omega
  · simp [readR] <;> repeat' first | apply And.intro | apply fn4_mod | apply fn16_mod | apply bt_mod | apply fn8_mod | apply fn64_mod | apply ofNat_eq | apply scope_eq | apply bfmt_eq | apply redOp_eq | apply vr_mod | apply kr_mod | omega
  · simp [readR] <;> omega
theorem cpyw (scope : Scope) (ch : Fin 4) (a : Reg) : Statement (.cpyw scope ch a) := by
  intro h
  have f0 := scope_lt scope
  refine trip_R (by decide) rfl ?_ ?_ ?_ h
  · simp only [FieldsR.fits]; omega
  · simp [readR] <;> repeat' first | apply And.intro | apply fn4_mod | apply fn16_mod | apply bt_mod | apply fn8_mod | apply fn64_mod | apply ofNat_eq | apply scope_eq | apply bfmt_eq | apply redOp_eq | apply vr_mod | apply kr_mod | omega
  · simp [readR] <;> omega
theorem cpyq (err : Bool) (ch : Fin 4) (d : Reg) : Statement (.cpyq err ch d) := by
  intro h
  have f0 := bool_lt err
  refine trip_R (by decide) rfl ?_ ?_ ?_ h
  · simp only [FieldsR.fits]; omega
  · simp [readR] <;> repeat' first | apply And.intro | apply fn4_mod | apply fn16_mod | apply bt_mod | apply fn8_mod | apply fn64_mod | apply ofNat_eq | apply scope_eq | apply bfmt_eq | apply redOp_eq | apply vr_mod | apply kr_mod | omega
  · simp [readR] <;> omega
theorem cpyx (f : CpyxForm) (d : Reg) (a : Reg) : Statement (.cpyx f d a) :=
  by
  rcases f with _ | c <;> intro h
  · refine trip_R (by decide) rfl ?_ ?_ ?_ h
    · simp only [FieldsR.fits, CpyxForm.code]; omega
    · simp [readR]
    · simp [readR, CpyxForm.code]
  · refine trip_R (by decide) rfl ?_ ?_ ?_ h
    · simp only [FieldsR.fits, CpyxForm.code]; omega
    · simp [readR]
    · simp [readR, CpyxForm.code]; omega
theorem tlbi (f : TlbiForm) (a : Reg) : Statement (.tlbi f a) := by
  intro h
  have f0 := tlbiForm_lt f
  refine trip_R (by decide) rfl ?_ ?_ ?_ h
  · simp only [FieldsR.fits]; omega
  · simp [readR] <;> repeat' first | apply And.intro | apply fn4_mod | apply fn16_mod | apply bt_mod | apply fn8_mod | apply fn64_mod | apply ofNat_eq | apply scope_eq | apply bfmt_eq | apply redOp_eq | apply vr_mod | apply kr_mod | omega
  · simp [readR] <;> omega
theorem xlat (write : Bool) (d : Reg) (a : Reg) : Statement (.xlat write d a) := by
  intro h
  have f0 := bool_lt write
  refine trip_R (by decide) rfl ?_ ?_ ?_ h
  · simp only [FieldsR.fits]; omega
  · simp [readR] <;> repeat' first | apply And.intro | apply fn4_mod | apply fn16_mod | apply bt_mod | apply fn8_mod | apply fn64_mod | apply ofNat_eq | apply scope_eq | apply bfmt_eq | apply redOp_eq | apply vr_mod | apply kr_mod | omega
  · simp [readR] <;> omega
theorem copyChunk (core : Nat) (ch : Fin 4) (remote : Remote) : Statement (.copyChunk core ch remote) := fun h => (Bool.false_ne_true h).elim
theorem copyComplete (core : Nat) (ch : Fin 4) : Statement (.copyComplete core ch) := fun h => (Bool.false_ne_true h).elim
theorem page (core : Nat) (ch : Fin 4) : Statement (.page core ch) := fun h => (Bool.false_ne_true h).elim
theorem copyCancelAck (slot : Nat) : Statement (.copyCancelAck slot) := fun h => (Bool.false_ne_true h).elim
theorem dispatch (launch : Nat) (placement : List Nat) : Statement (.dispatch launch placement) := fun h => (Bool.false_ne_true h).elim
theorem launchStart (launch : Nat) : Statement (.launchStart launch) := fun h => (Bool.false_ne_true h).elim
theorem launchComplete (launch : Nat) : Statement (.launchComplete launch) := fun h => (Bool.false_ne_true h).elim
theorem witnessSecondRun (run : SecondRun) : Statement (.witnessSecondRun run) := fun h => (Bool.false_ne_true h).elim
theorem contextSwitch (slot : Nat) (selector : Fin 16) : Statement (.contextSwitch slot selector) := fun h => (Bool.false_ne_true h).elim
theorem launchPreempt (launch : Nat) : Statement (.launchPreempt launch) := fun h => (Bool.false_ne_true h).elim
theorem launchRestore (launch : Nat) (placement : List Nat) : Statement (.launchRestore launch placement) := fun h => (Bool.false_ne_true h).elim
theorem operatingPointChange (tile : Nat) : Statement (.operatingPointChange tile) := fun h => (Bool.false_ne_true h).elim
theorem droop (tile : Nat) (on : Bool) : Statement (.droop tile on) := fun h => (Bool.false_ne_true h).elim
theorem fbmaxUpdate (region : Nat) (m : Measured) : Statement (.fbmaxUpdate region m) := fun h => (Bool.false_ne_true h).elim
theorem energyUpdate (launch : Nat) (standing : Nat) : Statement (.energyUpdate launch standing) := fun h => (Bool.false_ne_true h).elim
theorem quotaPeriodBoundary : Statement (.quotaPeriodBoundary) := fun h => (Bool.false_ne_true h).elim
theorem allowanceUpdate (d0 : BitVec 16) (d1 : BitVec 16) (d2 : BitVec 16) (d3 : BitVec 16) : Statement (.allowanceUpdate d0 d1 d2 d3) := fun h => (Bool.false_ne_true h).elim
theorem dramtempUpdate (d0 : BitVec 16) (d1 : BitVec 16) (d2 : BitVec 16) (d3 : BitVec 16) : Statement (.dramtempUpdate d0 d1 d2 d3) := fun h => (Bool.false_ne_true h).elim
theorem referenceLoss (die : Nat) : Statement (.referenceLoss die) := fun h => (Bool.false_ne_true h).elim
theorem referenceReturn (die : Nat) : Statement (.referenceReturn die) := fun h => (Bool.false_ne_true h).elim
theorem tideSet (v : Word) : Statement (.tideSet v) := fun h => (Bool.false_ne_true h).elim
theorem announce (m : CrestMsg) : Statement (.announce m) := fun h => (Bool.false_ne_true h).elim
theorem heartbeat (m : CrestMsg) : Statement (.heartbeat m) := fun h => (Bool.false_ne_true h).elim
theorem heartbeatSend : Statement (.heartbeatSend) := fun h => (Bool.false_ne_true h).elim
theorem join (m : CrestMsg) (notice : Nat) : Statement (.join m notice) := fun h => (Bool.false_ne_true h).elim
theorem accept (m : CrestMsg) : Statement (.accept m) := fun h => (Bool.false_ne_true h).elim
theorem leave (m : CrestMsg) : Statement (.leave m) := fun h => (Bool.false_ne_true h).elim
theorem expel (m : CrestMsg) : Statement (.expel m) := fun h => (Bool.false_ne_true h).elim
theorem emergency (m : CrestMsg) : Statement (.emergency m) := fun h => (Bool.false_ne_true h).elim
theorem memberSilent (mem : Nat) : Statement (.memberSilent mem) := fun h => (Bool.false_ne_true h).elim
theorem expelTimeout (mem : Nat) : Statement (.expelTimeout mem) := fun h => (Bool.false_ne_true h).elim
theorem crestBite : Statement (.crestBite) := fun h => (Bool.false_ne_true h).elim
theorem bar2Access (part : Nat) (addr : Word) (acc : BarAccess) : Statement (.bar2Access part addr acc) := fun h => (Bool.false_ne_true h).elim
theorem doorbell (part : Nat) (v : Word) : Statement (.doorbell part v) := fun h => (Bool.false_ne_true h).elim
theorem dbstatClear (part : Nat) (v : Word) : Statement (.dbstatClear part v) := fun h => (Bool.false_ne_true h).elim
theorem moduleReset : Statement (.moduleReset) := fun h => (Bool.false_ne_true h).elim
theorem attestation (nonce : List Byte) : Statement (.attestation nonce) := fun h => (Bool.false_ne_true h).elim
theorem telemetry : Statement (.telemetry) := fun h => (Bool.false_ne_true h).elim
theorem linkReplay (port : Nat) : Statement (.linkReplay port) := fun h => (Bool.false_ne_true h).elim
theorem linkDown (port : Nat) (members : List Nat) : Statement (.linkDown port members) := fun h => (Bool.false_ne_true h).elim
theorem railUndervoltage (mv : Nat) : Statement (.railUndervoltage mv) := fun h => (Bool.false_ne_true h).elim
theorem dramReply (slot : Nat) (remote : Remote) : Statement (.dramReply slot remote) := fun h => (Bool.false_ne_true h).elim
theorem dramRefresh (die : Nat) (ch : Nat) (stalled : Nat) : Statement (.dramRefresh die ch stalled) := fun h => (Bool.false_ne_true h).elim
theorem tideSlew (up : Bool) (drift : Nat) : Statement (.tideSlew up drift) := fun h => (Bool.false_ne_true h).elim
theorem linkRetrain (port : Nat) : Statement (.linkRetrain port) := fun h => (Bool.false_ne_true h).elim
theorem railRestored (mv : Nat) : Statement (.railRestored mv) := fun h => (Bool.false_ne_true h).elim

end Sys2Proof.Laws.RoundTrip
end

