-- ==== Sys2Proof/Tests/Slice0.lean ====
section
/-! SUPPORT. Tests: words written out from the spec's encodings, terms that the well-formedness check refuses, single steps
whose results the spec states, and for each statement with hypotheses a state and operands that meet them. -/
set_option Elab.async false
namespace Sys2Proof.Tests
open Sys2Proof Sys2Proof.Machine

/-! ## Small states -/

/-- An image with some general registers. -/
def regs (l : List (Reg × Word)) : Image := { g := l.foldl (fun v p => v.set p.1 p.2) (Vector.replicate 32 0) }
/-- A record of one tile with a code region of 4 KiB, in a mode. -/
def record (mode : BitVec 8) : LaunchRec := { tiles := 1, codelen := 0x1000, mode := mode }
/-- Launch 1 on tile 0. -/
def running (mode : BitVec 8) : Launch := { record := record mode, phase := .running, place := [0] }
/-- Slot n, LIVE and bound to an engine, issues with an image in a launch of a mode. -/
def inMode (mode : BitVec 8) (n : Nat) (e : Engine) (im : Image) : State :=
  { State.reset with
    cur := n
    launches := [(1, running mode)]
    tiles := [(0, { launch := some 1 })]
    slots := [(n, { state := .live, engine := e, launch := 1 })]
    images := [(n, im)] }
/-- Slot n issues in a plain launch. -/
def on (n : Nat) (e : Engine) (im : Image) : State := inMode 0 n e im
/-- A scalar slot 0 with some registers. -/
def scalar (l : List (Reg × Word)) : State := on 0 .scalar (regs l)
/-- The same in a sealed launch. -/
def closed (l : List (Reg × Word)) : State := inMode 1 0 .scalar (regs l)
/-- Slot 0 of pump-class core 0. -/
def pump (l : List (Reg × Word)) : State := on 0x10000 .copy (regs l)
/-- The state that an instruction leaves, where it leaves one. -/
def after (i : Instr) (s : State) : State := match exec i s with | .next t => t | _ => State.reset
/-- Does an instruction leave a next state? -/
def goes (i : Instr) (s : State) : Bool := match exec i s with | .next _ => true | _ => false
/-- Register r of the issuing slot after an instruction. -/
def regAfter (i : Instr) (s : State) (r : Reg) : Word := (after i s).gOf s.cur r
/-- The cause of the trap that holds the issuing slot after an instruction, with its subcode and value. -/
def heldAfter (i : Instr) (s : State) : Option (Nat × Nat × Word) :=
  ((after i s).slotAt s.cur).hold.map fun h => (h.cause, h.sub, h.val)

/-! ## Decoding words that the spec writes out -/

/-- ADDI (18, worked code); MUL.hs (05 R110); EXT.s (05 R110); CMP.ne (15); MIN (15); LEA (05); GADDR (05 R115). -/
theorem test_decode_scalar :
    decodeTableWord 64 (0xC006B408 + 2 ^ 32 * (0xFFFFFFC0)) = some (.addi .b64 13 13 0xFFFFFFC0)
    ∧ decodeTableWord 64 (0x8062A410 + 2 ^ 32 * (1)) = some (.mul .b32 .hs 9 5 6)
    ∧ decodeTableWord 64 (0xC4C29C6C + 2 ^ 32 * (4)) = some (.ext true 7 5 12 4)
    ∧ decodeTableWord 64 (0xC1B84060 + 2 ^ 32 * (2)) = some (.cmp .b64 .ne 16 16 27)
    ∧ decodeTableWord 64 (0xC0F84058 + 2 ^ 32 * (0)) = some (.min .b64 false 16 16 15)
    ∧ decodeTableWord 64 (0x06521C88 + 2 ^ 32 * (0x1000)) = some (.lea 7 ⟨4, 5, 3, 16⟩)
    ∧ decodeTableWord 64 (0x0014248C + 2 ^ 32 * (0x100)) = some (.gaddr false false 1 9 8 0x100) := by
  decide +kernel

/-- LOOP (18); JR (06 R127); CALLR (06 R127); SLEEP.abs (06 R127). -/
theorem test_decode_control :
    decodeTableWord 64 (0x000980D4 + 2 ^ 32 * (0x98)) = some (.loop 19 0x98)
    ∧ decodeTableWord 64 (0x000080CC + 2 ^ 32 * (0)) = some (.jr 1)
    ∧ decodeTableWord 64 (0x000484D0 + 2 ^ 32 * (0)) = some (.callr 1 9)
    ∧ decodeTableWord 64 (0x001600E0 + 2 ^ 32 * (0)) = some (.sleep true 12 0) := by
  decide +kernel

/-- LD.w.s (02); LD.b (15); LDE (15); STF glob (07); DLD (20); DST.rel (20); DAMO.add (20). -/
theorem test_decode_memory :
    decodeTableWord 64 (0x80021D00 + 2 ^ 32 * (0x1008)) = some (.ld .b32 true .plain .g 7 ⟨4, 0, 0, 16⟩)
    ∧ decodeTableWord 64 (0x000D6D00 + 2 ^ 32 * (0xFFFFFF00)) = some (.ld .b8 false .plain .g 27 ⟨26, 0, 0, 0xFFFFFF⟩)
    ∧ decodeTableWord 64 (0xC0002914 + 2 ^ 32 * (0x00400000)) = some (.lde .g 10 ⟨0, 0, 0, 0x4000⟩)
    ∧ decodeTableWord 64 (0xE004A118 + 2 ^ 32 * (0)) = some (.stf .glob 8 ⟨9, 0, 0, 0⟩)
    ∧ decodeTableWord 64 (0xA8049D38 + 2 ^ 32 * (0x808)) = some (.dld .b32 true .plain 7 ⟨9, 0, 0, 8⟩)
    ∧ decodeTableWord 64 (0xE8049D3C + 2 ^ 32 * (2)) = some (.dst .b64 .rel 7 ⟨9, 0, 0, 0⟩)
    ∧ decodeTableWord 64 (0xE8648140 + 2 ^ 32 * (0)) = some (.damo .b64 .plain .add 0 9 6 0) := by
  decide +kernel

/-- SEND.p2 (11); RECV.try (11); RARM.pri1 (11); MBX (11); MBXW (11); RQPUSH.pri2 (11); RQPOP (11); SEMV (11); SEMW (11); PHASE.full (09); TSTART.vector (04 R84). -/
theorem test_decode_messages :
    decodeTableWord 64 (0x00960190 + 2 ^ 32 * (1)) = some (.send 1 false 12 9)
    ∧ decodeTableWord 64 (0x00051D94 + 2 ^ 32 * (1)) = some (.recv true 7 10)
    ∧ decodeTableWord 64 (0x00B51D98 + 2 ^ 32 * (1)) = some (.rarm 1 7 10 11)
    ∧ decodeTableWord 64 (0x0000299C + 2 ^ 32 * (0)) = some (.mbx 10 0)
    ∧ decodeTableWord 64 (0x009401A0 + 2 ^ 32 * (3)) = some (.mbxw 8 9 3)
    ∧ decodeTableWord 64 (0x000201A4 + 2 ^ 32 * (2)) = some (.rqpush 2 false 0 4)
    ∧ decodeTableWord 64 (0x000019A8 + 2 ^ 32 * (0)) = some (.rqpop false 6)
    ∧ decodeTableWord 64 (0x00000188 + 2 ^ 32 * (0x13)) = some (.semv 3 1)
    ∧ decodeTableWord 64 (0x0000018C + 2 ^ 32 * (3)) = some (.semw 3)
    ∧ decodeTableWord 64 (0x00001D84 + 2 ^ 32 * (2)) = some (.phase .full 7)
    ∧ decodeTableWord 64 (0x14941DAC + 2 ^ 32 * (1)) = some (.tstart .vector 7 8 9 10) := by
  decide +kernel

/-- HANDLE.ms (12); PERFORM (12); PERFORM.reg (12); VPERFORM (12); RESUME (12); RESUMEC (12); DISCARD (12); TOKQ (12); SWR WAITLIM (15); HVC (22). -/
theorem test_decode_effects :
    decodeTableWord 128 (0x000005C2 + 2 ^ 32 * (0xFFFE0120 + 2 ^ 32 * (0xC0 + 2 ^ 32 * 0x40))) = some (.handle true 0x120 0xFFFE 0xC0 0x40)
    ∧ decodeTableWord 64 (0x000001C8 + 2 ^ 32 * (0x120)) = some (.perform (.imm 0x120))
    ∧ decodeTableWord 64 (0x001481C8 + 2 ^ 32 * (0)) = some (.perform (.reg 9))
    ∧ decodeTableWord 64 (0x08000DCC + 2 ^ 32 * (0x01400088)) = some (.vperform .f32 3 2 0x140)
    ∧ decodeTableWord 64 (0x005201D0 + 2 ^ 32 * (0)) = some (.resume 4 5)
    ∧ decodeTableWord 64 (0x005601D4 + 2 ^ 32 * (0)) = some (.resumec 12 5)
    ∧ decodeTableWord 64 (0x000201D8 + 2 ^ 32 * (0)) = some (.discard 4)
    ∧ decodeTableWord 64 (0x000635E0 + 2 ^ 32 * (0)) = some (.tokq 13 12)
    ∧ decodeTableWord 64 (0x000481E8 + 2 ^ 32 * (0x20)) = some (.swr .write 0 9 0x20)
    ∧ decodeTableWord 64 (0x000001F0 + 2 ^ 32 * (0x13)) = some (.hvc 0x13) := by
  decide +kernel

/-- VFMA (17); VLD (17); VST (18); VCMP.lt (17); KSET (17); VTLU by R47 and R306, since the word that 17
prints, 0x0400486C, holds opcode 0x1B (log entry 24); VTCFG (17). -/
theorem test_decode_vector :
    decodeTableWord 64 (0x0490CA0C + 2 ^ 32 * (0x88)) = some (.vfma .f32 .rne ⟨2, 1, false⟩ 3 4 2)
    ∧ decodeTableWord 64 (0x04000674 + 2 ^ 32 * (0x40004866)) = some (.vld .bf16 false 0 ⟨1, 1, false⟩ 9)
    ∧ decodeTableWord 64 (0x04000A78 + 2 ^ 32 * (0x40006066)) = some (.vst .bf16 false 0 2 1 12)
    ∧ decodeTableWord 64 (0x00150E3C + 2 ^ 32 * (0x00020088)) = some (.vcmp .f32 .lt 3 0 false 4 5)
    ∧ decodeTableWord 64 (0x00000698 + 2 ^ 32 * (0x5066)) = some (.kset .bf16 1 10)
    ∧ decodeTableWord 64 (0x04004A6C + 2 ^ 32 * (0x66)) = some (.vtlu .bf16 .bf16 .rne 0 false ⟨2, 1, false⟩ 1)
    ∧ decodeTableWord 64 (0x00000270 + 2 ^ 32 * (0x4800)) = some (.vtcfg 0 9) := by
  decide +kernel

/-- MCFG (19 R336); MLDB (19 R336); MSWAP (19 R336); MMUL with P1 from g12 (03); MZERO (19 R336); MOUT (19 R336); MSTAT.clr by R42 and R58, since the word that 19 R336 prints, 0x00001D18, holds
opcode 0x46 (log entry 24); MRED (19 R336). -/
theorem test_decode_matrix :
    decodeTableWord 64 (0x00000300 + 2 ^ 32 * (0xCF)) = some (.mcfg 15 0 .mxfp4)
    ∧ decodeTableWord 192 (0x00000307 + 2 ^ 32 * (0x12 + 2 ^ 64 * (0x01000100 + 2 ^ 64 * 3))) = some (.mldb ⟨0, 0, 0x01000100, 0, 3, 2, true⟩)
    ∧ decodeTableWord 64 (0x00000308 + 2 ^ 32 * (0)) = some (.mswap)
    ∧ decodeTableWord 192 (0x0000030F + 2 ^ 32 * (0x00020000 + 2 ^ 32 * (0x40 + 2 ^ 32 * (0xC + 2 ^ 32 * 0x00100000)))) = some (.mmul ⟨2, 0x40, 12, 0x00100000, 0, 0, false⟩)
    ∧ decodeTableWord 64 (0x00A48310 + 2 ^ 32 * (0)) = some (.mzero 9 10)
    ∧ decodeTableWord 192 (0x00000317 + 2 ^ 32 * (0x13 + 2 ^ 64 * (0x8000 + 2 ^ 32 * (0x01000040 + 2 ^ 32 * 8)))) = some (.mout ⟨0, 0, 0x8000, 0x01000040, 8, 3, true⟩)
    ∧ decodeTableWord 64 (0x00001F18 + 2 ^ 32 * (1)) = some (.mstat .clr 7)
    ∧ decodeTableWord 192 (0x0000031F + 2 ^ 32 * (2 ^ 64 * (0x00100000 + 2 ^ 32 * 15))) = some (.mred ⟨0, 0, 0x00100000, 15, 0, 0, false⟩) := by
  decide +kernel

/-- CPY (20); CPYW.tile (20); CPYQ (20); CPYX (20); TLBI.bcast (20); XLAT (20). -/
theorem test_decode_copies :
    decodeTableWord 64 (0x00002340 + 2 ^ 32 * (0)) = some (.cpy false 8)
    ∧ decodeTableWord 64 (0x00048344 + 2 ^ 32 * (9)) = some (.cpyw .tile 1 9)
    ∧ decodeTableWord 64 (0x00001F48 + 2 ^ 32 * (2)) = some (.cpyq false 2 7)
    ∧ decodeTableWord 64 (0x00041F4C + 2 ^ 32 * (0)) = some (.cpyx .handle 7 8)
    ∧ decodeTableWord 64 (0x00048350 + 2 ^ 32 * (2)) = some (.tlbi .bcast 9)
    ∧ decodeTableWord 64 (0x00049F54 + 2 ^ 32 * (0)) = some (.xlat false 7 9) := by
  decide +kernel

/-- A P-format word of the table's 64 bits stands for one whose parameter words are zero. -/
theorem test_decode_short_row : decodeTableWord 64 0x0000030F = some (.mmul ⟨0, 0, 0, 0, 0, 0, false⟩) := by decide +kernel
/-- A reserved field that is not zero is refused by its bit (03 R62): bit 20 of a `mbx`. -/
theorem test_decode_refuses_reserved : decode 0x0010299C = .field 20 := by decide +kernel

/-! ## What the well-formedness check refuses -/

/-- One ill-formed term for each restriction, each refused; the first is a term that is well formed. -/
theorem test_ill_formed_refused :
    Instr.wf (.ext true 7 5 60 4) = true
    ∧ [Instr.ext true 7 5 61 4, .ext true 7 5 3 0, .ins 7 5 63 2, .gaddr false true 1 9 8 0, .gaddr false false 0 9 8 0x70000,
      .gaddr false false 2 9 8 0x100000, .br .b64 none 1 0 8, .br .b64 none 0 1 8, .br .b64 none 0 0 6, .call 1 2, .loop 1 4,
      .loop 1 10, .loopi 8 1, .loopi 14 1, .ld .b64 false .rel .g 1 ⟨0, 0, 0, 0⟩, .st .b64 .acq .g 1 ⟨0, 0, 0, 0⟩,
      .st .b64 .counted .g 1 ⟨0, 0, 0, 0⟩, .ldm .b64 false .plain .g 29 ⟨0, 0, 0, 0⟩, .ldm .b64 false .rel .g 1 ⟨0, 0, 0, 0⟩,
      .stm .b64 .plain .g 29 ⟨0, 0, 0, 0⟩, .stm .b64 .counted .glob 1 ⟨0, 0, 0, 0⟩, .amo .b16 .plain .add .g 1 2 3 0,
      .amo .b64 .counted .add .g 1 2 3 0, .cas .b8 .plain .g 1 2 3 0, .cas .b64 .counted .g 1 2 3 0, .fence 0 .tile,
      .dld .b64 false .rel 1 ⟨0, 0, 0, 0⟩, .dst .b64 .acq 1 ⟨0, 0, 0, 0⟩, .damo .b16 .plain .add 1 2 3 0,
      .damo .b64 .counted .add 1 2 3 0].all (fun i => i.wf = false) := by decide +kernel
/-- The same for the instructions of messages, effects, vectors and copies. -/
theorem test_ill_formed_refused_2 :
    [Instr.wqpop false 28, .wqpush false false 1 29 2, .wqpush false true 1 4 2, .semv 1 0, .send 3 false 29 4, .recv false 28 4,
      .rqpop false 31, .treap false 0 1, .treap false 31 1, .handle false 1 1 2 16, .handle false 1 1 4 12,
      .handle false 1 1 4 18, .perform (.imm 0xFF), .vperform .f32 1 1 0xFF, .vadd .e4m3 .rne false ⟨1, 0, false⟩ 2 3,
      .vadd .f32 .rne true ⟨1, 0, false⟩ 2 3, .vsub .e5m2 .rne false ⟨1, 0, false⟩ 2 3, .vmul .f16 .rne true ⟨1, 0, false⟩ 2 3,
      .vfma .e4m3 .rne ⟨1, 0, false⟩ 2 3 4, .vsqrt .i32 .rne ⟨1, 0, false⟩ 2, .vshl .f32 ⟨1, 0, false⟩ 2 3, .viota .bf16 true ⟨1, 0, false⟩,
      .vcvt .f32 .f32 .rne 1 false ⟨1, 0, false⟩ 2, .vcvt .bf16 .f32 .rne 2 false ⟨1, 0, false⟩ 2,
      .vquant .e4m3 .i32 .rne 0 false false ⟨1, 0, false⟩ 2 3 4, .vdeq .i8 .e4m3 .rne 0 false ⟨1, 0, false⟩ 2 3 4,
      .vred .f32 .rne .add true 1 0 2 3, .vbcast .f32 true 32 ⟨1, 0, false⟩ 2 3, .vmovg .f32 false 32 1 2,
      .vslide .f32 33 true false ⟨1, 0, false⟩ 2 3 4, .vslide .f32 1 true true ⟨1, 0, false⟩ 2 3 4,
      .vtlu .i32 .f32 .rne 0 false ⟨1, 0, false⟩ 2, .vtlu .f32 .i32 .rne 0 false ⟨1, 0, false⟩ 2, .vpack .i32 .rne .zb4 0 1 2,
      .vpack .f32 .rne .bf16 0 1 2, .vpack .f32 .rne .zb4 105 1 2, .vunpk .f32 .rne .i8 0 ⟨1, 0, false⟩ 2,
      .vclass .i8 1 1 0 false 2, .tick 0, .illegalOp 0 0].all (fun i => i.wf = false) := by decide +kernel

/-! ## Witnesses: for each statement with hypotheses, states and operands that meet them, clause by clause -/

/-- The launch record of a small state, changed. -/
def withRecord (f : LaunchRec → LaunchRec) (s : State) : State :=
  s.setLaunch 1 { s.launchAt 1 with record := f (s.launchAt 1).record }
/-- A level-1 scalar slot 0. -/
def raised (l : List (Reg × Word)) : State := on 0 .scalar { regs l with tstatus := 1 }
/-- Slot 0 bound to an engine, with some registers. -/
def unit (e : Engine) (l : List (Reg × Word)) : State := on 0 e (regs l)
/-- Slot n's record changed. -/
def slotIs (n : Nat) (f : Slot → Slot) (s : State) : State := s.setSlot n (f (s.slotAt n))
/-- The issuing slot's tile changed. -/
def tileIs (f : Tile → Tile) (s : State) : State := s.setTile 0 (f (s.tileAt 0))
/-- Core 0 changed. -/
def coreIs (k : Nat) (f : Core → Core) (s : State) : State := s.setCore k (f (s.coreAt k))

theorem witness_ProductsAndQuotients :
    uval .b8 ((scalar [(2, 0xFF)]).g 2) ≠ 0
    ∧ uval .b8 ((scalar [(2, 0x100)]).g 2) = 0 ∧ bit ((scalar [(2, 0x100)]).img 0).effen 0x10 = false := by decide +kernel

theorem witness_ExtensionsFieldsAndConstants : 1 ≤ (1 : Fin 65).val ∧ (63 : Fin 64).val + (1 : Fin 65).val ≤ 64 := by decide +kernel

theorem witness_GlobalAddressesFormedAndTold :
    (let s := raised [(2, 0)];
      s.level 0 ≠ 0 ∧ isOrdinary s.cur = true ∧ bits (s.g 2) 63 12 = 0 ∧ bits (s.g 2) 11 2 < s.tilesOf 0)
    ∧ (let s := pump [(2, 4)]; s.level s.cur = 0 ∧ isOrdinary s.cur = false ∧ ¬ bits (s.g 2) 11 2 < s.tilesOf s.cur)
    ∧ (let s := scalar [(2, word (9 * 2 ^ 60 + 0 * 2 ^ 50 + 3 * 2 ^ 48 + 0x7FFFF))];
      0 < s.tilesOf 0 ∧ 0x7FFFF < 0x80000 ∧ s.g 2 = word (9 * 2 ^ 60 + 0 * 2 ^ 50 + 3 * 2 ^ 48 + 0 * 2 ^ 44 + 0x7FFFF))
    ∧ (let s := raised [(2, word (8 * 2 ^ 60 + 1023 * 2 ^ 50 + 3 * 2 ^ 48 + 6 * 2 ^ 44 + 0xFFFF))];
      s.level 0 ≠ 0 ∧ s.g 2 = word (8 * 2 ^ 60 + 1023 * 2 ^ 50 + 3 * 2 ^ 48 + 6 * 2 ^ 44 + 0xFFFF))
    ∧ (scalar []).g 2 = 0 := by decide +kernel

theorem witness_PlainAdvancesAndSleeps :
    (let s := scalar []; s.sealedHere = false ∧ min (0 + (s.g 2).toNat + (0 : BitVec 32).toNat) (2 ^ 64 - 1) ≤ s.tide.toNat
      ∧ s.tide.toNat < min (0 + (s.g 2).toNat + (1 : BitVec 32).toNat) (2 ^ 64 - 1))
    ∧ (closed []).sealedHere = true
    ∧ (let s := slotIs 3 (fun x => { x with wait := some (.sleep 0) }) (scalar []);
      (s.slotAt 3).wait = some (.sleep 0) ∧ 0 ≤ s.tide.toNat)
    ∧ (let s := slotIs 3 (fun x => { x with wait := some (.sleep 1) }) (scalar []);
      (s.slotAt 3).wait = some (.sleep 1) ∧ s.tide.toNat < 1) := by decide +kernel

theorem witness_BranchesAndCalls :
    (let s := scalar [(1, 8), (2, 6)];
      condHolds .ne .b64 (s.g 1) (s.g 2) = true ∧ condHolds .eq .b64 (s.g 1) (s.g 2) = false
      ∧ (s.g 1).toNat % 4 = 0 ∧ (s.g 2).toNat % 4 ≠ 0) := by decide +kernel

/-- A slot with some loop levels live. -/
def loops (n : Nat) : State := on 0 .scalar { regs [(2, 3)] with loops := List.replicate n ⟨8, 16, 2⟩ }

theorem witness_LoopLevelsPushEndAndLeave :
    (let s := loops 4;
      let stop := (s.img 0).pc + (0x1000 : BitVec 32).signExtend 64;
      s.codelim 0 ≤ stop.toNat)
    ∧ (let s := loops 4;
      let stop := (s.img 0).pc + (0xFFC : BitVec 32).signExtend 64;
      stop.toNat < s.codelim 0 ∧ s.g 1 = 0 ∧ s.g 2 ≠ 0 ∧ 4 ≤ (s.img 0).loops.length)
    ∧ ((loops 3).img 0).loops.length < 4 ∧ ((loops 0).img 0).loops = []
    ∧ ((loops 1).img 0).loops = ⟨8, 16, 2⟩ :: []
    ∧ (let l : LoopLevel := ⟨8, 16, 1⟩;
      (l.start ≤ (16 : Word) ∧ (16 : Word) ≤ l.stop) ∧ l.stop < (24 : Word) ∧ l.count = 1 ∧ (4 : Word) < l.start
      ∧ ¬ (l.start ≤ (24 : Word) ∧ (24 : Word) ≤ l.stop) ∧ (⟨8, 16, 2⟩ : LoopLevel).count ≠ 1) := by decide +kernel

theorem witness_SlotZeroStartsSiblings :
    (let s := scalar [(2, 15), (3, 0xFF8), (4, 0)];
      slotIdx s.cur = 0 ∧ (s.g 4).toNat < 1 ∧ 1 ≤ (s.g 2).toNat ∧ (s.g 2).toNat ≤ 15 ∧ (s.g 3).toNat % 4 = 0
      ∧ (s.slotAt (0 + 15)).state = .free ∧ s.imageTaken 15 15 = false ∧ s.bindingAllowed 15 .scalar = true
      ∧ s.bindingAllowed 15 .vector = false)
    ∧ (slotIs 1 (fun x => { x with state := .live, launch := 1, sel := 14 }) (scalar [(2, 15)])).imageTaken 15 15 = true
    ∧ ((slotIs 15 (fun x => { x with state := .live }) (scalar [(2, 15)])).slotAt 15).state ≠ .free
    ∧ slotIdx (on 1 .scalar (regs [])).cur ≠ 0
    ∧ (let s := slotIs 1 (fun x => { x with state := .live, turnFrom := 0 }) (scalar []);
      (s.slotAt 1).state = .live ∧ (s.slotAt 1).turnFrom ≤ s.now 1) := by decide +kernel

/-- A counted store of slot 0 that is not yet performed. -/
def countedWord : Counted := { slot := 0, tile := 0, due := some 0, loc := ⟨.g, 0, 8⟩, data := [1], counted := true }

/-- Slot 15 of core 0 in a state, beside the issuing slot 0. -/
def sibling (mode : BitVec 8) (st : SlotState) : State :=
  slotIs 15 (fun x => { x with state := st, launch := 1 }) (inMode mode 0 .scalar (regs [(2, 15)]))

theorem witness_SiblingsStopAndAreReaped :
    slotIdx (sibling 0 .free).cur = 0 ∧ ((sibling 0 .free).g 3).toNat < 1 ∧ 1 ≤ ((sibling 0 .free).g 2).toNat
    ∧ ((sibling 0 .free).g 2).toNat ≤ 15 ∧ ((sibling 0 .free).slotAt 15).state ≠ .live
    ∧ ((sibling 0 .live).slotAt 15).state = .live ∧ (sibling 0 .live).sealedHere = false ∧ (sibling 0 .live).stopHeld 15 = false
    ∧ (slotIs 15 (fun x => { x with issueFrom := 1, snap := some (0, 0) }) (sibling 0 .live)).stopHeld 15 = true
    ∧ ((sibling 1 .live).slotAt 15).state = .live ∧ (sibling 1 .live).sealedHere = true
    ∧ ((sibling 0 .halted).slotAt 15).state = .halted ∧ ((sibling 0 .halted).landOwn 15).outstanding 15 = false
    ∧ (∀ m ∈ ([0, 1] : List (BitVec 8)), (({ sibling m .halted with culvert := [{ countedWord with slot := 15, due := some 40 }] } : State).landOwn 15).outstanding
        15 = true) ∧ ((sibling 0 .stopped).slotAt 15).state = .stopped
    ∧ ((sibling 0 .parked).slotAt 15).state = .parked ∧ ((sibling 0 .free).slotAt 15).state = .free
    ∧ slotIdx (on 17 .scalar (regs [])).cur ≠ 0 := by decide +kernel

theorem witness_SlotsTellTheirStateAndEnd :
    (let s := scalar [(2, 15)];
      slotIdx s.cur = 0 ∧ (s.g 1).toNat < 1 ∧ 1 ≤ (s.g 2).toNat ∧ (s.g 2).toNat ≤ 15 ∧ isOrdinary s.cur = true
      ∧ s.sealedHere = false ∧ s.partner s.cur = none ∧ s.membership s.cur = none)
    ∧ slotIdx (on 1 .scalar (regs [])).cur ≠ 0 ∧ (closed []).sealedHere = true := by decide +kernel

/-- A small state whose region holds a share of the launch. -/
def sharing (mode : BitVec 8) (x : Share) : State := (inMode mode 0 .scalar (regs [(2, 1)])).setShare 0 1 x
/-- Partition 0 with its first GiB of addresses mapped one to one, for reading, writing and atomics. -/
def mapped (s : State) : State :=
  let t := s.setPart 0 { s.partAt 0 with configured := true, started := true, ranges := [(0, 2 ^ 31)], root := some 0x1000, pumpSlots := [0] }
  { t with mem := storeNat (storeNat (storeNat t.mem 0x1000 8 0x2001) 0x2000 8 0x3001) 0x3000 8 0x1F }
/-- The same as `sharing` with a spillway. -/
def spilling (x : Share) : State :=
  let s := withRecord (fun r => { r with spill := 0x1000, spillsize := 4096 }) (sharing 0 x)
  s.setPart 0 { s.partAt 0 with configured := true }

theorem witness_WorkQueueTakesAndGives :
    (sharing 0 {}).sealedHere = false ∧ (sharing 1 {}).sealedHere = true
    ∧ (let x := (sharing 0 { closed := true }).shareAt 0 1; x.closed = true ∧ x.recs = [] ∧ x.spilled = [])
    ∧ (let x := (sharing 0 {}).shareAt 0 1; x.recs = [] ∧ x.closed = false)
    ∧ (let x := (sharing 0 { closed := true, spilled := [0] }).shareAt 0 1; x.recs = [] ∧ x.spilled ≠ [])
    ∧ (let x := (sharing 0 { size := 1, recs := [[1, 2, 3, 4]] }).shareAt 0 1;
      x.recs = [1, 2, 3, 4] :: [] ∧ ((sharing 0 x).regionAt 0).withheld = false ∧ x.closed = false ∧ x.size ≤ x.recs.length
      ∧ ((sharing 0 x).launchAt 1).record.spill = 0)
    ∧ (sharing 0 {}).tilesOf 0 ≤ ((sharing 0 {}).g 2).toNat ∧ ((sharing 0 {}).g 3).toNat < (sharing 0 {}).tilesOf 0
    ∧ (let x := (sharing 0 { size := 1 }).shareAt 0 1; x.closed = false ∧ x.recs.length < x.size ∧ x.spilled = [])
    ∧ (let s := mapped (spilling { size := 1, spilled := [3, 4] });
      let x := s.shareAt 0 1;
      x.spilled = 3 :: [4] ∧ x.recs.length < x.size ∧ s.translate (s.launchAt 1).part ((s.launchAt 1).record.spill + 32 * 3) .r = .ok 0x1060) := by
  decide +kernel

/-- The effective address of `a[g2 + 0]`, and of one with an offset. -/
def addr (off : BitVec 24) : Addr := ⟨2, 0, 0, off⟩

theorem witness_AliasLoadsAndStores :
    (let s := scalar [(2, 0x6FFF8)];
      let x := s.effAddr (addr 0);
      x.toNat % 8 = 0 ∧ s.rangesOf ⟨.g, 0, x.toNat⟩ = [] ∧ x.toNat + 8 ≤ 0x70000 ∧ s.poisoned ⟨.g, 0, x.toNat⟩ 8 = false
      ∧ (s.launchOf s.cur).isChecked = false)
    ∧ (let s := scalar [(2, 0x1FFFE0)];
      let x := s.effAddr (addr 0);
      isOrdinary s.cur = true ∧ x.toNat % 8 = 0 ∧ s.rangesOf ⟨.a, 0, x.toNat⟩ = [] ∧ x.toNat + 4 * 8 ≤ 0x200000
      ∧ s.poisoned ⟨.a, 0, x.toNat⟩ (8 * 4) = false) := by decide +kernel

theorem witness_AliasAccessesAreChecked :
    (let s := scalar [(2, 0x6FFF9)];
      let x := s.effAddr (addr 0);
      0x70000 < x.toNat + 8 ∧ 0x70000 < x.toNat + 8 * 4 ∧ s.level 0 = 0)
    ∧ (let s := scalar [(2, 0xFFFDF)];
      let x := s.effAddr (addr 0);
      x.toNat + 8 ≤ 0x100000 ∧ x.toNat + 8 * 4 ≤ 0x100000 ∧ x.toNat % 8 ≠ 0) := by decide +kernel

/-- A small state with an access under way from slot 1. -/
def under (w : Wait) : State := slotIs 1 (fun x => { x with state := .live, launch := 1, wait := some w }) (scalar [(2, word (9 * 2 ^ 60 + 0x7FFF8))])
/-- A window of core 0 that admits launch 1 to all of G with every right. -/
def open_ (s : State) : State :=
  coreIs 0 (fun c => { c with win := #v[0, 0x80000, 0xF, word (2 ^ 32 + 2 ^ 16 + 1), 0, 0, 0, 0, 0, 0, 0, 0, 0, 0, 0, 0] }) s
/-- A load and a store of the last word of core 0's G store. -/
def farLoad : Access := ⟨.load false, 8, 1, 7, [], word (9 * 2 ^ 60 + 0x7FFF8), ⟨.g, 0, 0x7FFF8⟩⟩
/-- The store of the same word. -/
def farStore : Access := { farLoad with op := .store, data := [5] }

/-- A state with one word of G, at 0x6FFF8, empty or full. -/
def tagged (mode : BitVec 8) (full : Bool) (v : Word) : State :=
  (inMode mode 0 .scalar (regs [(2, 0x6FFF8), (3, v)])).setTag ⟨.g, 0, 0x6FFF8⟩ full

theorem witness_TaggedAccesses :
    (let s := tagged 0 true (word (2 ^ 63 + 1));
      let x := s.effAddr (addr 0);
      x.toNat % 8 = 0 ∧ x.toNat + 8 ≤ 0x70000 ∧ s.poisoned (gLoc 0 x.toNat) 8 = false
      ∧ s.tagFull (gLoc 0 x.toNat) = true ∧ s.sealedHere = false ∧ bits (s.g 3) 62 0 = 1 ∧ bits (s.g 1) 62 0 = 0)
    ∧ (tagged 0 false 0).tagFull (gLoc 0 0x6FFF8) = false ∧ (tagged 1 true 0).sealedHere = true
    ∧ (let s := scalar [(2, word (9 * 2 ^ 60 + 0x7FFF8)), (3, 1)];
      s.globalLoc (s.effAddr (addr 0)) = .ok ⟨.g, 0, 0x7FFF8⟩ ∧ (s.effAddr (addr 0)).toNat % 8 = 0 ∧ 0x7FFF8 + 8 * bits (s.g 3) 62 0 ≤ spSize .g
      ∧ s.sealedHere = false)
    ∧ (∀ full, let a := { farLoad with op := .ldf }; let s := (open_ (under (.globalOut a 0))).setTag a.loc full;
      (s.slotAt 1).wait = some (.globalOut a 0) ∧ a.op.tagOp = some .ldf ∧ s.requestLate 1 a = false
      ∧ (∀ j ∈ s.pairOf 1, (s.slotAt j).stopDue = false) ∧ s.windowRefusal 1 a.loc (a.bytes * a.count) a.op.rights = none
      ∧ (s.landAccepted a.loc 8).poisoned a.loc 8 = false ∧ s.tagReady .ldf a.loc = full
      ∧ a.bytes = 8 ∧ a.count = 1 ∧ (∀ o ∈ ([.ldf, .lde, .stf] : List TagOp), (s.landAccepted a.loc 8).tagWaiters a.loc o = []))
    ∧ (∀ op ∈ ([.stff, .tagq, .tagset true] : List AccessOp), let a := { farLoad with op := op, count := if op = .tagset true then 0 else 1 };
      let s := open_ (under (.globalOut a 0));
      (s.slotAt 1).wait = some (.globalOut a 0) ∧ a.bytes = 8 ∧ s.windowRefusal 1 a.loc (8 * a.count) a.op.rights = none
      ∧ (s.landAccepted a.loc (8 * a.count)).poisoned a.loc (8 * a.count) = false
      ∧ (∀ o ∈ ([.ldf, .lde, .stf] : List TagOp), (s.landAccepted a.loc (8 * a.count)).tagWaiters a.loc o = []))
    ∧ (∀ c ∈ [64, 65], let a := { farLoad with op := .tagset false, count := c }; let s := under (.globalIn a (.done []));
      (s.slotAt 1).wait = some (.globalIn a (.done [])) ∧ (∀ j ∈ s.pairOf 1, (s.slotAt j).stopDue = false))
    ∧ ∀ op, (tagged 0 true 0).tagWaiters (gLoc 0 0x6FFF8) op = [] := by
  refine ⟨by decide +kernel, by decide +kernel, by decide +kernel, by decide +kernel, by decide +kernel, by decide +kernel,
    by decide +kernel, fun op => ?_⟩
  cases op <;> decide +kernel

theorem witness_AtomicsReadModifyWrite :
    (let s := scalar [(2, 0x6FFFC)];
      let x := s.effAddrAB 2 0;
      x.toNat % 4 = 0 ∧ x.toNat + 4 ≤ 0x70000 ∧ s.poisoned (gLoc 0 x.toNat) 4 = false ∧ s.sealedHere = false)
    ∧ (closed [(2, 0x6FFFC)]).sealedHere = true
    ∧ (let s := scalar [(2, word (9 * 2 ^ 60 + 0x7FFFC))];
      s.globalLoc (s.effAddrAB 2 0) = .ok ⟨.g, 0, 0x7FFFC⟩ ∧ (s.effAddrAB 2 0).toNat % 4 = 0 ∧ 0x7FFFC + 4 ≤ spSize .g)
    ∧ (∀ op ∈ ([.add, .and, .or, .xor, .min, .max, .minu, .maxu, .swap] : List Aop).map .amo ++ [.cas 0], let a := { farLoad with op := op, data := [5] }
      let s := open_ (under (.globalOut a 0));
      (s.slotAt 1).wait = some (.globalOut a 0) ∧ a.bytes = 8 ∧ s.windowRefusal 1 a.loc (8 * a.count) 4 = none
      ∧ (s.landAccepted a.loc (8 * a.count)).poisoned a.loc (8 * a.count) = false) := by decide +kernel

/-- A small state in which core 0 checks some ranges of G, in a checked launch or not. -/
def checkedRanges (mode : BitVec 8) (n : Nat) (v : Word) : State :=
  coreIs 0 (fun c => { c with ranges := (List.range n).map fun i => (64 * i, 64) })
    (inMode mode 0 .scalar (regs [(2, 0x6FFC0), (3, v), (4, 63), (5, 0x70000)]))

theorem witness_FencesAndRaceRanges :
    (let s := scalar []; s.culvert = [] ∧ (s.slotAt 0).engine ≠ .matrix)
    ∧ (let s := tileIs (fun t => { t with mx := { t.mx with queue := [.mswap] } }) (unit .matrix []);
      (0xFF : BitVec 8).getLsbD 3 = true ∧ isOrdinary s.cur = true ∧ (s.slotAt s.cur).engine = .matrix
      ∧ (s.tileAt (tileOf s.cur)).mx.queue ≠ [])
    ∧ (let s := { scalar [] with culvert := [countedWord] };
      ∃ y ∈ s.culvert, y.slot = s.cur ∧ (0x40 : BitVec 8).getLsbD y.cls = true)
    ∧ (let s := checkedRanges 0 0 64;
      let x := s.effAddr (addr 0);
      x.toNat + bits (s.g 3) 62 0 ≤ 0x70000 ∧ x.toNat % 64 = 0 ∧ bits (s.g 3) 62 0 % 64 = 0 ∧ bits (s.g 3) 62 0 ≠ 0
      ∧ (s.launchOf 0).isChecked = false ∧ bits (s.g 4) 62 0 % 64 ≠ 0 ∧ bits (s.g 1) 62 0 = 0)
    ∧ (let s := checkedRanges 4 4 64;
      (s.launchOf 0).isChecked = true ∧ bit (s.g 3) 63 = false ∧ 4 ≤ (s.coreAt 0).ranges.length)
    ∧ ((checkedRanges 4 3 64).coreAt 0).ranges.length < 4
    ∧ (let s := checkedRanges 4 4 (word (2 ^ 63 + 64)); bit (s.g 3) 63 = true ∧ bits (s.g 3) 62 0 = 64) := by decide +kernel

/-- Group 2 of launch 1 with slot 0 as its one member and one entry. -/
def oneMember : Group := { num := 2, members := [0], prog := [⟨1, 1, false, false, false, false, 0⟩], region := 0, phase := [7] }
/-- A small state with a group. -/
def grouped (g : Group) : State := (scalar []).setLaunch 1 { running 0 with groups := [g] }

theorem witness_GlobalAccessesGoToTheirOwner :
    (let s := scalar [(2, word (9 * 2 ^ 60 + 0x7FFF8))];
      s.globalLoc (s.effAddr (addr 0)) = .ok ⟨.g, 0, 0x7FFF8⟩ ∧ 0x7FFF8 + 8 ≤ spSize .g ∧ (s.effAddr (addr 0)).toNat % 8 = 0
      ∧ s.groupTiles s.cur = [])
    ∧ (let s := scalar [(2, word (9 * 2 ^ 60 + 0x7FFE0)), (4, word (9 * 2 ^ 60 + 3 * 2 ^ 44))];
      s.globalLoc (s.effAddr (addr 0)) = .ok ⟨.g, 0, 0x7FFE0⟩ ∧ 0x7FFE0 + 8 * 4 ≤ spSize .g ∧ s.globalLoc (s.effAddr ⟨4, 0, 0, 0⟩) = .ok ⟨.w, 0, 0⟩)
    ∧ (∀ c ∈ [4075, 4076], let s := withRecord (fun r => { r with mode := 2 }) (tileIs (fun t => { t with cycle := c }) (grouped { oneMember with region := 0, edges := [some 0] }));
      0 ∈ s.groupTiles s.cur ∧ s.membership s.cur = some (1, { oneMember with region := 0, edges := [some 0] }, 0) ∧ (s.launchAt 1).isLevel = true
      ∧ s.now s.cur + 20 + 4 * hops (s.tileAt 0).logTile (s.tileAt 0).logTile = c + 20)
    := by decide +kernel

theorem witness_GlobalAccessesGoToTheirOwner_2 :
    (let s := under (.globalOut farLoad 0);
      (s.slotAt 1).wait = some (.globalOut farLoad 0) ∧ s.windowRefusal 1 farLoad.loc (8 * 1) (AccessOp.load false).rights = some 0
      ∧ s.requestLate 1 farLoad = false ∧ farLoad.op.tagOp = none ∧ ∀ y ∈ s.culvert, y.cls = 6 → y.counted = true)
    ∧ (let s := coreIs 0 (fun c => { c with tagSeen := [((gLoc 0 0x7FFF8).key, 0xFFFFF)] })
        (under (.globalOut { farLoad with op := .ldf } 0));
      s.requestLate 1 { farLoad with op := .ldf } = true)
    ∧ (let s := open_ (under (.globalOut farLoad 0));
      s.windowRefusal 1 farLoad.loc (8 * 1) (AccessOp.load false).rights = none ∧ s.rangesOf farLoad.loc = []
      ∧ (s.launchOf 1).isChecked = false ∧ farLoad.loc.sp ≠ .ctx ∧ s.poisoned farLoad.loc (8 * 1) = false)
    ∧ (let s := open_ (under (.globalOut farStore 0));
      (s.slotAt 1).wait = some (.globalOut farStore 0) ∧ s.windowRefusal 1 farStore.loc (8 * 1) AccessOp.store.rights = none
      ∧ s.requestLate 1 farStore = false ∧ s.rangesOf farStore.loc = [] ∧ s.postsGlobal 1 farStore = false
      ∧ (slotIs 1 (fun x => { x with posting := true }) s).postsGlobal 1 farStore = true)
    ∧ (let s := under (.globalIn farStore (.done []));
      (s.slotAt 1).wait = some (.globalIn farStore (.done [])) ∧ ∀ j ∈ s.pairOf 1, (s.slotAt j).stopDue = false)
    ∧ (let s := slotIs 1 (fun x => { x with stopDue := true }) (under (.globalIn farStore (.done [])));
      (s.slotAt 1).wait = some (.globalIn farStore (.done [])) ∧ (s.slotAt 1).stopDue = true
      ∧ (s.setSlot 1 { s.slotAt 1 with wait := none }).stopHeld 1 = false)
    ∧ (∀ op ∈ ([.load true, .ldf, .lde, .tagq, .amo .add, .cas 0] : List AccessOp), let a := { farLoad with op := op };
      ((under (.globalIn a (.done [9]))).slotAt 1).wait = some (.globalIn a (.done [9])))
    ∧ (∀ op ∈ ([.store, .stf, .stff] : List AccessOp), let a := { farLoad with op := op }; ((under (.globalIn a (.done []))).slotAt 1).wait = some (.globalIn a (.done [])))
    ∧ ((under (.globalIn farLoad (.window 1))).slotAt 1).wait = some (.globalIn farLoad (.window 1))
    ∧ (let s : State := { scalar [] with culvert := [countedWord, countedWord] };
      s.culvert[0]? = some countedWord ∧ countedWord.counted = true ∧ countedWord.rel = true ∧ s.countedReady countedWord = true
      ∧ (∀ z ∈ s.culvert.take 0, z.slot ≠ countedWord.slot) ∧ s.culvert[1]? = some countedWord
      ∧ ∃ z ∈ s.culvert.take 1, z.slot = countedWord.slot)
    ∧ (let s := (under (.tagged .ldf 1 ⟨.g, 0, 8⟩ 8 2)).setImage 1 { waitlim := 1 };
      (s.slotAt 1).wait = some (.tagged .ldf 1 ⟨.g, 0, 8⟩ 8 2) ∧ bits (s.img 1).waitlim 31 0 ≠ 0 ∧ bits (s.img 1).waitlim 31 0 < 2)
    ∧ (let s := under (.expired .ldf 8);
      (s.slotAt 1).wait = some (.expired .ldf 8) ∧ bit (s.img 1).effen 0x0D = false ∧ s.turnDue 1 = false ∧ s.partner 1 = none
      ∧ (tileIs (fun t => { t with cycle := 1 }) s).turnDue 1 = true)
    ∧ (let s := (under (.tagged .ldf 1 ⟨.g, 0, 8⟩ 8 1)).setImage 1 { waitlim := 1 };
      (s.slotAt 1).wait = some (.tagged .ldf 1 ⟨.g, 0, 8⟩ 8 1) ∧ 1 ≤ bits (s.img 1).waitlim 31 0)
    ∧ bits ((under (.tagged .ldf 1 ⟨.g, 0, 8⟩ 8 1)).img 1).waitlim 31 0 = 0 := by decide +kernel

/-- The group after its last firing. -/
def fired : Group := { oneMember with base := 1, decided := [⟨0, [(0, 0)], none⟩] }

theorem witness_SluiceWaitsAndPhases :
    (let s := grouped oneMember;
      s.membership s.cur = some (1, oneMember, 0) ∧ oneMember.breach = none ∧ oneMember.remains 0 = true
      ∧ bit (s.img s.cur).effen 0x1A = false)
    ∧ (scalar []).membership 0 = none
    ∧ (let g := { oneMember with breach := some (2, 0), breachAt := (1, 0) };
      (grouped g).membership 0 = some (1, g, 0) ∧ g.breach = some (2, 0) ∧ (grouped g).breachOver ((grouped g).launchAt 1) g (2, 0) = true)
    ∧ (let g := { oneMember with breach := some (2, 0), breachAt := (0, 0) };
      (grouped g).membership 0 = some (1, g, 0) ∧ (grouped g).breachOver ((grouped g).launchAt 1) g (2, 0) = false)
    ∧ (grouped fired).membership 0 = some (1, fired, 0) ∧ fired.breach = none ∧ fired.remains 0 = false := by decide +kernel

/-- The group fired, with its member still blocked in WAIT at a later rotation edge, or at the cycle of the firing. -/
def firedAt (c : Nat) : State :=
  tileIs (fun t => { t with cycle := c }) (slotIs 0 (fun x => { x with wait := some (.sluice 1 2 0) }) (grouped fired))

/-- A group whose one entry is linked by tag 1 and apart from the link ready. -/
def linking : Group := { oneMember with prog := [⟨1, 1, true, false, false, false, 1⟩], waiting := [0] }
/-- Its partner in the launch, ready at tick 5 or not. -/
def linkedWith (l : List (Nat × Nat)) : Group := { linking with num := 3, members := [1], waiting := [], ready := l }
/-- A small state with the two groups. -/
def twoGroups (l : List (Nat × Nat)) : State := (scalar []).setLaunch 1 { running 0 with groups := [linking, linkedWith l] }

theorem witness_SluiceFiresAndReleases :
    (let s := grouped { oneMember with waiting := [0] };
      (s.launchAt 1).group 2 = some { oneMember with waiting := [0] } ∧ s.groupIn 1 { oneMember with waiting := [0] } = true
      ∧ ({ oneMember with waiting := [0] } : Group).window.all (fun p => !p.2.link) = true)
    ∧ (let s := (scalar []).setLaunch 1 { running 0 with phase := .saved, groups := [oneMember] };
      (s.launchAt 1).group 2 = some oneMember ∧ s.groupIn 1 oneMember = false)
    ∧ (let s := twoGroups []; let lc := s.launchAt 1;
      lc.group 2 = some linking ∧ s.groupIn 1 linking = true ∧ linking.breach = none ∧ linking.withdrawn = [] ∧ linking.ready = []
      ∧ linking.window = [(0, ⟨1, 1, true, false, false, false, 1⟩)] ∧ lc.partners linking 1 = [linkedWith []] ∧ (s.landWaiters lc linking).outstanding (lc.slotOf 0) = false
      ∧ (linkedWith []).readyFor 1 (linking.occurrence 0 1) = none)
    ∧ (let s := twoGroups [(0, 5)]; let lc := s.launchAt 1;
      lc.group 2 = some linking ∧ s.groupIn 1 linking = true ∧ (s.landWaiters lc linking).outstanding (lc.slotOf 0) = false
      ∧ linking.windowAt (s.sluiceCycle lc linking) = [(0, ⟨1, 1, true, false, false, false, 1⟩)]
      ∧ lc.partners linking 1 = [linkedWith [(0, 5)]] ∧ lc.group 3 = some (linkedWith [(0, 5)])
      ∧ s.groupIn 1 (linkedWith [(0, 5)]) = true
      ∧ (linkedWith [(0, 5)]).readyFor 1 (linking.occurrence 0 1) = some (0, 5)
      ∧ entryAt (linkedWith [(0, 5)]).seq 0 = some ⟨1, 1, true, false, false, false, 1⟩)
    ∧ (let s := firedAt 16; let lc := s.launchAt 1;
      lc.group 2 = some fired ∧ fired.decided.find? (fun r => r.pos = 0) = some ⟨0, [(0, 0)], none⟩
      ∧ s.releaseDue lc fired ⟨0, [(0, 0)], none⟩ 0 = true
      ∧ (s.slotAt (lc.slotOf (fired.members.getD 0 0))).wait = some (.sluice 1 2 0))
    ∧ (let s := firedAt 0; s.releaseDue (s.launchAt 1) fired ⟨0, [(0, 0)], none⟩ 0 = false) := by decide +kernel

theorem witness_SemaphoresCount :
    (let s := tileIs (fun t => { t with sems := t.sems.set 3 250 }) (scalar []);
      isOrdinary s.cur = true ∧ s.semWaiters 0 3 = [] ∧ (s.tileAt 0).sems[3].toNat + (5 : BitVec 8).toNat ≤ 255
      ∧ 255 < (s.tileAt 0).sems[3].toNat + (6 : BitVec 8).toNat ∧ (s.tileAt 0).sems[3] ≠ 0 ∧ (s.tileAt 0).sems[4] = 0)
    ∧ isOrdinary (pump []).cur = false := by decide +kernel

/-- A message of slot 0 in core 0's buffer. -/
def message : Msg := ⟨1, 0, 3, [1, 2], false, none⟩
/-- A message of a slot of module 5. -/
def foreign : Msg := ⟨1, word (2 ^ 63 + 5 * 2 ^ 17), 3, [1], false, none⟩

theorem witness_MessagesTravel :
    (let s := scalar [(2, 3), (3, 4)]; bits (s.g 2) 63 12 = 0 ∧ (s.g 2).toNat / 4 < s.tilesOf 0 ∧ ¬ (s.g 3).toNat / 4 < s.tilesOf 0
      ∧ s.farDestination 0 (word (3 * 2 ^ 60 + 5 * 2 ^ 48)) = some .away ∧ s.farDestination 0 (s.g 2) = none)
    ∧ (let s := under (.send ⟨3, false, false, [1]⟩);
      (s.slotAt 1).wait = some (.send ⟨3, false, false, [1]⟩) ∧ s.destination 1 false 3 = some (.core 3 1)
      ∧ ((s.coreAt 3).rx.countP fun m => m.seat.isNone) < 48
      ∧ (s.coreAt 3).arms = [] ∧ s.recvWaiters 3 1 (s.nameOf 1) = [] ∧ s.popWaiters 3 = [])
    ∧ (let s := under (.send ⟨4, false, false, [1]⟩); (s.slotAt 1).wait = some (.send ⟨4, false, false, [1]⟩) ∧ s.destination 1 false 4 = none)
    ∧ (let x := word (3 * 2 ^ 60 + 5 * 2 ^ 48); let s := under (.send ⟨x, true, true, [1]⟩);
      (s.slotAt 1).wait = some (.send ⟨x, true, true, [1]⟩) ∧ s.destination 1 true x = some .away)
    ∧ (let x := word (3 * 2 ^ 60 + 2 * 2 ^ 32); let s := (under (.send ⟨x, true, true, [1]⟩)).setLaunch 2 { record := record 0, phase := .saved };
      (s.slotAt 1).wait = some (.send ⟨x, true, true, [1]⟩) ∧ s.destination 1 true x = some .out)
    ∧ (let s := coreIs 0 (fun c => { c with rx := [message] }) (scalar []);
      s.sealedHere = false ∧ s.isSenderName 0 (s.g 1) = true
      ∧ (s.coreAt 0).rx.find? (fun m => s.isOf m (s.slotAt s.cur).launch (s.g 1)) = some message
      ∧ s.outOfSequence (s.coreAt 0) message = false ∧ bit message.sender 63 = false)
    ∧ (let s := coreIs 0 (fun c => { c with rx := [foreign] }) (scalar [(2, foreign.sender)]);
      s.isSenderName 0 (s.g 2) = true ∧ (s.coreAt 0).rx.find? (fun m => s.isOf m (s.slotAt s.cur).launch (s.g 2)) = some foreign
      ∧ s.outOfSequence (s.coreAt 0) foreign = true)
    ∧ (let s := scalar [(2, 63), (3, 64)];
      s.isSenderName 0 (s.g 2) = true ∧ (s.coreAt 0).rx.find? (fun m => s.isOf m (s.slotAt s.cur).launch (s.g 2)) = none
      ∧ s.isSenderName 0 (s.g 3) = false)
    ∧ (closed []).sealedHere = true := by decide +kernel

/-- A ready queue of core 0 with entries of launch 1. -/
def ready (q : Vector (List Word) 4) : State := coreIs 0 (fun c => { c with ready := q.map fun l => l.map fun x => (1, x) }) (scalar [(2, 63), (3, 64)])

theorem witness_ReadyQueuesAndArms :
    (let s := ready #v[[], [], List.replicate 15 1, List.replicate 16 1];
      s.popWaiters 0 = [] ∧ s.sealedHere = false ∧ (s.coreAt 0).ready[2].length < 16 ∧ 16 ≤ (s.coreAt 0).ready[3].length
      ∧ (s.coreAt 0).ready[2] = (1, 1) :: List.replicate 14 (1, 1) ∧ (∀ q : Fin 4, q < 2 → (s.coreAt 0).ready[q] = []) ∧ (s.coreAt 0).arms = [])
    ∧ (∀ q : Fin 4, ((ready #v[[], [], [], []]).coreAt 0).ready[q] = [])
    ∧ (let s := ready #v[[], [], [], []];
      s.isSenderName 0 (s.g 2) = true ∧ (s.coreAt 0).freeArm = some 0
      ∧ (∀ m ∈ (s.coreAt 0).rx, s.isOf m (s.slotAt s.cur).launch (s.g 2) = true → m.fired = true) ∧ s.isSenderName 0 (s.g 3) = false)
    ∧ (let s := coreIs 0 (fun c => { c with rx := [message] }) (scalar []);
      s.isSenderName 0 (s.g 1) = true ∧ (s.coreAt 0).freeArm = some 0 ∧ (s.coreAt 0).rx = [] ++ message :: []
      ∧ s.isOf message (s.slotAt s.cur).launch (s.g 1) = true ∧ message.fired = false ∧ (s.coreAt 0).ready[0].length < 16
      ∧ s.popWaiters 0 = [])
    ∧ ((coreIs 0 (fun c => { c with arms := (List.range 16).map fun i => (i, ⟨1, 0, 0, 0, false⟩) }) (scalar [])).coreAt 0).freeArm = none
    ∧ (closed []).sealedHere = true := by decide +kernel

theorem witness_MailboxesAreReadAndWritten :
    (let s := withRecord (fun r => { r with tiles := 2 }) (scalar [(2, 7), (3, 8)]); let s := s.setLaunch 1 { s.launchAt 1 with place := [0, 16] };
      bits (s.g 1) 63 12 = 0 ∧ (s.g 1).toNat / 4 < s.tilesOf 0 ∧ isOrdinary s.cur = true
      ∧ regionOf ((4 * (s.launchOf 0).place.getD ((s.g 1).toNat / 4) 0 + (s.g 1).toNat % 4) / 4) = regionOf (tileOf 0)
      ∧ (s.g 2).toNat / 4 < s.tilesOf 0
      ∧ ¬ regionOf ((4 * (s.launchOf 0).place.getD ((s.g 2).toNat / 4) 0 + (s.g 2).toNat % 4) / 4) = regionOf (tileOf 0)
      ∧ ¬ (s.g 3).toNat / 4 < s.tilesOf 0) := by decide +kernel

/-- A thread with `depth` frames live at base 0 and `n` records after them, the frames' words in memory. -/
def handling (depth n : Nat) (fr : List (Nat × Word)) : State :=
  let s := on 0 .scalar { regs [(1, 0x120), (2, 0xFF)] with
    hsp := word (depth * 2 ^ 19), hlimit := 0x200, contbase := 0x200, contslots := word n, pc := 0x40 }
  fr.foldl (fun s p => s.write (gLoc 0 p.1) 8 p.2.toNat) s

theorem witness_HandlersOpenAndClose :
    (let s := handling 15 0 []; hspDepth (s.img 0).hsp ≠ 16 ∧ hspBase (s.img 0).hsp + 32 * 15 + 32 ≤ 32 * bits (s.img 0).hlimit 18 5)
    ∧ hspDepth ((handling 16 0 []).img 0).hsp = 16 ∧ hspDepth ((handling 0 0 []).img 0).hsp = 0
    ∧ (handling 0 0 []).badFrame 0 = none
    ∧ (let s := handling 1 0 [(0, 0x120), (24, 0x48)];
      hspDepth (s.img 0).hsp ≠ 0 ∧ s.badFrame 0 = none ∧ s.recordCount 0 = 0 ∧ suspended (s.frameHeads 0) 0 = false
      ∧ s.frameWord 0 0 3 = (s.img 0).pc + 8 ∧ currentHandler (s.frameHeads 0) (s.frameHeads 0).length = none)
    ∧ (handling 1 0 [(24, 0x50)]).frameWord 0 0 3 ≠ ((handling 1 0 [(24, 0x50)]).img 0).pc + 8 := by decide +kernel

theorem witness_PerformCapturesAndEnters :
    (let s := handling 1 1 [(0, word (0xFFFF * 2 ^ 16 + 0x120))];
      (s.g 2).toNat < 0x100 ∧ s.badFrame 0 = none ∧ 0x100 ≤ (s.g 1).toNat ∧ (s.g 1).toNat ≤ 0xFFFF
      ∧ search (s.frameHeads 0) (s.g 1).toNat = some 0 ∧ s.freeRecord 0 = some 0
      ∧ search (s.frameHeads 0) 0xFFFF = none ∧ lowLanes (s.kOf 0 1) ET.f32.lanes = 0)
    ∧ (let s := (handling 1 0 [(0, word (0xFFFF * 2 ^ 16 + 0x120))]).setImage 0
        { (handling 1 0 []).img 0 with k := #v[0, 1, 0, 0, 0, 0, 0, 0] };
      search (s.frameHeads 0) 0x120 = some 0 ∧ s.freeRecord 0 = none ∧ lowLanes (s.kOf 0 1) ET.f32.lanes ≠ 0)
    ∧ ((slotIs 0 (fun x => { x with snap := some (0x200, 5) }) (handling 1 1 [])).slotAt 0).snap = some (0x200, 5) := by decide +kernel

/-- A thread whose record 0 is valid, of a frame of a kind, with tokens of it and of others in its registers. -/
def held (kind : Nat) : State :=
  let s := handling 1 1 [(0x200, word (kind * 2 ^ 44 + 2 ^ 43 + 2 ^ 25 + 0x48))]
  s.setImage 0 { s.img 0 with g := (((s.img 0).g.set 4 (tokenOf 0 0 kind 0)).set 5 1).set 6 (tokenOf 0 0 kind 1) }

theorem witness_TokensResumeAndAreAsked :
    (let s := held 1; s.tokenFault 0 (s.g 4) = none ∧ recKind (s.recordHead 0 0) ≠ 0 ∧ s.badFrame 0 = none
      ∧ s.tokenFault 0 (s.g 5) = some 0 ∧ s.tokenFault 0 (s.g 6) = some 1)
    ∧ (let s := held 0; s.tokenFault 0 (s.g 4) = none ∧ recKind (s.recordHead 0 0) = 0)
    ∧ (let s := held 0; s.tokenFault 0 (tokenOf 0 0 1 0) = some 2)
    ∧ (let s := (held 0).setImage 0 { (held 0).img 0 with hsp := 0 }; s.tokenFault 0 (s.g 4) = some 3) := by decide +kernel

/-- A slot with causes pending. -/
def due (im : Image) (mode : BitVec 8) (l : List Raised) : State :=
  slotIs 0 (fun x => { x with pending := l, tickDue := true, wdDue := true }) (inMode mode 0 .scalar im)

theorem witness_BoundaryCausesAreDelivered :
    (let s := due { tvec := 0x100 } 0 [⟨0x19, 0, 0⟩, ⟨0x16, 0, 0⟩];
      (s.slotAt 0).tickDue = true ∧ (s.slotAt 0).wdDue = true ∧ (s.slotAt 0).wait = none ∧ s.partner 0 = none ∧ s.boundaryCause 0 = some ⟨0x16, 0, 0⟩
      ∧ s.effectTarget 0 0x16 = none ∧ s.toReeve 0 0x16 = false)
    ∧ (let s := due {} 0 [⟨0x16, 0, 0⟩]; s.boundaryCause 0 = some ⟨0x16, 0, 0⟩ ∧ s.effectTarget 0 0x16 = none
      ∧ s.toReeve 0 0x16 = true)
    ∧ (let s := handling 1 1 [(0, 0)];
      let s := slotIs 0 (fun x => { x with pending := [⟨0x16, 0, 0⟩] }) (s.setImage 0 { s.img 0 with effen := word (2 ^ 0x16) });
      s.boundaryCause 0 = some ⟨0x16, 0, 0⟩ ∧ s.partner 0 = none ∧ s.effectTarget 0 0x16 = some (0, 0))
    ∧ (let s := slotIs 9 (fun x => { x with state := .live }) (slotIs 1 (fun x => { x with state := .live })
        (((scalar []).setImage 1 { paircfg := 41 }).setImage 9 { paircfg := 17 }));
      (s.partner 1).isSome = true) := by decide +kernel

theorem witness_DecodingInvertsEncoding : (Instr.mmul ⟨0, 0, 0, 0, 0, 0, false⟩).wf = true := by decide +kernel
theorem witness_EncodingInvertsDecoding : decode (0xC006B408 + 2 ^ 32 * 0xFFFFFFC0) = .ok (.addi .b64 13 13 0xFFFFFFC0) := by decide +kernel

/-- A slot whose code region holds some bytes at its pc. -/
def fetching (pc : Word) (bs : List Byte) : State :=
  let s := on 0 .scalar { pc := pc }
  { s with mem := storeBytes s.mem (codeKey 1 + pc.toNat) bs, agenda := [.turn 0] }

theorem witness_StepRunsTheDecodedInstruction :
    let i := Instr.mmul ⟨0, 0, 0, 0, 0, 0, false⟩
    let s := fetching 0xFE8 (encodeBytes i)
    FreeTurn 0 s ∧ s.quotaStop = none ∧ s.agenda = .turn 0 :: [] ∧ slotExists 0 = true ∧ s.turnFirst (.turn 0) = none
    ∧ s.poison = [] ∧ s.culvert = [] ∧ (s.pcOf 0).toNat % 4 = 0
    ∧ (let v := ({ s with agenda := [], cur := 0 } : State).setSlot 0 { s.slotAt 0 with turnFrom := 16, starting := false }
      ((v.countTurn 0).landBefore 0 i).orderWaits 0 i = false)
    ∧ decodeBytes ((List.range 24).map fun k => byteAt s.mem (codeKey (s.slotAt 0).launch + (s.pcOf 0).toNat + k)) = .ok i
    ∧ (s.pcOf 0).toNat + 4 * i.words ≤ s.codelim 0 ∧ (s.pcOf 0).toNat % 32 + 4 * i.words ≤ 32 ∧ (s.pcOf 0).toNat % 32 = 8 := by
  unfold FreeTurn; decide +kernel

/-- The other clauses: a turn that the step takes before another entry of the schedule, and a release that a counted store of
its thread still holds back. -/
theorem witness_StepRunsTheDecodedInstruction_2 :
    (let s := { fetching 0 (encodeBytes .nop) with agenda := [.clock 0] };
      FreeTurn 0 s ∧ s.quotaStop = none ∧ s.nextEntry.exists_ = true ∧ s.turnFirst s.nextEntry = some 0)
    ∧ (let i := Instr.stff .g 1 (addr 0)
      let s := { fetching 0 (encodeBytes i) with culvert := [{ countedWord with due := some 40 }] };
      let v := ({ s with agenda := [], cur := 0 } : State).setSlot 0 { s.slotAt 0 with turnFrom := 16, starting := false }
      FreeTurn 0 s ∧ ((v.countTurn 0).landBefore 0 i).orderWaits 0 i = true) := by
  unfold FreeTurn; refine ⟨?_, ?_⟩ <;> decide +kernel

theorem witness_FetchChecksInOrder :
    (let s := fetching 0xFFC (encodeBytes .nop);
      FreeTurn 0 s ∧ s.quotaStop = none ∧ s.agenda = .turn 0 :: [] ∧ slotExists 0 = true ∧ s.turnFirst (.turn 0) = none
      ∧ s.poison = [] ∧ (s.pcOf 0).toNat % 4 = 0 ∧ (s.pcOf 0).toNat < s.codelim 0 ∧ s.codelim 0 < (s.pcOf 0).toNat + s.lengthAt 0 (s.pcOf 0))
    ∧ (let s := fetching 0xFFE []; FreeTurn 0 s ∧ (s.pcOf 0).toNat % 4 ≠ 0)
    ∧ (let s := fetching 0x1000 []; FreeTurn 0 s ∧ s.codelim 0 ≤ (s.pcOf 0).toNat)
    ∧ (let s := fetching 0x1C (encodeBytes .nop); FreeTurn 0 s ∧ 32 < (s.pcOf 0).toNat % 32 + s.lengthAt 0 (s.pcOf 0))
    ∧ (let s := fetching 4 (encodeBytes (.mmul ⟨0, 0, 0, 0, 0, 0, false⟩));
      FreeTurn 0 s ∧ s.lengthAt 0 (s.pcOf 0) = 24 ∧ (s.pcOf 0).toNat % 32 + 24 ≤ 32 ∧ (s.pcOf 0).toNat % 32 ≠ 0 ∧ (s.pcOf 0).toNat % 32 ≠ 8)
    ∧ (let s := fetching 8 [0x9C, 0x29, 0x10, 0, 0, 0, 0, 0];
      FreeTurn 0 s ∧ (s.pcOf 0).toNat + s.lengthAt 0 (s.pcOf 0) ≤ s.codelim 0 ∧ (s.pcOf 0).toNat % 32 + s.lengthAt 0 (s.pcOf 0) ≤ 32
      ∧ decode (loadNat s.mem (codeKey (s.slotAt 0).launch + (s.pcOf 0).toNat) (s.lengthAt 0 (s.pcOf 0))) = .field 20) := by
  unfold FreeTurn; refine ⟨?_, ?_, ?_, ?_, ?_, ?_⟩ <;> decide +kernel

theorem witness_StepKeepsMemoryCanonical : MemOk State.reset ∧ ∃ t, step State.reset = .next t := by
  refine ⟨?_, _, rfl⟩; unfold MemOk; decide +kernel

theorem witness_FormsAboveTheLevelTrapWithPriv :
    (scalar []).level 0 = 0 ∧ slotIdx (on 15 .scalar (regs [])).cur ≠ 0
    ∧ (let s := scalar []; sysAllocated (isOrdinary s.cur) 0x10B = true ∧ s.level 0 < sysReadLevel 0x10B
      ∧ s.level 0 < max (sysReadLevel 0x10B) (sysWriteLevel 0x10B))
    ∧ bits ((scalar [(2, word (8 * 2 ^ 60))]).effAddr (addr 0)) 63 60 = 8 := by decide +kernel

theorem witness_EngineSetsBindTheirSlots :
    (let s := scalar [];
      unitOf (.vtcfg 0 1) ≠ .scalar ∧ (s.slotAt s.cur).engine ≠ unitOf (.vtcfg 0 1) ∧ s.lateField (.vtcfg 0 1) = none
      ∧ s.privFault (.vtcfg 0 1) = none ∧ unitOf .nop = .scalar)
    ∧ (let s := inMode 1 0 .scalar (regs []); s.issueFault (.tagq .g 1 (addr 0)) ≠ none) := by decide +kernel

/-- A vector slot 0 with some lanes. -/
def lanes (v : List (VReg × BitVec 1024)) (l : List (Reg × Word)) : State :=
  on 0 .vector { regs l with v := v.foldl (fun w p => w.set p.1 p.2) (Vector.replicate 16 0), k := #v[0, 1, 2, 0, 0, 0, 0, 0] }

theorem witness_VectorIntegerLanes :
    (let s := lanes [(2, 1)] [];
      (s.slotAt s.cur).engine = .vector ∧ ET.i32.isI = true ∧ (∀ i ∈ s.activeLanes .i32 1, s.lane .i32 2 i ≠ 0)
      ∧ 1 ∈ s.activeLanes .i32 2 ∧ s.lane .i32 2 1 = 0 ∧ (∀ j ∈ s.activeLanes .i32 2, j < 1 → s.lane .i32 2 j ≠ 0)
      ∧ bit (s.img 0).effen 0x10 = false ∧ ET.i32.isSigned = true ∧ ET.n32.isSigned = false) := by decide +kernel

theorem witness_VectorFloatingLanes :
    ((lanes [] []).slotAt (lanes [] []).cur).engine = .vector ∧ bits ((lanes [] []).img 0).fptrap 4 0 = 0 ∧ ET.f32.isI = false ∧ ET.e4m3.isI = false := by decide +kernel

theorem witness_NarrowKeepsRepresentableValues :
    0x7F < 2 ^ fmtE4m3.width ∧ (fmtE4m3.decode 0x7E).isNan = false ∧ (∀ neg, fmtE4m3.decode 0x7E ≠ .inf neg)
    ∧ (fmtF32.decode 0x7F800000).isNan = false ∧ (roundShift .rne false 3 1).2 = false ∧ (roundShift .rne false 4 1).2 = true := by
  decide +kernel

theorem witness_ComparesReductionsAndTables :
    (let s := lanes [] []; (s.slotAt s.cur).engine = .vector ∧ bits (s.img s.cur).fptrap 4 0 = 0
      ∧ (104 : BitVec 8).toNat + BFmt.zb4.recordBytes * (s.packBlocks .f32 .rne .zb4 0).length ≤ 128) := by decide +kernel

theorem witness_LanesMoveAndMasksCombine :
    (let s := lanes [] []; (s.slotAt s.cur).engine = .vector ∧ 1 < ET.f32.lanes ∧ (s.kOf 0 2).getLsbD 1 = true
      ∧ (∀ j, j < 1 → (s.kOf 0 2).getLsbD j = false) ∧ (∀ i, i < ET.f32.lanes → (s.kOf 0 3).getLsbD i = false)) := by decide +kernel

theorem witness_VectorLoadsAndStores :
    (let s := lanes [] [(1, 0x1FFFFC), (2, 0x1FFFFD), (3, 0x1FFFFE), (4, 0x10), (5, 0x1FFFF8)];
      (s.slotAt s.cur).engine = .vector ∧ isOrdinary s.cur = true ∧ s.poison = [] ∧ (s.launchOf s.cur).isChecked = false
      ∧ (s.tileAt 0).aRanges = [] ∧ (s.tileAt 0).cRanges = []
      ∧ (∀ i ∈ s.activeLanes .f32 1, (s.g 1).toNat + 4 * i + 4 ≤ 0x200000 ∧ ((s.g 1).toNat + 4 * i) % 4 = 0)
      ∧ 0 ∈ s.activeLanes .f32 1 ∧ 0x200000 < (s.g 2).toNat + 4 ∧ (s.g 3).toNat + 2 ≤ 0x200000 ∧ ((s.g 5).toNat + 2) % 4 ≠ 0
      ∧ (s.g 4).toNat % 16 = 0 ∧ (s.descriptor ⟨.a, 0, 0x10⟩).bad = true)
    ∧ (let s := (lanes [] [(4, 0x10)]).write ⟨.a, 0, 0x10⟩ 8 0x2000000000000;
      (s.descriptor ⟨.a, 0, 0x10⟩).bad = false ∧ (s.g 4).toNat + 16 + 4 * (s.descriptor ⟨.a, 0, 0x10⟩).n ≤ 0x200000) := by decide +kernel

/-- A pump slot that waits for the reply of a DRAM access. -/
def dram (op : AccessOp) (pa : Nat) : State :=
  slotIs 0x10001 (fun x => { x with wait := some (.dram ⟨op, 8, 1, 7, [5], 0x4000, ⟨.dram, 0, pa⟩⟩) }) (mapped (pump []))

theorem witness_PumpAccessesReachDram :
    (let s := unit .copy []; (s.slotAt s.cur).engine = .copy ∧ isOrdinary s.cur = true ∧ s.sealedHere = false)
    ∧ (let s := mapped (pump [(2, 0x4000), (3, 0x4001), (4, word (2 ^ 40))]);
      (s.slotAt s.cur).engine = .copy ∧ isOrdinary s.cur = false ∧ s.sealedHere = false
      ∧ (s.tlbTranslate 4096 0 (s.g 4).toNat .r).1 = .error 0 ∧ (s.tlbTranslate 4096 0 (s.g 2).toNat .w).1 = .ok 0x4000
      ∧ (s.g 2).toNat % 8 = 0 ∧ (s.tlbTranslate 4096 0 (s.g 3).toNat .at_).1 = .ok 0x4001 ∧ (s.g 3).toNat % 8 ≠ 0)
    ∧ (inMode 1 0x10000 .copy (regs [])).sealedHere = true
    ∧ (let s := dram (.load false) 0x4000;
      (s.slotAt 0x10001).wait = some (.dram ⟨.load false, 8, 1, 7, [5], 0x4000, ⟨.dram, 0, 0x4000⟩⟩)
      ∧ (∀ j ∈ s.pairOf 0x10001, (s.slotAt j).stopDue = false) ∧ s.serverOf (s.partOf 0x10001) 0x4000 8 = .here 0x4000
      ∧ s.physPoisoned 0x4000 8 = false ∧ s.stackShut 0x4000 = false)
    ∧ (∀ b, let s := slotIs 0x10001 (fun x => { x with posting := b }) (dram .store 0x4000);
      (s.slotAt 0x10001).posting = b ∧ s.partner 0x10001 = none ∧ s.poison = [] ∧ s.stackShut 0x4000 = false)
    ∧ (∀ op ∈ ([.store, .amo .add] : List AccessOp), let s := dram op (2 ^ 55 + 2 ^ 44); s.serverOf (s.partOf 0x10001) (2 ^ 55 + 2 ^ 44) 8 = .away)
    ∧ (let s := dram .store (2 ^ 55); s.serverOf (s.partOf 0x10001) (2 ^ 55) 8 = .refused)
    ∧ (let s := dram .store (2 ^ 55 + 2 ^ 44); s.serverOf (s.partOf 0x10001) (2 ^ 55 + 2 ^ 44) 8 = .away) := by decide +kernel

theorem witness_SystemRegistersReadAndWrite :
    (let s := scalar [(2, 0x20), (3, 3)];
      sysAllocated (isOrdinary s.cur) 0x031 = true ∧ sysReadLevel 0x031 ≤ s.level 0 ∧ max (sysReadLevel 0x031) (sysWriteLevel 0x031) ≤ s.level 0
      ∧ s.sealedHere = false ∧ s.sysRefuses 0 0x031 (s.g 2) = some .field ∧ s.sysRefuses 0 0x031 (s.g 3) = none
      ∧ s.sysRefuses 0 0x022 (s.g 3) = none)
    ∧ (let s := closed [(2, 1)];
      s.sealedHere = true ∧ sysReadReveals 0x040 = true ∧ sysAllocated (isOrdinary s.cur) 0x040 = true ∧ sysReadLevel 0x040 ≤ s.level 0
      ∧ max (sysReadLevel 0x020) (sysWriteLevel 0x020) ≤ s.level 0 ∧ s.g 2 ≠ 0 ∧ max (sysReadLevel 0x040) (sysWriteLevel 0x040) ≤ s.level 0
      ∧ sysReadReveals 0x031 = false)
    ∧ (let s := handling 1 0 []; hspDepth (s.img 0).hsp ≠ 0 ∧ s.sysRefuses 0 0x011 0 = some .hstack)
    ∧ (15 < 16 ∧ (31 : Reg) ≠ 0 ∧ 1 % 8 ≠ 0 ∧ 0x10000 ≤ 0x10000)
    ∧ (let s := tileIs (fun t => { t with cycle := 15 }) (scalar []);
      (s.tileAt 0).cycle % 16 = 15 ∧ ((scalar []).tileAt 0).cycle % 16 ≠ 15 ∧ s.ctxRestoring 0 0 8 = false
      ∧ s.imageOwner 0 15 = some 15 ∧ s.trailerOf 15 = none ∧ bit (s.imageAt 15).effen 22 = false ∧ (s.slotAt 15).tickWritten = false
      ∧ s.membership 15 = none ∧ bit ((s.setImage 15 { effen := 0x400000 }).imageAt 15).effen 22 = true)
    ∧ (slotIs 0 (fun x => { x with resuming := true, issueFrom := 128 }) (scalar [])).ctxRestoring 0 0 8 = true := by decide +kernel

/-- Slot 0 with slot 1 as the leader of a pair, free to be paired or paired. -/
def pairing (e : Engine) (paired : Bool) : State :=
  let s := slotIs 1 (fun x => { x with state := .live, launch := 1, engine := e }) (scalar [(2, 1), (3, 8)])
  if paired then
    (slotIs 9 (fun x => { x with state := .live, launch := 1, engine := e }) ((s.setImage 1 { paircfg := 41 }).setImage 9 { paircfg := 17 }))
  else s

theorem witness_CallsTrapsAndReturns :
    (let s := raised []; s.level s.cur = 1 ∧ (s.img 0).trappc.toNat % 4 = 0 ∧ (s.img 0).trappc.toNat < s.codelim 0)
    ∧ (let s := on 0 .scalar { tstatus := 1, trappc := 0x1000 }; s.level s.cur = 1 ∧ s.codelim 0 ≤ (s.img 0).trappc.toNat)
    ∧ ((regs []).loops.length ≤ 4 ∧ ({ start := 8, stop := word (2 ^ 32 - 4), count := 1 } : LoopLevel).stop.toNat < 2 ^ 32)
    ∧ (let s := slotIs 15 (fun x => { x with state := .live }) (slotIs 14 (fun x => { x with state := .parked }) (raised [(1, 16), (2, 15), (3, 14), (4, 13)]));
      15 < (s.g 1).toNat ∧ (s.slotAt 14).state = .parked ∧ (s.slotAt 13).state ≠ .parked ∧ (s.slotAt 13).state ≠ .live
      ∧ (s.slotAt 15).state = .live)
    ∧ (let s := pairing .scalar false;
      slotIdx s.cur = 0 ∧ (s.g 1).toNat < 1 ∧ 7 < (s.g 3).toNat ∧ 1 ≤ (s.g 2).toNat ∧ (s.g 2).toNat ≤ 7 ∧ bit (s.img 1).paircfg 5 = false
      ∧ (s.slotAt 1).state = .live ∧ (s.slotAt 1).hold = none ∧ (s.slotAt 1).wait = none ∧ (s.slotAt 1).issueFrom ≤ s.now 1
      ∧ s.imageKey 0 ≠ s.imageKey 1 ∧ s.imageKey 0 ≠ s.imageKey 9 ∧ s.imageKey 1 ≠ s.imageKey 9
      ∧ (s.slotAt 9).state = .free ∧ s.imageTaken 9 (s.imageKey 9 % 16) = false ∧ s.partner 1 = none ∧ (s.slotAt 1).engine ≠ .matrix)
    ∧ (let s := slotIs 2 (fun x => { x with state := .live, launch := 1, sel := 7 }) (pairing .scalar false); s.imageTaken 9 (s.imageKey 9 % 16) = true)
    ∧ ((pairing .matrix false).slotAt 1).engine = .matrix
    ∧ (let s := pairing .scalar true; bit (s.img 1).paircfg 5 = true ∧ (s.slotAt 1).wait = none ∧ s.imageKey 1 ≠ s.imageKey 9
      ∧ s.partner 1 ≠ none) := by decide +kernel

/-- A reeve call of partition 0's image. -/
def call (x y z w : Word) : Caller := .image 0 x y z w
/-- The state at a call: partition 0 started and mapped, with launch 1 in some phase at record address 0x8000. -/
def serving (ph : LaunchPhase) : State :=
  let s := mapped (scalar [])
  s.setLaunch 1 { s.launchAt 1 with phase := ph, recAddr := 0x8000 }

theorem witness_ReeveCallsAnswer :
    (let s := serving .running;
      s.callArgs 0x10 (call 1 2 0 0) = some (0, 1, 2, 0, 0) ∧ (2 : Word).toNat % 4 ≠ 0 ∧ (8 : Word).toNat % 4 = 0
      ∧ (0x1000 : Word).toNat % 4096 = 0 ∧ (s.partAt 0).allots 0x1000 4096 = true ∧ (s.partAt 0).allots (2 ^ 31) 4096 = false
      ∧ (0 < 4864 ∧ 0 ∈ (s.partAt 0).pumpSlots ∧ s.pumpBound 0 = false ∧ s.pumpShut 0 = false)
      ∧ (s.launchAt 1).killed = false ∧ (s.launchAt 1).fault = none ∧ s.launchOfRecord 0 0 = none ∧ s.launchOfRecord 0 0x8000 = some 1
      ∧ (s.launchAt 1).record.codelen ≤ 0x1000 ∧ (s.launchAt 1).pumps.length < 16 ∧ (s.partAt 0).doorbell = []
      ∧ (0x8000 : Word).toNat % 64 = 0 ∧ s.mapped 0 0x8000 128 .r = true ∧ s.mapped 0 (2 ^ 40) 128 .r = false
      ∧ (s.readRecord 0 0x8000).prio ≤ 3 ∧ (s.recordFault 0 (s.readRecord 0 0x8000)).isSome = true
      ∧ (s.launchAt 1).phase ≠ .queued ∧ (s.launchAt 1).phase ≠ .done)
    ∧ (let s := slotIs 5 (fun x => { x with state := .parked, launch := 1 }) (serving .running);
      slotExists 5 = true ∧ (s.slotAt 5).state = .parked ∧ (s.slotAt 5).launch ≠ 0 ∧ (s.launchOf 5).part = 0)
    ∧ ((serving .running).setLaunch 1 { (serving .running).launchAt 1 with killed := true }).launchOfRecord 0 0x8000 = some 1
    ∧ (let s := serving .queued; (s.launchAt 1).phase = .queued ∧ s.launchOfRecord 0 0x8000 = some 1)
    ∧ (let s := (serving .running).setPart 0 { (serving .running).partAt 0 with doorbell := [7] }; (s.partAt 0).doorbell = 7 :: [])
    ∧ (let h : Hold := ⟨0x20, 0, 0x15, 0, false⟩; let s := slotIs 0 (fun x => { x with hold := some h }) (scalar []);
      (s.slotAt 0).hold = some h ∧ h.cause = 0x20 ∧ h.val = word 0x15) := by decide +kernel

/-- A LIVE slot that the reeve holds, with a vector or none, above user level or not. -/
def heldBy (h : Hold) (im : Image) : State := slotIs 0 (fun x => { x with hold := some h }) (on 0 .scalar im)

theorem witness_HeldSlotsAreReleased :
    (let s := heldBy ⟨0x0C, 0, 8, 0, false⟩ {}; (s.slotAt 0).hold = some ⟨0x0C, 0, 8, 0, false⟩ ∧ s.partner 0 = none ∧ s.membership 0 = none)
    ∧ (let s := heldBy ⟨0x20, 0, 0x17, 0, false⟩ {}; (s.slotAt 0).hold = some ⟨0x20, 0, 0x17, 0, false⟩
      ∧ ¬ (0x10 ≤ (0x17 : Word).toNat ∧ (0x17 : Word).toNat ≤ 0x16) ∧ (s.img 0).pc.toNat % 4 = 0 ∧ (s.img 0).pc.toNat < s.codelim 0)
    ∧ (let s := heldBy ⟨0x15, 0, 8, 0, false⟩ { tvec := 0x100, tdeleg := word (2 ^ 0x15) };
      (s.img 0).tvec ≠ 0 ∧ bit (s.img 0).tdeleg 0x15 = true ∧ ¬ (s.level 0 = 1 ∧ bit (s.img 0).tstatus 4 = true))
    ∧ (let s := heldBy ⟨0x15, 0, 8, 0, false⟩ {}; (s.img 0).tvec = 0 ∧ (s.slotAt 0).launch ≠ 0 ∧ (s.slotAt 0).state = .live
      ∧ s.accessUnderWay 0 = false)
    ∧ (let s := heldBy ⟨0x16, 0, 0, 0, true⟩ {}; let s := slotIs 0 (fun x => { x with tickByReeve := true }) s;
      (s.slotAt 0).tickByReeve = true ∧ (s.slotAt 0).tickWritten = false) := by decide +kernel

/-- A matrix slot with a queue and an active bank. -/
def array (q : List MatrixOp) (b : Bank) (l : List (Reg × Word)) : State :=
  tileIs (fun t => { t with mx := { t.mx with queue := q, bank0 := b } }) (unit .matrix l)

/-- A matrix slot whose tile has a full bank of MXFP4 and a value of MCONF. -/
def cooperating (conf : BitVec 10) : State :=
  tileIs (fun t => { t with mx := { t.mx with mconf := conf, bank0 := { fmt := .mxfp4, k := 32, n := 1, v := true } } }) (unit .matrix [])

theorem witness_MatrixInstructionsAreQueued :
    (let s := array [] {} [(1, 0xFFF80), (2, 128), (3, 129)];
      (s.slotAt s.cur).engine = .matrix ∧ (1 : BitVec 4).getLsbD (s.quadPos 0) = true ∧ (1 : BitVec 4).getLsbD 0 = true
      ∧ (∀ q, q < 4 → (1 : BitVec 4).getLsbD q = true → s.quadTile 0 q ≠ none) ∧ (8 : BitVec 4).getLsbD (s.quadPos 0) = false
      ∧ s.quadTile 0 1 = none ∧ (s.tileAt 0).mx.queue.length < 4 ∧ (s.tileAt 0).mx.view.active.2.2 = false
      ∧ s.paramFault (.mldb ⟨0, 0, 0x01000100, 0, 3, 0, false⟩) = none ∧ s.paramFault (.mmul ⟨0, 1, 0, 0, 0, 0, false⟩) = none
      ∧ s.paramFault (.mout ⟨0, 0, 0, 0x00010001, 8, 0, false⟩) = none ∧ s.paramFault (.mred ⟨0, 0, 4, 1, 0, 0, false⟩) = none
      ∧ s.paramFault (.mred ⟨0, 0, 4, 2, 0, 0, false⟩) = none ∧ (s.tileAt 0).mx.queue = []
      ∧ (s.g 1).toNat % 128 = 0 ∧ (s.g 1).toNat + (s.g 2).toNat ≤ 0x100000 ∧ (s.g 3).toNat % 128 ≠ 0
      ∧ s.paramFault (.mldb ⟨0, 1, 0x00010010, 0, 6, 0, false⟩) = none ∧ s.paramFault (.mldb ⟨0, 0, 0x00010010, 33, 6, 0, false⟩) = none
      ∧ s.paramFault (.mout ⟨0, 2, 0, 0x00010001, 8, 0, false⟩) = none ∧ s.paramFault (.mout ⟨0, 0, 2, 0x00010001, 8, 0, false⟩) = none
      ∧ s.paramFault (.mred ⟨0, 2, 4, 1, 0, 0, false⟩) = none ∧ s.paramFault (.mred ⟨0, 0, 6, 1, 0, 0, false⟩) = none
      ∧ s.paramFault (.mred ⟨0, 0, 4, 1, 2, 0, false⟩) = none)
    ∧ (let s := array [.mswap, .mswap, .mswap, .mswap] { fmt := .bf16, k := 16, n := 1, v := true } [];
      4 ≤ (s.tileAt 0).mx.queue.length ∧ (s.tileAt 0).mx.queue ≠ [] ∧ (s.tileAt 0).mx.view.active = (.bf16, 16, true)
      ∧ s.paramFault (.mmul ⟨0, 1, 0, 0x00600002, 0, 0, false⟩) = none ∧ s.paramFault (.mmul ⟨0, 1, 1, 0x00600000, 0, 0, false⟩) = none
      ∧ s.paramFault (.mmul ⟨0, 1, 0, 0x00600000, 33, 0, false⟩) = none)
    := by decide +kernel

theorem witness_MatrixInstructionsAreQueued_2 :
    (let s := array [] { fmt := .i8, k := 16, n := 1, v := true } [];
      (s.tileAt 0).mx.view.active.2.2 = true ∧ ((s.tileAt 0).mx.view.active.1 = .i8)
      ∧ s.paramFault (.mmul ⟨0, 2, 0x1FFFE1, 0x00600000, 0, 0, false⟩) = none)
    ∧ (let s := cooperating 0xC1;
      (s.tileAt 0).mx.view.active = (.mxfp4, 32, true) ∧ (s.tileAt 0).mx.view.conf.toNat / 16 % 4 = 0 ∧ s.quadPos 0 = 0
      ∧ bfmt ((s.tileAt 0).mx.view.conf.toNat / 64) = .mxfp4 ∧ bfmt (0x01300000 / 2 ^ 20 % 16) = .mxfp4
      ∧ s.paramFault (.mmul ⟨0, 1, 0, 0x01300000, 0, 0, false⟩) = none ∧ s.paramFault (.mmul ⟨0, 1, 0, 0x01300004, 0, 0, false⟩) = none)
    ∧ (let s := cooperating 0xD3;
      (s.tileAt 0).mx.view.conf.toNat / 16 % 4 = 1 ∧ s.paramFault (.mmul ⟨0, 0, 0, 0x01300000, 0, 0, false⟩) = none)
    ∧ (let s := tileIs (fun t => { t with mx := { t.mx with mconf := 0x181 } }) (array [] { fmt := .bf16, k := 16, n := 1, v := true } []);
      (s.tileAt 0).mx.view.active = (.bf16, 16, true) ∧ (s.tileAt 0).mx.view.conf.toNat / 16 % 4 = s.quadPos 0 ∧ bfmt ((s.tileAt 0).mx.view.conf.toNat / 64) = .bf16
      ∧ s.paramFault (.mmul ⟨0, 1, 1, 0x01600000, 0, 0, false⟩) = none ∧ s.paramFault (.mmul ⟨0, 1, 0, 0x01600000, 33, 0, false⟩) = none) := by decide +kernel

/-- A running tile with an operation at the head of its queue, and a token or none. -/
def working (op : MatrixOp) (tok : Option Nat) : State :=
  tileIs (fun t => { t with mx := { t.mx with queue := [op], token := tok, bank0 := { fmt := .bf16, k := 16, n := 256, v := true } } }) (unit .matrix [])

theorem witness_MatrixQueueTurns :
    (working (.mcfg 0xC1) none).headOp 0 = some (.mcfg 0xC1) ∧ (working .mswap none).headOp 0 = some .mswap
    ∧ (working (.mldb 0 16 1 32 .bf16 none) none).headOp 0 = some (.mldb 0 16 1 32 .bf16 none)
    ∧ (let op := MatrixOp.mmul 1 0 0 .bf16 false 32 none;
      (working op (some 0)).headOp 0 = some op ∧ ((working op (some 0)).tileAt 0).mx.token ≠ none ∧ ((working op (some 0)).tileAt 0).mx.bank0.n ≤ 256
      ∧ (working op none).mulMembers 0 = some [0] ∧ ((working op none).tileAt 0).mx.token = none
      ∧ (working op none).nextWaiter 0 = some 0 ∧ ((working op none).regionAt 0).lastGrant = none ∧ 1 ≤ (working op none).freeTokens 0)
    ∧ (let op := MatrixOp.mmul 1 0 0 .bf16 true 32 none;
      let s := fun (c : BitVec 10) (t : Option Nat) => tileIs (fun x => { x with mx := { x.mx with mconf := c } }) (working op t);
      (s 0x1C1 (some 0)).mulMembers 0 = some [0] ∧ (s 0x1C1 (some 0)).headOp 0 = some op
      ∧ (∀ x ∈ [0], ((s 0x1C1 (some 0)).tileAt x).mx.token ≠ none) ∧ (s 0x1C3 none).quadTile 0 1 = none)
    ∧ (∀ op ∈ [MatrixOp.mzero 0 128, .mmul 1 0 0 .bf16 false 32 none, .mred 0 4 1 false 8 none], let s := tileIs (fun t => { t with mx := { t.mx with left := some [(0, [1]), (8, [2])] } }) (working op none);
      s.workOp 0 = some op ∧ (s.tileAt 0).mx.left = some [(0, [1]), (8, [2])] ∧ (s.headOp 0).isNone = true)
    ∧ (working (.mzero 0 128) none).headOp 0 = some (.mzero 0 128) ∧ ((scalar []).tileAt 0).mx.left = none ∧ (scalar []).mulMembers 0 = none ∧ (scalar []).nextWaiter 0 = none
    ∧ (let op := MatrixOp.mout 0xFFC00 0x1FFC00 1 256 .i32 .rne false true true none;
      (working op none).headOp 0 = some op ∧ (working op none).poison = [] ∧ 0xFFC00 + 1024 * (1 - 1) + 4 * 256 ≤ 0x100000
      ∧ 0x1FFC00 + 1 * 256 * 4 ≤ 0x200000)
    ∧ (working (.mred 0 4 1 false 8 none) none).headOp 0 = some (.mred 0 4 1 false 8 none)
    ∧ (let s := (scalar []).setRegion 0 { (scalar []).regionAt 0 with returned := [0], rcycle := 64 };
      (s.regionAt 0).returned = 0 :: [] ∧ 0 + 64 ≤ (s.regionAt 0).rcycle)
    ∧ (let s := (scalar []).setRegion 0 { (scalar []).regionAt 0 with returned := [0], lastGrant := some 0, rcycle := 63 };
      (s.regionAt 0).rcycle < 0 + 64 ∧ (s.regionAt 0).lastGrant = some 0 ∧ (s.regionAt 0).rcycle < 0 + 256)
    ∧ ((scalar []).regionAt 0).returned = []
    ∧ ((tileIs (fun t => { t with sems := t.sems.set 3 255 }) (scalar [])).tileAt 0).sems[3] = 255 := by decide +kernel

/-- Request words of a copy of one row of 8 bytes, from G to G, with a handle. -/
def request : List (Reg × Word) :=
  [(4, word (9 * 2 ^ 60)), (5, word (9 * 2 ^ 60 + 64)), (6, word (8 * 2 ^ 16 + 1)), (7, word (2 ^ 8))]
/-- A copy of that kind in flight on channel 0, changed. -/
def flying (f : Copy → Copy) : Copy :=
  f { w0 := word (9 * 2 ^ 60), w1 := word (9 * 2 ^ 60 + 64), w2 := word (8 * 2 ^ 16 + 1), w3 := word (2 ^ 8), id := 1, ch := 0, slot := 0, launch := 1, level := 0 }
/-- A copy slot whose channel 0 has it in flight. -/
def copying (f : Copy → Copy) (l : List (Reg × Word)) : State :=
  coreIs 0 (fun c => { c with chans := c.chans.set 0 { nextId := 2, completed := 1 }, fifo := [flying f] }) (unit .copy l)

theorem witness_CopiesAreAskedFor :
    (let s := unit .copy request;
      (s.slotAt s.cur).engine = .copy ∧ s.sealedHere = false ∧ s.copyFault (s.copyRequest 4) = none ∧ (s.coreAt 0).fifo.length < 16
      ∧ bits (s.g 1) 15 0 = 0 ∧ s.level 0 = 0 ∧ (s.coreAt 0).chans[0].nextId ≤ (1 : Word).toNat)
    ∧ (let s := unit .copy [(4, 0), (5, 8), (6, word (8 * 2 ^ 16 + 1)), (7, word (2 ^ 9)), (8, 0)];
      bits (s.g 7) 15 9 ≠ 0 ∧ bits (s.g 6) 63 42 = 0 ∧ bits (s.g 4) 63 57 = 0 ∧ bits (s.g 5) 63 57 = 0 ∧ bits (s.g 8) 15 9 = 0)
    ∧ (let s := unit .copy [(4, word (9 * 2 ^ 60 + 3 * 2 ^ 44)), (5, word (9 * 2 ^ 60 + 0x7FFF9)), (6, word (8 * 2 ^ 16 + 1)), (7, 4), (8, word (7 * 2 ^ 60)),
        (9, word (9 * 2 ^ 60 + 8)), (10, word (9 * 2 ^ 60 + 57)), (1, word (8 * 2 ^ 60))];
      s.globalLoc (s.g 4) = .ok ⟨.w, 0, 0⟩ ∧ s.globalLoc (s.g 5) = .ok ⟨.g, 0, 0x7FFF9⟩ ∧ spSize .g < 0x7FFF9 + 8
      ∧ s.globalLoc (s.g 8) = .error (0x09, 0x20) ∧ bits (s.g 1) 63 60 = 8 ∧ s.level 0 = 0
      ∧ s.globalLoc (s.g 9) = .ok ⟨.g, 0, 8⟩ ∧ s.globalLoc (s.g 10) = .ok ⟨.g, 0, 57⟩ ∧ (57 + 8) % 8 ≠ 0 ∧ bit (s.g 7) 2 = true)
    := by decide +kernel

theorem witness_CopiesAreAskedFor_2 :
    16 ≤ ((coreIs 0 (fun c => { c with fifo := List.replicate 16 (flying id) }) (unit .copy request)).coreAt 0).fifo.length
    ∧ (let s := copying id [(2, 1), (3, 2)];
      (s.g 2).toNat < (s.coreAt 0).chans[0].nextId ∧ (s.coreAt 0).completedOf 0 ≤ (s.g 2).toNat ∧ bit (s.coreAt 0).chans[0].error 63 = false
      ∧ (s.g 1).toNat < (s.coreAt 0).completedOf 0 ∧ bits (s.g 2) 63 62 = 0 ∧ bits (s.g 2) 61 56 = 0 ∧ bits (s.g 2) 55 0 ≠ 0
      ∧ (s.coreAt 0).fifo.find? (fun z => z.ch = 0 && z.id = bits (s.g 2) 55 0) = some (flying id) ∧ (flying id).handle = true
      ∧ (s.coreAt 0).chans[0].nextId ≤ bits (s.g 3) 55 0 ∧ (flying fun c => { c with w3 := 0 }).handle = false
      ∧ ((s.coreAt 0).fifo.filter fun z => z.ch = 0).map (fun z => z.id) ≠ [])
    ∧ (let s := coreIs 0 (fun c => { c with chans := c.chans.set 0 { nextId := 3, completed := 1, error := word (2 ^ 63 + 1) } }) (copying id [(2, 1)]);
      bit (s.coreAt 0).chans[0].error 63 = true ∧ bits (s.coreAt 0).chans[0].error 55 0 ≤ (s.g 2).toNat)
    ∧ (inMode 1 0 .copy (regs [])).sealedHere = true
    ∧ (let s := slotIs 1 (fun x => { x with wait := some (.cpyx 7 0 true [1]) }) (copying id []); (s.slotAt 1).wait = some (.cpyx 7 0 true [1]))
    ∧ (let s := copying (fun c => { c with stopping := true }) []; (s.slotAt 0).wait = none ∧ s.stopAwaited 0 (flying fun c => { c with stopping := true }) = false)
    ∧ (let y := { countedWord with rel := false, counted := false }; let s : State := { unit .copy [] with culvert := [y, countedWord] };
      s.culvert = [] ++ y :: [countedWord] ∧ s.culvert = [y] ++ countedWord :: [] ∧ y.slot = s.cur ∧ countedWord.slot = s.cur ∧ countedWord.rel = true)
    ∧ (let s := mapped (on 0x10000 .copy { regs [(2, 0x4000), (3, word (2 ^ 40))] with tstatus := 1 });
      s.level s.cur ≠ 0 ∧ isOrdinary s.cur = false ∧ s.walk (s.partOf s.cur) (s.g 3).toNat = .fail 0
      ∧ s.walk (s.partOf s.cur) (s.g 2).toNat = .leaf 0 (2 ^ 30) true true true)
    ∧ (let s := on 0 .copy { regs [] with tstatus := 1 }; s.level s.cur ≠ 0 ∧ isOrdinary s.cur = true) := by decide +kernel

theorem witness_CopiesMoveAndComplete :
    (let s := open_ (copying id []); let c := flying id;
      (s.coreAt 0).running 0 = some c ∧ s.copyGoes 0 c = true ∧ c.moved = false
      ∧ c.badWord = none ∧ c.rowsDone < c.rows ∧ c.bytesDone < c.rbytes ∧ c.unit (s.sideOf 1 c.w0) (s.sideOf 1 c.w1) = [⟨0, 0, 8⟩]
      ∧ (s.placePieces 0 0 c (s.sideOf 1 c.w0) (s.sideOf 1 c.w1) [⟨0, 0, 8⟩]).1 = .ok [⟨⟨.g, 0, 0⟩, ⟨.g, 0, 64⟩, 8, 0⟩] ∧ 0 % 8 = 0 % 8
      ∧ s.sideRefusal c ⟨.g, 0, 0⟩ 8 1 = none ∧ s.sideRefusal c ⟨.g, 0, 64⟩ 8 2 = none
      ∧ s.copyServer c ⟨.g, 0, 0⟩ 8 = .here 0 ∧ s.copyServer c ⟨.g, 0, 64⟩ 8 = .here 64
      ∧ Memory.wf s.mem = true ∧ s.poison = [] ∧ c.early = [] ∧ c.held = [] ∧ c.cancelled = false ∧ ∀ j ∈ s.pairOf c.slot, (s.slotAt j).stopDue = false)
    := by decide +kernel

theorem witness_CopiesMoveAndComplete_2 :
    (let f := fun c : Copy => { c with cancelled := true }; (copying f []).copyGoes 0 (flying f) = true ∧ (flying f).moved = false)
    ∧ (let s : State := { copying id [] with culvert := [{ countedWord with copies := [(0, 1)] }] };
      (∃ x ∈ s.culvert, x.slot = (flying id).slot ∧ ((flying id).ch, (flying id).id) ∈ x.copies) ∧ s.copyGoes 0 (flying id) = false)
    ∧ (let s := copying id []; s.sideRefusal (flying id) ⟨.g, 0, 0⟩ 8 1 = some 0)
    ∧ (let s := mapped (copying id []);
      s.copyServer (flying id) ⟨.dram, 0, 2 ^ 55⟩ 8 = .refused ∧ s.copyServer (flying id) ⟨.dram, 0, 2 ^ 55 + 2 ^ 44⟩ 8 = .away
      ∧ s.sideRefusal (flying id) ⟨.dram, 0, 2 ^ 55⟩ 8 1 = none)
    ∧ (let f := fun c : Copy => { c with w0 := 0x4000 }; let s := copying f []; let c := flying f;
      (s.coreAt 0).running 0 = some c
      ∧ (s.placePieces 0 0 c (s.sideOf 1 c.w0) (s.sideOf 1 c.w1) (c.unit (s.sideOf 1 c.w0) (s.sideOf 1 c.w1))).1 = .error (0x10, 0x4000))
    ∧ (let f := fun c : Copy => { c with rowsDone := 1 }; let s := copying f [];
      s.copyGoes 0 (flying f) = true ∧ (flying f).rows ≤ (flying f).rowsDone ∧ (flying f).sig = false ∧ (flying f).tagfull = false
      ∧ s.sideOf 1 (flying f).w1 = .loc ⟨.g, 0, 64⟩ ∧ s.addSem 0 (flying f).sem 1 ≠ none)
    ∧ (let f := fun c : Copy => { c with fault := some (0x10, 0x4000) }; let s := copying f [];
      s.copyGoes 0 (flying f) = false ∧ (flying f).stopping = false ∧ chanFailed (s.coreAt 0).chans[0] = false
      ∧ (s.slotAt 0).state = .live ∧ (flying f).told = false ∧ (s.slotAt 0).hold = none)
    ∧ (let f := fun c : Copy => { c with fault := some (0x10, 0x4000), w0 := 0x4000 };
      let s := slotIs 0 (fun x => { x with state := .halted }) (copying f []);
      (s.slotAt 0).state ≠ .live ∧ (s.slotAt 0).pageRecord = none
      ∧ ((slotIs 0 (fun x => { x with pageRecord := some ⟨0x0C, 0, 0, 0, true⟩ }) s).slotAt 0).pageRecord ≠ none
      ∧ s.pageThere (flying f) 0x4000 = false ∧ (mapped s).pageThere (flying f) 0x4000 = true) := by decide +kernel

/-- A launch of four tiles in some phase, with a place and a plan. -/
def launched (f : Launch → Launch) : State :=
  State.reset.setLaunch 1 (f { record := { tiles := 4, codelen := 0x1000 }, place := [0, 1, 4, 5] })

theorem witness_LaunchesStartAndEnd :
    (let s := launched fun l => { l with place := [] };
      s.canDispatch 1 (s.readPlan 0 (s.launchAt 1).record) [0, 1, 4, 5] = true ∧ s.placeOk (s.launchAt 1) [] [0, 1, 4, 6] = false)
    ∧ (let s := launched fun l => { l with phase := .dispatched, plan := { binds := [word 0x4000FF0000] } };
      let lc := s.launchAt 1;
      lc.phase = .dispatched ∧ lc.killed = false ∧ lc.fault = none ∧ lc.place.Nodup ∧ (∀ p ∈ lc.place, p < 1024)
      ∧ lc.plan.binds = [word 0x4000FF0000] ∧ bindLog (word 0x4000FF0000) / 64 < lc.place.length ∧ s.runOver 1 = false)
    ∧ (let s := launched fun l => { l with phase := .running };
      s.runOver 1 = true ∧ (s.launchAt 1).isWitness = false ∧ s.failedCopy 1 = none ∧ s.culvert = []
      ∧ (∀ c ∈ (s.launchAt 1).cores, s.pumpCoreShared 1 c = false))
    ∧ (let s := launched fun l => { l with phase := .running, pumps := [⟨0, 0, 0⟩] };
      let s := s.setLaunch 2 { record := record 0, phase := .running, place := [8], pumps := [⟨1, 0, 0⟩] };
      let s := slotIs 512 (fun x => { x with state := .live, launch := 2, wait := some (.tagged .ldf 1 (gLoc 0 8) 8 0) }) s;
      s.runOver 1 = true ∧ 4096 ∈ (s.launchAt 1).cores ∧ s.pumpCoreShared 1 4096 = true ∧ (s.slotAt 512).launch ≠ 1
      ∧ (s.slotAt 512).wait = some (.tagged .ldf 1 (gLoc 0 8) 8 0) ∧ (gLoc 0 8).tile ∈ (s.launchAt 1).place ∧ 512 ∉ s.slotsOf 1)
    ∧ (let s := launched fun l => { l with phase := .running, record := { l.record with mode := 8 } };
      s.runOver 1 = true ∧ (s.launchAt 1).isWitness = true ∧ (s.verdict 1).1 = 0 ∧ (s.launchAt 1).run = 0)
    ∧ (let s := launched fun l => { l with phase := .running, run := 1, record := { l.record with mode := 8 } };
      s.runOver 1 = true ∧ (s.launchAt 1).isWitness = true ∧ (s.verdict 1).1 = 0 ∧ (s.launchAt 1).run ≠ 0)
    ∧ (let lc := (launched fun l => { l with phase := .between }).launchAt 1; lc.phase = .between ∧ lc.killed = false ∧ lc.fault = none)
    ∧ ((launched fun l => { l with killed := true }).launchAt 1).killed = true
    ∧ ((launched fun l => { l with fault := some (3, 0x105) }).launchAt 1).fault = some (3, 0x105)
    ∧ ((launched fun l => { l with breach := some (1, 2) }).launchAt 1).breach = some (1, 2) := by decide +kernel

theorem witness_LaunchesAreSavedAndRestored :
    (let s := launched fun l => { l with phase := .running }; let lc := s.launchAt 1;
      lc.phase = .running ∧ s.launchSafe 1 = true ∧ Memory.wf s.mem = true ∧ lc.place.length = lc.record.tiles
      ∧ (∀ p ∈ lc.place, p < 1024) ∧ lc.killed = false ∧ lc.fault = none ∧ s.quotaDue 1 = false ∧ lc.inbox = [] ∧ lc.begun = [])
    ∧ (let s := coreIs 4096 (fun c => { c with rx := [message], fifo := [flying id] }) (launched fun l => { l with phase := .running, pumps := [⟨0, 0, 0⟩] });
      let lc := s.launchAt 1; let t := after (.launchPreempt 1) s;
      s.launchSafe 1 = true ∧ lc.pumpCores = [4096] ∧ (∀ n ∈ lc.begun, isOrdinary n = false) ∧ (s.coreAt 4096).arms = []
      ∧ (t.launchAt 1).savedPumps = [(s.coreAt 4096).savePump 1 4096] ∧ (t.coreAt 4096).hasRoom ((s.coreAt 4096).savePump 1 4096) = true
      ∧ ({ t.coreAt 4096 with fifo := List.replicate 16 (flying id) } : Core).hasRoom ((s.coreAt 4096).savePump 1 4096) = false
      ∧ t.placeOk (t.launchAt 1) (t.launchAt 1).groups [2, 3, 6, 7] = true)
    ∧ (let t := after (.launchPreempt 1) (launched fun l => { l with phase := .running });
      t.placeOk (t.launchAt 1) (t.launchAt 1).groups [2, 3, 6, 7] = true ∧ (t.launchAt 1).phase = .saved)
    ∧ ((launched fun l => { l with phase := .saved, quotaPaused := true }).launchAt 1).quotaPaused = true
    ∧ (let s := slotIs 0 (fun x => { x with yielded := true }) (scalar []);
      s.canSwitch 0 = true ∧ s.imageShared 0 0 = false ∧ s.imageShared 0 1 = false ∧ s.groupSwitch 0 1 = none)
    ∧ (let s := slotIs 1 (fun x => { x with state := .live, launch := 1 }) (scalar []); s.imageShared 0 1 = true)
    ∧ (let s := slotIs 1 (fun x => { x with sel := 1 }) (grouped oneMember); let ms := s.groupMoves (s.launchAt 1) oneMember 0 1;
      s.canSwitch 0 = true ∧ s.imageShared 0 1 = false ∧ s.groupSwitch 0 1 = some (1, oneMember) ∧ ms = [(0, 0, 1)]
      ∧ (∀ m ∈ ms, s.standsStill m.2.1 = true ∧ s.imageHeld (coreOf m.2.1) m.2.2 (ms.map (·.2.1)) = false) ∧ (ms.map (·.2.1)).Nodup)
    ∧ (let s := slotIs 1 (fun x => { x with state := .live, launch := 1 }) (grouped oneMember); let ms := s.groupMoves (s.launchAt 1) oneMember 0 2;
      ms = [(0, 0, 2)] ∧ s.imageShared 0 2 = false ∧ s.imageHeld 0 1 (ms.map (·.2.1)) = true)
    ∧ (let s := slotIs 1 (fun x => { x with sel := 1 }) (slotIs 0 (fun x => { x with yielded := true }) (scalar []));
      s.canSwitch 0 = true ∧ s.imageShared 0 1 = false ∧ 16 * coreOf 0 + 1 ≠ s.imageKey 0) := by decide +kernel

/-- A state at a tide. -/
def atTide (t : Nat) (s : State) : State := { s with tide := word t }

theorem witness_PowerFollowsItsLimits :
    ((scalar []).railHold = false ∧ ({ scalar [] with railHold := true } : State).railHold = true)
    ∧ (let s := tileIs (fun t => { t with point := 30 }) (scalar []);
      s.mayStep 0 = true ∧ (s.tileAt 0).point < s.targetOf 0 ∧ (s.tileAt 0).volt = none)
    ∧ (let s := tileIs (fun t => { t with point := 30, volt := some (40, true) }) (scalar []);
      (s.tileAt 0).volt = some (40, true) ∧ s.mayStep 0 = true ∧ (s.tileAt 0).point < min (s.targetOf 0) 40)
    ∧ (let s := { scalar [] with railHold := true }; s.mayStep 0 = true ∧ s.targetOf 0 < (s.tileAt 0).point
      ∧ (s.coreAt 4096).cycle % 16 = 0 ∧ s.pumpTarget 0 < (s.coreAt 4096).point)
    ∧ (let s := coreIs 4096 (fun c => { c with point := 30 }) (pump []);
      (s.coreAt 4096).point < s.pumpTarget 0 ∧ (s.coreAt 4096).volt = none)
    ∧ (let s := coreIs 4096 (fun c => { c with point := 30, volt := some (40, true) }) (pump []);
      (s.coreAt 4096).point < min (s.pumpTarget 0) 40 ∧ (s.coreAt 4096).volt = some (40, true) ∧ (s.coreAt 4096).cycle % 16 = 0)
    ∧ (let s := tileIs (fun t => { t with cycle := 1 }) (scalar []); s.mayStep 0 = false)
    ∧ (let s := (scalar []).setRegion 0 { (scalar []).regionAt 0 with fbAt := some 0 };
      s.regionBusy 1 = false ∧ s.regionBusy 0 = true ∧ (s.regionAt 0).fbAt = some 0
      ∧ (atTide 10000000 s).tide.toNat % 1000000 = 0 ∧ (atTide 10000000 s).quotaAt ≠ (atTide 10000000 s).tide.toNat
      ∧ (atTide 9999999 s).tide.toNat < 0 + 10000000 ∧ (atTide 9999999 s).tide.toNat % 1000 ≠ 0)
    ∧ (let cv := List.replicate 61 (10 : Nat); cv.length = 61 ∧ cv.getD 60 0 + 5 ≤ 15 ∧ ∀ q, 24 ≤ q → q ≤ 60 → ¬ cv.getD q 0 + 5 ≤ 14)
    ∧ (let s := withRecord (fun r => { r with quota := 5 }) (scalar []); let s := s.setLaunch 1 { s.launchAt 1 with used := 5 };
      (s.launchAt 1).phase = .running ∧ (s.launchAt 1).record.quota ≠ 0 ∧ (s.launchAt 1).record.quota ≤ (s.launchAt 1).used
      ∧ (s.launchAt 1).quotaHit = false ∧ s.liveSlots 1 = [0] ∧ s.quotaDue 1 = false)
    ∧ ((scalar []).dieAt 3).refLost = false ∧ (((scalar []).setDie 3 { refLost := true }).dieAt 3).refLost = true
    ∧ (let s := atTide 1000000 ((scalar []).setDie 3 { refBackAt := some 0 });
      (s.dieAt 3).refLost = false ∧ (s.dieAt 3).refBackAt = some 0 ∧ 0 + 1000000 ≤ s.tide.toNat
      ∧ (atTide 999999 s).tide.toNat < 0 + 1000000)
    ∧ (State.reset.tideSet = false ∧ State.reset.everDispatched = false ∧ (scalar []).leastAllowance ≠ 0)
    ∧ (let s : State := { atTide 9999 (scalar []) with slewAt := some 0, tideSet := true }; s.slewAt = some 0 ∧ s.tide.toNat < 0 + 10000) := by
  decide +kernel

/-- A module of crest group 7 with another member. -/
def crested (x : Member) : State :=
  atTide 5000000 { State.reset with crest := { group := some 7, self := 0, members := [(0, {}), (1, x)] } }
/-- A message of module 1. -/
def said (typ : BitVec 8) (point sent bite : Nat) : CrestMsg := ⟨typ, 0, 7, 1, point, 0, sent, bite, 0, true⟩

theorem witness_CrestMessagesChangeLimits :
    (let s := crested { silent := true };
      s.crestValid (said 1 0 0 0) 2 = false ∧ s.crestValid (said 1 30 5000000 5500000) 1 = true ∧ find s.crest.members 1 ≠ none
      ∧ (look ({} : Member) s.crest.members 1).standing = .member ∧ 30 < (look ({} : Member) s.crest.members 1).limitAt 5000000
      ∧ 5000000 + 1000 * s.crest.notice ≤ 5500000 ∧ 5499999 < 5000000 + 1000 * s.crest.notice
      ∧ s.crestValid (said 7 0 0 0) 7 = true ∧ s.crestValid (said 2 60 0 0) 2 = true ∧ s.beatDue = true ∧ s.crest.expelled = false
      ∧ s.crest.own.pend = none ∧ s.crestValid (said 5 0 0 9) 5 = true
      ∧ (look ({} : Member) s.crest.members 1).inForceAt 5000000 = 60
      ∧ s.silentDue 1 = false ∧ (look ({} : Member) s.crest.members 1).lastHeard + 2000000 ≤ s.tide.toNat ∧ s.isLowest 1 = true)
    ∧ (let s := { crested {} with crest := { (crested {}).crest with members := [(0, {}), (1, { silent := true }), (2, {})] } };
      find s.crest.members 1 ≠ none ∧ (look ({} : Member) s.crest.members 1).standing = .member ∧ (look ({} : Member) s.crest.members 1).silent = true
      ∧ (look ({} : Member) s.crest.members 1).lastHeard + 2000000 ≤ s.tide.toNat ∧ s.isLowest 1 = true ∧ s.cutOff = false ∧ s.crest.expelled = false)
    ∧ (let s := { crested {} with crest := { (crested {}).crest with members := [(0, {}), (1, { silent := true }), (2, { silent := true })] } }; s.cutOff = true)
    ∧ (let s := crested { limit := 20 }; (look ({} : Member) s.crest.members 1).inForceAt 5000000 = 20
      ∧ s.silentDue 1 = true
      ∧ (look ({} : Member) s.crest.members 1).silent = false)
    ∧ (let s := crested { standing := .gone }; s.crestValid (said 3 60 0 0) 3 = true ∧ s.isLowest 1 = true
      ∧ 499 ≠ s.crest.notice ∧ s.crest.expelled = false)
    ∧ (let s := { crested {} with crest := { (crested {}).crest with self := 2 } };
      s.crestValid (said 3 60 0 0) 3 = true ∧ s.isLowest 1 = false)
    ∧ (let s := crested {}; s.crestValid (said 4 60 0 9) 4 = true ∧ crestAbout (said 4 60 0 9) = s.crest.self
      ∧ s.crestValid (said 6 0 0 0) 6 = true ∧ crestAbout (said 6 0 0 0) = s.crest.self)
    ∧ (let s := { crested {} with crest := { (crested {}).crest with members := [(0, {}), (1, {}), (2, {})] } }; let m := { said 6 0 0 0 with concerned := 2 };
      s.crestValid m 6 = true ∧ crestAbout m = 2 ∧ 2 ≠ s.crest.self ∧ (look ({} : Member) s.crest.members 2).standing = .member)
    ∧ (let s := { crested {} with crest := { (crested {}).crest with members := [(0, {}), (1, {}), (2, { standing := .asked })] } };
      let m := { said 4 60 0 9 with concerned := 2 };
      s.crestValid m 4 = true ∧ crestAbout m = 2 ∧ 2 ≠ s.crest.self ∧ (look ({} : Member) s.crest.members 2).standing = .asked) := by decide +kernel

theorem witness_HostAndLinksAreServed :
    (let s := mapped State.reset;
      (s.partAt 0).configured = true ∧ (0x4000 : Word).toNat < 2 ^ 40 ∧ s.mapped 0 0x4000 8 .r = true
      ∧ s.mapped 0 (2 ^ 39) 8 .r = false ∧ s.mapped 0 (2 ^ 39) 1 .w = false ∧ s.mapped 0 0x4000 1 .w = true
      ∧ s.translate 0 0x4000 .w = .ok 0x4000 ∧ inFabric 0x4000 = false ∧ s.stackShut 0x4000 = false
      ∧ s.barServer 0 0x4000 .r = .here 0x4000
      ∧ (s.partAt 0).doorbell.length < 64 ∧ (State.reset.partAt 0).configured = false)
    ∧ (let t := (mapped State.reset).setPart 0 { (mapped State.reset).partAt 0 with ranges := [(0, 2 ^ 31), (2 ^ 55, 2 ^ 50)] };
      let s := { t with mem := storeNat (storeNat t.mem 0x3008 8 (2 ^ 55 + 2 ^ 44 + 0x1F)) 0x3010 8 (2 ^ 55 + 0x1F) };
      s.mapped 0 0x40000000 8 .r = true ∧ s.barServer 0 0x40000000 .r = .away ∧ s.mapped 0 0x80000000 8 .r = true
      ∧ s.barServer 0 0x80000000 .r = .refused ∧ s.barServer 0 0x80000000 .w = .refused)
    ∧ 64 ≤ ((State.reset.setPart 0 { configured := true, doorbell := List.replicate 64 0 }).partAt 0).doorbell.length
    ∧ (35999 < 36000 ∧ 36000 ≤ 36000 ∧ 39999 < 40000 ∧ 40000 ≤ 40000)
    ∧ ((List.replicate 32 (0 : Byte)).length = 32 ∧ State.reset.boot = .held ∧ ({ State.reset with boot := .running } : State).boot ≠ .held)
    ∧ ((State.reset.linkAt 15).down = false ∧ (State.reset.linkAt 15).replays < 7)
    ∧ (∀ k ∈ [1, 2], let s := State.reset.setLink 15 { replays := 7, retrains := k, retraining := true };
      7 ≤ (s.linkAt 15).replays ∧ (s.linkAt 15).retraining = true ∧ (s.linkAt 15).retrains = k)
    ∧ ((State.reset.setLink 15 { replays := 7 }).linkAt 15).retraining = false
    ∧ (let s := (dram (.load false) (2 ^ 55)).setLink 15 { down := true }; let s : State := { s with slots := [(0x10001, s.slotAt 0x10001)] };
      (s.linkAt 15).down = true ∧ s.slots.map (·.1) = [0x10001] ∧ s.cores = []
      ∧ (s.slotAt 0x10001).wait = some (.dram ⟨.load false, 8, 1, 7, [5], 0x4000, ⟨.dram, 0, 2 ^ 55⟩⟩)
      ∧ behindLink [fabricModule (2 ^ 55)] (2 ^ 55) = true ∧ behindLink [] (2 ^ 55) = false) := by decide +kernel

/-- Slots that all stand at their own images have images of their own. -/
theorem images_apart (s : State) (h : ∀ p ∈ s.slots, p.2.sel = 0) (m k : Nat) (ne : m ≠ k) : s.imageKey m ≠ s.imageKey k := by
  have own : ∀ (l : List (Nat × Slot)) (n : Nat), (∀ p ∈ l, p.2.sel = 0) → (look {} l n).sel = 0 := by
    intro l n hl
    induction l with
    | nil => rfl
    | cons p r ih =>
      unfold look
      split
      · exact hl p (by simp)
      · exact ih fun q hq => hl q (by simp [hq])
  have key : ∀ n, s.imageKey n = n := by
    intro n
    have := own s.slots n h
    unfold State.imageKey State.slotAt coreOf slotIdx
    rw [this]
    simp only [Fin.val_zero]
    omega
  rw [key, key]; exact ne

theorem witness_HostAndLinksAreServed_2 :
    (let x := word (3 * 2 ^ 60 + 5 * 2 ^ 48); let s := (under (.send ⟨x, true, true, [1]⟩)).setLink 15 { down := true };
      (s.linkAt 15).down = true ∧ (s.slotAt 1).wait = some (.send ⟨x, true, true, [1]⟩) ∧ s.destination 1 true x = some .away ∧ bits x 57 48 ∈ [5]
      ∧ ∀ m, m ≠ 1 → s.imageKey m ≠ s.imageKey 1)
    ∧ (let s := (dram (.load false) (2 ^ 55)).setLink 15 { down := true }; ∀ m, m ≠ 0x10001 → s.imageKey m ≠ s.imageKey 0x10001)
    ∧ (let s := (copying id []).setLink 15 { down := true };
      (s.coreAt 0).running 0 = some (flying id) ∧ (flying id).moved = false ∧ (flying id).stopping = false ∧ chanFailed (s.coreAt 0).chans[0] = false
      ∧ s.sideBeyond 0 ((s.sideOf 1 (flying id).w0).at_ 0) .r [5] = false) :=
  ⟨⟨by decide +kernel, by decide +kernel, by decide +kernel, by decide +kernel, fun m => images_apart _ (by decide +kernel) m 1⟩,
    fun m => images_apart _ (by decide +kernel) m 0x10001, by decide +kernel⟩

/-! ## Results that the spec writes out, one step each -/

/-- The three rows of 05 R107's table. -/
theorem test_div_rem :
    regAfter (.div .b32 true 7 5 6) (scalar [(5, 0xFFFFFFFFFFFFFFF9), (6, 2)]) 7 = 0xFFFFFFFFFFFFFFFD
    ∧ regAfter (.rem .b32 true 7 5 6) (scalar [(5, 0xFFFFFFFFFFFFFFF9), (6, 2)]) 7 = 0xFFFFFFFFFFFFFFFF
    ∧ regAfter (.div .b32 true 7 5 6) (scalar [(5, 0x80000000), (6, 0xFFFFFFFFFFFFFFFF)]) 7 = 0xFFFFFFFF80000000
    ∧ regAfter (.rem .b32 true 7 5 6) (scalar [(5, 0x80000000), (6, 0xFFFFFFFFFFFFFFFF)]) 7 = 0
    ∧ heldAfter (.div .b32 true 7 5 6) (scalar [(5, 5), (6, 0x100000000)]) = some (0x10, 0, 5)
    ∧ heldAfter (.rem .b32 true 7 5 6) (scalar [(5, 5), (6, 0x100000000)]) = some (0x10, 1, 5) := by decide +kernel
/-- A sum of a narrow width wraps and is sign-extended (05 R100, R101). -/
theorem test_add_wraps : regAfter (.add .b8 7 5 6) (scalar [(5, 0x7F), (6, 1)]) 7 = 0xFFFFFFFFFFFFFF80 := by decide +kernel
/-- `ext.s g7, g5, 12, 4` of 05 R110. -/
theorem test_ext : regAfter (.ext true 7 5 12 4) (scalar [(5, 0xF123)]) 7 = 0xFFFFFFFFFFFFFFFF := by decide +kernel
/-- The address of 05 R115 and its LOCAL in logical tiles 5 and 6 (05 R116). -/
theorem test_gaddr_local :
    let s := fun t : Nat => tileIs (fun x => { x with logTile := t }) (withRecord (fun r => { r with tiles := 8 })
      (scalar [(8, 20), (9, 0x9014100000000100), (10, 0x7014100000000100), (11, 0x1000000)]))
    regAfter (.gaddr false false 1 9 8 0x100) (s 5) 9 = 0x9014100000000100
    ∧ regAfter (.localq 7 9) (s 5) 7 = 0x100 ∧ regAfter (.localq 7 9) (s 6) 7 = 0xFFFFFFFFFFFFFFFF
    ∧ regAfter (.localq 7 10) (s 5) 7 = 0xFFFFFFFFFFFFFFFE ∧ regAfter (.localq 7 11) (s 5) 7 = 0xFFFFFFFFFFFFFFFE := by decide +kernel
/-- A jump to 6 traps with ALIGN 0x10, and LBRK without a loop with LOOPSTACK 1 (06 R129, R132). -/
theorem test_flow_traps :
    heldAfter (.jr 2) (scalar [(2, 6)]) = some (0x08, 0x10, 6) ∧ heldAfter .lbrk (scalar []) = some (0x11, 1, 0) := by decide +kernel
/-- TSTART of slot 5 at cycle 1,600: its first turn is at 1,653 (04 R85). -/
theorem test_tstart :
    ((after (.tstart .scalar 7 8 9 10) (tileIs (fun t => { t with cycle := 1600 }) (scalar [(8, 5)]))).slotAt 5).turnFrom = 1653 := by
  decide +kernel
/-- Bytes are stored lowest first (02 R35). -/
theorem test_store_order :
    let t := after (.st .b64 .plain .g 3 (addr 0)) (scalar [(2, 0x100), (3, 0x0123456789ABCDEF)])
    t.read ⟨.g, 0, 0x100⟩ 1 = 0xEF ∧ t.read ⟨.g, 0, 0x107⟩ 1 = 0x01 := by decide +kernel
/-- A load outside the user part of G (07 R139). -/
theorem test_load_bound : heldAfter (.ld .b64 false .plain .g 7 (addr 0)) (scalar [(2, 0x70000)]) = some (0x09, 0, 0x70000) := by decide +kernel
/-- The token T0 of the launch `shots` (12 R250): a multi-shot frame, generation 0, record 0. -/
theorem test_perform_token :
    regAfter (.perform (.imm 0x120)) (handling 1 1 [(0, word (2 ^ 32 + 0xFFFE * 2 ^ 16 + 0x120))]) 4 = 0x10000000000 := by decide +kernel
/-- The reduction and the scan of 16 R302: 1.0 and three lanes of 2^-24. -/
theorem test_reduce_scan :
    let s := (lanes [(2, 0x338000003380000033800000 * 2 ^ 32 + 0x3F800000)] []).setImage 0
      { (lanes [(2, 0x338000003380000033800000 * 2 ^ 32 + 0x3F800000)] []).img 0 with k := #v[0, BitVec.allOnes 128, 0, 0, 0, 0, 0, 0] }
    regAfter (.vred .f32 .rne .add false 6 1 2 9) s 9 = 0x3F800001
    ∧ (after (.vscan .f32 .rne .add ⟨6, 1, false⟩ 2) s).lane .f32 6 3 = 0x3F800000
    ∧ ((after (.vscan .f32 .rne .add ⟨6, 1, false⟩ 2) s).img 0).fpflags.getLsbD 0 = true := by decide +kernel
/-- The table lookup of 18: x = 1.0 between x0 = -8 and knots at quarters, y_36 = 0x3F57625E. -/
theorem test_vtlu :
    let s := tileIs (fun t => { t with tables := t.tables.set 0 (some ⟨0xC1000000, 0xFE,
      List.replicate 36 0 ++ [0x3F57625E] ++ List.replicate 28 0x3F800000⟩) }) (lanes [(1, 0x3F80)] [])
    (after (.vtlu .bf16 .bf16 .rne 0 false ⟨2, 1, false⟩ 1) s).lane .bf16 2 0 = 0x3F57 := by decide +kernel
/-- `vcvt.bf16.f32 v1, v2, 1` fills lanes 32 to 63 and keeps the others (17 R312). -/
theorem test_vcvt_part :
    let s := (lanes [(2, 0x3F800000)] []).setImage 0 { (lanes [(2, 0x3F800000)] []).img 0 with k := #v[BitVec.allOnes 128, 0, 0, 0, 0, 0, 0, 0] }
    let t := after (.vcvt .bf16 .f32 .rne 1 false ⟨1, 0, false⟩ 2) s
    t.lane .bf16 1 32 = 0x3F80 ∧ t.lane .bf16 1 0 = 0 := by decide +kernel
/-- The B column of the MXFP4 example of 16: q of each element, and beta = X - 128 as 22 works it, in halves of a K-block. -/
def mxColumn : List (List Block) := 
  [[⟨false, -26, [2, 2, 2]⟩, ⟨false, -26, []⟩, ⟨false, -25, [1, 1]⟩, ⟨false, -25, []⟩]]

/-- The example's two block adds are ties to even: C keeps 0x3F800000 (16 R298, R299). -/
theorem test_mxfp4 :
    let s := working (.mmul 1 0 0 .mxfp4 false 36 none) (some 0)
    let s := tileIs (fun t => { t with mx := { t.mx with bank0 := { fmt := .mxfp4, k := 64, n := 1, v := true, cols := mxColumn } } }) s
    let s := ((s.write ⟨.a, 0, 0⟩ 4 0x0932007F).write ⟨.a, 0, 18⟩ 3 0xE7007F).write ⟨.c, 0, 0⟩ 4 0x3F800000
    (after (.mmulTurn 0) s).read ⟨.c, 0, 0⟩ 4 = 0x3F800000 := by decide +kernel
/-- MLDB admits that column from its two records in W (16 R296). -/
theorem test_mldb :
    let s := ((working (.mldb 0 64 1 36 .mxfp4 none) none).write ⟨.w, 0, 0⟩ 4 0x02220066).write ⟨.w, 0, 18⟩ 3 0x110067
    let b := ((after (.mldbTurn 0) s).tileAt 0).mx.bank1
    (b.cols.map fun c => c.map fun x => (x.nan, x.beta, x.els.take 3)) = 
      [[(false, -26, [2, 2, 2]), (false, -26, [0, 0, 0]), (false, -25, [1, 1, 0]), (false, -25, [0, 0, 0])]] ∧ b.v = true := by
  decide +kernel
/-- MSTAT of 22: FMT1 3, V1 1, ACT 1 and no flag reads 0x300000A0. -/
theorem test_mstat :
    regAfter (.mstat .read 7) (tileIs (fun t => { t with mx := { bank1 := { fmt := .mxfp4, v := true }, act := true } }) (unit .matrix [])) 7
      = 0x300000A0 := by decide +kernel

/-- SHA-512 of "abc" (FIPS 180-4's example, its first 8 bytes; 23 R406). -/
theorem test_sha512 : (sha512 [0x61, 0x62, 0x63]).take 8 = [0xDD, 0xAF, 0x35, 0xA1, 0x93, 0x61, 0x7A, 0xBA] := by decide +kernel
/-- The first test vector of RFC 8032, of the empty message: the signature passes under the public key, and the seed gives it (23 R406,
R407). -/
theorem test_ed25519 :
    let key := leBytes 32 0x1a5107f7681a02af2523a6daf372e10e3a0764c9d3fe4bd5b70ab18201985ad7
    let sig := leBytes 64 0xb107a8e4341516524be5b59f0f55bd26bb4f91c70391ec6ac3ba3901582b85f5501492265e073d874d9e5b81e7f87848a826e80cce2869072ac60c3004356e5
    ed25519Good key [] sig = true
    ∧ ed25519Sign (leBytes 32 0x607fae1c03ac3b701969327b69c54944c42cec92f44a84ba605afdef9db1619d) [] = sig := by decide +kernel

end Sys2Proof.Tests
end

section
/-! The frame of a meaning by the checks that it passes or fails (03 R61), and what Pop does to the records (12 R235). -/
namespace Sys2Proof.Machine
open Sys2Proof

/-! ## The checks of 03 R61 -/

/-- An instruction that passes checks 5 to 8 raises no fault. -/
theorem issueFault_eq_none {i : Instr} {s : State} (hl : s.lateField i = none) (hp : s.privFault i = none)
    (he : engineAllows (s.slotAt s.cur).engine (unitOf i) = true) (hr : s.reveals i = false ∨ s.sealedHere = false) :
    s.issueFault i = none := by
  have hr : (s.reveals i && s.isSealed s.cur && s.level s.cur = 0) = false := by
    rw [Bool.and_assoc, Bool.and_eq_false_iff]; exact hr
  simp only [State.issueFault, hl, hp, he, hr, Bool.not_true, Bool.false_eq_true, ↓reduceIte]

/-- Check 6 fails after the late fields' checks. -/
theorem issueFault_of_privFault {i : Instr} {s : State} {sub : Nat} {v : Word} (hl : s.lateField i = none)
    (hp : s.privFault i = some (sub, v)) : s.issueFault i = some (0x05, sub, v) := by
  simp only [State.issueFault, hl, hp]

/-- Check 8 fails for an instruction that reveals timing in a sealed launch at user level. -/
theorem issueFault_of_sealed {i : Instr} {s : State} (hl : s.lateField i = none) (hp : s.privFault i = none)
    (he : engineAllows (s.slotAt s.cur).engine (unitOf i) = true) (hr : s.reveals i = true) (hs : s.sealedHere = true) :
    s.issueFault i = some (0x07, 0, 0) := by
  have hs : (s.isSealed s.cur && s.level s.cur = 0) = true := hs
  simp only [State.issueFault, hl, hp, he, hr, hs, Bool.not_true, Bool.false_eq_true, Bool.true_and, ↓reduceIte]

/-- Any slot may issue the scalar set (04 R78). -/
@[simp] theorem engineAllows_scalar (e : Engine) : engineAllows e .scalar = true := rfl

/-- An instruction in the frame traps where a check fails. -/
theorem trapsOn_of_issueFault {i : Instr} {s : State} {body : State → State} {c sub : Nat} {v : Word}
    (hx : exec i s = issue i s body) (h : s.issueFault i = some (c, sub, v)) : TrapsOn i c sub v s :=
  ⟨_, hx.trans (issue_fault h), traps_trap ..⟩

/-- An instruction in the frame that writes one register and retires gives its value where no check fails. -/
theorem gives_of_writes {i : Instr} {s : State} {len : Nat} {d : Reg} {x : State → Word}
    (hx : exec i s = writes i len s d x) (h : s.issueFault i = none) : Gives i len d (x s) s := by
  obtain ⟨t, ht, hr⟩ := writes_gives (len := len) (d := d) (x := x) h
  exact ⟨t, hx.trans ht, hr⟩

/-! ## What Pop does to the records -/

/-- What Pop(j) does to record i: where it is valid and of a depth above j, its header is invalidated (12 R235). -/
def State.popRecord (n j : Nat) (s : State) (i : Nat) : State :=
  if recValid (s.recordHead n i) && decide (j < recDepth (s.recordHead n i)) then s.invalidate n i else s

/-- What Pop(j) does to a list of records, one after the other. -/
def State.popRecords (s : State) (n j : Nat) (is : List Nat) : State := is.foldl (State.popRecord n j) s

theorem popFrames_eq (s : State) (n j : Nat) :
    s.popFrames n j = (s.popRecords n j (List.range (s.recordCount n))).setDepth n j := rfl

theorem popRecord_eq (n j : Nat) (s : State) (i : Nat) : State.popRecord n j s i = { s with mem := (State.popRecord n j s i).mem } := by
  unfold State.popRecord
  split <;> rfl

@[simp] theorem recordOff_popRecord (s : State) (n j i k : Nat) : (State.popRecord n j s i).recordOff n k = s.recordOff n k := by
  unfold State.popRecord
  split <;> rfl

theorem byteAt_popRecord_of_out {s : State} {n j i key : Nat}
    (h : key < (gLoc (coreOf n) (s.recordOff n i)).key ∨ (gLoc (coreOf n) (s.recordOff n i)).key + 8 ≤ key) :
    byteAt (State.popRecord n j s i).mem key = byteAt s.mem key := by
  unfold State.popRecord
  split
  · exact byteAt_write_of_out h
  · rfl

/-- Two changes of memory only are one. -/
theorem mem_only_trans {s t u : State} (h : t = { s with mem := t.mem }) (k : u = { t with mem := u.mem }) :
    u = { s with mem := u.mem } := by rw [k, h]

/-- Pop's invalidations change memory only. -/
theorem popRecords_eq (s : State) (n j : Nat) (is : List Nat) :
    s.popRecords n j is = { s with mem := (s.popRecords n j is).mem } := by
  induction is generalizing s with
  | nil => rfl
  | cons i is ih => exact mem_only_trans (popRecord_eq n j s i) (ih _)

/-- Pop's invalidations change no byte outside the headers of the records. -/
theorem byteAt_popRecords_of_out {s : State} {n j key : Nat} {is : List Nat}
    (h : ∀ i ∈ is, key < (gLoc (coreOf n) (s.recordOff n i)).key ∨ (gLoc (coreOf n) (s.recordOff n i)).key + 8 ≤ key) :
    byteAt (s.popRecords n j is).mem key = byteAt s.mem key := by
  induction is generalizing s with
  | nil => rfl
  | cons i is ih =>
    obtain ⟨hi, his⟩ := List.forall_mem_cons.1 h
    calc byteAt ((State.popRecord n j s i).popRecords n j is).mem key
      _ = byteAt (State.popRecord n j s i).mem key := ih fun k hk => by rw [recordOff_popRecord]; exact his k hk
      _ = byteAt s.mem key := byteAt_popRecord_of_out hi

@[simp] theorem popRecords_imageAt (s : State) (n j : Nat) (is : List Nat) (k : Nat) :
    (s.popRecords n j is).imageAt k = s.imageAt k := by rw [popRecords_eq]; rfl
@[simp] theorem popRecords_slotAt (s : State) (n j : Nat) (is : List Nat) (m : Nat) :
    (s.popRecords n j is).slotAt m = s.slotAt m := by rw [popRecords_eq]; rfl
@[simp] theorem popRecords_imageKey (s : State) (n j : Nat) (is : List Nat) (m : Nat) :
    (s.popRecords n j is).imageKey m = s.imageKey m := by rw [popRecords_eq]; rfl
@[simp] theorem popRecords_img (s : State) (n j : Nat) (is : List Nat) (m : Nat) :
    (s.popRecords n j is).img m = s.img m := by rw [popRecords_eq]; rfl
@[simp] theorem popRecords_launches (s : State) (n j : Nat) (is : List Nat) :
    (s.popRecords n j is).launches = s.launches := by rw [popRecords_eq]

/-! ## DEPTH and tokens -/

/-- DEPTH of HSP after its replacement (12 R228). -/
theorem hspDepth_setBits (hsp : Word) (d : Nat) : hspDepth (setBits hsp 23 19 d) = d % 32 := by
  have := hsp.isLt
  simp only [hspDepth, bits, setBits, word, BitVec.toNat_ofNat]
  omega

/-- Where no frame is live no token is valid, since a well-formed record has a depth of at least 1 (12 R231). -/
theorem tokenFault_ne_none_of_depth_zero {s : State} {n : Nat} (h : hspDepth (s.img n).hsp = 0) (y : Word) :
    s.tokenFault n y ≠ none := by
  unfold State.tokenFault
  dsimp only
  split_ifs with _ _ hbad hdepth
  case neg =>
    simp only [not_or, Bool.not_eq_true', Bool.not_eq_false] at hbad
    obtain ⟨-, -, -, hgood⟩ := hbad
    simp only [headGood, Bool.and_eq_true, decide_eq_true_eq] at hgood
    omega
  all_goals exact Option.some_ne_none _

end Sys2Proof.Machine
end

section
/-! TSTAT and TSELF read a slot's state and identity, and HALT ends a thread (04 R88, R89, R91). -/
namespace Sys2Proof.Machine
open Sys2Proof

/-! ## HALT -/

/-- A slot's membership is told by its launch, its logical number and its place in a pair. -/
theorem membership_congr {s t : State} {n : Nat} (hl : t.launches = s.launches)
    (hp : (t.img n).paircfg = (s.img n).paircfg) (hs : (t.slotAt n).launch = (s.slotAt n).launch)
    (hg : (t.slotAt n).logSlot = (s.slotAt n).logSlot) : t.membership n = s.membership n := by
  unfold State.membership State.launchAt
  simp only [hl, hp, hs, hg]

/-- An unpaired slot halts alone. -/
theorem haltSlot_of_unpaired {s : State} {n : Nat} (h : s.partner n = none) (x : Word) : s.haltSlot n x = s.haltOne n x := by
  unfold State.haltSlot State.pairOf
  rw [h]
  rfl

section
variable (s : State) (n : Nat)

@[simp] theorem img_popFrames (j : Nat) : (s.popFrames n j).img n = { s.img n with hsp := setBits (s.img n).hsp 23 19 j } := by
  rw [popFrames_eq, State.setDepth, img_setImg, popRecords_img]
@[simp] theorem slotAt_popFrames (j m : Nat) : (s.popFrames n j).slotAt m = s.slotAt m := by
  rw [popFrames_eq, State.setDepth, slotAt_setImg, popRecords_slotAt]

@[simp] theorem img_leaveRotation (st : SlotState) : (s.leaveRotation n st).img n = s.img n := img_setSlot_same _ _ _ rfl
theorem slotAt_leaveRotation (st : SlotState) : (s.leaveRotation n st).slotAt n =
    { s.slotAt n with
      state := st, wait := none, hold := none, pending := [], tickDue := false, wdDue := false, pairDue := none
      mirror := none, stopDue := false, resuming := false } := State.slotAt_setSlot ..

/-- Slot n with its exit value replaced. -/
def State.setExit (x : Word) : State := s.setSlot n { s.slotAt n with exitVal := x }

theorem onlySlot_setDepth (d : Nat) : OnlySlot n s (s.setDepth n d) := onlySlot_setImg ..
theorem onlySlot_leaveRotation (st : SlotState) : OnlySlot n s (s.leaveRotation n st) := onlySlot_setSlot _ _ _ rfl
theorem onlySlot_setExit (x : Word) : OnlySlot n s (s.setExit n x) := onlySlot_setSlot _ _ _ rfl

/-- Slot n after HALT with exit value x, before the breach of its group (04 R91). -/
def State.halted (x : Word) : State := ((s.popFrames n 0).leaveRotation n .halted).setExit n x

variable (x : Word)

/-- Beside what its pop did to the records, HALT touches its own slot only. -/
theorem onlySlot_halted : OnlySlot n (s.popRecords n 0 (List.range (s.recordCount n))) (s.halted n x) :=
  ((onlySlot_setDepth _ n 0).trans (onlySlot_leaveRotation _ n .halted)).trans (onlySlot_setExit _ n x)

theorem img_halted : (s.halted n x).img n = { s.img n with hsp := setBits (s.img n).hsp 23 19 0 } :=
  calc (s.halted n x).img n
    _ = ((s.popFrames n 0).leaveRotation n .halted).img n := img_setSlot_same _ _ _ rfl
    _ = _ := by rw [img_leaveRotation, img_popFrames]

theorem slotAt_halted : (s.halted n x).slotAt n =
    { s.slotAt n with
      state := .halted, wait := none, hold := none, pending := [], tickDue := false, wdDue := false, pairDue := none
      mirror := none, stopDue := false, resuming := false, exitVal := x } := by
  rw [State.halted, State.setExit, State.slotAt_setSlot, slotAt_leaveRotation, slotAt_popFrames]

theorem membership_halted : (s.halted n x).membership n = s.membership n :=
  membership_congr (popRecords_launches ..) (by rw [img_halted]) (by rw [slotAt_halted]) (by rw [slotAt_halted])

end

/-- HALT of a member that no unfired position holds breaches no group. -/
theorem haltOne_of_not_remains {s : State} {n : Nat} (h : ∀ l g i, s.membership n = some (l, g, i) → g.remains i = false)
    (x : Word) : s.haltOne n x = s.halted n x := by
  rw [show s.haltOne n x = match (s.halted n x).membership n with
    | some (l, g, i) => if g.remains i then (s.halted n x).breach l g.num i else s.halted n x
    | none => s.halted n x from rfl, membership_halted]
  split
  · next l g i hm => rw [h l g i hm, if_neg Bool.false_ne_true]
  · rfl

/-- The meaning of HALT stands in the frame. -/
theorem exec_halt_eq (a : Reg) (s : State) : exec (.halt a) s = issue (.halt a) s fun s => s.haltSlot s.cur (s.g a) := rfl

theorem exec_halt {a : Reg} {s : State} (hp : s.partner s.cur = none)
    (hm : ∀ l g i, s.membership s.cur = some (l, g, i) → g.remains i = false) :
    exec (.halt a) s = .next (s.halted s.cur (s.g a)) := by
  have hf : s.issueFault (.halt a) = none := issueFault_eq_none rfl rfl (engineAllows_scalar _) (.inl rfl)
  calc exec (.halt a) s
    _ = .next (s.haltSlot s.cur (s.g a)) := (exec_halt_eq a s).trans (issue_ok hf)
    _ = .next (s.halted s.cur (s.g a)) := by rw [haltSlot_of_unpaired hp, haltOne_of_not_remains hm]

/-! ## TSTAT -/

/-- STATE for each state of a slot (04 R88). -/
theorem stateCode_eq (y : Slot) : y.stateCode = match y.state with
    | .free => 0 | .stopped => 2 | .live | .halted | .parked => if y.stopDue then 2 else 1 := by
  unfold Slot.stateCode
  cases y.state <;> rfl

/-- What TSTAT writes for an operand x: all ones outside 1 to 15, and else the slot's state (04 R88). -/
def State.tstatAnswer (s : State) (x : Nat) : Word := if x < 1 ∨ 15 < x then neg 1 else s.tstatOf (s.cur + x)

theorem exec_tstat (d a : Reg) (s : State) :
    exec (.tstat d a) s = writes (.tstat d a) 8 s d fun s => s.tstatAnswer (s.g a).toNat := rfl

theorem gives_tstat {d a : Reg} {s : State} (h : slotIdx s.cur = 0) :
    Gives (.tstat d a) 8 d (s.tstatAnswer (s.g a).toNat) s := by
  have hp : s.privFault (.tstat d a) = none := if_neg (not_not_intro h)
  exact gives_of_writes (exec_tstat d a s) (issueFault_eq_none rfl hp (engineAllows_scalar _) (.inl rfl))

/-- TSTAT is slot zero's alone (13 R253). -/
theorem trapsOn_tstat {d a : Reg} {s : State} (h : slotIdx s.cur ≠ 0) : TrapsOn (.tstat d a) 0x05 1 (words01 (.tstat d a)) s :=
  trapsOn_of_issueFault (exec_tstat d a s) (issueFault_of_privFault rfl (if_pos h))

/-! ## TSELF -/

theorem exec_tself (f : SelfForm) (d : Reg) (s : State) : exec (.tself f d) s = writes (.tself f d) 8 s d (·.selfValue f) := rfl

/-- TSELF gives its value but where its form reveals the placement of a sealed launch (13 R258). -/
theorem gives_tself {f : SelfForm} {d : Reg} {s : State} (h : s.reveals (.tself f d) = false ∨ s.sealedHere = false) :
    Gives (.tself f d) 8 d (s.selfValue f) s :=
  gives_of_writes (exec_tself f d s) (issueFault_eq_none rfl rfl (engineAllows_scalar _) h)

theorem trapsOn_tself_phys {d : Reg} {s : State} (h : s.sealedHere = true) : TrapsOn (.tself .phys d) 0x07 0 0 s :=
  trapsOn_of_issueFault (exec_tself .phys d s) (issueFault_of_sealed rfl rfl (engineAllows_scalar _) rfl h)

theorem selfValue_bind {s : State} (h : isOrdinary s.cur = true) :
    s.selfValue .bind = word (engineCode (s.slotAt s.cur).engine + 4 * (s.cur / 16 % 4) + 16 * (s.cur % 16)) := by
  simp only [State.selfValue, h, ↓reduceIte, coreOf, slotIdx]

/-- Settles O14: TSTAT and TSELF by the checks of their frame, HALT by what the pop of every record and the end of the rotation
leave. -/
theorem slotsTellTheirStateAndEnd : Obligations.SlotsTellTheirStateAndEnd := by
  unfold Obligations.SlotsTellTheirStateAndEnd
  intro d a s x sl
  refine ⟨fun h0 => ?_, trapsOn_tstat, gives_tself (.inl rfl), fun ho => ?_,
    fun _ hs => gives_tself (.inr hs), trapsOn_tself_phys, fun hp hm => ?_⟩
  · have h := gives_tstat (d := d) (a := a) h0
    rw [State.tstatAnswer] at h
    refine ⟨fun hx => ?_, fun h1 h15 => ?_⟩
    · rw [if_pos hx] at h
      exact h
    · rw [if_neg (by omega), State.tstatOf, stateCode_eq, Nat.mul_comm (engineCode _)] at h
      exact h
  · have h := gives_tself (f := .bind) (d := d) (s := s) (.inl rfl)
    rw [selfValue_bind ho] at h
    exact h
  · obtain ⟨heq, himages, hslots, -⟩ := onlySlot_halted s s.cur (s.g a)
    refine ⟨_, exec_halt hp hm, ?_, img_halted .., fun m h => ?_, ?_, fun k h => ?_, fun key h => ?_, ?_, ?_, ?_⟩
    · rw [popRecords_eq] at heq
      exact heq
    · rw [hslots m h, popRecords_slotAt]
    · exact tokenFault_ne_none_of_depth_zero (by rw [img_halted]; exact hspDepth_setBits _ 0)
    · rw [himages k (by rwa [popRecords_imageKey]), popRecords_imageAt]
    · exact byteAt_popRecords_of_out fun i hi => h i (List.mem_range.1 hi)
    all_goals rw [slotAt_halted]

end Sys2Proof.Machine
end

section
/-! What every operation does to the memory: it leaves it as it was (`…_mem`), or writes it so that it keeps its canonical form
(`…_mem_wf`; 07 R136). In the order of the model's files. -/
namespace Sys2Proof.Machine
open Sys2Proof

/-! ## Branches and folds -/

@[simp] theorem mem_ite (c : Prop) [Decidable c] (s t : State) : (if c then s else t).mem = if c then s.mem else t.mem :=
  apply_ite ..

@[simp] theorem wf_ite (c : Prop) [Decidable c] (a b : List Host.Cell) :
    Memory.wf (if c then a else b) = if c then Memory.wf a else Memory.wf b := apply_ite ..

/-- A fold of steps that leave the memory leaves it. -/
theorem foldl_mem {α : Type} {f : State → α → State} {l : List α} {s : State} (hf : ∀ s x, (f s x).mem = s.mem) :
    (l.foldl f s).mem = s.mem := by
  induction l generalizing s with
  | nil => rfl
  | cons x l ih => exact ih.trans (hf s x)

/-- A fold of steps that keep the canonical form keeps it. -/
theorem foldl_mem_wf {α : Type} {f : State → α → State} {l : List α} {s : State}
    (hf : ∀ s x, Memory.wf s.mem = true → Memory.wf (f s x).mem = true) (h : Memory.wf s.mem = true) :
    Memory.wf (l.foldl f s).mem = true := by
  induction l generalizing s with
  | nil => exact h
  | cons x l ih => exact ih (hf s x h)

theorem wf_foldl_storeBytes {m : List Host.Cell} (ps : List (Loc × List Byte)) (h : Memory.wf m = true) :
    Memory.wf (ps.foldl (fun m p => storeBytes m p.1.key p.2) m) = true := by
  induction ps generalizing m with
  | nil => exact h
  | cons p r ih => exact ih (wf_storeBytes _ _ h)

/-! ## Machine/Ops.lean -/

@[simp] theorem taintG_mem (s : State) (n : Nat) (r : Reg) : (s.taintG n r).mem = s.mem := by simp [State.taintG]

@[simp] theorem landReady_mem_wf {s : State} (ms : List (Counted × Bool)) (h : Memory.wf s.mem = true) :
    Memory.wf (s.landReady ms).mem = true := by simp [State.landReady, h, landMarked_mem_wf]

@[simp] theorem landOwn_mem_wf {s : State} (n : Nat) (h : Memory.wf s.mem = true) : Memory.wf (s.landOwn n).mem = true := by
  simp [State.landOwn, h]

@[simp] theorem landScalar_mem_wf {s : State} (n : Nat) (h : Memory.wf s.mem = true) :
    Memory.wf (s.landScalar n).mem = true := by simp [State.landScalar, h, landMarked_mem_wf]

@[simp] theorem tickRetired_mem (s : State) (n : Nat) : (s.tickRetired n).mem = s.mem := by simp [State.tickRetired]
@[simp] theorem settle_mem (s : State) (n : Nat) (next : Word) : (s.settle n next).mem = s.mem := rfl
@[simp] theorem retireTo_mem (s : State) (n : Nat) (next : Word) : (s.retireTo n next).mem = s.mem := by simp [State.retireTo]
@[simp] theorem retireOf_mem (s : State) (n len : Nat) : (s.retireOf n len).mem = s.mem := by simp [State.retireOf]
@[simp] theorem retire_mem (s : State) (len : Nat) : (s.retire len).mem = s.mem := by simp [State.retire]
@[simp] theorem transfer_mem (s : State) (pops : Bool) (t : Word) : (s.transfer pops t).mem = s.mem := by simp [State.transfer]
@[simp] theorem progress_mem (s : State) (n : Nat) : (s.progress n).mem = s.mem := rfl
@[simp] theorem stall_mem (s : State) (n k : Nat) : (s.stall n k).mem = s.mem := by simp [State.stall]
@[simp] theorem complete_mem (s : State) (n len : Nat) : (s.complete n len).mem = s.mem := by simp [State.complete]
@[simp] theorem awake_mem (s : State) (n : Nat) : (s.awake n).mem = s.mem := rfl
@[simp] theorem served_mem (s : State) (n len : Nat) : (s.served n len).mem = s.mem := by simp [State.served]
@[simp] theorem finish_mem (s : State) (len : Nat) : (s.finish len).mem = s.mem := by simp [State.finish]
@[simp] theorem finishBlocking_mem (s : State) (len : Nat) : (s.finishBlocking len).mem = s.mem := by simp [State.finishBlocking]
@[simp] theorem block_mem (s : State) (n : Nat) (w : Wait) : (s.block n w).mem = s.mem := rfl
@[simp] theorem openTurn_mem (s : State) (n : Nat) : (s.openTurn n).mem = s.mem := rfl

@[simp] theorem takeTrap_mem (s : State) (n cause sub : Nat) (v : Word) (boundary : Bool) :
    (s.takeTrap n cause sub v boundary).mem = s.mem := by simp [State.takeTrap]

@[simp] theorem trap_mem (s : State) (cause sub : Nat) (v : Word) : (s.trap cause sub v).mem = s.mem := by simp [State.trap]
@[simp] theorem charge_mem (s : State) (l : Nat) (a : Activity) (n : Nat) : (s.charge l a n).mem = s.mem := by simp [State.charge]

/-! ## Machine/Frames.lean -/

@[simp] theorem setRecordWord_mem_wf {s : State} (n i off : Nat) (x : Word) (h : Memory.wf s.mem = true) :
    Memory.wf (s.setRecordWord n i off x).mem = true := by simp [State.setRecordWord, h, write_mem_wf]

@[simp] theorem invalidate_mem_wf {s : State} (n i : Nat) (h : Memory.wf s.mem = true) :
    Memory.wf (s.invalidate n i).mem = true := by simp [State.invalidate, h]

@[simp] theorem popFrames_mem_wf {s : State} (n j : Nat) (h : Memory.wf s.mem = true) :
    Memory.wf (s.popFrames n j).mem = true := foldl_mem_wf (fun _ _ h => by simp [h]) h

@[simp] theorem markFrame_mem_wf {s : State} (n f : Nat) (r skip : Nat) (h : Memory.wf s.mem = true) :
    Memory.wf (s.markFrame n f r skip).mem = true := by simp [State.markFrame, h, write_mem_wf]

@[simp] theorem saveLevels_mem_wf {s : State} (n i : Nat) (h : Memory.wf s.mem = true) :
    Memory.wf (s.saveLevels n i).mem = true := foldl_mem_wf (fun _ _ h => by simp [h]) h

@[simp] theorem saveRegs_mem_wf {s : State} (n i : Nat) (h : Memory.wf s.mem = true) :
    Memory.wf (s.saveRegs n i).mem = true := foldl_mem_wf (fun _ _ h => by simp [h]) h

@[simp] theorem capture_mem_wf {s : State} (n i f x : Nat) (vp : Option (Nat × Nat)) (h : Memory.wf s.mem = true) :
    Memory.wf (s.capture n i f x vp).mem = true := by
  have saved : Memory.wf (((s.saveLevels n i).saveRegs n i).markFrame n f 1 (hspDepth (s.img n).hsp)).mem = true :=
    markFrame_mem_wf _ _ _ _ (saveRegs_mem_wf _ _ (saveLevels_mem_wf _ _ h))
  simp [State.capture, saved]

@[simp] theorem raiseCause_mem_wf {s : State} (n cause sub : Nat) (v : Word) (skip : Option Nat) (h : Memory.wf s.mem = true) :
    Memory.wf (s.raiseCause n cause sub v skip).mem = true := by
  unfold State.raiseCause
  split
  · cases skip <;> simp [h]
  · simp [h]

@[simp] theorem raiseHere_mem_wf {s : State} (cause sub : Nat) (v : Word) (len : Nat) (h : Memory.wf s.mem = true) :
    Memory.wf (s.raiseHere cause sub v len).mem = true := by simp [State.raiseHere, h]

@[simp] theorem finishSnap_mem_wf {s : State} (n : Nat) (h : Memory.wf s.mem = true) :
    Memory.wf (s.finishSnap n).mem = true := by
  unfold State.finishSnap
  split <;> simp [h, write_mem_wf]

@[simp] theorem settleSnap_mem_wf {s : State} (n : Nat) (h : Memory.wf s.mem = true) :
    Memory.wf (s.settleSnap n).mem = true := by simp [State.settleSnap, h]

@[simp] theorem dropSnapshot_mem_wf {s : State} (n : Nat) (h : Memory.wf s.mem = true) :
    Memory.wf (s.dropSnapshot n).mem = true := by simp [State.dropSnapshot, h]

/-! ## Machine/Operands.lean -/

@[simp] theorem putD_mem (s : State) (w : Width) (d : Reg) (v : Int) : (s.putD w d v).mem = s.mem := by simp [State.putD]

/-! ## Machine/Scalar.lean -/

@[simp] theorem divZero_mem_wf {s : State} (sub : Nat) (a : Reg) (h : Memory.wf s.mem = true) :
    Memory.wf (divZero s sub a).mem = true := by simp [divZero, h]

/-! ## Machine/Groups.lean -/

@[simp] theorem setGroup_mem (s : State) (l : Nat) (g : Group) : (s.setGroup l g).mem = s.mem := rfl
@[simp] theorem setPoint_mem (s : State) (t p : Nat) : (s.setPoint t p).mem = s.mem := foldl_mem fun _ _ => rfl
@[simp] theorem evenDroop_mem (s : State) (t : Nat) : (s.evenDroop t).mem = s.mem := foldl_mem fun _ _ => rfl

@[simp] theorem evenPoints_mem (s : State) (l : Nat) : (s.evenPoints l).mem = s.mem := by
  unfold State.evenPoints
  dsimp only
  split
  · exact foldl_mem fun _ _ => by simp
  · rfl

@[simp] theorem landWaiters_mem_wf {s : State} (lc : Launch) (g : Group) (h : Memory.wf s.mem = true) :
    Memory.wf (s.landWaiters lc g).mem = true := by
  unfold State.landWaiters
  split
  · exact h
  · exact foldl_mem_wf (fun _ _ h => by simp [h]) h

@[simp] theorem linkReadiness_mem_wf {s : State} (l num : Nat) (onEdge : Bool) (h : Memory.wf s.mem = true) :
    Memory.wf (s.linkReadiness l num onEdge).mem = true := by
  unfold State.linkReadiness
  dsimp only
  split <;> simp [h]

@[simp] theorem fireLink_mem (s : State) (l num q : Nat) (e : Barrier) : (s.fireLink l num q e).mem = s.mem := by
  unfold State.fireLink
  dsimp only
  split
  · rfl
  · split
    · rfl
    · split
      · exact (foldl_mem fun _ _ => by split <;> simp).trans (by simp)
      · rfl

@[simp] theorem fireGroup_mem_wf {s : State} (l num : Nat) (h : Memory.wf s.mem = true) :
    Memory.wf (s.fireGroup l num).mem = true := by
  unfold State.fireGroup
  dsimp only
  split
  · simp [h]
  · split
    · simp [h]
    · rw [foldl_mem fun _ _ => by simp]
      simp [h]

@[simp] theorem releaseMember_mem (s : State) (l num i : Nat) : (s.releaseMember l num i).mem = s.mem := by
  unfold State.releaseMember
  dsimp only
  split
  · simp
  · split <;> simp

@[simp] theorem release_mem (s : State) (l num pos i : Nat) : (s.release l num pos i).mem = s.mem := by
  unfold State.release
  dsimp only
  split
  · simp
  · split <;> simp

@[simp] theorem releasesAt_mem (s : State) (t : Nat) : (s.releasesAt t).mem = s.mem := by
  unfold State.releasesAt
  split
  · rfl
  · exact foldl_mem fun _ _ => foldl_mem fun _ _ => foldl_mem fun _ _ => by simp

@[simp] theorem edgeFirings_mem_wf {s : State} (l num : Nat) (h : Memory.wf s.mem = true) :
    Memory.wf (s.edgeFirings l num).mem = true := by
  unfold State.edgeFirings
  dsimp only
  split
  · simp [h]
  · split
    · simp [h]
    · rw [foldl_mem fun _ _ => by simp]
      simp [h]

@[simp] theorem readyAgain_mem_wf {s : State} (t : Nat) (h : Memory.wf s.mem = true) : Memory.wf (s.readyAgain t).mem = true := by
  unfold State.readyAgain
  split
  · exact h
  · split
    · exact h
    · rw [foldl_mem fun _ _ => by simp]
      exact foldl_mem_wf (fun _ _ h => by simp [h]) h

@[simp] theorem breachGroup_mem (s : State) (l num : Nat) (p at_ : Nat × Nat) : (s.breachGroup l num p at_).mem = s.mem := by
  unfold State.breachGroup
  split <;> rfl

@[simp] theorem breachFrom_mem (s : State) (l : Nat) (p at_ : Nat × Nat) (f : Nat) (nums : List Nat) :
    (s.breachFrom l p at_ f nums).mem = s.mem := by
  induction f generalizing s nums with
  | zero => rfl
  | succ f ih =>
    cases nums with
    | nil => rfl
    | cons num rest =>
      unfold State.breachFrom
      split
      · exact ih ..
      · split
        · exact ih ..
        · simp [ih]

@[simp] theorem breach_mem (s : State) (l num i : Nat) : (s.breach l num i).mem = s.mem := by
  unfold State.breach
  dsimp only
  split
  · rfl
  · split
    · rfl
    · simp

@[simp] theorem lose_mem (s : State) (n : Nat) : (s.lose n).mem = s.mem := by
  unfold State.lose
  split <;> simp

/-! ## Machine/Life.lean -/

@[simp] theorem sendRecord_mem (s : State) : (s.sendRecord).mem = s.mem := by
  unfold State.sendRecord
  split <;> simp

@[simp] theorem errorRecord_mem (s : State) (typ : Nat) (place : List Nat) (cause sub : Nat) (syn addr second : Word) :
    (s.errorRecord typ place cause sub syn addr second).mem = s.mem := rfl

@[simp] theorem cancelCopies_mem (s : State) (n : Nat) : (s.cancelCopies n).mem = s.mem := rfl
@[simp] theorem endCopies_mem (s : State) (l n : Nat) : (s.endCopies l n).mem = s.mem := rfl
@[simp] theorem report_mem (s : State) (part : Nat) (r : Report) : (s.report part r).mem = s.mem := rfl

@[simp] theorem startSlot_mem (s : State) (n : Nat) (e : Engine) (pc g5 g6 : Word) (from_ : Nat) :
    (s.startSlot n e pc g5 g6 from_).mem = s.mem := rfl

@[simp] theorem leaveRotation_mem (s : State) (n : Nat) (st : SlotState) : (s.leaveRotation n st).mem = s.mem := rfl

@[simp] theorem haltOne_mem_wf {s : State} (n : Nat) (x : Word) (h : Memory.wf s.mem = true) :
    Memory.wf (s.haltOne n x).mem = true := by
  unfold State.haltOne
  dsimp only
  split <;> simp [h]

@[simp] theorem answerStop_mem (s : State) (n : Nat) : (s.answerStop n).mem = s.mem :=
  foldl_mem fun _ _ => by
    split
    · split <;> simp
    · rfl

@[simp] theorem stopOne_mem_wf {s : State} (n : Nat) (h : Memory.wf s.mem = true) : Memory.wf (s.stopOne n).mem = true := by
  simp [State.stopOne, h]

@[simp] theorem returnToken_mem (s : State) (t : Nat) : (s.returnToken t).mem = s.mem := by
  unfold State.returnToken
  split <;> rfl

@[simp] theorem clearQueue_mem (s : State) (t : Nat) : (s.clearQueue t).mem = s.mem := by simp [State.clearQueue]
@[simp] theorem dropQueue_mem (s : State) (t : Nat) : (s.dropQueue t).mem = s.mem := by simp [State.dropQueue]
@[simp] theorem dropMatrix_mem (s : State) (n : Nat) : (s.dropMatrix n).mem = s.mem := by simp [State.dropMatrix]

@[simp] theorem parkOne_mem_wf {s : State} (n : Nat) (im : Image) (cause : Nat) (h : Memory.wf s.mem = true) :
    Memory.wf (s.parkOne n im cause).mem = true := by simp [State.parkOne, h]

@[simp] theorem takeMirror_mem (s : State) (n m : Nat) (regs : List Reg) (vregs : List VReg) (before : Image) (handler : Bool) :
    (s.takeMirror n m regs vregs before handler).mem = s.mem := by simp [State.takeMirror]

@[simp] theorem haltSlot_mem_wf {s : State} (n : Nat) (x : Word) (h : Memory.wf s.mem = true) :
    Memory.wf (s.haltSlot n x).mem = true := foldl_mem_wf (fun _ _ h => by simp [h]) h

@[simp] theorem stopSlot_mem_wf {s : State} (n : Nat) (h : Memory.wf s.mem = true) : Memory.wf (s.stopSlot n).mem = true :=
  foldl_mem_wf (fun _ _ h => by simp [h]) h

@[simp] theorem takeStop_mem_wf {s : State} (n : Nat) (h : Memory.wf s.mem = true) : Memory.wf (s.takeStop n).mem = true := by
  simp [State.takeStop, h]

@[simp] theorem killSlot_mem_wf {s : State} (n : Nat) (h : Memory.wf s.mem = true) : Memory.wf (s.killSlot n).mem = true :=
  foldl_mem_wf (fun _ _ h => by simp [h]) h

@[simp] theorem consume_mem_wf {s : State} (n sub : Nat) (addr : Word) (h : Memory.wf s.mem = true) :
    Memory.wf (s.consume n sub addr).mem = true := foldl_mem_wf (fun _ _ h => by simp [h]) h

@[simp] theorem parkPair_mem_wf {s : State} (n m sub : Nat) (x y : Word) (h : Memory.wf s.mem = true) :
    Memory.wf (s.parkPair n m sub x y).mem = true := by
  have parked (s : State) (k : Nat) (im : Image) (c : Nat) (h : Memory.wf s.mem = true) :
      Memory.wf ((s.popFrames k 0).parkOne k im c).mem = true := by simp [h]
  unfold State.parkPair
  dsimp only
  refine parked _ _ _ _ (parked _ _ _ _ ?_)
  simp [h]

@[simp] theorem raisePaired_mem_wf {s : State} (n cause sub : Nat) (v : Word) (skip : Option Nat) (h : Memory.wf s.mem = true) :
    Memory.wf (s.raisePaired n cause sub v skip).mem = true := by
  unfold State.raisePaired
  dsimp only
  split
  · simp [h]
  · split <;> simp [h]

@[simp] theorem killOne_mem_wf {s : State} (n : Nat) (h : Memory.wf s.mem = true) : Memory.wf (s.killOne n).mem = true := by
  unfold State.killOne
  dsimp only
  split <;> simp [h]

@[simp] theorem fatal_mem (s : State) (n cause : Nat) : (s.fatal n cause).mem = s.mem := by simp [State.fatal]

@[simp] theorem stopLaunch_mem_wf {s : State} (l : Nat) (h : Memory.wf s.mem = true) : Memory.wf (s.stopLaunch l).mem = true := by
  unfold State.stopLaunch
  dsimp only
  rw [State.setLaunch_mem, foldl_mem fun _ _ => by simp, foldl_mem fun _ _ => by simp]
  exact foldl_mem_wf (fun _ _ h => by simp [h]) h

@[simp] theorem killLaunch_mem_wf {s : State} (l : Nat) (h : Memory.wf s.mem = true) :
    Memory.wf (s.killLaunch l).mem = true := by simp [State.killLaunch, h]

@[simp] theorem unhold_mem (s : State) (n : Nat) : (s.unhold n).mem = s.mem := rfl
@[simp] theorem skipAt_mem (s : State) (n : Nat) : (s.skipAt n).mem = s.mem := by simp [State.skipAt]
@[simp] theorem hctl1_mem (s : State) (n : Nat) : (s.hctl1 n).mem = s.mem := rfl
@[simp] theorem hctl2_mem (s : State) (n : Nat) : (s.hctl2 n).mem = s.mem := by simp [State.hctl2]
@[simp] theorem hctl3_mem (s : State) (n : Nat) (h : Hold) : (s.hctl3 n h).mem = s.mem := rfl

@[simp] theorem hctl4_mem_wf {s : State} (n : Nat) (x : Hold) (h : Memory.wf s.mem = true) : Memory.wf (s.hctl4 n x).mem = true :=
  foldl_mem_wf (fun _ _ h => by simp [h]) h

@[simp] theorem hctl5_mem_wf {s : State} (n : Nat) (x : Hold) (h : Memory.wf s.mem = true) :
    Memory.wf (s.hctl5 n x).mem = true := by
  simp [State.hctl5, h]

@[simp] theorem writeHctl_mem_wf {s : State} (n v : Nat) (h : Memory.wf s.mem = true) :
    Memory.wf (s.writeHctl n v).mem = true := by
  unfold State.writeHctl
  split
  · exact h
  · split <;> simp [h]

@[simp] theorem pend_mem (s : State) (n : Nat) (r : Raised) : (s.pend n r).mem = s.mem := rfl

/-! ## Machine/Translate.lean -/

@[simp] theorem physWrite_mem_wf {s : State} (pa n x : Nat) (h : Memory.wf s.mem = true) :
    Memory.wf (s.physWrite pa n x).mem = true := by
  unfold State.physWrite
  split
  · exact h
  · rw [unpoison_mem]
    exact wf_storeNat _ _ _ h

@[simp] theorem tlbTranslate_mem (s : State) (core part va : Nat) (x : Right) :
    (s.tlbTranslate core part va x).2.mem = s.mem := by
  unfold State.tlbTranslate
  dsimp only
  split
  · rfl
  · split
    · rfl
    · split <;> rfl

/-! ## Machine/Registers.lean -/

@[simp] theorem sysWrite_mem (s : State) (n r : Nat) (new x : Word) : (s.sysWrite n r new x).mem = s.mem := by
  unfold State.sysWrite
  split
  · split <;> rfl
  · split_ifs <;> rfl

@[simp] theorem ownTick_mem (s : State) (core i : Nat) : (s.ownTick core i).mem = s.mem := by
  unfold State.ownTick
  split <;> rfl

@[simp] theorem armTick_mem (s : State) (core i : Nat) (x : Word) : (s.armTick core i x).mem = s.mem := by
  unfold State.armTick
  split <;> simp

@[simp] theorem catchUp_mem (s : State) (n : Nat) : (s.catchUp n).mem = s.mem := by
  unfold State.catchUp
  split
  · simp
  · split <;> simp

@[simp] theorem pastWrite_mem (s : State) (n : Nat) (f : Image → Image) : (s.pastWrite n f).mem = s.mem := by
  unfold State.pastWrite
  split
  · simp
  · split <;> simp

@[simp] theorem ctxStore_mem_wf {s : State} (core off level : Nat) (x : Word) (h : Memory.wf s.mem = true) :
    Memory.wf (s.ctxStore core off level x).mem = true := by
  unfold State.ctxStore
  dsimp only
  split
  · exact h
  · split
    · split
      · simp [h]
      · exact h
    · split <;> simp [h]

@[simp] theorem ctxWrite_mem_wf {s : State} (core off n x level : Nat) (h : Memory.wf s.mem = true) :
    Memory.wf (s.ctxWrite core off n x level).mem = true := by simp [State.ctxWrite, h]

/-! ## Machine/Access.lean -/

@[simp] theorem setRanges_mem (s : State) (l : Loc) (r : List (Nat × Nat)) : (s.setRanges l r).mem = s.mem := by
  unfold State.setRanges
  split <;> rfl

theorem mem_of_raceGranules {s t : State} {p k : Nat} {wr : Bool} {gs : List Loc} (h : s.raceGranules p k wr gs = .ok t) :
    t.mem = s.mem := by
  induction gs generalizing s with
  | nil => cases h; rfl
  | cons g r ih =>
    unfold State.raceGranules at h
    split at h
    · cases h
    · next st _ => exact ih (s := { s with stamps := put s.stamps (granuleKey g) st }) h

theorem mem_of_raceCheck {s t : State} {who : Nat} {l : Loc} {n : Nat} {wr : Bool} (h : s.raceCheck who l n wr = .ok t) :
    t.mem = s.mem := by
  unfold State.raceCheck at h
  split at h
  · cases h; rfl
  · exact mem_of_raceGranules h

/-- The race check that only a checked operation makes. -/
theorem mem_of_raceCheck_if {s t : State} {c : Prop} [Decidable c] {who : Nat} {l : Loc} {n : Nat} {wr : Bool}
    (h : (if c then s.raceCheck who l n wr else .ok s) = .ok t) : t.mem = s.mem := by
  split at h
  · exact mem_of_raceCheck h
  · cases h; rfl

@[simp] theorem takeWord_mem_wf {s : State} (l : Loc) (n : Nat) (h : Memory.wf s.mem = true) :
    Memory.wf (s.takeWord l n).mem = true := by simp [State.takeWord, h]

@[simp] theorem serve_mem_wf {s : State} (l : Loc) (f : Nat) (h : Memory.wf s.mem = true) :
    Memory.wf (s.serve l f).mem = true := by
  induction f generalizing s with
  | zero => exact h
  | succ f ih =>
    have taken : Memory.wf ((s.tagWaiters l .ldf).foldl (fun s n => s.takeWord l n) s).mem = true :=
      foldl_mem_wf (fun _ _ h => takeWord_mem_wf _ _ h) h
    unfold State.serve
    dsimp only
    split
    · split
      · split
        · exact ih (takeWord_mem_wf _ _ taken)
        · exact ih (by rw [setTag_mem]; exact takeWord_mem_wf _ _ taken)
      · exact taken
    · split
      · exact ih (by simp [write_mem_wf, h])
      · exact h

@[simp] theorem changeTag_mem_wf {s : State} (l : Loc) (full : Bool) (h : Memory.wf s.mem = true) :
    Memory.wf (s.changeTag l full).mem = true := serve_mem_wf _ _ (by simp [h])

@[simp] theorem tagTaken_mem (s : State) (op : TagOp) (l : Loc) (n : Nat) : (s.tagTaken op l n).mem = s.mem := rfl

@[simp] theorem writeElem_mem_wf {s : State} (n : Nat) (l : Loc) (e x : Nat) (h : Memory.wf s.mem = true) :
    Memory.wf (s.writeElem n l e x).mem = true := by simp [State.writeElem, h, write_mem_wf]

@[simp] theorem storeElems_mem_wf {s : State} (n : Nat) (a : Access) (h : Memory.wf s.mem = true) :
    Memory.wf (s.storeElems n a).mem = true := by
  unfold State.storeElems
  rw [unpoison_mem]
  exact foldl_mem_wf (fun _ _ h => by simp [h]) h

@[simp] theorem setTags_mem_wf {s : State} (a : Access) (full : Bool) (h : Memory.wf s.mem = true) :
    Memory.wf (s.setTags a full).mem = true := foldl_mem_wf (fun _ _ h => by simp [h]) h

@[simp] theorem perform_mem_wf {s : State} (n : Nat) (a : Access) (h : Memory.wf s.mem = true) :
    Memory.wf (s.perform n a).2.mem = true := by
  unfold State.perform
  split
  · exact h
  · split <;> simp [h, write_mem_wf]

@[simp] theorem putReply_mem (s : State) (n : Nat) (r : Reg) (vals : List Word) : (s.putReply n r vals).mem = s.mem :=
  foldl_mem fun _ _ => by simp

@[simp] theorem waitExpire_mem_wf {s : State} (n : Nat) (op : TagOp) (ea : Word) (h : Memory.wf s.mem = true) :
    Memory.wf (s.waitExpire n op ea).mem = true := by simp [State.waitExpire, h]

@[simp] theorem checkWaitLimit_mem_wf {s : State} (n : Nat) (h : Memory.wf s.mem = true) :
    Memory.wf (s.checkWaitLimit n).mem = true := by
  unfold State.checkWaitLimit
  split <;> simp [h]

@[simp] theorem withdrawExpired_mem (s : State) (n : Nat) : (s.withdrawExpired n).mem = s.mem := by
  unfold State.withdrawExpired
  split <;> rfl

/-! ## Machine/Slots.lean -/

@[simp] theorem trapSealed_mem (s : State) : (s.trapSealed).mem = s.mem := by simp [State.trapSealed]
@[simp] theorem answer_mem (s : State) (d : Reg) (x : Word) : (s.answer d x).mem = s.mem := by simp [State.answer]

@[simp] theorem answerBlocking_mem (s : State) (d : Reg) (x : Word) : (s.answerBlocking d x).mem = s.mem := by
  simp [State.answerBlocking]

@[simp] theorem noteBegun_mem (s : State) (l n : Nat) : (s.noteBegun l n).mem = s.mem := by simp [State.noteBegun]
@[simp] theorem firstTurn_mem (s : State) (n : Nat) : (s.firstTurn n).mem = s.mem := by simp [State.firstTurn]
@[simp] theorem freeSlot_mem (s : State) (n : Nat) : (s.freeSlot n).mem = s.mem := rfl
@[simp] theorem setShare_mem (s : State) (r l : Nat) (x : Share) : (s.setShare r l x).mem = s.mem := rfl

theorem mem_of_takeRecord {s t : State} {r l : Nat} {w : List Word} (h : s.takeRecord r l = some (w, t)) : t.mem = s.mem := by
  unfold State.takeRecord at h
  dsimp only at h
  split at h
  · cases h
  · split at h
    · cases h
    · cases h; simp

@[simp] theorem giveRecord_mem (s : State) (r : Reg) (w : List Word) : (s.giveRecord r w).mem = s.mem :=
  foldl_mem fun _ _ => by simp

@[simp] theorem putRecord_mem_wf {s : State} (pa : Nat) (w : List Word) (h : Memory.wf s.mem = true) :
    Memory.wf (s.putRecord pa w).mem = true := foldl_mem_wf (fun _ _ h => by simp [h]) h

@[simp] theorem pushRecord_mem_wf {s : State} (r l : Nat) (w : List Word) (h : Memory.wf s.mem = true) :
    Memory.wf (s.pushRecord r l w).1.mem = true := by
  unfold State.pushRecord
  dsimp only
  split
  · exact h
  · split
    · simp [h]
    · split
      · exact h
      · split <;> simp [h]

/-! ## Machine/Memory.lean -/

@[simp] theorem aliasAccess_mem_wf {s : State} (a : Access) (h : Memory.wf s.mem = true) :
    Memory.wf (s.aliasAccess a).mem = true := by
  unfold State.aliasAccess
  dsimp only
  split
  · simp [h]
  · next t hr =>
    have h : Memory.wf t.mem = true := (mem_of_raceCheck_if hr).symm ▸ h
    split
    · split
      · simp [h]
      · split
        · split <;> simp [h]
        · simp [h]
    · split <;> simp [h]

@[simp] theorem access_mem_wf {s : State} (sp : SP) (a : Access) (h : Memory.wf s.mem = true) :
    Memory.wf (s.access sp a).mem = true := by simp [State.access, h]

@[simp] theorem memory_mem_wf {s : State} (k : MemKind) (sp : SP) (ea : Word) (op : AccessOp) (bytes count : Nat) (reg : Reg)
    (data : List Word) (h : Memory.wf s.mem = true) :
    Memory.wf (s.memory k sp ea op bytes count reg data).mem = true := by
  unfold State.memory
  split <;> simp [h]

@[simp] theorem countedStore_mem (s : State) (w : Width) (d : Reg) (ea : Word) : (s.countedStore w d ea).mem = s.mem := by
  unfold State.countedStore
  dsimp only
  split <;> simp

@[simp] theorem landAt_mem_wf {s : State} (index : Nat) (h : Memory.wf s.mem = true) :
    Memory.wf (s.landAt index).mem = true := by
  unfold State.landAt
  split <;> simp [h, land_mem_wf]

@[simp] theorem landDue_mem_wf {s : State} (t : Nat) (h : Memory.wf s.mem = true) : Memory.wf (s.landDue t).mem = true := by
  simp [State.landDue, h, landMarked_mem_wf]

@[simp] theorem noteMarks_mem (s : State) (l : Loc) (f : List (Nat × (Nat × Nat)) → List (Nat × (Nat × Nat))) :
    (s.noteMarks l f).mem = s.mem := by simp [State.noteMarks]

@[simp] theorem clearRanges_mem (s : State) (l : Loc) (n : Nat) : (s.clearRanges l n).mem = s.mem := by simp [State.clearRanges]
@[simp] theorem markRange_mem (s : State) (l : Loc) (n : Nat) : (s.markRange l n).mem = s.mem := by simp [State.markRange]

@[simp] theorem landAccepted_mem_wf {s : State} (l : Loc) (n : Nat) (h : Memory.wf s.mem = true) :
    Memory.wf (s.landAccepted l n).mem = true := by simp [State.landAccepted, h, landAll_mem_wf]

@[simp] theorem ownerServes_mem_wf {s : State} (n : Nat) (a : Access) (edges : Nat) (h : Memory.wf s.mem = true) :
    Memory.wf (s.ownerServes n a edges).mem = true := by
  unfold State.ownerServes
  dsimp only
  split
  · simp [h]
  · split
    · simp [h]
    · next t hr =>
      have h : Memory.wf t.mem = true := (mem_of_raceCheck_if hr).symm ▸ landAccepted_mem_wf _ _ h
      split
      · split
        · simp [h]
        · split <;> simp [h]
      · split <;> simp [h]

@[simp] theorem replyArrives_mem_wf {s : State} (n : Nat) (a : Access) (r : Reply) (h : Memory.wf s.mem = true) :
    Memory.wf (s.replyArrives n a r).mem = true := by
  unfold State.replyArrives
  split <;> simp [h]

@[simp] theorem countEdge_mem (s : State) (n : Nat) : (s.countEdge n).mem = s.mem := by
  unfold State.countEdge
  split <;> rfl

/-! ## Machine/Messages.lean -/

@[simp] theorem giveEntry_mem (s : State) (n : Nat) (d : Reg) (p : Fin 4) (x : Word) : (s.giveEntry n d p x).mem = s.mem := by
  simp [State.giveEntry]

@[simp] theorem serveReady_mem (s : State) (c f : Nat) : (s.serveReady c f).mem = s.mem := by
  induction f generalizing s with
  | zero => rfl
  | succ f ih =>
    unfold State.serveReady
    split
    · simp [ih]
    · rfl

@[simp] theorem serveQueue_mem (s : State) (c : Nat) : (s.serveQueue c).mem = s.mem := serveReady_mem ..

@[simp] theorem bumpSeq_mem (s : State) (n : Nat) (dst : Word) : (s.bumpSeq n dst).mem = s.mem := rfl

@[simp] theorem putMsg_mem (s : State) (n : Nat) (d : Reg) (m : Msg) : (s.putMsg n d m).mem = s.mem :=
  (foldl_mem fun _ _ => by simp).trans (by simp)

@[simp] theorem deliverMsg_mem (s : State) (n : Nat) (d : Reg) (m : Msg) : (s.deliverMsg n d m).mem = s.mem := by
  simp [State.deliverMsg]

@[simp] theorem serveRecv_mem (s : State) (core launch : Nat) (sender : Word) (f : Nat) :
    (s.serveRecv core launch sender f).mem = s.mem := by
  induction f generalizing s with
  | zero => rfl
  | succ f ih =>
    unfold State.serveRecv
    split
    · rfl
    · split
      · simp [ih]
      · rfl

@[simp] theorem enterMsg_mem (s : State) (core launch : Nat) (sender : Word) (seq : BitVec 16) (payload : List Word)
    (seat : Option Nat) : (s.enterMsg core launch sender seq payload seat).mem = s.mem := by
  simp [State.enterMsg]

theorem mem_of_acceptMsg {s t : State} {core launch : Nat} {sender : Word} {seq : BitVec 16} {payload : List Word}
    (h : s.acceptMsg core launch sender seq payload = some t) : t.mem = s.mem := by
  obtain ⟨seat, -, rfl⟩ := Option.map_eq_some_iff.1 h
  exact enterMsg_mem ..

@[simp] theorem fireLate_mem (s : State) (l core : Nat) : (s.fireLate l core).mem = s.mem := rfl

@[simp] theorem sendAccepted_mem (s : State) (n : Nat) (m : Outgoing) (remote : Remote) :
    (s.sendAccepted n m remote).mem = s.mem := by
  unfold State.sendAccepted
  dsimp only
  split
  · simp
  · rfl
  · split
    · next hm => simp [mem_of_acceptMsg hm]
    · rfl
  · split <;> simp

@[simp] theorem setSem_mem (s : State) (t : Nat) (k : Fin 16) (x : BitVec 8) : (s.setSem t k x).mem = s.mem := rfl

@[simp] theorem serveSem_mem (s : State) (t : Nat) (k : Fin 16) (f : Nat) : (s.serveSem t k f).mem = s.mem := by
  induction f generalizing s with
  | zero => rfl
  | succ f ih =>
    unfold State.serveSem
    dsimp only
    split
    · split
      · rfl
      · simp [ih]
    · rfl

theorem mem_of_addSem {s u : State} {t : Nat} {k : Fin 16} {n : Nat} (h : s.addSem t k n = some u) : u.mem = s.mem := by
  unfold State.addSem at h
  dsimp only at h
  split at h
  · cases h
  · cases h; simp

/-! ## Machine/Copies.lean -/

@[simp] theorem followStores_mem (s : State) (n : Nat) (ch : Fin 4) (id : Nat) : (s.followStores n ch id).mem = s.mem := by
  simp [State.followStores]

@[simp] theorem acceptCopy_mem (s : State) (d : Reg) (c : Copy) : (s.acceptCopy d c).mem = s.mem := by simp [State.acceptCopy]

@[simp] theorem stopCopies_mem (s : State) (core : Nat) (ch : Fin 4) (ids : List Nat) :
    (s.stopCopies core ch ids).mem = s.mem := rfl

@[simp] theorem dropPage_mem (s : State) (c : Copy) : (s.dropPage c).mem = s.mem := by
  unfold State.dropPage
  split <;> rfl

@[simp] theorem cancelIds_mem (s : State) (core : Nat) (ch : Fin 4) (ids : List Nat) :
    (s.cancelIds core ch ids).mem = s.mem := foldl_mem fun _ _ => by split <;> simp

@[simp] theorem cancelOrphans_mem (s : State) (core : Nat) : (s.cancelOrphans core).mem = s.mem := foldl_mem fun _ _ => by simp
@[simp] theorem setCopy_mem (s : State) (core : Nat) (x : Copy) : (s.setCopy core x).mem = s.mem := rfl

@[simp] theorem placeSide_mem (s : State) (core part : Nat) (x : Side) (need : Right) :
    (s.placeSide core part x need).2.mem = s.mem := by
  unfold State.placeSide
  split
  · rfl
  · next va =>
    have ht := tlbTranslate_mem s core part va need
    split <;> simp_all

@[simp] theorem failCopy_mem (s : State) (core : Nat) (c : Copy) (reason : Nat) : (s.failCopy core c reason).mem = s.mem := rfl

@[simp] theorem putWord_mem_wf {s : State} (level : Nat) (ps : List (Loc × List Byte)) (h : Memory.wf s.mem = true) :
    Memory.wf (s.putWord level ps).mem = true := by
  unfold State.putWord
  split
  · exact h
  · split
    · simp [h]
    · exact wf_foldl_storeBytes _ h

@[simp] theorem putAll_mem_wf {s : State} (level : Nat) (early : List Nat) (ws : List Written) (h : Memory.wf s.mem = true) :
    Memory.wf (s.putAll level early ws).mem = true := by
  unfold State.putAll
  dsimp only
  rw [heal_mem]
  split
  · exact foldl_mem_wf (fun _ _ h => by simp [h]) h
  · simp [h]

@[simp] theorem moveUnit_mem_wf {s : State} (core : Nat) (c : Copy) (ms : List Move) (remote : Remote)
    (h : Memory.wf s.mem = true) :
    Memory.wf (s.moveUnit core c ms remote).mem = true := by
  unfold State.moveUnit
  split
  · simp [h]
  · split <;> simp [h]

@[simp] theorem placePieces_mem (s : State) (core part : Nat) (c : Copy) (src dst : Side) (ps : List Piece) :
    (s.placePieces core part c src dst ps).2.mem = s.mem := by
  induction ps generalizing s with
  | nil => rfl
  | cons p r ih =>
    have placed {s t : State} {x : Side} {need : Right} {e} (h : s.placeSide core part x need = (e, t)) : t.mem = s.mem := by
      rw [← placeSide_mem s core part x need, h]
    unfold State.placePieces
    split
    · next h => exact placed h
    · next h =>
      split
      · next h' => exact (placed h').trans (placed h)
      · next h' =>
        have ih := (ih _).trans ((placed h').trans (placed h))
        split <;> simp_all

theorem mem_of_placePieces {s t : State} {core part : Nat} {c : Copy} {src dst : Side} {ps : List Piece}
    {r : Except (Nat × Word) (List Move)} (h : s.placePieces core part c src dst ps = (r, t)) : t.mem = s.mem := by
  rw [← placePieces_mem s core part c src dst ps, h]

@[simp] theorem doChunk_mem_wf {s : State} (core : Nat) (c : Copy) (remote : Remote) (h : Memory.wf s.mem = true) :
    Memory.wf (s.doChunk core c remote).mem = true := by
  unfold State.doChunk
  dsimp only
  split <;> next t hp =>
    have h : Memory.wf t.mem = true := (mem_of_placePieces hp).symm ▸ h
    simp [h]

@[simp] theorem afterChunk_mem_wf {s : State} (core : Nat) (c : Copy) (h : Memory.wf s.mem = true) :
    Memory.wf (s.afterChunk core c).mem = true := by simp [State.afterChunk, h]

@[simp] theorem copyWord_mem_wf {s : State} (core : Nat) (ch : Fin 4) (i : Nat) (remote : Remote) (h : Memory.wf s.mem = true) :
    Memory.wf (s.copyWord core ch i remote).mem = true := by
  unfold State.copyWord
  dsimp only
  split
  · exact h
  · split
    · exact h
    · split
      · next t hp =>
        have ht : Memory.wf t.mem = true := (mem_of_placePieces hp).symm ▸ h
        split
        · exact h
        · split
          · exact h
          · split
            · split
              · simp [ht]
              · exact h
            · simp [ht]
      · exact h

@[simp] theorem copyTag_mem_wf {s : State} (c : Copy) (h : Memory.wf s.mem = true) : Memory.wf (s.copyTag c).mem = true := by
  unfold State.copyTag
  split <;> simp [h]

@[simp] theorem copySignal_mem (s : State) (core : Nat) (c : Copy) : (s.copySignal core c).mem = s.mem := by
  unfold State.copySignal
  split
  · rfl
  · split
    · rfl
    · split
      · next hm => exact mem_of_addSem hm
      · rfl

@[simp] theorem copyDone_mem (s : State) (core : Nat) (c : Copy) : (s.copyDone core c).mem = s.mem := rfl

@[simp] theorem tellPage_mem (s : State) (core : Nat) (c : Copy) (sub : Nat) (va : Word) :
    (s.tellPage core c sub va).mem = s.mem := by simp [State.tellPage]

@[simp] theorem setPageRecord_mem (s : State) (n : Nat) (h : Option Hold) : (s.setPageRecord n h).mem = s.mem := rfl

@[simp] theorem reevePage_mem (s : State) (core : Nat) (c : Copy) (sub : Nat) (va : Word) :
    (s.reevePage core c sub va).mem = s.mem := by simp [State.reevePage]

@[simp] theorem dramAccess_mem (s : State) (ea : Word) (op : AccessOp) (right : Right) (bytes : Nat) (reg : Reg)
    (data : List Word) : (s.dramAccess ea op right bytes reg data).mem = s.mem := by
  unfold State.dramAccess
  split
  · simp
  · split <;> next t hp =>
      have ht : t.mem = s.mem := by rw [← tlbTranslate_mem s, hp]
      simp [ht]

@[simp] theorem landDram_mem_wf {s : State} (pa n : Nat) (h : Memory.wf s.mem = true) :
    Memory.wf (s.landDram pa n).mem = true := by simp [State.landDram, h, landAll_mem_wf]

@[simp] theorem dramStore_mem_wf {s : State} (n : Nat) (a : Access) (pa x : Nat) (h : Memory.wf s.mem = true) :
    Memory.wf (s.dramStore n a pa x).mem = true := by simp [State.dramStore, h]

@[simp] theorem dramHere_mem_wf {s : State} (n : Nat) (a : Access) (pa : Nat) (h : Memory.wf s.mem = true) :
    Memory.wf (s.dramHere n a pa).mem = true := by
  unfold State.dramHere
  dsimp only
  split
  · simp [h]
  · split <;> simp [h]

@[simp] theorem dramThere_mem (s : State) (n : Nat) (a : Access) (remote : Remote) :
    (s.dramThere n a remote).mem = s.mem := by
  unfold State.dramThere
  split <;> simp

@[simp] theorem fabricServe_mem_wf {s : State} (pa : Nat) (op : FabricOp) (h : Memory.wf s.mem = true) :
    Memory.wf (s.fabricServe pa op).2.mem = true := by
  unfold State.fabricServe
  split
  · exact h
  · dsimp only
    split
    · exact h
    · rw [unpoison_mem]
      exact wf_storeBytes _ _ h
  · exact physWrite_mem_wf _ _ _ h

@[simp] theorem fabricAccess_mem_wf {s : State} (fid part pa : Nat) (op : FabricOp) (h : Memory.wf s.mem = true) :
    Memory.wf (s.fabricAccess fid part pa op).mem = true := by
  unfold State.fabricAccess
  split
  · exact h
  · exact fabricServe_mem_wf _ _ (landDram_mem_wf _ _ h)

@[simp] theorem setGrant_mem (s : State) (fid part base len : Nat) (on : Bool) :
    (s.setGrant fid part base len on).mem = s.mem := rfl

@[simp] theorem dramStall_mem (s : State) (die ch cycles : Nat) : (s.dramStall die ch cycles).mem = s.mem := rfl

/-! ## Machine/Control.lean -/

@[simp] theorem enterLoop_mem (s : State) (len : Nat) (off : BitVec 32) (count : Word) :
    (s.enterLoop len off count).mem = s.mem := by simp [State.enterLoop]

@[simp] theorem wake_mem (s : State) (n : Nat) : (s.wake n).mem = s.mem := by
  unfold State.wake
  split <;> simp

/-! ## Machine/Crest.lean -/

@[simp] theorem raiseCrest_mem (s : State) (sub : Nat) (v : Word) : (s.raiseCrest sub v).mem = s.mem := foldl_mem fun _ _ => rfl
@[simp] theorem recrest_mem (s : State) (sub : Nat) : (s.recrest sub).mem = s.mem := by simp [State.recrest]
@[simp] theorem setMember_mem (s : State) (j : Nat) (m : Member) : (s.setMember j m).mem = s.mem := rfl

@[simp] theorem sendCrest_mem (s : State) (typ : BitVec 8) (byte1 : BitVec 8) (point : Nat) (concerned : BitVec 8)
    (bite : Nat) (pendLimit : BitVec 8) :
    (s.sendCrest typ byte1 point concerned bite pendLimit).mem = s.mem := by
  unfold State.sendCrest
  split <;> rfl

@[simp] theorem capUntil_mem (s : State) (point till : Nat) : (s.capUntil point till).mem = s.mem := rfl

@[simp] theorem announceOwn_mem (s : State) (limit bite : Nat) : (s.announceOwn limit bite).mem = s.mem := by
  simp [State.announceOwn]

@[simp] theorem dropOwn_mem (s : State) (limit told : Nat) : (s.dropOwn limit told).mem = s.mem := by simp [State.dropOwn]

@[simp] theorem hear_mem (s : State) (j : Nat) : (s.hear j).mem = s.mem := by
  unfold State.hear
  split <;> simp

@[simp] theorem emergencyOf_mem (s : State) (j : Nat) (x : Member) (limit : Nat) : (s.emergencyOf j x limit).mem = s.mem := by
  simp [State.emergencyOf]

@[simp] theorem answerJoin_mem (s : State) (typ : BitVec 8) (j point effective : Nat) :
    (s.answerJoin typ j point effective).mem = s.mem := by simp [State.answerJoin]

@[simp] theorem keepLeaver_mem (s : State) (j : Nat) : (s.keepLeaver j).mem = s.mem := by
  unfold State.keepLeaver
  dsimp only
  split <;> simp

@[simp] theorem removeMember_mem (s : State) (j effective : Nat) : (s.removeMember j effective).mem = s.mem := by
  unfold State.removeMember
  split <;> simp

@[simp] theorem refuseJoin_mem (s : State) (j : Nat) : (s.refuseJoin j).mem = s.mem := by
  unfold State.refuseJoin
  split <;> simp

@[simp] theorem sendBeat_mem (s : State) : (s.sendBeat).mem = s.mem := by
  unfold State.sendBeat
  split
  · rfl
  · dsimp only
    split
    · simp
    · split <;> simp

@[simp] theorem silence_mem (s : State) (j : Nat) : (s.silence j).mem = s.mem := by simp [State.silence]

@[simp] theorem expelDue_mem (s : State) (j : Nat) : (s.expelDue j).mem = s.mem := by
  unfold State.expelDue
  split <;> simp

@[simp] theorem departures_mem (s : State) : (s.departures).mem = s.mem :=
  foldl_mem fun _ _ => by
    split
    · rfl
    · split <;> simp

@[simp] theorem crestTick_mem (s : State) : s.crestTick.mem = s.mem := by
  unfold State.crestTick
  dsimp only
  rw [sendBeat_mem, foldl_mem fun _ _ => by simp]
  simp

/-! ## Machine/Records.lean -/

@[simp] theorem haul_mem_wf {s : State} (src dst n : Nat) (h : Memory.wf s.mem = true) :
    Memory.wf (s.haul src dst n).mem = true := by
  unfold State.haul
  dsimp only
  rw [foldl_mem fun _ _ => by simp]
  exact wf_copyMem _ _ _ h

@[simp] theorem haulIn_mem_wf {s : State} (part va dst n f : Nat) (h : Memory.wf s.mem = true) :
    Memory.wf (s.haulIn part va dst n f).mem = true := by
  induction f generalizing s va dst n with
  | zero => exact h
  | succ f ih =>
    unfold State.haulIn
    split
    · exact h
    · refine ih _ _ _ ?_
      split
      · split <;> simp [h]
      · exact h

@[simp] theorem haulPart_mem_wf {s : State} (part va dst n f : Nat) (h : Memory.wf s.mem = true) :
    Memory.wf (s.haulPart part va dst n f).mem = true := by
  induction f generalizing s va dst n with
  | zero => exact h
  | succ f ih =>
    unfold State.haulPart
    split
    · exact h
    · refine ih _ _ _ ?_
      split
      · split
        · split <;> simp [h]
        · exact h
      · exact h

@[simp] theorem partWrite8_mem_wf {s : State} (part va : Nat) (x : Word) (h : Memory.wf s.mem = true) :
    Memory.wf (s.partWrite8 part va x).mem = true := by
  unfold State.partWrite8
  split
  · split <;> simp [h]
  · simp [h]

@[simp] theorem writeDone_mem_wf {s : State} (l : Launch) (status : Nat) (dispatched : Bool) (detail : Nat)
    (a b : BitVec 128) (h : Memory.wf s.mem = true) :
    Memory.wf (s.writeDone l status dispatched detail a b).mem = true := by
  unfold State.writeDone
  split
  · exact h
  · exact foldl_mem_wf (fun _ _ h => by simp [h]) h

/-! ## Machine/System.lean -/

@[simp] theorem callReturn_mem (s : State) (c : Caller) (res : List (Reg × Word)) : (s.callReturn c res).mem = s.mem := by
  unfold State.callReturn
  split
  · rw [hctl2_mem]
    exact foldl_mem fun _ _ => by simp
  · rfl

@[simp] theorem pairOn_mem (s : State) (n : Nat) : (s.pairOn n).mem = s.mem := by simp [State.pairOn]
@[simp] theorem pairOff_mem (s : State) (n : Nat) : (s.pairOff n).mem = s.mem := rfl

@[simp] theorem pairBoundary_mem_wf {s : State} (n : Nat) (h : Memory.wf s.mem = true) :
    Memory.wf (s.pairBoundary n).mem = true := by
  unfold State.pairBoundary
  split <;> simp [h]

/-! ## Machine/Launch.lean -/

@[simp] theorem submitAt_mem_wf {s : State} (part a : Nat) (h : Memory.wf s.mem = true) :
    Memory.wf (s.submitAt part a).1.mem = true := by
  unfold State.submitAt
  dsimp only
  split
  · exact h
  · split
    · exact h
    · split
      · exact h
      · split <;> simp [h]

@[simp] theorem cancelLaunch_mem_wf {s : State} (l : Nat) (h : Memory.wf s.mem = true) :
    Memory.wf (s.cancelLaunch l).mem = true := by
  unfold State.cancelLaunch
  dsimp only
  split <;> simp [h]

@[simp] theorem startPump_mem (s : State) (l : Nat) (b : PumpBind) : (s.startPump l b).mem = s.mem := rfl

@[simp] theorem clearTile_mem_wf {s : State} (t : Nat) (h : Memory.wf s.mem = true) : Memory.wf (s.clearTile t).mem = true :=
  wf_filter _ h

@[simp] theorem applyImage_mem_wf {s : State} (l : Launch) (e : ImageEntry) (h : Memory.wf s.mem = true) :
    Memory.wf (s.applyImage l e).mem = true := by
  unfold State.applyImage
  dsimp only
  split
  · simp [h]
  · split
    · exact h
    · split
      · rw [foldl_mem fun _ _ => by simp]
        simp [h]
      · simp [h]

@[simp] theorem loadStores_mem_wf {s : State} (l : Nat) (h : Memory.wf s.mem = true) : Memory.wf (s.loadStores l).mem = true :=
  foldl_mem_wf (fun _ _ h => applyImage_mem_wf _ _ h) (foldl_mem_wf (fun _ _ h => clearTile_mem_wf _ h) h)

@[simp] theorem giveShares_mem (s : State) (l : Nat) : (s.giveShares l).mem = s.mem := foldl_mem fun _ _ => rfl
@[simp] theorem giveGroups_mem (s : State) (l : Nat) : (s.giveGroups l).mem = s.mem := rfl

@[simp] theorem loadCode_mem_wf {s : State} (l : Nat) (h : Memory.wf s.mem = true) : Memory.wf (s.loadCode l).mem = true :=
  haulIn_mem_wf _ _ _ _ _ (wf_clearMem _ _ h)

@[simp] theorem allot_mem (s : State) (l : Nat) (place : List Nat) (plan : Plan) : (s.allot l place plan).mem = s.mem :=
  foldl_mem fun _ _ => rfl

@[simp] theorem saveOuts_mem (s : State) (l : Nat) : (s.saveOuts l).mem = s.mem := by simp [State.saveOuts]

@[simp] theorem restoreOuts_mem_wf {s : State} (l : Nat) (h : Memory.wf s.mem = true) :
    Memory.wf (s.restoreOuts l).mem = true := by
  refine foldl_mem_wf (fun s p h => ?_) h
  split
  · simp [h]
  · split
    · exact wf_storeNat _ _ _ h
    · exact h

@[simp] theorem freeSlots_mem (s : State) (l i t : Nat) : (s.freeSlots l i t).mem = s.mem := by
  unfold State.freeSlots
  dsimp only
  rw [foldl_mem fun _ _ => by simp]

@[simp] theorem startTileAt_mem (s : State) (l i : Nat) : (s.startTileAt l i).mem = s.mem := by
  unfold State.startTileAt
  dsimp only
  rw [freeSlots_mem, foldl_mem fun _ _ => by simp, State.setTile_mem]

@[simp] theorem startBind_mem (s : State) (l : Nat) (e : Word) : (s.startBind l e).mem = s.mem := rfl
@[simp] theorem thinCore_mem (s : State) (l c : Nat) : (s.thinCore l c).mem = s.mem := by simp [State.thinCore]
@[simp] theorem startPumpCore_mem (s : State) (l c : Nat) : (s.startPumpCore l c).mem = s.mem := by simp [State.startPumpCore]
@[simp] theorem bindPump_mem (s : State) (l : Nat) (b : PumpBind) : (s.bindPump l b).mem = s.mem := by simp [State.bindPump]

@[simp] theorem startLaunch_mem (s : State) (l : Nat) : (s.startLaunch l).mem = s.mem := by
  unfold State.startLaunch
  dsimp only
  rw [evenPoints_mem, foldl_mem fun _ _ => by simp, foldl_mem fun _ _ => by simp, foldl_mem fun _ _ => by simp,
    foldl_mem fun _ _ => by simp, State.setLaunch_mem]

@[simp] theorem leaveCore_mem (s : State) (l c : Nat) : (s.leaveCore l c).mem = s.mem := by simp [State.leaveCore]

@[simp] theorem refuseWait_mem (s : State) (tiles : List Nat) (n : Nat) : (s.refuseWait tiles n).mem = s.mem := by
  unfold State.refuseWait
  split <;> simp

@[simp] theorem quitStores_mem_wf {s : State} (l : Nat) (h : Memory.wf s.mem = true) :
    Memory.wf (s.quitStores l).mem = true := foldl_mem_wf (fun _ _ h => by simp [h]) (by simp [h, landAll_mem_wf])

@[simp] theorem leaveTile_mem (s : State) (t : Nat) : (s.leaveTile t).mem = s.mem := by simp [State.leaveTile]

@[simp] theorem releaseLaunch_mem_wf {s : State} (l : Nat) (h : Memory.wf s.mem = true) :
    Memory.wf (s.releaseLaunch l).mem = true := by
  unfold State.releaseLaunch
  dsimp only
  rw [State.setLaunch_mem]
  dsimp only
  rw [foldl_mem fun _ _ => by simp, foldl_mem fun _ _ => by simp, foldl_mem fun _ _ => by simp]
  simp [h]

@[simp] theorem endLaunch_mem_wf {s : State} (l status detail : Nat) (a b : BitVec 128) (h : Memory.wf s.mem = true) :
    Memory.wf (s.endLaunch l status detail a b).mem = true := by simp [State.endLaunch, h]

@[simp] theorem endFirstRun_mem_wf {s : State} (l : Nat) (h : Memory.wf s.mem = true) :
    Memory.wf (s.endFirstRun l).mem = true := foldl_mem_wf (fun _ _ h => by simp [h]) (by simp [h])

@[simp] theorem endRun_mem_wf {s : State} (l : Nat) (h : Memory.wf s.mem = true) : Memory.wf (s.endRun l).mem = true := by
  simp [State.endRun, h]

@[simp] theorem seedRings_mem (s : State) (l seed : Nat) : (s.seedRings l seed).mem = s.mem := foldl_mem fun _ _ => rfl

@[simp] theorem pointAt_mem_wf {s : State} (n i : Nat) (h : Memory.wf s.mem = true) :
    Memory.wf (s.pointAt n i).mem = true := by simp [State.pointAt, h]

@[simp] theorem switchGroup_mem_wf {s : State} (l : Nat) (g : Group) (n i : Nat) (h : Memory.wf s.mem = true) :
    Memory.wf (s.switchGroup l g n i).mem = true := by
  unfold State.switchGroup
  dsimp only
  split
  · exact foldl_mem_wf (fun _ _ h => by simp [h]) (by simp [h])
  · exact h

@[simp] theorem imageOut_mem (s : State) (key name : Nat) : (s.imageOut key name).mem = s.mem := by simp [State.imageOut]

@[simp] theorem imageIn_mem (s : State) (key name : Nat) : (s.imageIn key name).mem = s.mem := by
  unfold State.imageIn
  split <;> simp

/-! ## Machine/Flags.lean -/

@[simp] theorem noteFpx_mem (s : State) (sub : Nat) : (s.noteFpx sub).mem = s.mem := rfl
@[simp] theorem normalise_mem (s : State) : (s.normalise).mem = s.mem := rfl

theorem vcommit_mem_wf {s : State} (fs : List (Nat × BitVec 5)) (sub : Bool) (write : State → State)
    (hw : ∀ u, Memory.wf u.mem = true → Memory.wf (write u).mem = true) (h : Memory.wf s.mem = true) :
    Memory.wf (s.vcommit fs sub write).mem = true := by
  have written (im : Image) : Memory.wf (write (s.setImg s.cur im)).mem = true := hw _ h
  unfold State.vcommit
  dsimp only
  split <;> split <;> simp [h, written]

/-! ## Machine/Vector.lean -/

@[simp] theorem putV_mem (s : State) (d : VReg) (x : BitVec 1024) : (s.putV d x).mem = s.mem := by simp [State.putV]
@[simp] theorem putK_mem (s : State) (d : KReg) (x : BitVec 128) : (s.putK d x).mem = s.mem := by simp [State.putK]

@[simp] theorem elementwise_mem_wf {s : State} (t : ET) (x : VDst) (f : Nat → LaneRes) (h : Memory.wf s.mem = true) :
    Memory.wf (s.elementwise t x f).mem = true := by
  unfold State.elementwise
  exact vcommit_mem_wf _ _ _ (fun _ h => by simp [h]) h

@[simp] theorem binary_mem_wf {s : State} (t : ET) (rm : RM) (norm : Bool) (x : VDst) (a b : VReg) (fi : Int → Int → Int)
    (ff : RM → Num → Num → Exact) (h : Memory.wf s.mem = true) :
    Memory.wf (s.binary t rm norm x a b fi ff).mem = true := by simp [State.binary, h]

@[simp] theorem unary_mem_wf {s : State} (t : ET) (rm : RM) (norm : Bool) (x : VDst) (a : VReg) (fi : Int → Int)
    (ff : Num → Exact) (h : Memory.wf s.mem = true) :
    Memory.wf (s.unary t rm norm x a fi ff).mem = true := by simp [State.unary, h]

@[simp] theorem bitwise_mem (s : State) (t : ET) (x : VDst) (a b : VReg) (f : Nat → Nat → Nat) :
    (s.bitwise t x a b f).mem = s.mem := by simp [State.bitwise]

@[simp] theorem converts_mem_wf {s : State} (t t2 : ET) (half : Nat) (x : VDst) (f : Nat → Nat → LaneRes)
    (h : Memory.wf s.mem = true) : Memory.wf (s.converts t t2 half x f).mem = true := by
  unfold State.converts
  exact vcommit_mem_wf _ _ _ (fun _ h => by simp [h]) h

theorem mem_of_raceLanes {s t : State} {e : Nat} {wr : Bool} {ls : List (Nat × Loc)} (h : s.raceLanes e wr ls = .ok t) :
    t.mem = s.mem := by
  induction ls generalizing s with
  | nil => cases h; rfl
  | cons p r ih =>
    unfold State.raceLanes at h
    split at h
    · cases h
    · next hc => exact (ih h).trans (mem_of_raceCheck hc)

theorem vecAccess_mem_wf {s : State} (sp : SP) (e : Nat) (wr : Bool) (xs : List (Nat × Nat))
    (k : State → List (Nat × Loc) → State) (hk : ∀ u ls, Memory.wf u.mem = true → Memory.wf (k u ls).mem = true)
    (h : Memory.wf s.mem = true) : Memory.wf (s.vecAccess sp e wr xs k).mem = true := by
  unfold State.vecAccess
  split
  · simp [h]
  · split
    · simp [h]
    · next t hr =>
      have h : Memory.wf t.mem = true := (mem_of_raceLanes hr).symm ▸ h
      split
      · simp [h]
      · exact hk _ _ h

@[simp] theorem vecLoad_mem_wf {s : State} (t : ET) (sp : SP) (x : VDst) (xs : List (Nat × Nat)) (h : Memory.wf s.mem = true) :
    Memory.wf (s.vecLoad t sp x xs).mem = true :=
  vecAccess_mem_wf _ _ _ _ _ (fun _ _ h => by simp [h]) h

@[simp] theorem carryLanes_mem (u s : State) (t : ET) (d : VReg) (ls : List (Nat × Loc)) :
    (u.carryLanes s t d ls).mem = u.mem := by
  unfold State.carryLanes
  split <;> rfl

@[simp] theorem vecStore_mem_wf {s : State} (t : ET) (sp : SP) (d : VReg) (xs : List (Nat × Nat)) (h : Memory.wf s.mem = true) :
    Memory.wf (s.vecStore t sp d xs).mem = true := by
  refine vecAccess_mem_wf _ _ _ _ _ (fun u ls h => ?_) h
  rw [retire_mem, carryLanes_mem, heal_mem]
  exact foldl_mem_wf (fun _ _ h => write_mem_wf _ _ _ h) h

/-! ## Machine/Tables.lean -/

@[simp] theorem loadTable_mem (s : State) (slot : Fin 4) (l : Loc) (d : Descriptor) : (s.loadTable slot l d).mem = s.mem := rfl

/-! ## Machine/Matrix.lean -/

@[simp] theorem setUnit_mem (s : State) (t : Nat) (u : MatrixUnit) : (s.setUnit t u).mem = s.mem := rfl
@[simp] theorem acceptOp_mem (s : State) (len : Nat) (op : MatrixOp) : (s.acceptOp len op).mem = s.mem := by simp [State.acceptOp]
@[simp] theorem matrixTrap_mem (s : State) (sub v : Nat) : (s.matrixTrap sub v).mem = s.mem := by simp [State.matrixTrap]

@[simp] theorem output_mem_wf {s : State} (t c n : Nat) (int pair32 : Bool) (row col : List Block) (h : Memory.wf s.mem = true) :
    Memory.wf (s.output t c n int pair32 row col).mem = true := by simp [State.output, h, write_mem_wf]

@[simp] theorem outputRow_mem_wf {s : State} (t c : Nat) (fa : BFmt) (row : List Block) (h : Memory.wf s.mem = true) :
    Memory.wf (s.outputRow t c fa row).mem = true := foldl_mem_wf (fun _ _ h => by simp [h]) h

@[simp] theorem mulInto_mem_wf {s : State} (t : Nat) (rows : List (List Block)) (c : Nat) (fa : BFmt)
    (h : Memory.wf s.mem = true) :
    Memory.wf (s.mulInto t rows c fa).mem = true := foldl_mem_wf (fun _ _ h => by simp [h]) h

@[simp] theorem signal_mem (s : State) (t : Nat) (sem : Option (Fin 16)) : (s.signal t sem).mem = s.mem := by
  unfold State.signal
  split
  · rfl
  · split
    · next hm => exact mem_of_addSem hm
    · rfl

@[simp] theorem popOp_mem (s : State) (t : Nat) : (s.popOp t).mem = s.mem := rfl

@[simp] theorem mulBoundary_mem (s : State) (t : Nat) : (s.mulBoundary t).mem = s.mem := by
  unfold State.mulBoundary
  split <;> simp

@[simp] theorem mulDone_mem (s : State) (t : Nat) : (s.mulDone t).mem = s.mem := by
  unfold State.mulDone
  split <;> simp

@[simp] theorem endLeft_mem_wf {s : State} (t : Nat) (turn : Instr) (h : Memory.wf s.mem = true) :
    Memory.wf (s.endLeft t turn).mem = true := by
  unfold State.endLeft
  split
  · split
    · exact h
    · dsimp only
      split <;> simp [h, putLeft_mem_wf]
  · exact h

@[simp] theorem taint_mem (s : State) (l : Loc) (n : Nat) : (s.taint l n).mem = s.mem := rfl

@[simp] theorem drain_mem_wf {s : State} (src dst : Loc) (et : ET) (rm : RM) (sat clr int : Bool) (h : Memory.wf s.mem = true) :
    Memory.wf (s.drain src dst et rm sat clr int).mem = true := by simp [State.drain, h, write_mem_wf]

@[simp] theorem putWords_mem_wf {s : State} (t off : Nat) (ws : List Nat) (h : Memory.wf s.mem = true) :
    Memory.wf (s.putWords t off ws).mem = true := by
  induction ws generalizing s off with
  | nil => exact h
  | cons x r ih => exact ih _ (write_mem_wf _ _ _ h)

/-! ## Machine/Preempt.lean -/

@[simp] theorem freeTile_mem (s : State) (t : Nat) : (s.freeTile t).mem = s.mem := by simp [State.freeTile]
@[simp] theorem dropPump_mem (s : State) (l c : Nat) : (s.dropPump l c).mem = s.mem := by simp [State.dropPump]
@[simp] theorem loadPump_mem (s : State) (l : Nat) (p : PumpSave) : (s.loadPump l p).mem = s.mem := rfl

@[simp] theorem saveLaunch_mem_wf {s : State} (l : Nat) (h : Memory.wf s.mem = true) : Memory.wf (s.saveLaunch l).mem = true := by
  unfold State.saveLaunch
  dsimp only
  rw [foldl_mem fun _ _ => by simp]
  dsimp only
  rw [foldl_mem fun _ _ => by simp, foldl_mem fun _ _ => by simp]
  simp [h]

@[simp] theorem restoreTile_mem_wf {s : State} (l i t : Nat) (x : TileSave) (h : Memory.wf s.mem = true) :
    Memory.wf (s.restoreTile l i t x).mem = true := by
  refine wf_foldl_setByte _ _ _ (clearTile_mem_wf _ ?_)
  rw [foldl_mem fun _ _ => by simp, foldl_mem fun _ _ => by simp, foldl_mem fun _ _ => by simp]
  exact h

@[simp] theorem takeInbox_mem (s : State) (l : Nat) (ms kept : List Inbound) : (s.takeInbox l ms kept).mem = s.mem := by
  induction ms generalizing s kept with
  | nil => rfl
  | cons m r ih =>
    unfold State.takeInbox
    dsimp only
    split
    · rw [ih, State.setCore_mem]
    · exact ih ..

@[simp] theorem restoreLaunch_mem_wf {s : State} (l : Nat) (place : List Nat) (h : Memory.wf s.mem = true) :
    Memory.wf (s.restoreLaunch l place).mem = true := by
  unfold State.restoreLaunch
  dsimp only
  rw [foldl_mem fun _ _ => by simp, takeInbox_mem, evenPoints_mem, foldl_mem fun _ _ => by simp,
    foldl_mem fun _ _ => by simp]
  exact foldl_mem_wf (fun _ _ h => by split <;> simp [h]) h

/-! ## Machine/Power.lean -/

@[simp] theorem lowerPoint_mem (s : State) (t : Nat) : (s.lowerPoint t).mem = s.mem := by simp [State.lowerPoint]

@[simp] theorem raisePoint_mem (s : State) (t : Nat) : (s.raisePoint t).mem = s.mem := by
  unfold State.raisePoint
  split <;> simp

@[simp] theorem edgePoint_mem (s : State) (t : Nat) : (s.edgePoint t).mem = s.mem := by simp [State.edgePoint]

@[simp] theorem movePoint_mem (s : State) (t : Nat) : (s.movePoint t).mem = s.mem := by
  unfold State.movePoint
  split
  · exact foldl_mem fun _ _ => rfl
  · simp

@[simp] theorem lowerPump_mem (s : State) (p : Nat) : (s.lowerPump p).mem = s.mem := by simp [State.lowerPump]

@[simp] theorem raisePump_mem (s : State) (p : Nat) : (s.raisePump p).mem = s.mem := by
  unfold State.raisePump
  dsimp only
  split <;> simp

@[simp] theorem edgePump_mem (s : State) (p : Nat) : (s.edgePump p).mem = s.mem := by simp [State.edgePump]
@[simp] theorem movePump_mem (s : State) (p : Nat) : (s.movePump p).mem = s.mem := by simp [State.movePump]
@[simp] theorem raiseQuota_mem (s : State) (l : Nat) : (s.raiseQuota l).mem = s.mem := foldl_mem fun _ _ => rfl
@[simp] theorem updateHouse_mem (s : State) (measured : Nat) : (s.updateHouse measured).mem = s.mem := rfl
@[simp] theorem quotaPeriod_mem (s : State) : (s.quotaPeriod).mem = s.mem := by simp [State.quotaPeriod]
@[simp] theorem choose_mem (s : State) : s.choose.2.mem = s.mem := rfl

@[simp] theorem raiseLimit_mem (s : State) : s.raiseLimit.mem = s.mem := by
  unfold State.raiseLimit
  dsimp only
  split
  · split <;> simp
  · rfl

@[simp] theorem steerLimit_mem (s : State) (before least : Nat) : (s.steerLimit before least).mem = s.mem := by
  unfold State.steerLimit
  dsimp only
  split
  · simp
  · split
    · split <;> simp
    · simp

@[simp] theorem faultLaunch_mem_wf {s : State} (l : Nat) (h : Memory.wf s.mem = true) :
    Memory.wf (s.faultLaunch l).mem = true := by simp [State.faultLaunch, h]

@[simp] theorem shutDie_mem_wf {s : State} (d : Nat) (h : Memory.wf s.mem = true) : Memory.wf (s.shutDie d).mem = true :=
  foldl_mem_wf (fun _ _ h => by simp [h]) h

@[simp] theorem setTemp_mem_wf {s : State} (d : Nat) (x : BitVec 16) (h : Memory.wf s.mem = true) :
    Memory.wf (s.setTemp d x).mem = true := by simp [State.setTemp, h]

@[simp] theorem wakeAll_mem (s : State) : (s.wakeAll).mem = s.mem := foldl_mem fun _ _ => by simp
@[simp] theorem atTick_mem (s : State) : (s.atTick).mem = s.mem := by simp [State.atTick]
@[simp] theorem tickTide_mem (s : State) : (s.tickTide).mem = s.mem := by simp [State.tickTide]
@[simp] theorem leaveGroup_mem (s : State) : (s.leaveGroup).mem = s.mem := by simp [State.leaveGroup]

/-! ## Machine/Host.lean -/

@[simp] theorem partSetByte_mem_wf {s : State} (part va : Nat) (b : Byte) (h : Memory.wf s.mem = true) :
    Memory.wf (s.partSetByte part va b).mem = true := by
  unfold State.partSetByte
  split
  · split
    · split
      · exact h
      · exact wf_setByte _ _ h
    · exact h
  · exact h

@[simp] theorem partPut_mem_wf {s : State} (part va : Nat) (bs : List Byte) (h : Memory.wf s.mem = true) :
    Memory.wf (s.partPut part va bs).mem = true := by
  unfold State.partPut
  dsimp only
  rw [heal_mem]
  exact foldl_mem_wf (fun _ _ h => by simp [h]) h

@[simp] theorem bar2Error_mem (s : State) (part : Nat) : (s.bar2Error part).mem = s.mem := rfl

@[simp] theorem bar2_mem_wf {s : State} (part va : Nat) (op : BarOp) (remote : Remote) (h : Memory.wf s.mem = true) :
    Memory.wf (s.bar2 part va op remote).mem = true := by
  unfold State.bar2
  split <;> simp [h]

@[simp] theorem barRead_mem (s : State) (part off : Nat) : (s.barRead part off).mem = s.mem := by simp [State.barRead]
@[simp] theorem bootRecord_mem (s : State) : (s.bootRecord).mem = s.mem := rfl
@[simp] theorem applyFabric_mem (s : State) (p : List Byte) : (s.applyFabric p).mem = s.mem := by simp [State.applyFabric]

@[simp] theorem applyTokens_mem (s : State) (p : List Byte) : (s.applyTokens p).mem = s.mem := by
  unfold State.applyTokens
  split
  · exact foldl_mem fun _ _ => by simp
  · simp

@[simp] theorem applyRecord_mem (s : State) (bs : List Byte) : (s.applyRecord bs).mem = s.mem := by
  unfold State.applyRecord
  dsimp only
  split
  · simp
  · split
    · simp
    · split
      · simp
      · split <;> simp
    · simp
    · split <;> rfl
    · simp

@[simp] theorem bare_mem_wf {s : State} (h : Memory.wf s.mem = true) : Memory.wf s.bare.mem = true := wf_filter _ h

@[simp] theorem startPartitions_mem (s : State) : (s.startPartitions).mem = s.mem := rfl
@[simp] theorem askJoin_mem (s : State) : (s.askJoin).mem = s.mem := by simp [State.askJoin]

@[simp] theorem bootChain_mem (s : State) : s.bootChain.mem = s.mem := by
  unfold State.bootChain
  dsimp only
  split
  · simp
  · rw [askJoin_mem]
    dsimp only
    rw [startPartitions_mem, foldl_mem fun _ _ => by simp]

@[simp] theorem reboot_mem_wf {s : State} (h : Memory.wf s.mem = true) : Memory.wf (s.reboot).mem = true := by
  simp [State.reboot, h]

@[simp] theorem setLink_mem (s : State) (p : Nat) (x : Link) : (s.setLink p x).mem = s.mem := rfl
@[simp] theorem retrainFailed_mem (s : State) (port : Nat) : (s.retrainFailed port).mem = s.mem := by simp [State.retrainFailed]
@[simp] theorem flitPassed_mem (s : State) (port : Nat) : (s.flitPassed port).mem = s.mem := rfl

@[simp] theorem failOver_mem (s : State) (core : Nat) (members : List Nat) : (s.failOver core members).mem = s.mem :=
  foldl_mem fun _ _ => by
    split
    · rfl
    · dsimp only
      split <;> simp

@[simp] theorem loseLink_mem (s : State) (n : Nat) (members : List Nat) : (s.loseLink n members).mem = s.mem := by
  unfold State.loseLink
  split <;> simp

@[simp] theorem setLinked_mem (s : State) (own fid part : Nat) (on : Bool) : (s.setLinked own fid part on).mem = s.mem := rfl

@[simp] theorem fabricIn_mem (s : State) (dst sender : Word) (part : Nat) (seq : BitVec 16) (payload : List Word) :
    (s.fabricIn dst sender part seq payload).mem = s.mem := by
  unfold State.fabricIn
  dsimp only
  split
  · rfl
  · split
    · split
      · rfl
      · next c k _ _ =>
        cases hm : s.acceptMsg c k sender seq payload with
        | none => rfl
        | some t => exact mem_of_acceptMsg hm
    · rfl
    · rfl

@[simp] theorem deliver_mem (s : State) (l i : Nat) : (s.deliver l i).mem = s.mem := by
  unfold State.deliver
  dsimp only
  split
  · rfl
  · split
    · rfl
    · split
      · next hm =>
        obtain ⟨c, -, hc⟩ := Option.bind_eq_some_iff.1 hm
        rw [State.setLaunch_mem, mem_of_acceptMsg hc]
      · rfl

/-! ## Machine/Sluice.lean -/

@[simp] theorem linkReady_mem_wf {s : State} (l num : Nat) (h : Memory.wf s.mem = true) :
    Memory.wf (s.linkReady l num).mem = true := by
  unfold State.linkReady
  dsimp only
  split
  · simp [h]
  · split
    · simp [h]
    · rw [foldl_mem fun _ _ => by simp]
      simp [h]

/-! ## Machine/Account.lean -/

@[simp] theorem chargeInstr_mem (t before : State) (i : Instr) : (t.chargeInstr before i).mem = t.mem := by
  unfold State.chargeInstr
  dsimp only
  split <;> simp

@[simp] theorem chargeHouse_mem_wf (t before : State) (i : Instr) (h : Memory.wf t.mem = true) :
    Memory.wf (t.chargeHouse before i).mem = true := by
  unfold State.chargeHouse
  split <;> simp [h]

@[simp] theorem chargeRows_mem (t before : State) (tile : Nat) : (t.chargeRows before tile).mem = t.mem := by
  unfold State.chargeRows
  split
  · simp
  · split <;> simp

@[simp] theorem chargeStep_mem_wf (t before : State) (i : Instr) (h : Memory.wf t.mem = true) :
    Memory.wf (t.chargeStep before i).mem = true := by
  unfold State.chargeStep
  split
  · split
    · simp [h]
    · exact h
  · split
    · simp [h]
    · exact h
  · split
    · simp [h]
    · exact h
  · split
    · split
      · simp [h]
      · exact h
    · exact h
  · simp [h]
  · exact h

@[simp] theorem chargeEvent_mem_wf (t before : State) (i : Instr) (h : Memory.wf t.mem = true) :
    Memory.wf (t.chargeEvent before i).mem = true := by simp [State.chargeEvent, h]

/-! ## Machine/Effects.lean -/

theorem withFrames_mem_wf {s : State} (k : List Word → State) (hk : ∀ fs, Memory.wf (k fs).mem = true)
    (h : Memory.wf s.mem = true) : Memory.wf (s.withFrames k).mem = true := by
  unfold State.withFrames
  split
  · simp [h]
  · exact hk _

theorem performWith_mem_wf {s : State} (x : Nat) (k : Nat → Nat → State) (hk : ∀ f r, Memory.wf (k f r).mem = true)
    (h : Memory.wf s.mem = true) : Memory.wf (s.performWith x k).mem = true := by
  refine withFrames_mem_wf _ (fun fs => ?_) h
  split
  · simp [h]
  · split
    · simp [h]
    · exact hk _ _

@[simp] theorem deliverLanes_mem (s : State) (n vd et : Nat) : (s.deliverLanes n vd et).mem = s.mem := rfl

@[simp] theorem resumeWith_mem_wf {s : State} (a b : Reg) (consume : Bool) (h : Memory.wf s.mem = true) :
    Memory.wf (s.resumeWith a b consume).mem = true := by
  unfold State.resumeWith
  dsimp only
  split
  · simp [h]
  · split
    · simp [h]
    · refine withFrames_mem_wf _ (fun _ => ?_) h
      have popped (c : Prop) [Decidable c] (j : Nat) : Memory.wf (if c then s.popFrames s.cur j else s).mem = true := by
        split <;> simp [h]
      simp only [State.setSlot_mem, mem_ite, deliverLanes_mem, ite_self, wf_ite]
      split
      · refine invalidate_mem_wf _ _ ?_
        rw [State.setImg_mem, State.setGOf_mem, foldl_mem fun _ _ => by simp]
        exact markFrame_mem_wf _ _ _ _ (popped _ _)
      · rw [State.setImg_mem, State.setGOf_mem, foldl_mem fun _ _ => by simp]
        exact markFrame_mem_wf _ _ _ _ (popped _ _)

@[simp] theorem tickBoundary_mem (s : State) (n : Nat) : (s.tickBoundary n).mem = s.mem := by simp [State.tickBoundary]
@[simp] theorem wdogBoundary_mem (s : State) (n : Nat) : (s.wdogBoundary n).mem = s.mem := by simp [State.wdogBoundary]
@[simp] theorem countTurn_mem (s : State) (n : Nat) : (s.countTurn n).mem = s.mem := by simp [State.countTurn]
@[simp] theorem crestBoundary_mem (s : State) (n : Nat) : (s.crestBoundary n).mem = s.mem := by simp [State.crestBoundary]
@[simp] theorem noteQuota_mem (s : State) (n cause : Nat) : (s.noteQuota n cause).mem = s.mem := by simp [State.noteQuota]

@[simp] theorem takeBoundary_mem_wf {s : State} (n : Nat) (r : Raised) (h : Memory.wf s.mem = true) :
    Memory.wf (s.takeBoundary n r).mem = true := by simp [State.takeBoundary, h]

/-! ## Machine/Order.lean -/

@[simp] theorem landBefore_mem_wf {s : State} (n : Nat) (i : Instr) (h : Memory.wf s.mem = true) :
    Memory.wf (s.landBefore n i).mem = true := by simp [State.landBefore, h]

@[simp] theorem setPosting_mem (s : State) (n : Nat) (on : Bool) : (s.setPosting n on).mem = s.mem := rfl

@[simp] theorem performed_mem_wf {s : State} (index : Nat) (h : Memory.wf s.mem = true) :
    Memory.wf (s.performed index).mem = true := by
  unfold State.performed
  split <;> simp [h, landAll_mem_wf]

/-! ## Machine/Pair.lean -/

@[simp] theorem noteBoundary_mem (s before : State) (n : Nat) : (s.noteBoundary before n).mem = s.mem := by
  unfold State.noteBoundary
  split <;> simp

/-! ## Machine/Turn.lean -/

@[simp] theorem boundaries_mem_wf {s : State} (n : Nat) (h : Memory.wf s.mem = true) :
    Memory.wf (s.boundaries n).mem = true := by simp [State.boundaries, h]

@[simp] theorem endSnap_mem_wf {s : State} (n : Nat) (h : Memory.wf s.mem = true) : Memory.wf (s.endSnap n).mem = true := by
  simp [State.endSnap, h]

/-! ## Machine/Clock.lean -/

@[simp] theorem levelFirings_mem_wf {s : State} (t : Nat) (h : Memory.wf s.mem = true) :
    Memory.wf (s.levelFirings t).mem = true := by
  unfold State.levelFirings
  dsimp only
  split
  · exact h
  · split
    · exact foldl_mem_wf (fun _ _ h => by simp [h]) h
    · exact h

@[simp] theorem atEdge_mem_wf {s : State} (t : Nat) (h : Memory.wf s.mem = true) : Memory.wf (s.atEdge t).mem = true := by
  unfold State.atEdge
  dsimp only
  rw [State.setTile_mem, foldl_mem fun _ _ => by simp]
  simp [h]

@[simp] theorem servePops_mem (s : State) (c : Nat) : (s.servePops c).mem = s.mem := by simp [State.servePops]

@[simp] theorem atCycle_mem_wf {s : State} (t : Nat) (h : Memory.wf s.mem = true) : Memory.wf (s.atCycle t).mem = true := by
  have served : Memory.wf ((List.range 4).foldl (fun s k => s.servePops (4 * t + k)) (s.landDue t)).mem = true := by
    rw [foldl_mem fun _ _ => by simp]
    simp [h]
  unfold State.atCycle
  dsimp only
  split
  · exact atEdge_mem_wf _ served
  · exact served

@[simp] theorem endCycle_mem (s : State) (t : Nat) : (s.endCycle t).mem = s.mem := by
  unfold State.endCycle
  split
  · exact foldl_mem fun _ _ => by simp
  · rfl

@[simp] theorem clockTile_mem_wf {s : State} (t : Nat) (h : Memory.wf s.mem = true) : Memory.wf (s.clockTile t).mem = true := by
  unfold State.clockTile
  refine foldl_mem_wf (fun _ _ h => atCycle_mem_wf _ h) ?_
  rw [foldl_mem fun _ _ => by simp]
  refine levelFirings_mem_wf _ ?_
  rw [foldl_mem fun _ _ => by simp]
  exact h

@[simp] theorem clockCore_mem (s : State) (c : Nat) : (s.clockCore c).mem = s.mem := by
  have withdrawn (b : Prop) [Decidable b] :
      (if b then (List.range 16).foldl (fun s k => s.withdrawExpired (16 * c + k)) s else s).mem = s.mem := by
    split
    · exact foldl_mem fun _ _ => by simp
    · rfl
  unfold State.clockCore
  dsimp only
  rw [mem_ite, foldl_mem fun _ _ => by simp, edgePump_mem, ite_self, servePops_mem, State.setCore_mem, withdrawn]

@[simp] theorem clockRegion_mem_wf {s : State} (r : Nat) (h : Memory.wf s.mem = true) :
    Memory.wf (s.clockRegion r).mem = true := by
  refine foldl_mem_wf (fun _ _ h => ?_) h
  split
  · exact foldl_mem_wf (fun _ _ h => fireGroup_mem_wf _ _ h) h
  · exact h

@[simp] theorem clock_mem_wf {s : State} (d : Nat) (h : Memory.wf s.mem = true) : Memory.wf (s.clock d).mem = true := by
  simp [State.clock, h]

@[simp] theorem tideStep_mem (s : State) : (s.tideStep).mem = s.mem := by simp [State.tideStep]

@[simp] theorem storeImage_mem_wf {s : State} (part : Nat) (addr : Word) (v : Byte) (h : Memory.wf s.mem = true) :
    Memory.wf (s.storeImage part addr v).mem = true := by simp [State.storeImage, h]

@[simp] theorem setWithheld_mem (s : State) (r : Nat) (on : Bool) : (s.setWithheld r on).mem = s.mem := rfl
@[simp] theorem setRequest_mem (s : State) (c p : Nat) : (s.setRequest c p).mem = s.mem := rfl

end Sys2Proof.Machine
end

section
/-! Every meaning keeps the memory in its canonical form. -/
namespace Sys2Proof.Machine
open Sys2Proof

/-! ## Outcomes -/

/-- An outcome that is a next state has its memory in canonical form. -/
def OutOk (o : Out) : Prop := ∀ t, o = .next t → Memory.wf t.mem = true

theorem outOk_next {t : State} : OutOk (.next t) ↔ Memory.wf t.mem = true :=
  ⟨fun h => h t rfl, fun h u hu => by cases hu; exact h⟩

theorem outOk_issue {i : Instr} {s : State} {body : State → State} (h : Memory.wf s.mem = true)
    (hb : Memory.wf (body s).mem = true) : OutOk (issue i s body) := by
  unfold issue
  split
  · exact outOk_next.2 (by simp [h])
  · exact outOk_next.2 hb

theorem outOk_writes {i : Instr} {len : Nat} {s : State} {d : Reg} {x : State → Word} (h : Memory.wf s.mem = true) :
    OutOk (writes i len s d x) := outOk_issue h (by simp [h])

/-! ## Machine/Slots.lean -/

theorem execTreap_ok {s : State} (nowait : Bool) (d a : Reg) (h : Memory.wf s.mem = true) : OutOk (execTreap nowait d a s) := by
  refine outOk_issue h ?_
  dsimp only
  split
  · simp [h]
  · split <;> simp [h]

theorem execWqpop_ok {s : State} (nowait : Bool) (d : Reg) (h : Memory.wf s.mem = true) : OutOk (execWqpop nowait d s) := by
  refine outOk_issue h ?_
  dsimp only
  split
  · split <;> simp [h]
  · split
    · next hr =>
      have h := (mem_of_takeRecord hr).symm ▸ h
      split <;> simp [h]
    · split <;> simp [h]

theorem execSpillwayReturn_ok {s : State} (region launch : Nat) (h : Memory.wf s.mem = true) :
    OutOk (execSpillwayReturn region launch s) := by
  refine outOk_next.2 ?_
  dsimp only
  split
  · exact h
  · split
    · exact h
    · split <;> exact h

/-! ## Machine/Memory.lean -/

theorem execRacem_ok {s : State} (sp : SP) (d : Reg) (m : Addr) (h : Memory.wf s.mem = true) : OutOk (execRacem sp d m s) := by
  refine outOk_issue h ?_
  dsimp only
  split <;> simp [h]

theorem execGlobalRequest_ok {s : State} (slot : Nat) (h : Memory.wf s.mem = true) : OutOk (execGlobalRequest slot s) := by
  refine outOk_next.2 ?_
  split
  · simp [h]
  · exact h

theorem execGlobalReply_ok {s : State} (slot : Nat) (h : Memory.wf s.mem = true) : OutOk (execGlobalReply slot s) := by
  refine outOk_next.2 ?_
  split
  · simp [h]
  · exact h

/-! ## Machine/Messages.lean -/

theorem execRqpop_ok {s : State} (nowait : Bool) (d : Reg) (h : Memory.wf s.mem = true) : OutOk (execRqpop nowait d s) := by
  refine outOk_issue h ?_
  dsimp only
  split <;> simp [h]

theorem execRarm_ok {s : State} (pri : Fin 4) (d a b : Reg) (h : Memory.wf s.mem = true) : OutOk (execRarm pri d a b s) := by
  refine outOk_issue h ?_
  dsimp only
  split
  · simp [h]
  · split <;> simp [h]

theorem execSend_ok {s : State} (count : Fin 4) (far : Bool) (a b : Reg) (h : Memory.wf s.mem = true) :
    OutOk (execSend count far a b s) := by
  refine outOk_issue h ?_
  dsimp only
  split
  · simp [h]
  · exact h

theorem execRecv_ok {s : State} (nowait : Bool) (d a : Reg) (h : Memory.wf s.mem = true) : OutOk (execRecv nowait d a s) := by
  refine outOk_issue h ?_
  dsimp only
  split
  · simp [h]
  · split <;> simp [h]

theorem execMessageAccept_ok {s : State} (slot : Nat) (remote : Remote) (h : Memory.wf s.mem = true) :
    OutOk (execMessageAccept slot remote s) := by
  refine outOk_next.2 ?_
  split
  · simp [h]
  · exact h

theorem execSemv_ok {s : State} (sem : Fin 16) (n : BitVec 8) (h : Memory.wf s.mem = true) : OutOk (execSemv sem n s) := by
  refine outOk_issue h ?_
  dsimp only
  split
  · simp [h]
  · split
    · simp [h]
    · next hs => simp [mem_of_addSem hs, h]

theorem execMbxw_ok {s : State} (a b : Reg) (w : Fin 8) (h : Memory.wf s.mem = true) : OutOk (execMbxw a b w s) := by
  refine outOk_issue h ?_
  dsimp only
  split <;> simp [h]

/-! ## Machine/Copies.lean -/

theorem execCpy_ok {s : State} (nowait : Bool) (d : Reg) (h : Memory.wf s.mem = true) : OutOk (execCpy nowait d s) := by
  refine outOk_issue h ?_
  dsimp only
  split <;> simp [h]

theorem execCpyx_ok {s : State} (f : CpyxForm) (d a : Reg) (h : Memory.wf s.mem = true) : OutOk (execCpyx f d a s) := by
  refine outOk_issue h ?_
  split
  · dsimp only
    split
    · simp [h]
    · split <;> simp [h]
  · simp [h]

theorem execCopyCancelAck_ok {s : State} (slot : Nat) (h : Memory.wf s.mem = true) : OutOk (execCopyCancelAck slot s) := by
  refine outOk_next.2 ?_
  dsimp only
  split <;> simp [h]

theorem execCopyChunk_ok {s : State} (core : Nat) (ch : Fin 4) (remote : Remote) (h : Memory.wf s.mem = true) :
    OutOk (execCopyChunk core ch remote s) := by
  refine outOk_next.2 ?_
  split
  · simp [h]
  · exact h

theorem execCopyComplete_ok {s : State} (core : Nat) (ch : Fin 4) (h : Memory.wf s.mem = true) :
    OutOk (execCopyComplete core ch s) := by
  refine outOk_next.2 ?_
  split
  · simp [h]
  · exact h

theorem execPage_ok {s : State} (core : Nat) (ch : Fin 4) (h : Memory.wf s.mem = true) : OutOk (execPage core ch s) := by
  refine outOk_next.2 ?_
  split
  · split
    · simp [h]
    · exact h
  · exact h

theorem execXlat_ok {s : State} (write : Bool) (d a : Reg) (h : Memory.wf s.mem = true) : OutOk (execXlat write d a s) := by
  refine outOk_issue h ?_
  split
  · simp [h]
  · dsimp only
    split <;> simp [h]

theorem execDramReply_ok {s : State} (slot : Nat) (remote : Remote) (h : Memory.wf s.mem = true) :
    OutOk (execDramReply slot remote s) := by
  refine outOk_next.2 ?_
  split
  · split <;> simp [h]
  · exact h

/-! ## Machine/Control.lean -/

theorem execLbrk_ok {s : State} (h : Memory.wf s.mem = true) : OutOk (execLbrk s) := by
  refine outOk_issue h ?_
  dsimp only
  split <;> simp [h]

/-! ## Machine/Crest.lean -/

theorem execAnnounce_ok {s : State} (m : CrestMsg) (h : Memory.wf s.mem = true) : OutOk (execAnnounce m s) := by
  refine outOk_next.2 ?_
  split
  · exact h
  · dsimp only
    split
    · simp [h]
    · split <;> simp [h]

theorem execHeartbeat_ok {s : State} (m : CrestMsg) (h : Memory.wf s.mem = true) : OutOk (execHeartbeat m s) := by
  refine outOk_next.2 ?_
  split
  · exact h
  · split <;> simp [h]

theorem execAccept_ok {s : State} (m : CrestMsg) (h : Memory.wf s.mem = true) : OutOk (execAccept m s) := by
  refine outOk_next.2 ?_
  split
  · exact h
  · dsimp only
    split
    · simp [h]
    · split <;> simp [h]

theorem execLeave_ok {s : State} (m : CrestMsg) (h : Memory.wf s.mem = true) : OutOk (execLeave m s) := by
  refine outOk_next.2 ?_
  split
  · exact h
  · dsimp only
    split <;> simp [h]

theorem execEmergency_ok {s : State} (m : CrestMsg) (h : Memory.wf s.mem = true) : OutOk (execEmergency m s) := by
  refine outOk_next.2 ?_
  split
  · exact h
  · dsimp only
    split <;> simp [h]

/-! ## Machine/System.lean -/

theorem execSwr_ok {s : State} (f : SwrForm) (d a : Reg) (r : BitVec 12) (h : Memory.wf s.mem = true) :
    OutOk (execSwr f d a r s) := by
  refine outOk_issue h ?_
  dsimp only
  split <;> simp [h]

theorem execSetvec_ok {s : State} (c : Caller) (h : Memory.wf s.mem = true) : OutOk (execSetvec c s) := by
  refine outOk_next.2 ?_
  split
  · exact h
  · simp [h]

theorem execUnpark_ok {s : State} (c : Caller) (h : Memory.wf s.mem = true) : OutOk (execUnpark c s) := by
  refine outOk_next.2 ?_
  split
  · exact h
  · simp [h]

theorem execSetroot_ok {s : State} (c : Caller) (h : Memory.wf s.mem = true) : OutOk (execSetroot c s) := by
  refine outOk_next.2 ?_
  split
  · exact h
  · simp [h]

theorem execDbpop_ok {s : State} (c : Caller) (h : Memory.wf s.mem = true) : OutOk (execDbpop c s) := by
  refine outOk_next.2 ?_
  split
  · exact h
  · split <;> simp [h]

theorem execHctlResume_ok {s : State} (slot : Nat) (h : Memory.wf s.mem = true) : OutOk (execHctlResume slot s) := by
  refine outOk_next.2 ?_
  split
  · simp [h]
  · exact h

theorem execHctlNext_ok {s : State} (slot : Nat) (h : Memory.wf s.mem = true) : OutOk (execHctlNext slot s) := by
  refine outOk_next.2 ?_
  split
  · simp [h]
  · exact h

theorem execHctlReflect_ok {s : State} (slot : Nat) (h : Memory.wf s.mem = true) : OutOk (execHctlReflect slot s) := by
  refine outOk_next.2 ?_
  split
  · simp [h]
  · exact h

theorem execHctlFault_ok {s : State} (slot : Nat) (h : Memory.wf s.mem = true) : OutOk (execHctlFault slot s) := by
  refine outOk_next.2 ?_
  split
  · simp [h]
  · exact h

/-! ## Machine/Launch.lean -/

theorem execSubmit_ok {s : State} (c : Caller) (h : Memory.wf s.mem = true) : OutOk (execSubmit c s) := by
  refine outOk_next.2 ?_
  split
  · exact h
  · simp [h]

theorem execCancel_ok {s : State} (c : Caller) (h : Memory.wf s.mem = true) : OutOk (execCancel c s) := by
  refine outOk_next.2 ?_
  split
  · exact h
  · split <;> simp [h]

theorem execPumprun_ok {s : State} (c : Caller) (h : Memory.wf s.mem = true) : OutOk (execPumprun c s) := by
  refine outOk_next.2 ?_
  split
  · exact h
  · simp [h]

theorem execWitnessSecondRun_ok {s : State} (run : SecondRun) (h : Memory.wf s.mem = true) :
    OutOk (execWitnessSecondRun run s) := by
  refine outOk_next.2 ?_
  dsimp only
  split
  · rw [seedRings_mem]
    refine restoreOuts_mem_wf _ ?_
    rw [giveGroups_mem, giveShares_mem]
    refine loadStores_mem_wf _ ?_
    rw [State.setLaunch_mem, foldl_mem fun _ _ => by simp, foldl_mem fun _ _ => by simp]
    exact h
  · exact h

theorem execContextSwitch_ok {s : State} (slot : Nat) (selector : Fin 16) (h : Memory.wf s.mem = true) :
    OutOk (execContextSwitch slot selector s) := by
  refine outOk_next.2 ?_
  split
  · split <;> simp [h]
  · exact h

/-! ## Machine/Vector.lean -/

theorem execVdiv_ok {s : State} (et : ET) (rm : RM) (x : VDst) (a b : VReg) (h : Memory.wf s.mem = true) :
    OutOk (execVdiv et rm x a b s) := outOk_issue h (by split <;> simp [h])

theorem execVcmp_ok {s : State} (et : ET) (c : VCond) (kd k : KReg) (zm : Bool) (a b : VReg) (h : Memory.wf s.mem = true) :
    OutOk (execVcmp et c kd k zm a b s) := outOk_issue h (vcommit_mem_wf _ _ _ (fun _ h => by simp [h]) h)

theorem execVred_ok {s : State} (et : ET) (rm : RM) (op : RedOp) (wide : Bool) (d : VReg) (k : KReg) (a : VReg) (ga : Reg)
    (h : Memory.wf s.mem = true) : OutOk (execVred et rm op wide d k a ga s) := by
  unfold execVred
  exact outOk_issue h (vcommit_mem_wf _ _ _ (fun _ h => by simp [h]) h)

theorem execVscan_ok {s : State} (et : ET) (rm : RM) (op : RedOp) (x : VDst) (a : VReg) (h : Memory.wf s.mem = true) :
    OutOk (execVscan et rm op x a s) := outOk_issue h (vcommit_mem_wf _ _ _ (fun _ h => by simp [h]) h)

/-! ## Machine/Tables.lean -/

theorem execVtlu_ok {s : State} (et et2 : ET) (rm : RM) (slot : Fin 4) (extend : Bool) (x : VDst) (a : VReg)
    (h : Memory.wf s.mem = true) : OutOk (execVtlu et et2 rm slot extend x a s) :=
  outOk_issue h (vcommit_mem_wf _ _ _ (fun _ h => by simp [h]) h)

theorem execVtcfg_ok {s : State} (slot : Fin 4) (ga : Reg) (h : Memory.wf s.mem = true) : OutOk (execVtcfg slot ga s) := by
  refine outOk_issue h ?_
  dsimp only
  split
  · simp [h]
  · split
    · simp [h]
    · split
      · simp [h]
      · split
        · simp [h]
        · split
          · simp [h]
          · next hr =>
            have h := (mem_of_raceCheck hr).symm ▸ h
            split <;> simp [h]

theorem execVpack_ok {s : State} (et : ET) (rm : RM) (f : BFmt) (off : BitVec 8) (d a : VReg) (h : Memory.wf s.mem = true) :
    OutOk (execVpack et rm f off d a s) := outOk_issue h (vcommit_mem_wf _ _ _ (fun _ h => by simp [h]) h)

/-! ## Machine/Matrix.lean -/

theorem execMldb_ok {s : State} (p : Params) (h : Memory.wf s.mem = true) : OutOk (execMldb p s) := by
  refine outOk_issue h ?_
  dsimp only
  split
  · simp [h]
  · split <;> simp [h]

theorem execMmul_ok {s : State} (p : Params) (h : Memory.wf s.mem = true) : OutOk (execMmul p s) := by
  refine outOk_issue h ?_
  dsimp only
  split
  · simp [h]
  · split
    · simp [h]
    · split
      · simp [h]
      · split
        · simp [h]
        · split
          · simp [h]
          · split
            · simp [h]
            · split <;> simp [h]

theorem execMzero_ok {s : State} (a b : Reg) (h : Memory.wf s.mem = true) : OutOk (execMzero a b s) := by
  refine outOk_issue h ?_
  dsimp only
  split
  · simp [h]
  · split
    · simp [h]
    · split <;> simp [h]

theorem execMout_ok {s : State} (p : Params) (h : Memory.wf s.mem = true) : OutOk (execMout p s) := by
  refine outOk_issue h ?_
  dsimp only
  split
  · simp [h]
  · split
    · simp [h]
    · split <;> simp [h]

theorem execMred_ok {s : State} (p : Params) (h : Memory.wf s.mem = true) : OutOk (execMred p s) := by
  refine outOk_issue h ?_
  dsimp only
  split
  · simp [h]
  · split
    · simp [h]
    · split
      · simp [h]
      · split
        · simp [h]
        · split <;> simp [h]

theorem execMstat_ok {s : State} (f : MstatForm) (d : Reg) (h : Memory.wf s.mem = true) :
    OutOk (execMstat f d s) := outOk_issue h (by split <;> simp [h])

theorem execMcfgTurn_ok {s : State} (tile : Nat) (h : Memory.wf s.mem = true) :
    OutOk (execMcfgTurn tile s) := outOk_next.2 (by split <;> exact h)

theorem execMldbTurn_ok {s : State} (tile : Nat) (h : Memory.wf s.mem = true) : OutOk (execMldbTurn tile s) := by
  refine outOk_next.2 ?_
  split
  · simp [h]
  · exact h

theorem execMswapTurn_ok {s : State} (tile : Nat) (h : Memory.wf s.mem = true) :
    OutOk (execMswapTurn tile s) := outOk_next.2 (by split <;> exact h)

theorem execMmulTurn_ok {s : State} (tile : Nat) (h : Memory.wf s.mem = true) : OutOk (execMmulTurn tile s) := by
  refine outOk_next.2 ?_
  split
  · simp [h]
  · split
    · dsimp only
      split
      · rw [foldl_mem fun _ _ => by simp, foldl_mem fun _ _ => by simp]
        exact foldl_mem_wf (fun _ _ h => by simp [h]) h
      · exact h
    · exact h

theorem execMzeroTurn_ok {s : State} (tile : Nat) (h : Memory.wf s.mem = true) : OutOk (execMzeroTurn tile s) := by
  refine outOk_next.2 ?_
  split
  · rw [popOp_mem, unpoison_mem]
    exact wf_clearMem _ _ h
  · simp [h]

theorem foldl_drain_mem_wf {s : State} (l : List Nat) (src dst : Nat → Loc) (et : ET) (rm : RM) (sat clr int : Bool)
    (h : Memory.wf s.mem = true) : Memory.wf (l.foldl (fun s i => s.drain (src i) (dst i) et rm sat clr int) s).mem = true :=
  foldl_mem_wf (fun _ _ h => by simp [h]) h

theorem execMoutTurn_ok {s : State} (tile : Nat) (h : Memory.wf s.mem = true) : OutOk (execMoutTurn tile s) := by
  refine outOk_next.2 ?_
  split
  · rw [signal_mem, popOp_mem]
    exact foldl_drain_mem_wf _ _ _ _ _ _ _ _ (by simp [h])
  · simp [h]

theorem foldl_taint_mem (s : State) (l : List Nat) (f : Nat → Loc) (n : Nat) :
    (l.foldl (fun s i => s.taint (f i) n) s).mem = s.mem := foldl_mem fun _ _ => by simp

theorem execMredTurn_ok {s : State} (tile : Nat) (h : Memory.wf s.mem = true) : OutOk (execMredTurn tile s) := by
  refine outOk_next.2 ?_
  split
  · rw [signal_mem, popOp_mem, foldl_taint_mem]
    exact putWords_mem_wf _ _ _ (by simp [h])
  · simp [h]

theorem execDikeRingGrant_ok {s : State} (region : Nat) (h : Memory.wf s.mem = true) : OutOk (execDikeRingGrant region s) := by
  refine outOk_next.2 ?_
  dsimp only
  split
  · exact h
  · rw [mem_ite, State.setRegion_mem, foldl_mem fun _ _ => by simp, ite_self]
    exact h

theorem execBallast_ok {s : State} (region : Nat) (h : Memory.wf s.mem = true) : OutOk (execBallast region s) := by
  refine outOk_next.2 ?_
  dsimp only
  split <;> simp [h]

/-! ## Machine/Power.lean -/

theorem execDroop_ok {s : State} (tile : Nat) (on : Bool) (h : Memory.wf s.mem = true) : OutOk (execDroop tile on s) := by
  refine outOk_next.2 ?_
  dsimp only
  split
  · rw [foldl_mem fun _ _ => by simp]
    exact h
  · split <;> exact h

theorem execDramtempUpdate_ok {s : State} (d0 d1 d2 d3 : BitVec 16) (h : Memory.wf s.mem = true) :
    OutOk (execDramtempUpdate d0 d1 d2 d3 s) := by
  refine outOk_next.2 ?_
  split
  · exact h
  · exact setTemp_mem_wf _ _ (setTemp_mem_wf _ _ (setTemp_mem_wf _ _ (setTemp_mem_wf _ _ h)))

theorem execReferenceReturn_ok {s : State} (die : Nat) (h : Memory.wf s.mem = true) : OutOk (execReferenceReturn die s) := by
  refine outOk_next.2 ?_
  split
  · exact h
  · dsimp only
    split
    · simp [h]
    · split
      · exact h
      · simp [h]

/-! ## Machine/Host.lean -/

theorem execLinkDown_ok {s : State} (port : Nat) (members : List Nat) (h : Memory.wf s.mem = true) :
    OutOk (execLinkDown port members s) := by
  refine outOk_next.2 ?_
  split
  · exact h
  · dsimp only
    rw [foldl_mem fun _ _ => by simp, foldl_mem fun _ _ => by simp]
    exact h

/-! ## Machine/Sluice.lean -/

theorem execWait_ok {s : State} (h : Memory.wf s.mem = true) : OutOk (execWait s) := by
  refine outOk_issue h ?_
  split
  · simp [h]
  · split <;> simp [h]

/-! ## Machine/Effects.lean -/

theorem execHandle_ok {s : State} (multi : Bool) (id mask : BitVec 16) (hOff eOff : BitVec 32) (h : Memory.wf s.mem = true) :
    OutOk (execHandle multi id mask hOff eOff s) := by
  refine outOk_issue h ?_
  dsimp only
  split
  · simp [h]
  · rw [retire_mem, State.setImg_mem]
    exact write_mem_wf _ _ _ (write_mem_wf _ _ _ (write_mem_wf _ _ _ (write_mem_wf _ _ _ h)))

theorem execEndh_ok {s : State} (h : Memory.wf s.mem = true) : OutOk (execEndh s) := by
  refine outOk_issue h ?_
  dsimp only
  split
  · simp [h]
  · exact withFrames_mem_wf _ (fun _ => by split <;> simp [h]) h

theorem execHexit_ok {s : State} (h : Memory.wf s.mem = true) : OutOk (execHexit s) :=
  outOk_issue h (withFrames_mem_wf _ (fun _ => by split <;> simp [h]) h)

theorem execPerform_ok {s : State} (arg : PerfArg) (h : Memory.wf s.mem = true) : OutOk (execPerform arg s) := by
  refine outOk_issue h ?_
  dsimp only
  split_ifs
  · simp [h]
  · exact performWith_mem_wf _ _ (fun _ _ => by simp [h]) h

theorem execVperform_ok {s : State} (et : ET) (d : VReg) (k : KReg) (id : BitVec 16) (h : Memory.wf s.mem = true) :
    OutOk (execVperform et d k id s) := by
  refine outOk_issue h ?_
  dsimp only
  split
  · simp [h]
  · exact performWith_mem_wf _ _ (fun _ _ => by simp [h]) h

theorem execDiscard_ok {s : State} (a : Reg) (h : Memory.wf s.mem = true) : OutOk (execDiscard a s) := by
  refine outOk_issue h ?_
  dsimp only
  split <;> simp [h]

theorem execEffectDelivery_ok {s : State} (slot : Nat) (h : Memory.wf s.mem = true) : OutOk (execEffectDelivery slot s) := by
  refine outOk_next.2 ?_
  split
  · simp [h]
  · exact h

theorem execTrapEntry_ok {s : State} (slot : Nat) (h : Memory.wf s.mem = true) : OutOk (execTrapEntry slot s) := by
  refine outOk_next.2 ?_
  split
  · simp [h]
  · exact h

theorem execHypervisorTrap_ok {s : State} (slot : Nat) (h : Memory.wf s.mem = true) : OutOk (execHypervisorTrap slot s) := by
  refine outOk_next.2 ?_
  split
  · simp [h]
  · exact h

/-! ## The dispatch -/

/-- The machine's own steps and the events from outside. -/
theorem exec_ok_of_isEvent {i : Instr} {s : State} (hi : i.isEvent = true) (h : Memory.wf s.mem = true) : OutOk (exec i s) := by
  cases i with dsimp only [exec]
  | illegalOp | sleepWake | countedStoreVisible | waitlimit | sluiceFiring | sluiceRelease | linkReady | slotStart
  | tick | watchdogExpiry | fpxsumUpdate | contextWrite | hctlPark | poison | dispatch | launchStart | launchComplete
  | launchPreempt | launchRestore | operatingPointChange | fbmaxUpdate | energyUpdate | quotaPeriodBoundary
  | allowanceUpdate | referenceLoss | tideSet | heartbeatSend | join | expel | memberSilent | expelTimeout | crestBite
  | bar2Access | doorbell | dbstatClear | moduleReset | attestation | telemetry | linkReplay | railUndervoltage
  | dramRefresh | tideSlew | linkRetrain | railRestored => exact outOk_next.2 (by simp [h])
  | globalRequest slot => exact execGlobalRequest_ok _ h
  | globalReply slot => exact execGlobalReply_ok _ h
  | spillwayReturn region launch => exact execSpillwayReturn_ok _ _ h
  | messageAccept slot remote => exact execMessageAccept_ok _ _ h
  | effectDelivery slot => exact execEffectDelivery_ok _ h
  | setvec c => exact execSetvec_ok _ h
  | unpark c => exact execUnpark_ok _ h
  | setroot c => exact execSetroot_ok _ h
  | pumprun c => exact execPumprun_ok _ h
  | dbpop c => exact execDbpop_ok _ h
  | submit c => exact execSubmit_ok _ h
  | cancel c => exact execCancel_ok _ h
  | trapEntry slot => exact execTrapEntry_ok _ h
  | hypervisorTrap slot => exact execHypervisorTrap_ok _ h
  | hctlResume slot => exact execHctlResume_ok _ h
  | hctlNext slot => exact execHctlNext_ok _ h
  | hctlReflect slot => exact execHctlReflect_ok _ h
  | hctlFault slot => exact execHctlFault_ok _ h
  | mcfgTurn tile => exact execMcfgTurn_ok _ h
  | mldbTurn tile => exact execMldbTurn_ok _ h
  | mswapTurn tile => exact execMswapTurn_ok _ h
  | mmulTurn tile => exact execMmulTurn_ok _ h
  | mzeroTurn tile => exact execMzeroTurn_ok _ h
  | moutTurn tile => exact execMoutTurn_ok _ h
  | mredTurn tile => exact execMredTurn_ok _ h
  | dikeRingGrant region => exact execDikeRingGrant_ok _ h
  | ballast region => exact execBallast_ok _ h
  | copyChunk core ch remote => exact execCopyChunk_ok _ _ _ h
  | copyComplete core ch => exact execCopyComplete_ok _ _ h
  | page core ch => exact execPage_ok _ _ h
  | copyCancelAck slot => exact execCopyCancelAck_ok _ h
  | witnessSecondRun run => exact execWitnessSecondRun_ok _ h
  | contextSwitch slot selector => exact execContextSwitch_ok _ _ h
  | droop tile on => exact execDroop_ok _ _ h
  | dramtempUpdate d0 d1 d2 d3 => exact execDramtempUpdate_ok _ _ _ _ h
  | referenceReturn die => exact execReferenceReturn_ok _ h
  | announce m => exact execAnnounce_ok _ h
  | heartbeat m => exact execHeartbeat_ok _ h
  | accept m => exact execAccept_ok _ h
  | leave m => exact execLeave_ok _ h
  | emergency m => exact execEmergency_ok _ h
  | linkDown port members => exact execLinkDown_ok _ _ h
  | dramReply slot remote => exact execDramReply_ok _ _ h
  | _ => nomatch hi

/-- The vector set. -/
theorem exec_ok_of_vector {i : Instr} {s : State} (hi : unitOf i = .vector) (h : Memory.wf s.mem = true) : OutOk (exec i s) := by
  cases i with dsimp only [exec]
  | kpop | kfirst => exact outOk_writes h
  | vadd | vsub | vmul | vfma | vsqrt | vmin | vmax | vabs | vneg | vand | vor | vxor | vshl | vshr | vsel | vcvt
  | vquant | vdeq | vbcast | vmovg | vshuf | vslide | viota | vld | vst | vgath | vscat | kand | kor | kxor | knot
  | kset | vunpk | vclass | kmovg => exact outOk_issue h (by simp [h])
  | vperform et d k id => exact execVperform_ok _ _ _ _ h
  | vdiv et rm x a b => exact execVdiv_ok _ _ _ _ _ h
  | vcmp et c kd k zm a b => exact execVcmp_ok _ _ _ _ _ _ _ h
  | vred et rm op wide d k a ga => exact execVred_ok _ _ _ _ _ _ _ _ h
  | vscan et rm op x a => exact execVscan_ok _ _ _ _ _ h
  | vtlu et et2 rm slot extend x a => exact execVtlu_ok _ _ _ _ _ _ _ h
  | vtcfg slot ga => exact execVtcfg_ok _ _ h
  | vpack et rm f off d a => exact execVpack_ok _ _ _ _ _ _ h
  | _ => nomatch hi

/-- The scalar, matrix and copy sets. -/
theorem exec_ok_of_other {i : Instr} {s : State} (hi : (i.isEvent || decide (unitOf i = .vector)) = false)
    (h : Memory.wf s.mem = true) : OutOk (exec i s) := by
  cases i with dsimp only [exec]
  | add | addi | sub | mul | and | andi | or | ori | xor | xori | andn | shl | shli | shr | shri | rot | clz | ctz
  | popc | min | max | cmp | cmpi | sel | ext | ins | bswap | adds | subs | madd | li | lea | localq | abs | sext
  | zext | phase | mbx | tstat | tself | tokq | srd | cpyq => exact outOk_writes h
  | div | rem | gaddr | nop | br | call | jr | callr | loop | loopi | sleep | wdog | yield | halt | ld | st | ldm | stm
  | ldf | lde | stf | stff | tagq | tagset | amo | cas | fence | dld | dst | damo | wqpush | semw | rqpush | tstart
  | tstop | resume | resumec | svc | hvc | tret | tkill | pair | mcfg | mswap | cpyw | tlbi => exact outOk_issue h (by simp [h])
  | lbrk => exact execLbrk_ok h
  | racem sp d m => exact execRacem_ok _ _ _ h
  | wqpop nowait d => exact execWqpop_ok _ _ h
  | wait => exact execWait_ok h
  | semv sem n => exact execSemv_ok _ _ h
  | send count far a b => exact execSend_ok _ _ _ _ h
  | recv nowait d a => exact execRecv_ok _ _ _ h
  | rarm pri d a b => exact execRarm_ok _ _ _ _ h
  | mbxw a b w => exact execMbxw_ok _ _ _ h
  | rqpop nowait d => exact execRqpop_ok _ _ h
  | treap nowait d a => exact execTreap_ok _ _ _ h
  | handle multi id mask hOff eOff => exact execHandle_ok _ _ _ _ _ h
  | endh => exact execEndh_ok h
  | perform arg => exact execPerform_ok _ h
  | discard a => exact execDiscard_ok _ h
  | hexit => exact execHexit_ok h
  | swr f d a r => exact execSwr_ok _ _ _ _ h
  | mldb p => exact execMldb_ok _ h
  | mmul p => exact execMmul_ok _ h
  | mzero a b => exact execMzero_ok _ _ h
  | mout p => exact execMout_ok _ h
  | mstat f d => exact execMstat_ok _ _ h
  | mred p => exact execMred_ok _ h
  | cpy nowait d => exact execCpy_ok _ _ h
  | cpyx f d a => exact execCpyx_ok _ _ _ h
  | xlat write d a => exact execXlat_ok _ _ _ h
  | _ => nomatch hi

/-- Every instruction, step and event keeps the memory in its canonical form. -/
theorem exec_ok (i : Instr) {s : State} (h : Memory.wf s.mem = true) : OutOk (exec i s) := by
  cases he : i.isEvent with
  | true => exact exec_ok_of_isEvent he h
  | false =>
    by_cases hv : unitOf i = .vector
    · exact exec_ok_of_vector hv h
    · exact exec_ok_of_other (by simp [he, hv]) h

end Sys2Proof.Machine
end

section
/-! A turn, an entry of the schedule and the step keep the memory in its canonical form. -/
namespace Sys2Proof.Machine
open Sys2Proof

/-! ## A turn -/

theorem post_mem_wf {t before : State} (n : Nat) (i : Instr) (h : Memory.wf t.mem = true) (hb : Memory.wf before.mem = true) :
    Memory.wf (t.post before n i).mem = true := by
  unfold State.post
  dsimp only
  split
  · exact h
  · exact hb

theorem noteMirror_mem_wf {s before : State} (n : Nat) (i : Instr) (h : Memory.wf s.mem = true)
    (hb : Memory.wf before.mem = true) : Memory.wf (s.noteMirror before n i).mem = true := by
  unfold State.noteMirror
  split
  · exact h
  · split
    · simp [hb]
    · dsimp only
      split <;> simp [h]

theorem endTurn_mem_wf {t before : State} (i : Instr) (h : Memory.wf t.mem = true) (hb : Memory.wf before.mem = true) :
    Memory.wf (before.endTurn i t).mem = true := by
  refine noteMirror_mem_wf _ _ ?_ hb
  rw [chargeInstr_mem]
  exact post_mem_wf _ _ h hb

/-- The state that a turn comes to, before the instruction that it issues. -/
def Turn.state : Turn → State
  | .idle s => s
  | .run _ s => s

@[simp] theorem state_idle (s : State) : (Turn.idle s).state = s := rfl
@[simp] theorem state_run (i : Instr) (s : State) : (Turn.run i s).state = s := rfl

@[simp] theorem issueTurn_mem_wf {s : State} (n : Nat) (h : Memory.wf s.mem = true) :
    Memory.wf (s.issueTurn n).state.mem = true := by
  unfold State.issueTurn
  split
  · simp [h]
  · simp [h]
  · dsimp only
    split <;> split <;> simp [h]

theorem stopFirst_mem_wf {s : State} (n : Nat) {k : State → Turn}
    (hk : ∀ u, Memory.wf u.mem = true → Memory.wf (k u).state.mem = true) (h : Memory.wf s.mem = true) :
    Memory.wf (s.stopFirst n k).state.mem = true := by
  have stopped : Memory.wf (s.takeStop n).mem = true := by simp [h]
  unfold State.stopFirst
  dsimp only
  split
  · exact stopped
  · exact hk _ stopped

@[simp] theorem freeTurn_mem_wf {s : State} (n : Nat) (h : Memory.wf s.mem = true) :
    Memory.wf (s.freeTurn n).state.mem = true := by
  unfold State.freeTurn
  dsimp only
  split
  · simp [h]
  · refine stopFirst_mem_wf n (fun u h => ?_) (by simp [h])
    split <;> simp [h]

@[simp] theorem ownTurn_mem_wf {s : State} (n : Nat) (h : Memory.wf s.mem = true) :
    Memory.wf (s.ownTurn n).state.mem = true := by
  unfold State.ownTurn
  split
  · simp [h]
  · exact stopFirst_mem_wf n (fun _ h => by simp [h]) h
  · exact stopFirst_mem_wf n (fun _ h => by simp [h]) h
  · split <;> simp [h]
  · split <;> simp [h]
  · split <;> simp [h]

@[simp] theorem trail_mem_wf {s : State} (n m : Nat) (h : Memory.wf s.mem = true) : Memory.wf (s.trail n m).mem = true := by
  unfold State.trail
  split
  · exact h
  · simp [h]
  · dsimp only
    split
    · split
      · next hx =>
        have ok := exec_ok _ (s := { s.setSlot m { s.slotAt m with mirror := none } with cur := m }) h _ hx
        exact ok
      · exact h
    · exact h

theorem mem_wf_of_pairCheck {s t : State} {n m : Nat} {i : Instr} (h : Memory.wf s.mem = true)
    (ht : s.pairCheck n m i = some t) : Memory.wf t.mem = true := by
  unfold State.pairCheck at ht
  split at ht <;> obtain ⟨d, -, rfl⟩ := Option.map_eq_some_iff.1 ht <;> simp [h]

@[simp] theorem beginTurn_mem_wf {s : State} (n : Nat) (h : Memory.wf s.mem = true) :
    Memory.wf (s.beginTurn n).state.mem = true := by
  unfold State.beginTurn
  dsimp only
  split
  · exact h
  · split
    · dsimp only [state_idle]
      split <;> simp [h]
    · have led : Memory.wf ((match (s.openTurn n).trailerOf n with
          | some m => (s.openTurn n).trail n m
          | none => s.openTurn n).boundaries n).mem = true := by
        split <;> simp [h]
      have own := ownTurn_mem_wf n led
      split
      · exact own
      · split
        · next ht => exact ht ▸ own
        · next ht =>
          have run := ht ▸ own
          split
          · next hc => exact mem_wf_of_pairCheck run hc
          · exact run

theorem runTurn_ok {t : Turn} (h : Memory.wf t.state.mem = true) : OutOk (runTurn t) := by
  unfold runTurn
  split
  · exact outOk_next.2 h
  · next i s =>
    split
    · next u hx => exact outOk_next.2 (endTurn_mem_wf i (exec_ok i h u hx) h)
    · exact nofun
    · exact nofun

/-! ## A step -/

theorem runEntry_ok (e : Sched) {s : State} (h : Memory.wf s.mem = true) : OutOk (runEntry e s) := by
  unfold runEntry
  split
  · exact nofun
  · split
    · exact outOk_next.2 h
    · cases e with
      | turn n =>
        dsimp only
        split
        · exact outOk_next.2 h
        · exact runTurn_ok (beginTurn_mem_wf n h)
      | event i =>
        dsimp only
        split
        · have ok := exec_ok i h
          split
          · next t hx => exact outOk_next.2 (by simp [ok t hx])
          · exact ok
        · exact outOk_next.2 h
      | matrixWord t i => exact outOk_next.2 (by simp [matrixWord_mem_wf _ _ h])
      | _ => exact outOk_next.2 (by simp [h])

theorem mem_wf_of_matrixFirst {s t : State} {e : Sched} (h : Memory.wf s.mem = true) (ht : s.matrixFirst e = some t) :
    Memory.wf t.mem = true := by
  unfold State.matrixFirst at ht
  split at ht
  · split at ht
    · cases ht
    · split at ht
      · cases ht
      · split at ht
        · next u hx =>
          split at ht
          · cases ht
            simp [exec_ok _ h u hx]
          · cases ht
        · cases ht
  · cases ht

theorem advance_ok {s : State} (h : Memory.wf s.mem = true) : OutOk s.advance := by
  unfold State.advance
  split
  · exact outOk_next.2 (by simp [h])
  · split
    · exact runTurn_ok (beginTurn_mem_wf _ h)
    · split
      · next hm => exact outOk_next.2 (mem_wf_of_matrixFirst h hm)
      · exact runEntry_ok _ h

theorem advanceLines_ok {s : State} (h : Memory.wf s.mem = true) : OutOk s.advanceLines := by
  have ok := advance_ok h
  unfold State.advanceLines
  split
  · split
    · next t u ht _ => exact outOk_next.2 (ok t ht)
    · exact ok
  · exact ok

/-- Settles O37: memory is written through the stores of Machine/Maps.lean and by filters only, which keep the canonical form, and
by a posting, which puts the memory of an earlier state back. -/
theorem stepKeepsMemoryCanonical : Obligations.StepKeepsMemoryCanonical := by
  unfold Obligations.StepKeepsMemoryCanonical
  exact fun _ t h ht => advanceLines_ok h t ht

end Sys2Proof.Machine
end

section
/-! An instruction of the copy set in the frame of a meaning: its effect where no check fails, and how it
ends; and the checks of CPY (20 R358). -/
namespace Sys2Proof.Machine
open Sys2Proof

/-! ## Instructions in the frame -/

/-- An instruction of the copy set that is no TLBI or XLAT, or is issued above user level, passes the checks of a copy slot. -/
theorem issueFault_copy {i : Instr} {s : State} (he : (s.slotAt s.cur).engine = .copy) (hu : unitOf i = .copy)
    (hl : s.lateField i = none) (hp : s.privFault i = none) (hr : s.reveals i = false ∨ s.sealedHere = false) :
    s.issueFault i = none :=
  issueFault_eq_none hl hp (by rw [he, hu]; rfl) hr

/-- An instruction traps where its body does. -/
theorem trapsOn_of_body {i : Instr} {s : State} {body : State → State} {c sub : Nat} {v : Word}
    (hx : exec i s = issue i s body) (h : s.issueFault i = none) (hb : body s = s.trap c sub v) : TrapsOn i c sub v s :=
  ⟨_, (hx.trans (issue_ok h)).trans (by rw [hb]), traps_trap ..⟩

/-- An instruction leaves its slot blocked where its body does. -/
theorem blocksOn_of_body {i : Instr} {s mid : State} {body : State → State} {w : Wait} (hx : exec i s = issue i s body)
    (h : s.issueFault i = none) (hb : body s = mid.block s.cur w) : BlocksOn i w mid s :=
  (hx.trans (issue_ok h)).trans (by rw [hb]; rfl)

/-- Ending an instruction after what it does to its slot's image. -/
theorem ends_of {n len : Nat} {im : Image} {s u : State} (ho : OnlySlot n s u) (hs : u.slotAt n = s.slotAt n) (hi : u.img n = im)
    (hc : u.cur = n) : Ends n len im s (u.finish len) := by
  subst hi hc
  have h := ends_finish u len
  unfold Ends at h ⊢
  rw [hs] at h
  split at h
  · next hw =>
    obtain ⟨h1, h2, h3⟩ := h
    rw [if_pos hw]
    exact ⟨ho.trans h1, h2, by rw [h3, hs]⟩
  · next hw =>
    rw [if_neg hw]
    exact h.after ho hs

@[simp] theorem slotAt_setGOf (s : State) (n : Nat) (r : Reg) (x : Word) (m : Nat) : (s.setGOf n r x).slotAt m = s.slotAt m := by
  unfold State.setGOf
  split
  · rfl
  · rfl

/-- Answering a status and ending, from a state with the issuing slot as it was. -/
theorem ends_answer {s mid : State} (d : Reg) (x : Word) (hc : mid.cur = s.cur) :
    Ends s.cur 8 ((mid.img s.cur).withG d x) mid (mid.answer d x) := by
  have hu : (mid.setG d x).cur = s.cur := (State.setG_cur ..).trans hc
  refine ends_of ?_ ?_ ?_ hu <;> unfold State.setG <;> rw [hc]
  · exact onlySlot_setGOf ..
  · exact slotAt_setGOf ..
  · exact img_setGOf ..

/-- An instruction that answers a status, after what it does outside its slot. -/
theorem finishes_of_answer {i : Instr} {s mid : State} {body : State → State} {d : Reg} {x : Word}
    (hx : exec i s = issue i s body) (h : s.issueFault i = none) (hb : body s = mid.answer d x) (hc : mid.cur = s.cur)
    (hi : mid.img s.cur = s.img s.cur) : Finishes i 8 ((s.img s.cur).withG d x) mid s :=
  ⟨_, (hx.trans (issue_ok h)).trans (by rw [hb]), hi ▸ ends_answer d x hc⟩

/-- Writing a register of the issuing slot touches its image only, and its slot not. -/
theorem setG_touches (s : State) (r : Reg) (x : Word) : OnlySlot s.cur s (s.setG r x) ∧ (s.setG r x).cur = s.cur
    ∧ (s.setG r x).slotAt s.cur = s.slotAt s.cur ∧ (s.setG r x).img s.cur = (s.img s.cur).withG r x :=
  ⟨onlySlot_setGOf .., State.setG_cur .., slotAt_setGOf .., img_setGOf ..⟩

/-- An instruction that writes a register and retires, after what it does outside its slot. -/
theorem acts_of_write {i : Instr} {s mid : State} {body : State → State} {d : Reg} {x : Word} {len : Nat}
    (hx : exec i s = issue i s body) (h : s.issueFault i = none) (hb : body s = (mid.setG d x).retire len)
    (hc : mid.cur = s.cur) (hi : mid.img s.cur = s.img s.cur) : Acts i len ((s.img s.cur).withG d x) mid s := by
  refine ⟨_, (hx.trans (issue_ok h)).trans (by rw [hb]), ?_⟩
  have hu : (mid.setG d x).cur = s.cur := (State.setG_cur ..).trans hc
  rw [State.retire, hu, State.setG, hc, ← hi]
  exact retires_setGOf ..

/-! ## The checks of a request (20 R358) -/

/-- A branching proposition by the truth of its condition. -/
theorem ite_prop_iff_bool (b : Bool) (p q : Prop) : (if b = true then p else q) ↔ (b = true ∧ p) ∨ (b = false ∧ q) := by
  cases b
  · simp
  · simp

/-- Word 2 of a request is malformed. -/
def Copy.Bad2 (c : Copy) : Prop := bits c.w2 63 42 ≠ 0 ∨ bits c.w2 15 0 = 0 ∨ bits c.w2 39 16 = 0

/-- Word 3 of a request is malformed. -/
def Copy.Bad3 (c : Copy) : Prop :=
  bits c.w3 15 9 ≠ 0 ∨ (bit c.w2 40 = true ∧ bits c.w3 39 16 < bits c.w2 39 16) ∨ (bit c.w2 40 = false ∧ bits c.w3 39 16 ≠ 0)
    ∨ (bit c.w2 41 = true ∧ bits c.w3 63 40 < bits c.w2 39 16) ∨ (bit c.w2 41 = false ∧ bits c.w3 63 40 ≠ 0)

theorem Copy.badWord_of_bad2 {c : Copy} (h : c.Bad2) : c.badWord = some 2 := if_pos h

theorem Copy.bad3_iff (c : Copy) : c.Bad3 ↔ (bits c.w3 15 9 ≠ 0
    ∨ (if c.srcStrided then bits c.w3 39 16 < c.rbytes else bits c.w3 39 16 ≠ 0)
    ∨ (if c.dstStrided then bits c.w3 63 40 < c.rbytes else bits c.w3 63 40 ≠ 0)) := by
  rw [ite_prop_iff_bool, ite_prop_iff_bool, or_assoc]
  rfl

theorem Copy.badWord_of_bad3 {c : Copy} (h2 : ¬ c.Bad2) (h3 : c.Bad3) : c.badWord = some 3 :=
  (if_neg h2).trans (if_pos (c.bad3_iff.1 h3))

theorem Copy.badWord_eq_none {c : Copy} (h2 : ¬ c.Bad2) (h3 : ¬ c.Bad3) : c.badWord = none :=
  (if_neg h2).trans (if_neg fun h => h3 (c.bad3_iff.2 h))

/-- An address of a request passes step 2 of its checks. -/
def State.GoodSide (s : State) (w : Word) : Prop := bits w 63 57 = 0 ∨ ∃ l, s.globalLoc w = .ok l

/-- An address of a request names a location of a local store of which f holds. -/
def State.LocalSide (s : State) (w : Word) (f : Loc → Prop) : Prop := ¬ bits w 63 57 = 0 ∧ ∃ l, s.globalLoc w = .ok l ∧ f l

/-- A side is a location of a local store of which f holds. -/
def Side.Local (x : Side) (f : Loc → Prop) : Prop := ∃ l, x = .loc l ∧ f l

@[simp] theorem Side.not_local_dram (va : Nat) (f : Loc → Prop) : ¬ (Side.dram va).Local f := by
  rintro ⟨l, h, -⟩
  exact Side.noConfusion h

@[simp] theorem Side.local_loc (l : Loc) (f : Loc → Prop) : (Side.loc l).Local f ↔ f l := by
  constructor
  · rintro ⟨m, hm, h⟩
    exact Side.loc.inj hm ▸ h
  · exact fun h => ⟨l, rfl, h⟩

section
variable {s : State} {w : Word}

theorem sideAtIssue_of_dram (h : bits w 63 57 = 0) : s.sideAtIssue w = .ok (.dram w.toNat) := if_pos (decide_eq_true h)

theorem sideAtIssue_of_not_dram (h : ¬ bits w 63 57 = 0) : s.sideAtIssue w =
    match s.globalLoc w with
    | .error e => .error e
    | .ok l => .ok (.loc l) := if_neg (by simpa [isDramAddr] using h)

theorem sideAtIssue_of_error {e : Nat × Nat} (h : ¬ bits w 63 57 = 0) (he : s.globalLoc w = .error e) :
    s.sideAtIssue w = .error e := by rw [sideAtIssue_of_not_dram h, he]

theorem sideAtIssue_of_ok {l : Loc} (h : ¬ bits w 63 57 = 0) (hl : s.globalLoc w = .ok l) :
    s.sideAtIssue w = .ok (.loc l) := by rw [sideAtIssue_of_not_dram h, hl]

/-- A good address is a side, in DRAM or with a location, as the address says. -/
theorem State.GoodSide.side (h : s.GoodSide w) : ∃ x, s.sideAtIssue w = .ok x ∧ (x.isDram = true ↔ bits w 63 57 = 0)
    ∧ ∀ f, x.Local f ↔ s.LocalSide w f := by
  by_cases hd : bits w 63 57 = 0
  · exact ⟨_, sideAtIssue_of_dram hd, iff_of_true rfl hd, fun f => iff_of_false (Side.not_local_dram _ _) fun k => k.1 hd⟩
  · obtain ⟨l, hl⟩ := h.resolve_left hd
    refine ⟨_, sideAtIssue_of_ok hd hl, iff_of_false Bool.false_ne_true hd, fun f => (Side.local_loc l f).trans ⟨fun k => ?_, ?_⟩⟩
    · exact ⟨hd, l, hl, k⟩
    · rintro ⟨-, m, hm, k⟩
      rw [hl] at hm
      exact Except.ok.inj hm ▸ k

end

/-- Some row of a location passes its space. -/
def Loc.Past (l : Loc) (rows stride rbytes : Nat) : Prop := spSize l.sp < l.off + (rows - 1) * stride + rbytes

theorem Side.overruns_iff (x : Side) (rows stride rbytes : Nat) :
    x.overruns rows stride rbytes = true ↔ x.Local fun l => l.Past rows stride rbytes := by
  cases x with
  | dram va => simp [Side.overruns]
  | loc l => simp [Side.overruns, Loc.Past]

/-- A location's end, after all rows, stands at a multiple of 8 in G (08 R180). -/
def Loc.TagAt (l : Loc) (rows stride rbytes : Nat) : Prop := l.sp = .g ∧ (l.off + (rows - 1) * stride + rbytes) % 8 = 0

/-- Does a destination end so, in G? -/
def Copy.tagEnds (c : Copy) (dst : Side) : Bool :=
  match dst with
  | .loc l => l.sp = .g && (l.off + (c.rows - 1) * c.dstride + c.rbytes) % 8 = 0
  | .dram _ => false

theorem tagEnds_iff (c : Copy) (dst : Side) : c.tagEnds dst = true ↔ dst.Local fun l => l.TagAt c.rows c.dstride c.rbytes := by
  cases dst with
  | dram va => simp [Copy.tagEnds]
  | loc l => simp [Copy.tagEnds, Loc.TagAt]

section
variable {c : Copy} {src dst : Side}

theorem sideFault_of_w (h : src.Local (·.sp = .w)) : c.sideFault src dst = some (0x09, 0x01, c.w0) := by
  obtain ⟨l, rfl, hw⟩ := h
  simp [Copy.sideFault, hw]

/-- Past the check for W the next ones are those of the rows, of TAGFULL and of SIG. -/
theorem sideFault_of_not_w (h : ¬ src.Local (·.sp = .w)) : c.sideFault src dst =
    if src.overruns c.rows c.sstride c.rbytes then some (0x09, 0x24, c.w0)
    else if dst.overruns c.rows c.dstride c.rbytes then some (0x09, 0x24, c.w1)
    else if c.tagfull && !c.tagEnds dst then some (0x22, 0x00, 3)
    else if c.sig && dst.isDram then some (0x22, 0x00, 3)
    else none := by
  cases src with
  | dram va => rfl
  | loc l =>
    have hw : ¬ decide (l.sp = .w) = true := by simpa using h
    exact if_neg hw

theorem sideFault_of_src_past (h : ¬ src.Local (·.sp = .w)) (hs : src.Local fun l => l.Past c.rows c.sstride c.rbytes) :
    c.sideFault src dst = some (0x09, 0x24, c.w0) :=
  (sideFault_of_not_w h).trans (if_pos ((Side.overruns_iff ..).2 hs))

theorem sideFault_of_dst_past (h : ¬ src.Local (·.sp = .w)) (hs : ¬ src.Local fun l => l.Past c.rows c.sstride c.rbytes)
    (hd : dst.Local fun l => l.Past c.rows c.dstride c.rbytes) : c.sideFault src dst = some (0x09, 0x24, c.w1) := by
  rw [sideFault_of_not_w h, if_neg (mt (Side.overruns_iff ..).1 hs), if_pos ((Side.overruns_iff ..).2 hd)]

/-- The last checks refuse TAGFULL where the destination does not end at a multiple of 8 in G, and SIG where it is in DRAM. -/
theorem sideFault_of_word3 (h : ¬ src.Local (·.sp = .w)) (hs : ¬ src.Local fun l => l.Past c.rows c.sstride c.rbytes)
    (hd : ¬ dst.Local fun l => l.Past c.rows c.dstride c.rbytes)
    (h3 : (c.tagfull = true ∧ ¬ dst.Local fun l => l.TagAt c.rows c.dstride c.rbytes) ∨ (c.sig = true ∧ dst.isDram = true)) :
    c.sideFault src dst = some (0x22, 0x00, 3) := by
  rw [sideFault_of_not_w h, if_neg (mt (Side.overruns_iff ..).1 hs), if_neg (mt (Side.overruns_iff ..).1 hd)]
  rcases h3 with ⟨ht, hn⟩ | ⟨hg, hr⟩
  · rw [ht, Bool.eq_false_iff.2 (mt (tagEnds_iff c dst).1 hn)]
    rfl
  · rw [hg, hr]
    simp

end

section
variable {s : State} {c : Copy}

theorem copyFault_of_badWord {k : Nat} (h : c.badWord = some k) : s.copyFault c = some (0x22, 0x00, word k) := by
  simp only [State.copyFault, h]

theorem copyFault_of_src_error {k sub : Nat} (hb : c.badWord = none) (hd : ¬ bits c.w0 63 57 = 0)
    (he : s.globalLoc c.w0 = .error (k, sub)) : s.copyFault c = some (k, sub, c.w0) := by
  simp only [State.copyFault, hb, sideAtIssue_of_error hd he]

theorem copyFault_of_dst_error {k sub : Nat} (hb : c.badWord = none) (h0 : s.GoodSide c.w0) (hd : ¬ bits c.w1 63 57 = 0)
    (he : s.globalLoc c.w1 = .error (k, sub)) : s.copyFault c = some (k, sub, c.w1) := by
  obtain ⟨x, hx, -⟩ := h0.side
  simp only [State.copyFault, hb, hx, sideAtIssue_of_error hd he]

theorem copyFault_of_sides {src dst : Side} (hb : c.badWord = none) (h0 : s.sideAtIssue c.w0 = .ok src)
    (h1 : s.sideAtIssue c.w1 = .ok dst) : s.copyFault c =
      if isOrdinary s.cur && src.isDram then some (0x0B, 0x01, c.w0)
      else if isOrdinary s.cur && dst.isDram then some (0x0B, 0x01, c.w1)
      else c.sideFault src dst := by
  simp only [State.copyFault, hb, h0, h1]

/-- Step 3 of 20 R358: an ordinary core has no path to DRAM. -/
theorem copyFault_of_src_dram (hb : c.badWord = none) (h1 : s.GoodSide c.w1) (ho : isOrdinary s.cur = true)
    (hd : bits c.w0 63 57 = 0) : s.copyFault c = some (0x0B, 0x01, c.w0) := by
  obtain ⟨y, hy, -⟩ := h1.side
  rw [copyFault_of_sides hb (sideAtIssue_of_dram hd) hy, ho]
  rfl

theorem copyFault_of_dst_dram (hb : c.badWord = none) (h0 : s.GoodSide c.w0) (ho : isOrdinary s.cur = true)
    (hn : ¬ bits c.w0 63 57 = 0) (hd : bits c.w1 63 57 = 0) : s.copyFault c = some (0x0B, 0x01, c.w1) := by
  obtain ⟨x, hx, hxd, -⟩ := h0.side
  rw [copyFault_of_sides hb hx (sideAtIssue_of_dram hd), ho, Bool.eq_false_iff.2 (mt hxd.1 hn)]
  rfl

/-- Past step 3 the checks are those of the two sides. -/
theorem copyFault_eq_sideFault (hb : c.badWord = none) (h0 : s.GoodSide c.w0) (h1 : s.GoodSide c.w1)
    (hp : isOrdinary s.cur = false ∨ (¬ bits c.w0 63 57 = 0 ∧ ¬ bits c.w1 63 57 = 0)) :
    ∃ src dst, s.copyFault c = c.sideFault src dst ∧ (∀ f, src.Local f ↔ s.LocalSide c.w0 f)
      ∧ (∀ f, dst.Local f ↔ s.LocalSide c.w1 f) ∧ (dst.isDram = true ↔ bits c.w1 63 57 = 0) := by
  obtain ⟨x, hx, hxd, hxl⟩ := h0.side
  obtain ⟨y, hy, hyd, hyl⟩ := h1.side
  refine ⟨x, y, ?_, hxl, hyl, hyd⟩
  rw [copyFault_of_sides hb hx hy]
  rcases hp with ho | ⟨n0, n1⟩
  · rw [ho]
    rfl
  · rw [Bool.eq_false_iff.2 (mt hxd.1 n0), Bool.eq_false_iff.2 (mt hyd.1 n1), Bool.and_false]
    rfl

end

theorem globalLoc_of_form {s : State} {w : Word} (h8 : bits w 63 60 ≠ 8) (h9 : bits w 63 60 ≠ 9) :
    s.globalLoc w = .error (0x09, 0x20) := if_pos ⟨h8, h9⟩

theorem globalLoc_of_user {s : State} {w : Word} (h8 : bits w 63 60 = 8) (hl : s.level s.cur = 0) :
    s.globalLoc w = .error (0x05, 3) := by
  unfold State.globalLoc
  rw [if_neg fun h => h.1 h8, if_pos ⟨h8, hl⟩]

end Sys2Proof.Machine
end

section
/-! CPY, CPYW, CPYQ and CPYX (20 R364 to R367). -/
namespace Sys2Proof.Machine
open Sys2Proof

/-! ## CPY -/

section
variable {nowait : Bool} {d : Reg} {s : State}

theorem exec_cpy (nowait : Bool) (d : Reg) (s : State) : exec (.cpy nowait d) s = execCpy nowait d s := rfl

theorem issueFault_cpy (he : (s.slotAt s.cur).engine = .copy) (hr : nowait = false ∨ s.sealedHere = false) :
    s.issueFault (.cpy nowait d) = none := issueFault_copy he rfl rfl rfl hr

theorem trapsOn_cpy {k sub : Nat} {v : Word} (hi : s.issueFault (.cpy nowait d) = none)
    (h : s.copyFault (s.copyRequest d) = some (k, sub, v)) : TrapsOn (.cpy nowait d) k sub v s :=
  trapsOn_of_body ((exec_cpy ..).trans rfl) hi (by simp only [h])

theorem finishes_cpy_full (hi : s.issueFault (.cpy nowait d) = none) (h : s.copyFault (s.copyRequest d) = none)
    (hf : 16 ≤ (s.coreAt (coreOf s.cur)).fifo.length) (hn : nowait = true) :
    Finishes (.cpy nowait d) 8 ((s.img s.cur).withG d (neg 1)) s s :=
  finishes_of_answer ((exec_cpy ..).trans rfl) hi (by simp only [h, hf, hn, if_true]) rfl rfl

theorem blocksOn_cpy_full (hi : s.issueFault (.cpy nowait d) = none) (h : s.copyFault (s.copyRequest d) = none)
    (hf : 16 ≤ (s.coreAt (coreOf s.cur)).fifo.length) (hn : nowait = false) : BlocksOn (.cpy nowait d) .poll s s :=
  blocksOn_of_body ((exec_cpy ..).trans rfl) hi (by simp only [h, hf, hn, if_true, Bool.false_eq_true, if_false])

/-! ### The stores that a copy's reads follow (08 R178) -/

/-- Some stores, oldest first, those of slot n marked that stand at or before its last release among them. -/
def markStores (n : Nat) (l : List Counted) : List (Counted × Bool) :=
  l.foldr (fun x acc => (x, x.slot = n && (x.rel || acc.any fun y => y.2)) :: acc) []

theorem beforeRelease_eq (s : State) (n : Nat) : s.beforeRelease n = markStores n s.culvert := rfl

theorem markStores_cons (n : Nat) (x : Counted) (l : List Counted) :
    markStores n (x :: l) = (x, x.slot = n && (x.rel || (markStores n l).any fun y => y.2)) :: markStores n l := rfl

theorem any_markStores {n : Nat} {l : List Counted} (h : ∃ r ∈ l, r.slot = n ∧ r.rel = true) :
    ((markStores n l).any fun y => y.2) = true := by
  obtain ⟨r, hr, hs, hl⟩ := h
  induction l with
  | nil => cases hr
  | cons x l ih =>
    rw [markStores_cons, List.any_cons]
    rcases List.mem_cons.1 hr with rfl | hr
    · simp [hs, hl]
    · rw [ih hr, Bool.or_true]

/-- A store of slot n at or before a release of it is marked, wherever it stands. -/
theorem mem_markStores {n : Nat} {before after : List Counted} {st : Counted} (hs : st.slot = n)
    (h : st.rel = true ∨ ∃ r ∈ after, r.slot = n ∧ r.rel = true) : (st, true) ∈ markStores n (before ++ st :: after) := by
  induction before with
  | nil =>
    rw [List.nil_append, markStores_cons]
    have hm : (st.rel || (markStores n after).any fun y => y.2) = true := by
      rw [Bool.or_eq_true]
      exact h.imp_right any_markStores
    rw [hm, decide_eq_true hs]
    exact List.mem_cons_self
  | cons x before ih => exact List.mem_cons_of_mem _ ih

theorem followStores_of_nil {n : Nat} (ch : Fin 4) (id : Nat) (h : s.culvert = []) : s.followStores n ch id = s := if_pos h

theorem followStores_eq (s : State) (n : Nat) (ch : Fin 4) (id : Nat) :
    s.followStores n ch id = { s with culvert := (s.followStores n ch id).culvert } := by
  unfold State.followStores
  split
  · rfl
  · rfl

@[simp] theorem followStores_cur (s : State) (n : Nat) (ch : Fin 4) (id : Nat) : (s.followStores n ch id).cur = s.cur := by
  rw [followStores_eq]
@[simp] theorem followStores_img (s : State) (n : Nat) (ch : Fin 4) (id m : Nat) : (s.followStores n ch id).img m = s.img m := by
  rw [followStores_eq]; rfl

/-- The outstanding stores that a copy follows know it. -/
theorem mem_followStores {n : Nat} {ch : Fin 4} {id : Nat} {before after : List Counted} {st : Counted}
    (hc : s.culvert = before ++ st :: after) (hs : st.slot = n)
    (h : st.rel = true ∨ ∃ r ∈ after, r.slot = n ∧ r.rel = true) :
    { st with copies := st.copies ++ [(ch, id)] } ∈ (s.followStores n ch id).culvert := by
  have hne : s.culvert ≠ [] := by simp [hc]
  have hm : (st, true) ∈ s.beforeRelease n := by rw [beforeRelease_eq, hc]; exact mem_markStores hs h
  unfold State.followStores
  rw [if_neg hne]
  exact List.mem_map.2 ⟨_, hm, rfl⟩

/-! ### A request that is taken -/

/-- The state with a request of the issuing slot taken, its register results not yet written (20 R364). -/
def State.takeCopy (s : State) (c : Copy) : State :=
  let core := s.coreAt (coreOf s.cur)
  let y := core.chans[c.ch]
  (s.followStores s.cur c.ch y.nextId).setCore (coreOf s.cur) { core with
    chans := core.chans.set c.ch { y with nextId := y.nextId + 1 }
    fifo := core.fifo ++ [{ c with id := y.nextId }] }

@[simp] theorem takeCopy_cur (s : State) (c : Copy) : (s.takeCopy c).cur = s.cur := by simp [State.takeCopy]
@[simp] theorem takeCopy_img (s : State) (c : Copy) (m : Nat) : (s.takeCopy c).img m = s.img m := by
  unfold State.takeCopy
  exact followStores_img ..

theorem acceptCopy_eq (s : State) (d : Reg) (c : Copy) :
    let id := (s.coreAt (coreOf s.cur)).chans[c.ch].nextId
    s.acceptCopy d c =
      if c.handle then ((s.takeCopy c).setG d (word id)).setG (regPlus d 1) (word (c.ch.val * 2 ^ 62 + id))
      else (s.takeCopy c).setG d (word id) := by
  unfold State.acceptCopy State.takeCopy
  simp only [followStores_cur]

theorem finishes_cpy (hi : s.issueFault (.cpy nowait d) = none) (h : s.copyFault (s.copyRequest d) = none)
    (hf : (s.coreAt (coreOf s.cur)).fifo.length < 16) :
    let c := s.copyRequest d
    let id := (s.coreAt (coreOf s.cur)).chans[c.ch].nextId
    let im := (s.img s.cur).withG d (word id)
    Finishes (.cpy nowait d) 8 (if c.handle then im.withG (regPlus d 1) (word (c.ch.val * 2 ^ 62 + id)) else im)
      (s.takeCopy c) s := by
  intro c id im
  have hx : exec (.cpy nowait d) s = .next ((s.acceptCopy d c).finish 8) :=
    (exec_cpy ..).trans <| (issue_ok hi).trans (by simp only [h, Nat.not_le.2 hf, if_false, c])
  refine ⟨_, hx, ?_⟩
  obtain ⟨ho, hc, hs, him⟩ := setG_touches (s.takeCopy c) d (word id)
  rw [takeCopy_cur] at ho hc hs him
  rw [takeCopy_img] at him
  rw [acceptCopy_eq]
  split
  · obtain ⟨ho', hc', hs', him'⟩ := setG_touches ((s.takeCopy c).setG d (word id)) (regPlus d 1) (word (c.ch.val * 2 ^ 62 + id))
    rw [hc] at ho' hc' hs' him'
    exact ends_of (ho.trans ho') (hs'.trans hs) (him'.trans (by rw [him])) hc'
  · exact ends_of ho hs him hc

end

/-! ## CPYW -/

section
variable {sc : Scope} {ch : Fin 4} {a : Reg} {s : State}

theorem exec_cpyw (sc : Scope) (ch : Fin 4) (a : Reg) (s : State) : exec (.cpyw sc ch a) s = execCpyw sc ch a s := rfl

theorem issueFault_cpyw (he : (s.slotAt s.cur).engine = .copy) : s.issueFault (.cpyw sc ch a) = none :=
  issueFault_copy he rfl rfl rfl (.inl rfl)

theorem trapsOn_cpyw_not_given (hi : s.issueFault (.cpyw sc ch a) = none)
    (h : (s.coreAt (coreOf s.cur)).chans[ch].nextId ≤ (s.g a).toNat) : TrapsOn (.cpyw sc ch a) 0x22 2 (s.g a) s :=
  trapsOn_of_body ((exec_cpyw ..).trans rfl) hi (if_pos h)

variable (hi : s.issueFault (.cpyw sc ch a) = none) (hg : (s.g a).toNat < (s.coreAt (coreOf s.cur)).chans[ch].nextId)
include hi hg

theorem completesOn_cpyw (h : (s.g a).toNat < (s.coreAt (coreOf s.cur)).completedOf ch) :
    CompletesOn (.cpyw sc ch a) 8 (s.img s.cur) s s := by
  refine ⟨s.complete s.cur 8, (exec_cpyw ..).trans <| (issue_ok hi).trans ?_, completes_complete ..⟩
  simp only [Nat.not_le.2 hg, h, if_true, if_false]
  rfl

theorem trapsOn_cpyw_failed (hc : (s.coreAt (coreOf s.cur)).completedOf ch ≤ (s.g a).toNat)
    (h : bit (s.coreAt (coreOf s.cur)).chans[ch].error 63 = true)
    (hn : bits (s.coreAt (coreOf s.cur)).chans[ch].error 55 0 ≤ (s.g a).toNat) :
    TrapsOn (.cpyw sc ch a) 0x22 1 (s.coreAt (coreOf s.cur)).chans[ch].error s := by
  refine trapsOn_of_body ((exec_cpyw ..).trans rfl) hi ?_
  simp only [Nat.not_le.2 hg, Nat.not_lt.2 hc, chanFailed, h, hn, and_self, if_true, if_false]

theorem blocksOn_cpyw (hc : (s.coreAt (coreOf s.cur)).completedOf ch ≤ (s.g a).toNat)
    (h : ¬ (bit (s.coreAt (coreOf s.cur)).chans[ch].error 63 = true
      ∧ bits (s.coreAt (coreOf s.cur)).chans[ch].error 55 0 ≤ (s.g a).toNat)) : BlocksOn (.cpyw sc ch a) .poll s s := by
  refine blocksOn_of_body ((exec_cpyw ..).trans rfl) hi ?_
  simp only [Nat.not_le.2 hg, Nat.not_lt.2 hc, chanFailed, h, if_false]

end

/-! ## COMPLETED and CPYQ -/

theorem foldl_min_le (l : List Nat) (a : Nat) : l.foldl min a ≤ a ∧ ∀ x ∈ l, l.foldl min a ≤ x := by
  induction l generalizing a with
  | nil => exact ⟨le_refl a, fun _ h => absurd h List.not_mem_nil⟩
  | cons y l ih =>
    obtain ⟨h1, h2⟩ := ih (min a y)
    exact ⟨h1.trans (min_le_left ..), List.forall_mem_cons.2 ⟨h1.trans (min_le_right ..), h2⟩⟩

theorem completedOf_le_nextId (c : Core) (ch : Fin 4) : c.completedOf ch ≤ c.chans[ch].nextId := (foldl_min_le ..).1

theorem completedOf_le_id {c : Core} {ch : Fin 4} {z : Copy} (hz : z ∈ c.fifo) (h : z.ch = ch) : c.completedOf ch ≤ z.id :=
  (foldl_min_le ..).2 _ (List.mem_map_of_mem (List.mem_filter.2 ⟨hz, decide_eq_true h⟩))

theorem exec_cpyq (err : Bool) (ch : Fin 4) (d : Reg) (s : State) : exec (.cpyq err ch d) s = execCpyq err ch d s := rfl

theorem gives_cpyq {err : Bool} {ch : Fin 4} {d : Reg} {s : State} (he : (s.slotAt s.cur).engine = .copy)
    (hs : s.sealedHere = false) :
    Gives (.cpyq err ch d) 8 d (if err then (s.coreAt (coreOf s.cur)).chans[ch].error
      else word ((s.coreAt (coreOf s.cur)).completedOf ch)) s :=
  gives_of_writes (x := fun s => if err then (s.coreAt (coreOf s.cur)).chans[ch].error
    else word ((s.coreAt (coreOf s.cur)).completedOf ch)) (exec_cpyq ..) (issueFault_copy he rfl rfl rfl (.inr hs))

theorem trapsOn_cpyq_sealed {err : Bool} {ch : Fin 4} {d : Reg} {s : State} (he : (s.slotAt s.cur).engine = .copy)
    (hs : s.sealedHere = true) : TrapsOn (.cpyq err ch d) 0x07 0 0 s :=
  trapsOn_of_issueFault ((exec_cpyq ..).trans rfl) (issueFault_of_sealed rfl rfl (by rw [he]; rfl) rfl hs)

/-! ## CPYX -/

section
variable {d a : Reg} {s : State}

theorem exec_cpyx (f : CpyxForm) (d a : Reg) (s : State) : exec (.cpyx f d a) s = execCpyx f d a s := rfl

theorem trapsOn_cpyx_sealed {f : CpyxForm} (he : (s.slotAt s.cur).engine = .copy) (hs : s.sealedHere = true) :
    TrapsOn (.cpyx f d a) 0x07 0 0 s :=
  trapsOn_of_issueFault ((exec_cpyx ..).trans rfl) (issueFault_of_sealed rfl rfl (by rw [he]; rfl) rfl hs)

theorem issueFault_cpyx {f : CpyxForm} (he : (s.slotAt s.cur).engine = .copy) (hs : s.sealedHere = false) :
    s.issueFault (.cpyx f d a) = none := issueFault_copy he rfl rfl rfl (.inr hs)

/-- A handle is malformed, or names a copy that its channel has not given yet. -/
def Core.BadHandle (c : Core) (ch : Fin 4) (h : Word) : Prop := bits h 61 56 ≠ 0 ∨ bits h 55 0 = 0 ∨ c.chans[ch].nextId ≤ bits h 55 0

section
variable {ch : Fin 4} (hi : s.issueFault (.cpyx .handle d a) = none) (hh : bits (s.g a) 63 62 = ch.val)
include hi hh

theorem trapsOn_cpyx_handle (h : (s.coreAt (coreOf s.cur)).BadHandle ch (s.g a)) : TrapsOn (.cpyx .handle d a) 0x22 3 (s.g a) s := by
  have hc : Fin.ofNat 4 (bits (s.g a) 63 62) = ch := by rw [hh, Fin.ofNat_val_eq_self]
  refine trapsOn_of_body ((exec_cpyx ..).trans rfl) hi ?_
  simp only [hc]
  exact if_pos h

variable (hb : ¬ (s.coreAt (coreOf s.cur)).BadHandle ch (s.g a))
include hb

theorem finishes_cpyx_done
    (h : ((s.coreAt (coreOf s.cur)).fifo.find? fun z => z.ch = ch && z.id = bits (s.g a) 55 0) = none) :
    Finishes (.cpyx .handle d a) 8 ((s.img s.cur).withG d 1) s s := by
  have hc : Fin.ofNat 4 (bits (s.g a) 63 62) = ch := by rw [hh, Fin.ofNat_val_eq_self]
  refine finishes_of_answer ((exec_cpyx ..).trans rfl) hi ?_ rfl rfl
  simp only [hc, h]
  exact if_neg hb

theorem finishes_cpyx_no_handle {z : Copy}
    (h : ((s.coreAt (coreOf s.cur)).fifo.find? fun z => z.ch = ch && z.id = bits (s.g a) 55 0) = some z) (hz : z.handle = false) :
    Finishes (.cpyx .handle d a) 8 ((s.img s.cur).withG d (neg 2)) s s := by
  have hc : Fin.ofNat 4 (bits (s.g a) 63 62) = ch := by rw [hh, Fin.ofNat_val_eq_self]
  refine finishes_of_answer ((exec_cpyx ..).trans rfl) hi ?_ rfl rfl
  simp only [hc, h, hz, Bool.not_false, if_true]
  exact if_neg hb

theorem blocksOn_cpyx_handle {z : Copy}
    (h : ((s.coreAt (coreOf s.cur)).fifo.find? fun z => z.ch = ch && z.id = bits (s.g a) 55 0) = some z) (hz : z.handle = true) :
    BlocksOn (.cpyx .handle d a) (.cpyx d ch false [bits (s.g a) 55 0])
      (s.stopCopies (coreOf s.cur) ch [bits (s.g a) 55 0]) s := by
  have hc : Fin.ofNat 4 (bits (s.g a) 63 62) = ch := by rw [hh, Fin.ofNat_val_eq_self]
  refine blocksOn_of_body ((exec_cpyx ..).trans rfl) hi ?_
  simp only [hc, h, hz, Bool.not_true, Bool.false_eq_true, if_false]
  exact if_neg hb

end

section
variable {ch : Fin 4} (hi : s.issueFault (.cpyx (.reset ch) d a) = none)
include hi

theorem finishes_cpyx_reset (h : ((s.coreAt (coreOf s.cur)).fifo.filter fun z => z.ch = ch).map (·.id) = []) :
    let core := s.coreAt (coreOf s.cur)
    Finishes (.cpyx (.reset ch) d a) 8 ((s.img s.cur).withG d 0)
      (s.setCore (coreOf s.cur) { core with chans := core.chans.set ch { core.chans[ch] with error := 0 } }) s :=
  finishes_of_answer ((exec_cpyx ..).trans rfl) hi (if_pos h) rfl rfl

theorem blocksOn_cpyx_reset (h : ((s.coreAt (coreOf s.cur)).fifo.filter fun z => z.ch = ch).map (·.id) ≠ []) :
    let ids := ((s.coreAt (coreOf s.cur)).fifo.filter fun z => z.ch = ch).map (·.id)
    BlocksOn (.cpyx (.reset ch) d a) (.cpyx d ch true ids) (s.stopCopies (coreOf s.cur) ch ids) s :=
  blocksOn_of_body ((exec_cpyx ..).trans rfl) hi (if_neg h)

end

end

end Sys2Proof.Machine
end

section
/-! The cancelling of copies and COPY_CANCEL_ACK (20 R367). -/
namespace Sys2Proof.Machine
open Sys2Proof

/-! ## Cancelled copies -/

theorem dropPage_coreAt (s : State) (c : Copy) (k : Nat) : (s.dropPage c).coreAt k = s.coreAt k := by
  unfold State.dropPage
  split
  · rfl
  · rfl

theorem dropPage_wait (s : State) (c : Copy) (n : Nat) : ((s.dropPage c).slotAt n).wait = (s.slotAt n).wait := by
  unfold State.dropPage
  split
  · by_cases h : n = c.slot
    · rw [h, State.slotAt_setSlot]
    · rw [State.slotAt_setSlot_of_ne _ _ h]
  · rfl

theorem cancelCopy_fifo (c : Core) (ch : Fin 4) (id : Nat) :
    (c.cancelCopy ch id).fifo = c.fifo.filter fun z => !(z.ch = ch && z.id = id) := rfl

/-- What cancelling one copy of a channel by its id does, where it is in flight. -/
def State.cancelId (k : Nat) (ch : Fin 4) (s : State) (id : Nat) : State :=
  match (s.coreAt k).fifo.find? fun z => z.ch = ch && z.id = id with
  | some c => (s.dropPage c).setCore k (((s.dropPage c).coreAt k).cancelCopy ch id)
  | none => s

theorem cancelIds_eq (s : State) (k : Nat) (ch : Fin 4) (ids : List Nat) : s.cancelIds k ch ids = ids.foldl (State.cancelId k ch) s := rfl

theorem cancelId_wait (s : State) (k : Nat) (ch : Fin 4) (id n : Nat) :
    ((State.cancelId k ch s id).slotAt n).wait = (s.slotAt n).wait := by
  unfold State.cancelId
  split
  · exact dropPage_wait ..
  · rfl

theorem cancelId_fifo (s : State) (k : Nat) (ch : Fin 4) (id : Nat) :
    ((State.cancelId k ch s id).coreAt k).fifo = (s.coreAt k).fifo.filter fun z => !(z.ch = ch && z.id = id) := by
  unfold State.cancelId
  split
  · rw [State.coreAt_setCore, cancelCopy_fifo, dropPage_coreAt]
  · next h =>
    refine (List.filter_eq_self.2 fun z hz => ?_).symm
    rw [Bool.not_eq_true', Bool.eq_false_iff]
    exact List.find?_eq_none.1 h z hz

theorem cancelIds_wait (s : State) (k : Nat) (ch : Fin 4) (ids : List Nat) (n : Nat) :
    ((s.cancelIds k ch ids).slotAt n).wait = (s.slotAt n).wait := by
  rw [cancelIds_eq]
  induction ids generalizing s with
  | nil => rfl
  | cons id ids ih => exact (ih _).trans (cancelId_wait ..)

theorem cancelIds_fifo (s : State) (k : Nat) (ch : Fin 4) (ids : List Nat) :
    ((s.cancelIds k ch ids).coreAt k).fifo = (s.coreAt k).fifo.filter fun z => !(decide (z.ch = ch ∧ z.id ∈ ids)) := by
  rw [cancelIds_eq]
  induction ids generalizing s with
  | nil => simp
  | cons id ids ih =>
    rw [List.foldl_cons, ih, cancelId_fifo, List.filter_filter]
    refine List.filter_congr fun z _ => ?_
    rw [Bool.eq_iff_iff]
    simp
    tauto

/-- A copy is stopped, and no slot of its core waits for its end any more. -/
def State.orphan (s : State) (k : Nat) (c : Copy) : Bool := c.stopping && !s.stopAwaited k c

/-- Cancelling some copies of a core one after the other. -/
def State.cancelAll (s : State) (k : Nat) (cs : List Copy) : State := cs.foldl (fun s c => s.cancelIds k c.ch [c.id]) s

theorem cancelOrphans_eq (s : State) (k : Nat) : s.cancelOrphans k = s.cancelAll k ((s.coreAt k).fifo.filter (s.orphan k)) := rfl

theorem cancelAll_wait (s : State) (k : Nat) (cs : List Copy) (n : Nat) :
    ((s.cancelAll k cs).slotAt n).wait = (s.slotAt n).wait := by
  induction cs generalizing s with
  | nil => rfl
  | cons c cs ih => exact (ih _).trans (cancelIds_wait ..)

theorem cancelAll_fifo (s : State) (k : Nat) (cs : List Copy) :
    ((s.cancelAll k cs).coreAt k).fifo = (s.coreAt k).fifo.filter fun z => !cs.any fun o => o.ch = z.ch && o.id = z.id := by
  induction cs generalizing s with
  | nil => simp [State.cancelAll]
  | cons c cs ih =>
    refine (ih _).trans ?_
    rw [cancelIds_fifo, List.filter_filter]
    refine List.filter_congr fun z _ => ?_
    rw [Bool.eq_iff_iff]
    simp [@eq_comm _ z.ch, @eq_comm _ z.id]
    tauto

theorem cancelOrphans_wait (s : State) (k n : Nat) : ((s.cancelOrphans k).slotAt n).wait = (s.slotAt n).wait := cancelAll_wait ..

theorem cancelOrphans_fifo (s : State) (k : Nat) :
    ((s.cancelOrphans k).coreAt k).fifo = (s.coreAt k).fifo.filter fun z =>
      !(s.coreAt k).fifo.any fun o => o.stopping && o.ch = z.ch && o.id = z.id && !s.stopAwaited k o := by
  rw [cancelOrphans_eq, cancelAll_fifo]
  refine List.filter_congr fun z _ => ?_
  rw [List.any_filter]
  congr 2
  funext o
  simp only [State.orphan]
  ac_rfl

/-! ## COPY_CANCEL_ACK -/

/-- The state with CPYX's copies and the orphans cancelled, and its channel's error reset where CPYX asks for that. -/
def State.cancelled (s : State) (n : Nat) (ch : Fin 4) (reset : Bool) (ids : List Nat) : State :=
  let t := (s.cancelOrphans (coreOf n)).cancelIds (coreOf n) ch ids
  let c := t.coreAt (coreOf n)
  if reset then t.setCore (coreOf n) { c with chans := c.chans.set ch { c.chans[ch] with error := 0 } } else t

theorem cancelled_fifo (s : State) (n : Nat) (ch : Fin 4) (reset : Bool) (ids : List Nat) :
    ((s.cancelled n ch reset ids).coreAt (coreOf n)).fifo =
      ((s.cancelOrphans (coreOf n)).coreAt (coreOf n)).fifo.filter fun z => !(decide (z.ch = ch ∧ z.id ∈ ids)) := by
  rw [← cancelIds_fifo]
  unfold State.cancelled
  cases reset with
  | false => rfl
  | true => simp

theorem cancelled_error (s : State) (n : Nat) (ch : Fin 4) (ids : List Nat) :
    ((s.cancelled n ch true ids).coreAt (coreOf n)).chans[ch].error = 0 := by
  simp [State.cancelled]

theorem cancelled_mem (s : State) (n : Nat) (ch : Fin 4) (reset : Bool) (ids : List Nat) :
    (s.cancelled n ch reset ids).mem = s.mem := by
  cases reset <;> simp [State.cancelled]

theorem exec_copyCancelAck {s : State} {n : Nat} {d : Reg} {ch : Fin 4} {reset : Bool} {ids : List Nat}
    (hw : (s.slotAt n).wait = some (.cpyx d ch reset ids)) :
    exec (.copyCancelAck n) s = .next
      (((s.cancelled n ch reset ids).setGOf n d (if reset then word ids.length else 0)).complete n 8) := by
  rw [← cancelOrphans_wait s (coreOf n)] at hw
  show execCopyCancelAck n s = _
  simp only [execCopyCancelAck, hw]
  cases reset
  · rfl
  · rfl

theorem exec_copyCancelAck_of_other {s : State} {n : Nat} (hw : ∀ d ch reset ids, (s.slotAt n).wait ≠ some (.cpyx d ch reset ids)) :
    exec (.copyCancelAck n) s = .next (s.cancelOrphans (coreOf n)) := by
  simp only [← cancelOrphans_wait s (coreOf n) n] at hw
  show execCopyCancelAck n s = _
  dsimp only [execCopyCancelAck]
  split
  · next h => exact (hw _ _ _ _ h).elim
  · rfl

end Sys2Proof.Machine
end

section
/-! TLBI and XLAT (20 R369, R370). -/
namespace Sys2Proof.Machine
open Sys2Proof

/-! ## TLBI -/

/-- Reading from a list whose values a function of key and value has replaced that keeps the value of an unlisted key. -/
theorem look_map {α : Type} {d : α} {f : Nat → α → α} (hd : ∀ k, f k d = d) (m : List (Nat × α)) (k : Nat) :
    look d (m.map fun p => (p.1, f p.1 p.2)) k = f k (look d m k) := by
  induction m with
  | nil => exact (hd k).symm
  | cons p m ih =>
    obtain ⟨j, x⟩ := p
    simp only [List.map_cons, look]
    split
    · next h => rw [h]
    · exact ih

section
variable {f : TlbiForm} {a : Reg} {s : State}

theorem exec_tlbi (f : TlbiForm) (a : Reg) (s : State) : exec (.tlbi f a) s = execTlbi f a s := rfl

theorem privFault_tlbi (hl : s.level s.cur ≠ 0) : s.privFault (.tlbi f a) = none := if_neg hl

theorem issueFault_tlbi (he : (s.slotAt s.cur).engine = .copy) (hl : s.level s.cur ≠ 0) : s.issueFault (.tlbi f a) = none :=
  issueFault_copy he rfl rfl (privFault_tlbi hl) (.inl rfl)

theorem trapsOn_tlbi (hi : s.issueFault (.tlbi f a) = none) (ho : isOrdinary s.cur = true) :
    TrapsOn (.tlbi f a) 0x0B 2 (words01 (.tlbi f a)) s := trapsOn_of_body ((exec_tlbi ..).trans rfl) hi (if_pos ho)

/-- The core with the entries removed that a TLBI removes, where it names the core's TLB. -/
def Core.afterTlbi (f : TlbiForm) (own part va q : Nat) (c : Core) : Core :=
  if tlbNamed f own q then c.tlbDrop (tlbRemoves f part va) else c

/-- The state with the entries removed that a TLBI of the issuing slot removes. -/
def State.afterTlbi (s : State) (f : TlbiForm) (va : Nat) : State :=
  { s with cores := s.cores.map fun p => (p.1, p.2.afterTlbi f (coreOf s.cur) (s.partOf s.cur) va p.1) }

theorem coreAt_afterTlbi (s : State) (f : TlbiForm) (va q : Nat) :
    (s.afterTlbi f va).coreAt q = (s.coreAt q).afterTlbi f (coreOf s.cur) (s.partOf s.cur) va q := by
  refine look_map (f := fun q c => c.afterTlbi f (coreOf s.cur) (s.partOf s.cur) va q) (fun k => ?_) s.cores q
  unfold Core.afterTlbi
  split
  · rfl
  · rfl

theorem tlbNamed_eq (f : TlbiForm) (own q : Nat) :
    tlbNamed f own q = decide (if f = .bcast then 4096 ≤ q ∧ q < 4400 else q = own) := by
  cases f <;> rfl

theorem tlbRemoves_eq (f : TlbiForm) (part va : Nat) (e : TlbEntry) : tlbRemoves f part va e =
    (decide (e.part = part) && decide (f = .all ∨ (e.va ≤ va ∧ va < e.va + e.size))) := by
  cases f <;> simp [tlbRemoves]

theorem afterTlbi_eq (f : TlbiForm) (own part va q : Nat) (c : Core) : c.afterTlbi f own part va q =
    { c with tlb := c.tlb.filter fun e => !(tlbNamed f own q && tlbRemoves f part va e) } := by
  unfold Core.afterTlbi
  split
  · next h => simp only [Core.tlbDrop, h, Bool.true_and]
  · next h => simp [h]

theorem acts_tlbi (hi : s.issueFault (.tlbi f a) = none) (ho : isOrdinary s.cur = false) :
    Acts (.tlbi f a) 8 (s.img s.cur) (s.afterTlbi f (s.g a).toNat) s := by
  have hm : (s.cores.map fun p => if tlbNamed f (coreOf s.cur) p.1 then (p.1, p.2.tlbDrop (tlbRemoves f (s.partOf s.cur) (s.g a).toNat))
      else p) = (s.afterTlbi f (s.g a).toNat).cores := by
    refine List.map_congr_left fun p _ => ?_
    unfold Core.afterTlbi
    split
    · rfl
    · rfl
  refine ⟨(s.afterTlbi f (s.g a).toNat).retire 8, (exec_tlbi ..).trans <| (issue_ok hi).trans ?_, retires_retireOf ..⟩
  simp only [ho, Bool.false_eq_true, if_false, hm]
  rfl

end

/-! ## XLAT -/

theorem leafSize_pos_of_not_bad {p : Partition} {l : Nat} {e : Word} (h : ¬ entryBad p l e = true) (hb : bit e 1 = true) :
    0 < leafSize l := by
  refine Nat.pos_of_ne_zero fun h0 => h ?_
  simp [entryBad, hb, h0]

/-- A walk ends at a leaf that maps some bytes. -/
theorem walkFrom_size_pos {s : State} {p : Partition} {va table l pa size : Nat} {r w t : Bool}
    (h : s.walkFrom p va table l = .leaf pa size r w t) : 0 < size := by
  induction l generalizing table with
  | zero =>
    unfold State.walkFrom at h
    split at h
    · exact Walk.noConfusion h
    · split_ifs at h
      rw [← (Walk.leaf.inj h).2.1]
      decide
  | succ l ih =>
    unfold State.walkFrom at h
    split at h
    · exact Walk.noConfusion h
    · split_ifs at h with hv hbad hleaf
      · rw [← (Walk.leaf.inj h).2.1]
        exact leafSize_pos_of_not_bad hbad hleaf
      · exact ih h

theorem walk_size_pos {s : State} {part va pa size : Nat} {r w t : Bool} (h : s.walk part va = .leaf pa size r w t) : 0 < size := by
  unfold State.walk at h
  split_ifs at h
  split at h
  · exact Walk.noConfusion h
  · exact walkFrom_size_pos h

/-- XLAT's answer for a leaf: an address below 2^56, the rights and the code of the page size (20 R370). -/
def xlatWord (x : Nat) (r w t : Bool) (size : Nat) : Word :=
  word (sizeCode size * 2 ^ 60 + (if t then 2 ^ 58 else 0) + (if w then 2 ^ 57 else 0) + (if r then 2 ^ 56 else 0) + x)

theorem sizeCode_lt (n : Nat) : sizeCode n < 4 := by
  unfold sizeCode
  split_ifs <;> decide

theorem ite_pow_eq (b : Bool) (n : Nat) : (if b then 2 ^ n else 0) = b.toNat * 2 ^ n := by
  cases b <;> simp

theorem bit_eq_of_div_mod {x : Word} {n : Nat} {b : Bool} (h : x.toNat / 2 ^ n % 2 = b.toNat) : bit x n = b := by
  rw [bit, BitVec.getLsbD, Nat.testBit_eq_decide_div_mod_eq, h]
  cases b <;> rfl

section
variable {x : Nat} (hx : x < 2 ^ 56) (r w t : Bool) (size : Nat)
include hx

theorem toNat_xlatWord : (xlatWord x r w t size).toNat =
    sizeCode size * 2 ^ 60 + t.toNat * 2 ^ 58 + w.toNat * 2 ^ 57 + r.toNat * 2 ^ 56 + x := by
  have hs := sizeCode_lt size
  have ht := t.toNat_le
  have hw := w.toNat_le
  have hr := r.toNat_le
  rw [xlatWord, word, BitVec.toNat_ofNat, ite_pow_eq, ite_pow_eq, ite_pow_eq]
  exact Nat.mod_eq_of_lt (by omega)

theorem fields_xlatWord : let v := xlatWord x r w t size
    bits v 55 0 = x ∧ bit v 56 = r ∧ bit v 57 = w ∧ bit v 58 = t ∧ bits v 61 60 = sizeCode size := by
  have hv := toNat_xlatWord hx r w t size
  have hs := sizeCode_lt size
  have ht := t.toNat_le
  have hw := w.toNat_le
  have hr := r.toNat_le
  refine ⟨?_, bit_eq_of_div_mod ?_, bit_eq_of_div_mod ?_, bit_eq_of_div_mod ?_, ?_⟩
  · rw [bits, hv]
    omega
  · rw [hv]
    omega
  · rw [hv]
    omega
  · rw [hv]
    omega
  · rw [bits, hv]
    omega

end

section
variable {write : Bool} {d a : Reg} {s : State}

theorem exec_xlat (write : Bool) (d a : Reg) (s : State) : exec (.xlat write d a) s = execXlat write d a s := rfl

theorem issueFault_xlat (he : (s.slotAt s.cur).engine = .copy) (hl : s.level s.cur ≠ 0) : s.issueFault (.xlat write d a) = none :=
  issueFault_copy he rfl rfl (if_neg hl) (.inl rfl)

theorem trapsOn_xlat (hi : s.issueFault (.xlat write d a) = none) (ho : isOrdinary s.cur = true) :
    TrapsOn (.xlat write d a) 0x0B 2 (words01 (.xlat write d a)) s :=
  trapsOn_of_body ((exec_xlat ..).trans rfl) hi (if_pos ho)

/-- The state once a walk has filled the TLB of the issuing slot's core with a leaf, where no entry maps the address yet. -/
def State.fillTlb (s : State) (part va pa size : Nat) (r w t : Bool) : State :=
  let c := s.coreAt (coreOf s.cur)
  if (c.tlbHit part va).isSome then s
  else s.setCore (coreOf s.cur) { c with tlb := (⟨part, va - va % size, size, pa, r, w, t⟩ :: c.tlb).take 256 }

theorem fillTlb_eq (s : State) (part va pa size : Nat) (r w t : Bool) :
    s.fillTlb part va pa size r w t = { s with cores := (s.fillTlb part va pa size r w t).cores } := by
  unfold State.fillTlb
  dsimp only
  split
  · rfl
  · rfl

theorem tlbHit_fillTlb (s : State) (part va pa : Nat) {size : Nat} (r w t : Bool) (h : 0 < size) :
    ((s.fillTlb part va pa size r w t).coreAt (coreOf s.cur)).tlbHit part va ≠ none := by
  unfold State.fillTlb
  dsimp only
  split
  · next hh => exact Option.isSome_iff_ne_none.1 hh
  · have hm := Nat.mod_lt va h
    have hle := Nat.mod_le va size
    rw [State.coreAt_setCore, List.take_succ_cons, Core.tlbHit, List.find?_cons_of_pos]
    · exact Option.some_ne_none _
    · simp only [decide_true, Bool.true_and, Bool.and_eq_true, decide_eq_true_eq]
      omega

variable (hi : s.issueFault (.xlat write d a) = none) (ho : isOrdinary s.cur = false)
include hi ho

theorem gives_xlat_fail {sub : Nat} (h : s.walk (s.partOf s.cur) (s.g a).toNat = .fail sub) :
    Gives (.xlat write d a) 8 d (neg 1) s := by
  refine acts_of_write ((exec_xlat ..).trans rfl) hi ?_ rfl rfl
  simp only [ho, Bool.false_eq_true, if_false, h]

variable {pa size : Nat} {r w t : Bool} (h : s.walk (s.partOf s.cur) (s.g a).toNat = .leaf pa size r w t)
include h

theorem gives_xlat_no_right (hr : (if write then w else r) = false) : Gives (.xlat write d a) 8 d (neg 1) s := by
  refine acts_of_write ((exec_xlat ..).trans rfl) hi ?_ rfl rfl
  simp only [ho, Bool.false_eq_true, if_false, h, hr, Bool.not_false, if_true]

theorem acts_xlat (hr : (if write then w else r) = true) :
    Acts (.xlat write d a) 8 ((s.img s.cur).withG d (xlatWord ((pa + (s.g a).toNat % size) % 2 ^ 56) r w t size))
      (s.fillTlb (s.partOf s.cur) (s.g a).toNat pa size r w t) s := by
  have hm := fillTlb_eq s (s.partOf s.cur) (s.g a).toNat pa size r w t
  refine acts_of_write ((exec_xlat ..).trans rfl) hi ?_ (by rw [hm]) (by rw [hm]; rfl)
  simp only [ho, Bool.false_eq_true, if_false, h, hr, Bool.not_true]
  rfl

end

end Sys2Proof.Machine
end

section
/-! CPY's refusals in order, what COPY_CANCEL_ACK leaves, and the statement about the copies. -/
namespace Sys2Proof.Machine
open Sys2Proof

/-- Counting and moving on leave the general registers. -/
theorem g_countTick_atNext (im : Image) (next : Word) : ((im.atNext next).countTick).g = im.g := by
  unfold Image.countTick
  split
  · rfl
  · rfl

/-- A completed slot waits no more, keeps its registers, and no core, memory byte or channel differs. -/
theorem complete_leaves (s : State) (n len : Nat) : ((s.complete n len).slotAt n).wait = none
    ∧ (∀ d, (s.complete n len).gOf n d = s.gOf n d) ∧ (∀ k, (s.complete n len).coreAt k = s.coreAt k) := by
  obtain ⟨⟨ho, -⟩, him, hs⟩ := completes_complete s n len
  refine ⟨by rw [hs], fun d => ?_, fun k => by rw [ho]; rfl⟩
  unfold State.gOf
  rw [him, g_countTick_atNext]

theorem setGOf_coreAt (s : State) (n : Nat) (r : Reg) (x : Word) (k : Nat) : (s.setGOf n r x).coreAt k = s.coreAt k := by
  unfold State.coreAt
  rw [State.setGOf_cores]

/-- What COPY_CANCEL_ACK leaves where the slot still waits in CPYX. -/
theorem copyCancelAck_leaves {s : State} {n : Nat} {d : Reg} {ch : Fin 4} {reset : Bool} {ids : List Nat}
    (hw : (s.slotAt n).wait = some (.cpyx d ch reset ids)) :
    ∃ t, exec (.copyCancelAck n) s = .next t ∧ t.mem = s.mem ∧ (t.slotAt n).wait = none
      ∧ t.gOf n d = (if d = 0 then 0 else if reset then word ids.length else 0)
      ∧ (t.coreAt (coreOf n)).fifo =
        ((s.cancelOrphans (coreOf n)).coreAt (coreOf n)).fifo.filter (fun z => !(decide (z.ch = ch ∧ z.id ∈ ids)))
      ∧ (reset = true → (t.coreAt (coreOf n)).chans[ch].error = 0) := by
  obtain ⟨hwait, hg, hcore⟩ := complete_leaves
    ((s.cancelled n ch reset ids).setGOf n d (if reset then word ids.length else 0)) n 8
  refine ⟨_, exec_copyCancelAck hw, ?_, hwait, ?_, ?_, fun hr => ?_⟩
  · rw [complete_mem, State.setGOf_mem, cancelled_mem]
  · rw [hg]
    by_cases h : d = 0
    · rw [if_pos h, h, gOf_zero]
    · rw [if_neg h, gOf_setGOf_same _ _ _ _ h]
  · rw [hcore, setGOf_coreAt, cancelled_fifo]
  · subst hr
    rw [hcore, setGOf_coreAt]
    exact cancelled_error ..

/-- Settles O54: each instruction of the copy set by what its meaning answers once the checks of its frame pass, CPY by the order of
its own checks, and COPY_CANCEL_ACK by what cancelling leaves in the FIFO. -/
theorem copiesAreAskedFor : Obligations.CopiesAreAskedFor := by
  unfold Obligations.CopiesAreAskedFor
  intro nowait err write sc ch form d a s n im k core x ga c y w2 w3 bad2 bad3 w0 w1 rows rbytes sstride dstride dram side good past
    stopped status inFlight he
  refine ⟨fun hr => ?cpy, fun id => ?follow, trapsOn_cpyw_not_given (issueFault_cpyw he), fun hg => ?cpyw,
    ⟨completedOf_le_nextId .., fun z hz h => completedOf_le_id hz h⟩, fun hs => ⟨gives_cpyq he hs, ?handle, ?reset⟩,
    fun hs => ⟨trapsOn_cpyq_sealed he hs, trapsOn_cpyx_sealed he hs⟩, fun sl => ?ack, fun hl => ⟨?ordinary, ?pump⟩⟩
  case cpy =>
    have hi : s.issueFault (.cpy nowait d) = none := issueFault_cpy he hr
    refine ⟨fun h2 => trapsOn_cpy hi (copyFault_of_badWord (Copy.badWord_of_bad2 h2)),
      fun h2 h3 => trapsOn_cpy hi (copyFault_of_badWord (Copy.badWord_of_bad3 h2 h3)), fun h2 h3 => ?_,
      fun hf => ⟨finishes_cpy hi hf, finishes_cpy_full hi hf, blocksOn_cpy_full hi hf⟩⟩
    have hb : c.badWord = none := Copy.badWord_eq_none h2 h3
    refine ⟨fun _ _ hd h => trapsOn_cpy hi (copyFault_of_src_error hb hd h),
      fun _ _ h0 hd h => trapsOn_cpy hi (copyFault_of_dst_error hb h0 hd h),
      fun w => ⟨globalLoc_of_form, globalLoc_of_user⟩, fun h0 h1 => ⟨fun ho hd => trapsOn_cpy hi (copyFault_of_src_dram hb h1 ho hd),
        fun ho hn hd => trapsOn_cpy hi (copyFault_of_dst_dram hb h0 ho hn hd), fun hp => ?_⟩⟩
    obtain ⟨src, dst, hf, hsrc, hdst, hdram⟩ := copyFault_eq_sideFault hb h0 h1 hp
    refine ⟨fun hw => ?_, fun hw => ⟨fun hs => ?_, fun hs => ⟨fun hd => ?_, fun hd h3 => ?_⟩⟩⟩
    · exact trapsOn_cpy hi (hf.trans (sideFault_of_w ((hsrc _).2 hw)))
    · exact trapsOn_cpy hi (hf.trans (sideFault_of_src_past (mt (hsrc _).1 hw) ((hsrc _).2 hs)))
    · exact trapsOn_cpy hi (hf.trans (sideFault_of_dst_past (mt (hsrc _).1 hw) (mt (hsrc _).1 hs) ((hdst _).2 hd)))
    · refine trapsOn_cpy hi (hf.trans (sideFault_of_word3 (mt (hsrc _).1 hw) (mt (hsrc _).1 hs) (mt (hdst _).1 hd) ?_))
      exact h3.imp (And.imp_right (mt (hdst _).1)) (And.imp_right hdram.2)
  case follow => exact ⟨followStores_of_nil ch id, followStores_eq .., fun _ _ _ hc hn h => mem_followStores hc hn h⟩
  case cpyw =>
    have hi : s.issueFault (.cpyw sc ch a) = none := issueFault_cpyw he
    refine ⟨completesOn_cpyw hi hg, fun hc => ⟨trapsOn_cpyw_failed hi hg hc, fun h => blocksOn_cpyw hi hg hc ?_⟩⟩
    rintro ⟨hb, hn⟩
    rcases h with h | h
    · exact Bool.false_ne_true (h.symm.trans hb)
    · exact Nat.not_le.2 h hn
  case handle =>
    have hi : s.issueFault (.cpyx .handle d a) = none := issueFault_cpyx he hs
    intro i id hh
    refine ⟨trapsOn_cpyx_handle hi hh, fun h1 h2 h3 => ?_⟩
    have hb : ¬ core.BadHandle ch ga := by
      rintro (h | h | h)
      · exact h h1
      · exact h2 h
      · exact Nat.not_le.2 h3 h
    exact ⟨finishes_cpyx_done hi hh hb, fun _ => finishes_cpyx_no_handle hi hh hb, fun _ => blocksOn_cpyx_handle hi hh hb⟩
  case reset =>
    have hi : s.issueFault (.cpyx (.reset ch) d a) = none := issueFault_cpyx he hs
    exact ⟨finishes_cpyx_reset hi, blocksOn_cpyx_reset hi⟩
  case ack =>
    intro fifo left
    have hleft : ((s.cancelOrphans (coreOf sl)).coreAt (coreOf sl)).fifo = left := cancelOrphans_fifo ..
    refine ⟨fun r ids hw => ?_, fun hw => ⟨_, exec_copyCancelAck_of_other hw, cancelOrphans_mem .., hleft⟩⟩
    rw [← hleft]
    exact copyCancelAck_leaves hw
  case ordinary => exact fun ho => ⟨trapsOn_tlbi (issueFault_tlbi he hl) ho, trapsOn_xlat (issueFault_xlat he hl) ho⟩
  case pump =>
    intro ho
    have hi : s.issueFault (.xlat write d a) = none := issueFault_xlat he hl
    refine ⟨⟨_, acts_tlbi (issueFault_tlbi he hl) ho, rfl, fun q => ?_⟩, fun _ h => gives_xlat_fail hi ho h, fun pa size r w t h =>
      ⟨gives_xlat_no_right hi ho h, fun hr => ⟨_, _, acts_xlat hi ho h hr, ?_⟩⟩⟩
    · rw [coreAt_afterTlbi, afterTlbi_eq]
      simp only [tlbNamed_eq, tlbRemoves_eq, Bool.and_assoc]
      rfl
    · obtain ⟨hx, hr, hw, ht, hsize⟩ := fields_xlatWord (Nat.mod_lt (pa + ga.toNat % size) (Nat.two_pow_pos 56)) r w t size
      exact ⟨hx, hr, hw, ht, hsize, tlbHit_fillTlb s _ _ pa r w t (walk_size_pos h), fillTlb_eq ..⟩

end Sys2Proof.Machine
end

section
/-! The encoding of what the decoder reads (03 R37 to R63): a field that passes its check is the code of what it reads as, so the fields
that a format's reading lets through are the fields of the instruction's encoding. -/
namespace Sys2Proof

/-! ## Fields as the codes of what they read as -/

@[simp] theorem val_rg (n : Nat) : (rg n).val = n % 32 := rfl
@[simp] theorem val_vr (n : Nat) : (vr n).val = n % 16 := rfl
@[simp] theorem val_kr (n : Nat) : (kr n).val = n % 8 := rfl
@[simp] theorem val_fn4 (n : Nat) : (fn4 n).val = n % 4 := rfl
@[simp] theorem val_fn8 (n : Nat) : (fn8 n).val = n % 8 := rfl
@[simp] theorem val_fn16 (n : Nat) : (fn16 n).val = n % 16 := rfl
@[simp] theorem val_fn64 (n : Nat) : (fn64 n).val = n % 64 := rfl
@[simp] theorem val_fn65 (n : Nat) : (fn65 n).val = min n 65 % 65 := rfl
@[simp] theorem toNat_bt (n : Nat) : (bt n).toNat = n % 2 := by
  rcases Nat.mod_two_eq_zero_or_one n with h | h <;> simp [bt, h]

/-- A table over the low bits of a field, by its entries. -/
theorem code_of_mod {α : Type} {read : Nat → α} {code : α → Nat} {k m : Nat} (hm : ∀ n, read (n % m) = read n)
    (h : ∀ n < k, code (read n) = n) {n : Nat} (hn : n % m < k) : code (read n) = n % m := by
  rw [← hm, h _ hn]

theorem code_wd (n : Nat) : (wd n).code = n % 4 :=
  code_of_mod (by simp [wd]) (by decide : ∀ n < 4, _) (Nat.mod_lt _ (by decide))
theorem code_mulForm (n : Nat) : (mulForm n).code = n % 4 :=
  code_of_mod (by simp [mulForm]) (by decide : ∀ n < 4, _) (Nat.mod_lt _ (by decide))
theorem code_engine (n : Nat) : (engine n).code = n % 4 :=
  code_of_mod (by simp [engine]) (by decide : ∀ n < 4, _) (Nat.mod_lt _ (by decide))
theorem code_selfForm {n : Nat} : n % 4 < 3 → (selfForm n).code = n % 4 := code_of_mod (by simp [selfForm]) (by decide)
theorem code_phaseForm {n : Nat} : n % 4 < 3 → (phaseForm n).code = n % 4 := code_of_mod (by simp [phaseForm]) (by decide)
theorem code_mstatForm {n : Nat} : n % 4 < 3 → (mstatForm n).code = n % 4 := code_of_mod (by simp [mstatForm]) (by decide)
theorem code_tlbiForm {n : Nat} : n % 4 < 3 → (tlbiForm n).code = n % 4 := code_of_mod (by simp [tlbiForm]) (by decide)
theorem code_swrForm {n : Nat} : n % 4 < 3 → (swrForm n).code = n % 4 := code_of_mod (by simp [swrForm]) (by decide)
theorem code_redOp {n : Nat} : n % 4 < 3 → (redOp n).code = n % 4 := code_of_mod (by simp [redOp]) (by decide)
theorem code_vcond {n : Nat} : n % 8 < 6 → (vcond n).code = n % 8 := code_of_mod (by simp [vcond]) (by decide)
theorem code_scope {n : Nat} : n % 8 < 7 → (scope n).code = n % 8 := code_of_mod (by simp [scope]) (by decide)
theorem code_bfmt {n : Nat} : n % 16 < 8 → (bfmt n).code = n % 16 := code_of_mod (by simp [bfmt]) (by decide)

theorem code_spc : ∀ {n : Nat}, n < 7 → (spc n).code = n := by decide
theorem code_ordr : ∀ {n : Nat}, n < 5 → (ordr n).code = n := by decide
theorem code_aop : ∀ {n : Nat}, n < 9 → (aop n).code = n := by decide
theorem code_ety : ∀ {n : Nat}, n < 11 → (ety n).code = n := by decide
theorem code_rmd : ∀ {n : Nat}, n < 5 → (rmd n).code = n := by decide
theorem code_cnd {n : Nat} (h : 0 < n) (hn : n < 7) : (cnd n).code = n :=
  (by decide : ∀ n < 7, 0 < n → (cnd n).code = n) n hn h
theorem brCode_brCond : ∀ {n : Nat}, n < 7 → brCode (brCond n) = n := by decide
theorem condBad_eq_false_iff (n : Nat) : condBad n = false ↔ 0 < n ∧ n < 7 := by
  simp [condBad]
  omega

theorem code_cpyxForm {n : Nat} (h : n % 2 = 1 ∨ n / 2 % 4 = 0) : (cpyxForm n).code = n % 8 := by
  rcases Nat.mod_two_eq_zero_or_one n with hn | hn <;> simp [cpyxForm, bt, hn, CpyxForm.code] <;> omega

/-- Bits 14 and 15 of a vector access's FN name its store, A or C (17 R326). -/
theorem windowBits_eq (n : Nat) : (if bt n then 32768 else 16384) = 16384 * (1 + n % 2) := by
  rcases Nat.mod_two_eq_zero_or_one n with h | h <;> simp [bt, h]

/-! ## Checks that pass -/

/-- Every check of a reading's fields passes (03 R61 check 5). -/
def Checked.Passes (c : Checked) : Prop := ∀ p ∈ c.checks, p.2 = false

theorem passes_cons {b : Nat} {bad : Bool} {l : List (Nat × Bool)} {i : Instr} :
    Checked.Passes ⟨(b, bad) :: l, i⟩ ↔ bad = false ∧ Checked.Passes ⟨l, i⟩ := by
  simp [Checked.Passes]

/-! ## The encoding of what is read

PERFORM, VMOVG and KMOVG have a flag that chooses between two sets of operands: it is split first. -/

theorem encode_readR {op : Nat} {f : FieldsR} (h : f.fits) (hne : (readR op f).checks ≠ []) (hc : (readR op f).Passes) :
    encodeNat (readR op f).instr = packR op f := by
  obtain ⟨d, a, b, c, w, fn, z⟩ := f
  simp only [FieldsR.fits] at h
  revert hne hc
  unfold readR
  split
  case h_73 => exact fun hne => (hne rfl).elim
  all_goals
    intro _ hc
    simp only [passes_cons, bne_eq_false_iff_eq, beq_eq_false_iff_ne, decide_eq_false_iff_not, condBad_eq_false_iff,
      Bool.and_eq_false_iff] at hc
    show packR _ _ = _
    simp (disch := omega) only [packR, val_rg, code_wd, code_mulForm, code_engine, code_scope, code_selfForm, code_phaseForm,
      code_mstatForm, code_tlbiForm, code_bfmt, code_cpyxForm, toNat_bt, code_cnd, val_fn4, val_fn8, val_fn16, BitVec.toNat_ofNat]
    omega

theorem encode_readI {op : Nat} {f : FieldsI} (h : f.fits) (hne : (readI op f).checks ≠ []) (hc : (readI op f).Passes) :
    encodeNat (readI op f).instr = packI op f := by
  obtain ⟨d, a, fn, w, imm⟩ := f
  simp only [FieldsI.fits] at h
  revert hne hc
  unfold readI
  split
  case h_19 => exact fun hne => (hne rfl).elim
  case h_14 =>
    intro _ hc
    have hn := toNat_bt fn
    cases hb : bt fn
    all_goals
      simp [passes_cons, hb] at hc hn ⊢
      show packI _ _ = _
      simp [packI]
      omega
  all_goals
    intro _ hc
    simp only [passes_cons, bne_eq_false_iff_eq, beq_eq_false_iff_ne, decide_eq_false_iff_not, condBad_eq_false_iff,
      Bool.and_eq_false_iff] at hc
    show packI _ _ = _
    simp (disch := omega) only [packI, val_rg, code_wd, code_swrForm, toNat_bt, code_cnd, val_fn4, val_fn64, val_fn65, BitVec.toNat_ofNat]
    omega

theorem encode_readM {op : Nat} {f : FieldsM} (h : f.fits) (hne : (readM op f).checks ≠ []) (hc : (readM op f).Passes) :
    encodeNat (readM op f).instr = packM op f := by
  obtain ⟨d, a, b, sc, sp, w, ord, sg, aop, off⟩ := f
  simp only [FieldsM.fits] at h
  revert hne hc
  unfold readM
  split
  case h_18 => exact fun hne => (hne rfl).elim
  all_goals
    intro _ hc
    simp only [passes_cons, bne_eq_false_iff_eq, beq_eq_false_iff_ne, decide_eq_false_iff_not] at hc
    show packM _ _ = _
    simp (disch := omega) only [packM, adr, val_rg, code_wd, code_spc, code_ordr, code_aop, toNat_bt, val_fn4, BitVec.toNat_ofNat]
    omega

theorem encode_readV {op : Nat} {f : FieldsV} (h : f.fits) (hne : (readV op f).checks ≠ []) (hc : (readV op f).Passes) :
    encodeNat (readV op f).instr = packV op f := by
  obtain ⟨d, a, b, c, k, zm, z, et, et2, rm, ga, fn⟩ := f
  simp only [FieldsV.fits] at h
  revert hne hc
  unfold readV
  split
  case h_46 => exact fun hne => (hne rfl).elim
  case h_25 =>
    intro _ hc
    have hn := toNat_bt (fn / 128)
    cases hb : bt (fn / 128)
    all_goals
      simp [passes_cons, hb] at hc hn ⊢
      show packV _ _ = _
      simp (disch := omega) [packV, code_ety]
      omega
  case h_45 =>
    intro _ hc
    have hn := toNat_bt fn
    cases hb : bt fn
    all_goals
      simp [passes_cons, hb] at hc hn ⊢
      show packV _ _ = _
      simp [packV]
      omega
  all_goals
    intro _ hc
    simp only [passes_cons, bne_eq_false_iff_eq, beq_eq_false_iff_ne, decide_eq_false_iff_not, Bool.or_eq_false_iff] at hc
    show packV _ _ = _
    simp (disch := omega) only [packV, vd, val_rg, val_vr, val_kr, code_ety, code_rmd, code_vcond, code_redOp, code_bfmt,
      toNat_bt, windowBits_eq, val_fn4, BitVec.toNat_ofNat]
    omega

theorem encode_readX {op : Nat} {f : FieldsX} (h : f.fits) (hne : (readX op f).checks ≠ []) (hc : (readX op f).Passes) :
    encodeNat (readX op f).instr = packX op f := by
  obtain ⟨d, a, fn, w, imm⟩ := f
  simp only [FieldsX.fits] at h
  revert hne hc
  unfold readX
  split
  case h_3 => exact fun hne => (hne rfl).elim
  all_goals
    intro _ hc
    simp only [passes_cons, bne_eq_false_iff_eq] at hc
    show packX _ _ = _
    simp only [packX, val_rg, BitVec.toNat_ofNat]
    omega

theorem encode_readY {op : Nat} {f : FieldsY} (h : f.fits) (hne : (readY op f).checks ≠ []) (hc : (readY op f).Passes) :
    encodeNat (readY op f).instr = packY op f := by
  obtain ⟨d, a, b, c, w, fn, imm⟩ := f
  simp only [FieldsY.fits] at h
  revert hne hc
  unfold readY
  split
  case h_2 => exact fun hne => (hne rfl).elim
  case h_1 =>
    intro _ hc
    simp only [passes_cons, bne_eq_false_iff_eq, decide_eq_false_iff_not] at hc
    show packY _ _ = _
    simp only [packY, toNat_bt, BitVec.toNat_ofNat]
    omega

theorem encode_readB {op : Nat} {f : FieldsB} (h : f.fits) (hne : (readB op f).checks ≠ []) (hc : (readB op f).Passes) :
    encodeNat (readB op f).instr = packB op f := by
  obtain ⟨cnd, a, b, z, w, off⟩ := f
  simp only [FieldsB.fits] at h
  revert hne hc
  unfold readB
  split
  case h_2 => exact fun hne => (hne rfl).elim
  case h_1 =>
    intro _ hc
    simp only [passes_cons, bne_eq_false_iff_eq, decide_eq_false_iff_not] at hc
    show packB _ _ = _
    simp (disch := omega) only [packB, brCode_brCond, val_rg, code_wd, BitVec.toNat_ofNat]
    omega

theorem encode_readP {op : Nat} {f : FieldsP} (h : f.fits) (hne : (readP op f).checks ≠ []) (hc : (readP op f).Passes) :
    encodeNat (readP op f).instr = packP op f := by
  obtain ⟨d, a, b, c, w, fn, subst, z, p0, p1, p2, p3⟩ := f
  simp only [FieldsP.fits] at h
  revert hne hc
  unfold readP
  split
  case h_5 => exact fun hne => (hne rfl).elim
  all_goals
    intro _ hc
    simp only [passes_cons, bne_eq_false_iff_eq] at hc
    show packP _ _ = _
    simp only [packP, parCode, par, val_fn16, toNat_bt, BitVec.toNat_ofNat]
    omega

/-! ## What each format reads -/

/-- What an opcode's format reads: some field is checked, and the instruction is of the opcode map and has the format's length
(03 R38, R58). -/
theorem readAs_of_opFormat {f : Format} {op : Nat} (x : Nat) (h : opFormat op = some f) :
    (readAs f op x).checks ≠ [] ∧ (readAs f op x).instr.isEvent = false ∧ (readAs f op x).instr.words = wordsOf f.lenCode := by
  revert h
  unfold opFormat
  split <;> rintro ⟨⟩ <;> exact ⟨nofun, rfl, rfl⟩

theorem fits_splitR (x : Nat) : (splitR x).fits := by
  simp only [splitR, FieldsR.fits]
  omega
theorem fits_splitI (x : Nat) : (splitI x).fits := by
  simp only [splitI, FieldsI.fits]
  omega
theorem fits_splitX (x : Nat) : (splitX x).fits := by
  simp only [splitX, FieldsX.fits]
  omega
theorem fits_splitY (x : Nat) : (splitY x).fits := by
  simp only [splitY, FieldsY.fits]
  omega
theorem fits_splitM (x : Nat) : (splitM x).fits := by
  simp only [splitM, FieldsM.fits]
  omega
theorem fits_splitB (x : Nat) : (splitB x).fits := by
  simp only [splitB, FieldsB.fits]
  omega
theorem fits_splitV (x : Nat) : (splitV x).fits := by
  simp only [splitV, FieldsV.fits]
  omega
theorem fits_splitP (x : Nat) : (splitP x).fits := by
  simp only [splitP, FieldsP.fits]
  omega

section
variable {x : Nat}

theorem packR_splitR (h : x % 4 = 0) : packR (x / 4 % 256) (splitR x) = x % 2 ^ 64 := by
  simp only [packR, splitR]
  omega
theorem packI_splitI (h : x % 4 = 0) : packI (x / 4 % 256) (splitI x) = x % 2 ^ 64 := by
  simp only [packI, splitI]
  omega
theorem packX_splitX (h : x % 4 = 1) : packX (x / 4 % 256) (splitX x) = x % 2 ^ 96 := by
  simp only [packX, splitX]
  omega
theorem packY_splitY (h : x % 4 = 2) : packY (x / 4 % 256) (splitY x) = x % 2 ^ 128 := by
  simp only [packY, splitY]
  omega
theorem packM_splitM (h : x % 4 = 0) : packM (x / 4 % 256) (splitM x) = x % 2 ^ 64 := by
  simp only [packM, splitM]
  omega
theorem packB_splitB (h : x % 4 = 0) : packB (x / 4 % 256) (splitB x) = x % 2 ^ 64 := by
  simp only [packB, splitB]
  omega
theorem packV_splitV (h : x % 4 = 0) : packV (x / 4 % 256) (splitV x) = x % 2 ^ 64 := by
  simp only [packV, splitV]
  omega
theorem packP_splitP (h : x % 4 = 3) : packP (x / 4 % 256) (splitP x) = x % 2 ^ 192 := by
  simp only [packP, splitP]
  omega

theorem encode_readAs {f : Format} (h : opFormat (x / 4 % 256) = some f) (hl : f.lenCode = x % 4)
    (hc : (readAs f (x / 4 % 256) x).Passes) : encodeNat (readAs f (x / 4 % 256) x).instr = x % 2 ^ (32 * wordsOf f.lenCode) := by
  obtain ⟨hne, -⟩ := readAs_of_opFormat x h
  cases f with
  | r => exact (encode_readR (fits_splitR x) hne hc).trans (packR_splitR hl.symm)
  | i => exact (encode_readI (fits_splitI x) hne hc).trans (packI_splitI hl.symm)
  | x => exact (encode_readX (fits_splitX x) hne hc).trans (packX_splitX hl.symm)
  | y => exact (encode_readY (fits_splitY x) hne hc).trans (packY_splitY hl.symm)
  | m => exact (encode_readM (fits_splitM x) hne hc).trans (packM_splitM hl.symm)
  | b => exact (encode_readB (fits_splitB x) hne hc).trans (packB_splitB hl.symm)
  | v => exact (encode_readV (fits_splitV x) hne hc).trans (packV_splitV hl.symm)
  | p => exact (encode_readP (fits_splitP x) hne hc).trans (packP_splitP hl.symm)

end

/-! ## What the decoder reads -/

theorem lowest_eq_none_iff (l : List (Nat × Bool)) : lowest l = none ↔ ∀ p ∈ l, p.2 = false := by
  induction l with
  | nil => exact ⟨nofun, fun _ => rfl⟩
  | cons p r ih =>
    obtain ⟨b, bad⟩ := p
    rw [lowest, List.forall_mem_cons, ← ih]
    cases hr : lowest r <;> cases bad <;> simp
    split <;> simp

/-- Check 5 of 03 R61 lets an instruction through where its fields' checks pass and its entry restricts nothing. -/
theorem finish_eq_ok_iff (c : Checked) (i : Instr) :
    c.finish = .ok i ↔ c.instr = i ∧ c.Passes ∧ c.instr.unrestricted = true := by
  have h : lowest (c.checks ++ c.instr.restrictions) = none ↔ c.Passes ∧ c.instr.unrestricted = true := by
    rw [lowest_eq_none_iff, List.forall_mem_append]
    simp only [Checked.Passes, Instr.unrestricted, List.all_eq_true, Bool.not_eq_true']
  rw [← h, Checked.finish]
  cases lowest (c.checks ++ c.instr.restrictions) <;> simp

/-- Do words have an opcode of the map with its format's length code (03 R61 check 4)? -/
def Formatted (x : Nat) (f : Format) : Prop := opFormat (x / 4 % 256) = some f ∧ f.lenCode = x % 4

theorem decode_of_formatted {x : Nat} {f : Format} (h : Formatted x f) : decode x = (readAs f (x / 4 % 256) x).finish := by
  rw [decode, h.1]
  exact if_pos h.2

theorem decode_of_not_formatted {x : Nat} (h : ∀ f, ¬ Formatted x f) : decode x = illegal x := by
  rw [decode]
  split
  · rfl
  · next f hf => exact if_neg fun hl => h f ⟨hf, hl⟩

/-- What the decoder reads from formatted words is well formed, has the format's length, and its encoding is those words. -/
theorem of_decode_formatted {x : Nat} {f : Format} {i : Instr} (h : Formatted x f) (hd : decode x = .ok i) :
    i.wf = true ∧ i.words = wordsOf (x % 4) ∧ encodeNat i = x % 2 ^ (32 * i.words) := by
  rw [decode_of_formatted h, finish_eq_ok_iff] at hd
  obtain ⟨rfl, hc, hu⟩ := hd
  obtain ⟨hf, hl⟩ := h
  obtain ⟨-, he, hw⟩ := readAs_of_opFormat x hf
  refine ⟨?_, hw.trans (by rw [hl]), ?_⟩
  · rw [Instr.wf, he, hu]
    rfl
  · rw [hw]
    exact encode_readAs hf hl hc

theorem encode_illegal (x : Nat) : encodeNat (.illegalOp (.ofNat 32 x) (.ofNat 32 (x / 2 ^ 32))) = x % 2 ^ 64 := by
  show (BitVec.ofNat 32 x).toNat + 4294967296 * (BitVec.ofNat 32 (x / 2 ^ 32)).toNat = _
  rw [BitVec.toNat_ofNat, BitVec.toNat_ofNat]
  omega

/-- Settles O33: formatted words by the encoding of what their format reads, the others by ILLEGAL_OP, which carries its words. -/
theorem encodingInvertsDecoding : Obligations.EncodingInvertsDecoding := by
  unfold Obligations.EncodingInvertsDecoding
  intro x i hd
  by_cases h : ∃ f, Formatted x f
  · obtain ⟨f, hf⟩ := h
    obtain ⟨hw, -, he⟩ := of_decode_formatted hf hd
    exact ⟨.inl hw, he⟩
  · rw [decode_of_not_formatted (not_exists.1 h)] at hd
    cases hd
    exact ⟨.inr ⟨_, _, rfl⟩, encode_illegal x⟩

end Sys2Proof
end

section
/-! Decoding an encoding (03 R37 to R50): the round trips of the constructors together, and the bytes of words. -/
namespace Sys2Proof.Laws.RoundTrip
open Sys2Proof

/-- Every well-formed instruction is what the decoder reads from its words. -/
theorem decode_encodeNat {i : Instr} : Statement i :=
  Instr.casesOn (motive := Statement) i
    add addi sub mul div rem and andi or ori xor xori andn shl shli shr shri rot clz ctz popc min max cmp cmpi sel ext ins
    bswap adds subs madd li lea gaddr localq abs sext zext illegalOp nop br call jr callr loop loopi lbrk sleep sleepWake
    wdog yield halt ld st ldm stm ldf lde stf stff tagq tagset amo cas fence racem dld dst damo globalRequest globalReply
    countedStoreVisible waitlimit wqpop wqpush spillwayReturn wait phase sluiceFiring sluiceRelease linkReady semv semw send
    messageAccept recv rarm mbx mbxw rqpush rqpop tstart slotStart tstop treap tstat tself handle endh perform vperform
    resume resumec discard hexit tokq effectDelivery tick watchdogExpiry srd swr fpxsumUpdate contextWrite svc hvc setvec
    unpark setroot pumprun dbpop submit cancel tret tkill pair trapEntry hypervisorTrap hctlResume hctlNext hctlReflect
    hctlPark hctlFault poison vadd vsub vmul vfma vdiv vsqrt vmin vmax vabs vneg vand vor vxor vshl vshr vcmp vsel vcvt
    vquant vdeq vred vscan vbcast vmovg vshuf vslide viota vtlu vtcfg vld vst vgath vscat kand kor kxor knot kpop kset kfirst
    vpack vunpk vclass kmovg mcfg mldb mswap mmul mzero mout mstat mred mcfgTurn mldbTurn mswapTurn mmulTurn mzeroTurn
    moutTurn mredTurn dikeRingGrant ballast cpy cpyw cpyq cpyx tlbi xlat copyChunk copyComplete page copyCancelAck dispatch
    launchStart launchComplete witnessSecondRun contextSwitch launchPreempt launchRestore operatingPointChange droop
    fbmaxUpdate energyUpdate quotaPeriodBoundary allowanceUpdate dramtempUpdate referenceLoss referenceReturn tideSet
    announce heartbeat heartbeatSend join accept leave expel emergency memberSilent expelTimeout crestBite bar2Access
    doorbell dbstatClear moduleReset attestation telemetry linkReplay linkDown railUndervoltage dramReply dramRefresh
    tideSlew linkRetrain railRestored

end Sys2Proof.Laws.RoundTrip

namespace Sys2Proof

@[simp] theorem length_leBytes (n x : Nat) : (leBytes n x).length = n := by
  induction n generalizing x with
  | zero => rfl
  | succ n ih => rw [leBytes, List.length_cons, ih]

theorem leNat_leBytes (n x : Nat) : leNat (leBytes n x) = x % 256 ^ n := by
  induction n generalizing x with
  | zero => rw [Nat.pow_zero, Nat.mod_one]; rfl
  | succ n ih =>
    calc leNat (leBytes (n + 1) x)
      _ = x % 256 + 256 * leNat (leBytes n (x / 256)) := by rw [leBytes, leNat, BitVec.toNat_ofNat]
      _ = x % 256 ^ (n + 1) := by rw [ih, Nat.pow_succ', Nat.mod_mul]

theorem wordsOf_mem (l : Nat) : wordsOf l ∈ [2, 3, 4, 6] := by
  unfold wordsOf
  split <;> decide

theorem wordsOf_pos (l : Nat) : 0 < wordsOf l := by
  unfold wordsOf
  split <;> decide

/-- A decoder that is given the bytes of words with other bytes behind them reads the words, where their length is what L says (03
R38). -/
theorem decodeBytes_leBytes {n x : Nat} (hn : wordsOf (x % 4) = n) (rest : List Byte) :
    decodeBytes (leBytes (4 * n) x ++ rest) = decode (x % 2 ^ (32 * n)) := by
  obtain ⟨k, hk⟩ : ∃ k, 4 * n = k + 1 := Nat.exists_eq_succ_of_ne_zero (by have := wordsOf_pos (x % 4); omega)
  have hb : lengthOf ((BitVec.ofNat 8 x).toNat % 4) = 4 * n := by
    rw [BitVec.toNat_ofNat, Nat.mod_mod_of_dvd x (by decide), lengthOf, hn]
  have hl : leBytes (4 * n) x ++ rest = BitVec.ofNat 8 x :: (leBytes k (x / 256) ++ rest) := by rw [hk]; rfl
  have hlen : ¬ (BitVec.ofNat 8 x :: (leBytes k (x / 256) ++ rest)).length < 4 * n := by
    rw [← hl, List.length_append, length_leBytes]
    omega
  rw [hl, decodeBytes, hb, if_neg hlen, ← hl, List.take_left' (length_leBytes ..), leNat_leBytes, show 256 = 2 ^ 8 from rfl, ← Nat.pow_mul]
  congr 3
  omega

theorem not_illegal_of_wf {i : Instr} (h : i.wf = true) (w0 w1 : BitVec 32) : i ≠ .illegalOp w0 w1 := by
  rintro rfl
  exact Bool.false_ne_true h

/-- Settles O32: each constructor's round trip, whose words are formatted, so that L gives their length. -/
theorem decodingInvertsEncoding : Obligations.DecodingInvertsEncoding := by
  unfold Obligations.DecodingInvertsEncoding
  intro i hi rest
  have hd : decode (encodeNat i) = .ok i := Laws.RoundTrip.decode_encodeNat hi
  by_cases h : ∃ f, Formatted (encodeNat i) f
  · obtain ⟨f, hf⟩ := h
    obtain ⟨-, hw, he⟩ := of_decode_formatted hf hd
    refine ⟨?_, length_leBytes .., hw ▸ wordsOf_mem _⟩
    rw [encodeBytes, decodeBytes_leBytes hw.symm, ← he, hd]
  · rw [decode_of_not_formatted (not_exists.1 h)] at hd
    exact absurd (Decoded.ok.inj hd).symm (not_illegal_of_wf hi _ _)

end Sys2Proof
end

section
/-! ILLEGAL_OP, the levels that a form needs and the engines that the sets are bound to (03 R59 to R62; 04 R78; 13 R253), and words of
the spec decoded. -/
namespace Sys2Proof.Machine
open Sys2Proof

/-! ## ILLEGAL_OP -/

theorem exec_illegalOp (w0 w1 : BitVec 32) (s : State) : exec (.illegalOp w0 w1) s = execIllegalOp w0 w1 s := rfl

/-- ILLEGAL_OP is read from exactly the words that no format of the map fits (03 R59, R60). -/
theorem decode_eq_illegal_iff (x : Nat) : decode x = .ok (.illegalOp (.ofNat 32 x) (.ofNat 32 (x / 2 ^ 32))) ↔ ∀ f, ¬ Formatted x f := by
  refine ⟨fun h f hf => ?_, decode_of_not_formatted⟩
  exact not_illegal_of_wf (of_decode_formatted hf h).1 _ _ rfl

theorem opcode_eq (w0 : BitVec 32) : (w0.extractLsb' 2 8).toNat = w0.toNat / 4 % 256 := by
  rw [BitVec.extractLsb'_toNat, Nat.shiftRight_eq_div_pow]

theorem word_words (w0 w1 : BitVec 32) : word (w0.toNat + 2 ^ 32 * w1.toNat) = w1 ++ w0 := by
  refine BitVec.eq_of_toNat_eq ?_
  rw [word, BitVec.toNat_ofNat, BitVec.toNat_append, ← Nat.shiftLeft_add_eq_or_of_lt w0.isLt, Nat.shiftLeft_eq]
  omega

theorem illegalSub_eq (op : Nat) : (if op = 0 ∨ op = 255 then 2 else if (opFormat op).isSome then 1 else 0)
    = if op = 0x00 ∨ op = 0xFF then 2 else if opFormat op = none then 0 else 1 := by
  cases opFormat op <;> rfl

/-- Settles O8: the trap by what ILLEGAL_OP's meaning computes from its words, the decoder by the words that a format fits. -/
theorem illegalWordsTrap : Obligations.IllegalWordsTrap := by
  unfold Obligations.IllegalWordsTrap
  intro w0 w1 x s op
  refine ⟨?_, ?_⟩
  · have h : exec (.illegalOp w0 w1) s =
        .next (s.trap 0x01 (if op = 0x00 ∨ op = 0xFF then 2 else if opFormat op = none then 0 else 1) (w1 ++ w0)) := by
      rw [exec_illegalOp, execIllegalOp, ← opcode_eq, illegalSub_eq, word_words]
    exact ⟨_, h, traps_trap ..⟩
  · rw [decode_eq_illegal_iff]
    simp only [Formatted, not_and, ne_eq]

/-! ## The checks of the frame -/

/-- The frame of an instruction that writes one register is the frame of 03 R61. -/
theorem writes_eq_issue {i : Instr} {len : Nat} {s : State} {d : Reg} {x : State → Word} :
    ∃ body, writes i len s d x = issue i s body := ⟨_, rfl⟩

/-- Every instruction of the opcode map stands in the frame of 03 R61. -/
theorem exec_eq_issue {i : Instr} (h : i.isEvent = false) (s : State) : ∃ body, exec i s = issue i s body := by
  cases i with dsimp only [exec]
  | add | addi | sub | mul | and | andi | or | ori | xor | xori | andn | shl | shli | shr | shri | rot | clz | ctz
  | popc | min | max | cmp | cmpi | sel | ext | ins | bswap | adds | subs | madd | li | lea | localq | abs | sext
  | zext | phase | mbx | tstat | tself | srd | kpop | kfirst => exact writes_eq_issue
  | div | rem | gaddr | nop | br | call | jr | callr | loop | loopi | lbrk | sleep | wdog | yield | halt => exact ⟨_, rfl⟩
  | ld | st | ldm | stm | ldf | lde | stf | stff | tagq | tagset | amo | cas | fence | racem | dld | dst | damo => exact ⟨_, rfl⟩
  | wqpop | wqpush | wait | semv | semw | send | recv | rarm | mbxw | rqpush | rqpop => exact ⟨_, rfl⟩
  | tstart | tstop | treap => exact ⟨_, rfl⟩
  | handle | endh | perform | vperform | resume | resumec | discard | hexit | tokq => exact ⟨_, rfl⟩
  | swr | svc | hvc | tret | tkill | pair => exact ⟨_, rfl⟩
  | vadd | vsub | vmul | vfma | vdiv | vsqrt | vmin | vmax | vabs | vneg | vand | vor | vxor | vshl | vshr | vcmp | vsel | vcvt
  | vquant | vdeq | vred | vscan | vbcast | vmovg | vshuf | vslide | viota | vtlu | vtcfg | vld | vst | vgath | vscat | kand
  | kor | kxor | knot | kset | vpack | vunpk | vclass | kmovg => exact ⟨_, rfl⟩
  | mcfg | mldb | mswap | mmul | mzero | mout | mstat | mred => exact ⟨_, rfl⟩
  | cpy | cpyw | cpyq | cpyx | tlbi | xlat => exact ⟨_, rfl⟩
  | _ => exact nomatch h

/-- An instruction of the opcode map traps where a check of its frame fails. -/
theorem trapsOn_of_check {i : Instr} {s : State} {c sub : Nat} {v : Word} (hi : i.isEvent = false)
    (h : s.issueFault i = some (c, sub, v)) : TrapsOn i c sub v s :=
  let ⟨_, hx⟩ := exec_eq_issue hi s
  trapsOn_of_issueFault hx h

/-! ## Engine binding -/

/-- The machine's own steps and the events belong to no engine's set. -/
theorem isEvent_of_unitOf {i : Instr} (h : unitOf i ≠ .scalar) : i.isEvent = false := by
  cases i with
  | vperform | vadd | vsub | vmul | vfma | vdiv | vsqrt | vmin | vmax | vabs | vneg | vand | vor | vxor | vshl | vshr | vcmp
  | vsel | vcvt | vquant | vdeq | vred | vscan | vbcast | vmovg | vshuf | vslide | viota | vtlu | vtcfg | vld | vst | vgath
  | vscat | kand | kor | kxor | knot | kpop | kset | kfirst | vpack | vunpk | vclass | kmovg => rfl
  | mcfg | mldb | mswap | mmul | mzero | mout | mstat | mred => rfl
  | dld | dst | damo | cpy | cpyw | cpyq | cpyx | tlbi | xlat => rfl
  | _ => exact absurd rfl h

/-- Check 7 fails after the late fields' checks and privilege. -/
theorem issueFault_of_engine {i : Instr} {s : State} (hl : s.lateField i = none) (hp : s.privFault i = none)
    (he : engineAllows (s.slotAt s.cur).engine (unitOf i) = false) : s.issueFault i = some (0x06, 0, words01 i) := by
  simp only [State.issueFault, hl, hp, he, Bool.not_false, ↓reduceIte]

/-- Where its slot's engine may issue an instruction, no fault is BINDING. -/
theorem issueFault_ne_binding {i : Instr} {s : State} (he : engineAllows (s.slotAt s.cur).engine (unitOf i) = true)
    {c : Nat × Nat × Word} (h : s.issueFault i = some c) : c.1 ≠ 0x06 := by
  unfold State.issueFault at h
  rw [he] at h
  split at h
  · cases h
    exact (by decide : 0x02 ≠ 0x06)
  · split at h
    · cases h
      exact (by decide : 0x05 ≠ 0x06)
    · split_ifs at h
      · contradiction
      · cases h
        exact (by decide : 0x07 ≠ 0x06)

/-- Settles O40: every set but the scalar one stands in the frame, whose check 7 compares its engine with the slot's. -/
theorem engineSetsBindTheirSlots : Obligations.EngineSetsBindTheirSlots := by
  unfold Obligations.EngineSetsBindTheirSlots
  intro i s
  refine ⟨fun hu he hl hp => ?_, fun hu c => issueFault_ne_binding (by rw [hu]; rfl)⟩
  refine trapsOn_of_check (isEvent_of_unitOf hu) (issueFault_of_engine hl hp ?_)
  simp only [engineAllows, hu, Ne.symm he, decide_false, Bool.or_self]

/-! ## Privilege -/

/-- Where check 6 fails the instruction traps with PRIV. -/
theorem trapsOn_of_privFault {i : Instr} {s : State} {sub : Nat} {v : Word} (hi : i.isEvent = false) (hl : s.lateField i = none)
    (hp : s.privFault i = some (sub, v)) : TrapsOn i 0x05 sub v s :=
  trapsOn_of_check hi (issueFault_of_privFault hl hp)

section
variable {s : State} {ea : Word} (h8 : bits ea 63 60 = 8) (hl : s.level s.cur = 0)
include h8 hl

/-- A physical address is closed to user level, whatever the access (07 R139). -/
theorem resolve_of_user (k : MemKind) (n al : Nat) : s.resolve k .glob ea n al = .error (0x05, 3) := by
  rw [State.resolve]
  simp only [decide_true, ↓reduceIte, globalLoc_of_user h8 hl]
  rfl

theorem memory_of_user (k : MemKind) (op : AccessOp) (bytes count : Nat) (reg : Reg) (data : List Word) :
    s.memory k .glob ea op bytes count reg data = s.trap 0x05 3 ea := by
  rw [State.memory, resolve_of_user h8 hl]

theorem countedStore_of_user (w : Width) (d : Reg) : s.countedStore w d ea = s.trap 0x05 3 ea := by
  rw [State.countedStore, resolve_of_user h8 hl]

end

section
variable (w : Width) (b : Bool) (o : Ord) (sp : SP) (d : Reg) (m : Addr) (s : State)

theorem exec_ld : exec (.ld w b o sp d m) s =
    issue (.ld w b o sp d m) s fun s => s.memory .plain sp (s.effAddr m) (.load b) (w.bits / 8) 1 d [] := rfl
theorem exec_st : exec (.st w o sp d m) s = issue (.st w o sp d m) s fun s =>
    if o = .counted then s.countedStore w d (s.effAddr m)
    else s.memory .plain sp (s.effAddr m) .store (w.bits / 8) 1 d (s.sources d 1) := rfl
theorem exec_ldm : exec (.ldm w b o sp d m) s =
    issue (.ldm w b o sp d m) s fun s => s.memory .plain sp (s.effAddr m) (.load b) (w.bits / 8) 4 d [] := rfl
theorem exec_stm : exec (.stm w o sp d m) s =
    issue (.stm w o sp d m) s fun s => s.memory .plain sp (s.effAddr m) .store (w.bits / 8) 4 d (s.sources d 4) := rfl

variable {m s} (h8 : bits (s.effAddr m) 63 60 = 8) (hl : s.level s.cur = 0)
include h8 hl

/-- The frame lets a GLOBAL load or store through, and Resolve refuses the physical address (13 R253). -/
theorem trapsOn_physical : TrapsOn (.ld w b o .glob d m) 0x05 3 (s.effAddr m) s ∧ TrapsOn (.st w o .glob d m) 0x05 3 (s.effAddr m) s
    ∧ TrapsOn (.ldm w b o .glob d m) 0x05 3 (s.effAddr m) s ∧ TrapsOn (.stm w o .glob d m) 0x05 3 (s.effAddr m) s := by
  have passes {i : Instr} (hu : unitOf i = .scalar) (hf : s.lateField i = none) (hp : s.privFault i = none)
      (hr : s.reveals i = false) : s.issueFault i = none :=
    issueFault_eq_none hf hp (by rw [hu]; rfl) (.inl hr)
  refine ⟨?_, ?_, ?_, ?_⟩
  · exact trapsOn_of_body (exec_ld ..) (passes rfl rfl rfl rfl) (memory_of_user h8 hl ..)
  · refine trapsOn_of_body (exec_st ..) (passes rfl rfl rfl rfl) ?_
    split
    · exact countedStore_of_user h8 hl ..
    · exact memory_of_user h8 hl ..
  · exact trapsOn_of_body (exec_ldm ..) (passes rfl rfl rfl rfl) (memory_of_user h8 hl ..)
  · exact trapsOn_of_body (exec_stm ..) (passes rfl rfl rfl rfl) (memory_of_user h8 hl ..)

end

/-- Settles O39: check 6 of the frame for every form but the physical addresses, which Resolve refuses. -/
theorem formsAboveTheLevelTrapWithPriv : Obligations.FormsAboveTheLevelTrapWithPriv := by
  unfold Obligations.FormsAboveTheLevelTrapWithPriv
  intro b w o op n f e r g sp d a c x m off imm s k privileged ofSlotZero ofSpace ofSpaceAB
  refine ⟨fun hl => ?level, fun hk => ?slotZero, fun ha => ⟨fun h => ?srd, fun h => ?swr⟩, fun hl => ?space⟩
  case level =>
    have hl1 : s.level s.cur ≠ 1 := by rw [hl]; decide
    refine ⟨?_, ?_, ?_, ?_, ?_, ?_⟩
    · exact trapsOn_of_privFault rfl rfl (if_pos hl1)
    · exact trapsOn_of_privFault rfl rfl (if_pos hl)
    · exact trapsOn_of_privFault rfl rfl (if_pos hl)
    · exact trapsOn_of_privFault rfl rfl (if_pos hl)
    · exact trapsOn_of_privFault rfl rfl (if_pos hl)
    · exact trapsOn_of_privFault rfl rfl (if_pos (by rw [hl]; rfl))
  case slotZero =>
    refine ⟨?_, ?_, ?_, ?_, ?_⟩
    all_goals exact trapsOn_of_privFault rfl rfl (if_pos hk)
  case srd => exact trapsOn_of_privFault rfl (if_pos ha) (if_pos h)
  case swr => exact trapsOn_of_privFault rfl (if_pos ha) (if_pos (lt_max_iff.1 h))
  case space =>
    refine ⟨?_, ?_, ?_, ?_, ?_, ?_, ?_, ?_, ?_, ?_, ?_, ?_, ?_, fun h8 => trapsOn_physical w b o d h8 hl⟩
    all_goals exact trapsOn_of_privFault rfl rfl (if_pos hl)

/-- Settles O34: each word's bytes decoded. -/
theorem workedWordsDecode : Obligations.WorkedWordsDecode := by
  unfold Obligations.WorkedWordsDecode
  exact ⟨rfl, rfl, rfl, rfl, rfl, rfl, rfl, rfl, rfl⟩

end Sys2Proof.Machine
end

section
/-! Operands of a width as bit vectors, and what the scalar instructions of 05 R103 to R114 write. -/
namespace Sys2Proof.Machine
open Sys2Proof

/-! ## Operands of a width -/

theorem bits_le (w : Width) : w.bits ≤ 64 := by cases w <;> decide

theorem uval_eq (w : Width) (x : Word) : uval w x = (x.setWidth w.bits).toNat := (BitVec.toNat_setWidth ..).symm

theorem sval_eq (w : Width) (x : Word) : sval w x = (x.setWidth w.bits).toInt := by
  rw [sval, uval_eq, BitVec.toInt]
  split <;> push_cast <;> rfl

/-- X(x) is the low wb bits, whichever way they are read (05 R100). -/
theorem xval_emod (sg : Bool) (w : Width) (x : Word) : xval sg w x % 2 ^ w.bits = (uval w x : Int) % 2 ^ w.bits := by
  cases sg
  · rfl
  · rw [xval, if_pos rfl, sval]
    split
    · rfl
    · exact Int.sub_emod_right ..

/-- A number's low b bits, sign-extended to 64. -/
theorem sextBits_eq {b : Nat} (h : b ≤ 64) (x : Nat) : sextBits b x = (BitVec.ofNat b x).signExtend 64 := by
  have hx : x % 2 ^ b < 2 ^ b := Nat.mod_lt _ (Nat.two_pow_pos b)
  have hb : 2 ^ b ≤ 2 ^ 64 := Nat.pow_le_pow_right (by decide) h
  rw [BitVec.signExtend, BitVec.toInt, BitVec.toNat_ofNat, sextBits]
  split
  · rw [BitVec.ofInt_natCast, word]
  · refine BitVec.eq_of_toNat_eq ?_
    rw [word, BitVec.toNat_ofNat, BitVec.toNat_ofInt]
    generalize x % 2 ^ b = u at *
    generalize 2 ^ b = m at *
    omega

/-- Put writes the low wb bits of a number, sign-extended (05 R100). -/
theorem putWord_eq (w : Width) (v : Int) : putWord w v = (BitVec.ofInt w.bits v).signExtend 64 := by
  rw [putWord, sextBits_eq (bits_le w)]
  congr 1
  refine BitVec.eq_of_toNat_eq ?_
  rw [BitVec.toNat_ofNat, BitVec.toNat_ofInt, Nat.cast_pow, Nat.cast_ofNat]
  refine Nat.mod_eq_of_lt ?_
  rw [Int.toNat_lt (Int.emod_nonneg _ (by positivity))]
  push_cast
  exact Int.emod_lt_of_pos _ (by positivity)

theorem putWord_congr {w : Width} {v u : Int} (h : v % 2 ^ w.bits = u % 2 ^ w.bits) : putWord w v = putWord w u := by
  rw [putWord, putWord, h]

theorem putWord_uval (w : Width) (x : Word) : putWord w (uval w x) = (x.setWidth w.bits).signExtend 64 := by
  rw [putWord_eq, BitVec.ofInt_natCast, uval_eq, BitVec.ofNat_toNat, BitVec.setWidth_eq]

theorem getLsbD_putWord {w : Width} (v : Int) {k : Nat} (h : w.bits ≤ k) (hk : k < 64) :
    (putWord w v).getLsbD k = (putWord w v).getLsbD (w.bits - 1) := by
  have hb : 0 < w.bits := by cases w <;> decide
  rw [putWord_eq, BitVec.getLsbD_signExtend, BitVec.getLsbD_signExtend, if_neg (by omega), if_pos (by omega), BitVec.msb_eq_getLsbD_last]
  simp only [hk, decide_true, Bool.true_and]
  rw [decide_eq_true (by omega), Bool.true_and]

/-! ## Counts of bits (05 R108) -/

theorem clzNat_spec (b x : Nat) : clzNat b x ≤ b ∧ (∀ k, b - clzNat b x ≤ k → k < b → x.testBit k = false)
    ∧ (clzNat b x < b → x.testBit (b - clzNat b x - 1) = true) := by
  induction b with
  | zero => exact ⟨le_rfl, fun k _ h => absurd h (Nat.not_lt_zero k), fun h => absurd h (Nat.not_lt_zero _)⟩
  | succ b ih =>
    obtain ⟨hle, hzero, hone⟩ := ih
    rw [clzNat]
    split
    · next hb => exact ⟨Nat.zero_le _, fun k h hk => absurd h (Nat.not_le.2 hk), fun _ => hb⟩
    · next hb =>
      rw [Nat.add_sub_add_right, Nat.add_le_add_iff_right, Nat.add_lt_add_iff_right]
      refine ⟨hle, fun k h hk => ?_, hone⟩
      rcases Nat.lt_succ_iff_lt_or_eq.1 hk with hk | rfl
      · exact hzero k h hk
      · exact Bool.eq_false_iff.2 hb

theorem ctzFrom_spec (i b x : Nat) : ctzFrom i b x ≤ b ∧ (∀ k < ctzFrom i b x, x.testBit (i + k) = false)
    ∧ (ctzFrom i b x < b → x.testBit (i + ctzFrom i b x) = true) := by
  induction b generalizing i with
  | zero => exact ⟨le_rfl, fun k h => absurd h (Nat.not_lt_zero k), fun h => absurd h (Nat.not_lt_zero _)⟩
  | succ b ih =>
    obtain ⟨hle, hzero, hone⟩ := ih (i + 1)
    rw [ctzFrom]
    split
    · next hb => exact ⟨Nat.zero_le _, fun k h => absurd h (Nat.not_lt_zero k), fun _ => hb⟩
    · next hb =>
      refine ⟨Nat.succ_le_succ hle, fun k hk => ?_, fun h => ?_⟩
      · cases k with
        | zero => exact Bool.eq_false_iff.2 hb
        | succ k =>
          rw [← Nat.add_assoc, Nat.add_right_comm]
          exact hzero k (Nat.lt_of_succ_lt_succ hk)
      · rw [← Nat.add_assoc, Nat.add_right_comm]
        exact hone (Nat.lt_of_succ_lt_succ h)

theorem popNat_eq (b x : Nat) : popNat b x = (List.range b).countP fun k => x.testBit k := by
  induction b with
  | zero => rfl
  | succ b ih => rw [popNat, ih, List.range_succ, List.countP_append, List.countP_singleton, Nat.add_comm]

/-! ## Conditions (03 R53) -/

section
variable (w : Width) (x y : Word)

theorem condHolds_eq_iff : condHolds .eq w x y = true ↔ x.setWidth w.bits = y.setWidth w.bits := by
  rw [condHolds, decide_eq_true_iff, uval_eq, uval_eq, BitVec.toNat_inj]
theorem condHolds_ne_iff : condHolds .ne w x y = true ↔ x.setWidth w.bits ≠ y.setWidth w.bits := by
  rw [condHolds, decide_eq_true_iff, uval_eq, uval_eq, Ne, BitVec.toNat_inj]
theorem condHolds_lt_iff : condHolds .lt w x y = true ↔ (x.setWidth w.bits).slt (y.setWidth w.bits) := by
  rw [condHolds, sval_eq, sval_eq]
  rfl
theorem condHolds_ge_iff : condHolds .ge w x y = true ↔ (y.setWidth w.bits).sle (x.setWidth w.bits) := by
  rw [condHolds, sval_eq, sval_eq]
  rfl
theorem condHolds_ltu_iff : condHolds .ltu w x y = true ↔ x.setWidth w.bits < y.setWidth w.bits := by
  rw [condHolds, decide_eq_true_iff, uval_eq, uval_eq, BitVec.lt_def]
theorem condHolds_geu_iff : condHolds .geu w x y = true ↔ y.setWidth w.bits ≤ x.setWidth w.bits := by
  rw [condHolds, decide_eq_true_iff, uval_eq, uval_eq, BitVec.le_def]

end

/-! ## Least and greatest (05 R103) -/

theorem putWord_least (sg : Bool) (w : Width) (x y : Word) :
    putWord w (if xval sg w x ≤ xval sg w y then uval w x else uval w y) = putWord w (min (xval sg w x) (xval sg w y)) := by
  refine putWord_congr ?_
  rw [min_def]
  split <;> exact (xval_emod ..).symm

theorem putWord_greatest (sg : Bool) (w : Width) (x y : Word) :
    putWord w (if xval sg w y ≤ xval sg w x then uval w x else uval w y) = putWord w (max (xval sg w x) (xval sg w y)) := by
  refine putWord_congr ?_
  rw [max_comm, max_def]
  split <;> exact (xval_emod ..).symm

/-! ## The instructions -/

/-- No check of 03 R61 fails an instruction of the scalar set that names no system register, no level and no timing. -/
theorem gives_scalar {i : Instr} {s : State} {len : Nat} {d : Reg} {x : State → Word} (hx : exec i s = writes i len s d x)
    (hu : unitOf i = .scalar) (hl : s.lateField i = none) (hp : s.privFault i = none) (hr : s.reveals i = false) :
    Gives i len d (x s) s :=
  gives_of_writes hx (issueFault_eq_none hl hp (by rw [hu]; rfl) (.inl hr))

section
variable (w : Width) (sg : Bool) (d a b c : Reg) (k : Cond) (imm : BitVec 32) (s : State)

theorem gives_clz : Gives (.clz w d a) 8 d (word (clzNat w.bits (s.g a).toNat)) s :=
  gives_scalar (x := fun s => word (clzNat w.bits (s.g a).toNat)) rfl rfl rfl rfl rfl
theorem gives_ctz : Gives (.ctz w d a) 8 d (word (ctzFrom 0 w.bits (s.g a).toNat)) s :=
  gives_scalar (x := fun s => word (ctzFrom 0 w.bits (s.g a).toNat)) rfl rfl rfl rfl rfl
theorem gives_popc : Gives (.popc w d a) 8 d (word (popNat w.bits (s.g a).toNat)) s :=
  gives_scalar (x := fun s => word (popNat w.bits (s.g a).toNat)) rfl rfl rfl rfl rfl
theorem gives_cmp : Gives (.cmp w k d a b) 8 d (if condHolds k w (s.g a) (s.g b) then 1 else 0) s :=
  gives_scalar (x := fun s => if condHolds k w (s.g a) (s.g b) then 1 else 0) rfl rfl rfl rfl rfl
theorem gives_cmpi : Gives (.cmpi w k d a imm) 8 d (if condHolds k w (s.g a) (imm.signExtend 64) then 1 else 0) s :=
  gives_scalar (x := fun s => if condHolds k w (s.g a) (imm.signExtend 64) then 1 else 0) rfl rfl rfl rfl rfl
theorem gives_min : Gives (.min w sg d a b) 8 d (putWord w (min (xval sg w (s.g a)) (xval sg w (s.g b)))) s :=
  putWord_least sg w (s.g a) (s.g b) ▸ gives_scalar
    (x := fun s => putWord w (if xval sg w (s.g a) ≤ xval sg w (s.g b) then uval w (s.g a) else uval w (s.g b))) rfl rfl rfl rfl rfl
theorem gives_max : Gives (.max w sg d a b) 8 d (putWord w (max (xval sg w (s.g a)) (xval sg w (s.g b)))) s :=
  putWord_greatest sg w (s.g a) (s.g b) ▸ gives_scalar
    (x := fun s => putWord w (if xval sg w (s.g b) ≤ xval sg w (s.g a) then uval w (s.g a) else uval w (s.g b))) rfl rfl rfl rfl rfl
theorem gives_sel : Gives (.sel w d a b c) 8 d (putWord w (if s.g c ≠ 0 then uval w (s.g a) else uval w (s.g b))) s :=
  gives_scalar (x := fun s => putWord w (if s.g c ≠ 0 then uval w (s.g a) else uval w (s.g b))) rfl rfl rfl rfl rfl

end

/-- Settles O5: the counts by induction on the bits counted, the conditions and choices by the low bits as bit vectors. -/
theorem countsComparesAndSelects : Obligations.CountsComparesAndSelects := by
  unfold Obligations.CountsComparesAndSelects
  intro w sg d a b c imm s
  obtain ⟨clz_le, clz_zero, clz_one⟩ := clzNat_spec w.bits (s.g a).toNat
  obtain ⟨ctz_le, ctz_zero, ctz_one⟩ := ctzFrom_spec 0 w.bits (s.g a).toNat
  simp only [Nat.zero_add] at ctz_zero ctz_one
  refine ⟨⟨_, clz_le, clz_zero, clz_one, gives_clz ..⟩, ⟨_, ctz_le, ctz_zero, ctz_one, gives_ctz ..⟩,
    popNat_eq .. ▸ gives_popc .., fun k => gives_cmp .., fun k => gives_cmpi .., fun x y => ⟨condHolds_eq_iff .., condHolds_ne_iff ..,
      condHolds_lt_iff .., condHolds_ge_iff .., condHolds_ltu_iff .., condHolds_geu_iff ..⟩, gives_min .., gives_max .., gives_sel ..⟩

end Sys2Proof.Machine
end

section
/-! Extensions, fields and byte order of a word by its bits, and what the instructions of 05 R108 to R114 write. -/
namespace Sys2Proof.Machine
open Sys2Proof

/-! ## Bytes by their bits -/

theorem testBit_leNat (l : List Byte) (i : Nat) {j : Nat} (hj : j < 8) : (leNat l).testBit (8 * i + j) = (l.getD i 0).getLsbD j := by
  induction l generalizing i with
  | nil => simp [leNat]
  | cons b r ih =>
    rw [leNat, Nat.add_comm, Nat.testBit_two_pow_mul_add (i := 8) _ b.isLt]
    cases i with
    | zero => rw [if_pos (by omega), Nat.mul_zero, Nat.zero_add, List.getD_cons_zero, BitVec.getLsbD]
    | succ i => rw [if_neg (by omega), List.getD_cons_succ, ← ih, Nat.mul_succ, Nat.add_right_comm, Nat.add_sub_cancel]

theorem getElem_leBytes (n x i : Nat) (h : i < (leBytes n x).length) : (leBytes n x)[i] = BitVec.ofNat 8 (x / 256 ^ i) := by
  induction n generalizing x i with
  | zero => exact absurd h (Nat.not_lt_zero i)
  | succ n ih =>
    cases i with
    | zero => simp [leBytes]
    | succ i => simp [leBytes, ih, Nat.div_div_eq_div_mul, Nat.pow_succ']

/-- Byte i of the reversed bytes is byte n - 1 - i. -/
theorem testBit_bswapNat {w : Width} (x : Word) {i j : Nat} (hi : i < w.bits / 8) (hj : j < 8) :
    (bswapNat w x).testBit (8 * i + j) = x.getLsbD (w.bits - 8 - 8 * i + j) := by
  have hw : w.bits % 8 = 0 := by cases w <;> rfl
  rw [bswapNat, testBit_leNat _ _ hj, List.getD_eq_getElem _ _ (by simpa using hi), List.getElem_reverse, getElem_leBytes,
    BitVec.getLsbD_ofNat, decide_eq_true hj, Bool.true_and, length_leBytes, show (256 : Nat) = 2 ^ 8 from rfl, ← Nat.pow_mul,
    Nat.testBit_div_two_pow, BitVec.getLsbD]
  congr 1
  omega

theorem extractLsb'_putWord_bswapNat {w : Width} (x : Word) {i : Nat} (hi : i < w.bits / 8) :
    (putWord w (bswapNat w x)).extractLsb' (8 * i) 8 = x.extractLsb' (w.bits - 8 - 8 * i) 8 := by
  have hw : w.bits ≤ 64 := bits_le w
  refine BitVec.eq_of_getLsbD_eq fun j hj => ?_
  rw [BitVec.getLsbD_extractLsb', BitVec.getLsbD_extractLsb', putWord_eq, BitVec.getLsbD_signExtend, BitVec.ofInt_natCast,
    BitVec.getLsbD_ofNat, testBit_bswapNat x hi hj, if_pos (by omega), decide_eq_true (show 8 * i + j < 64 by omega),
    decide_eq_true (show 8 * i + j < w.bits by omega), Bool.true_and, Bool.true_and]

/-! ## Fields of a word (05 R110) -/

theorem getLsbD_setBits {x : Word} {lo len n k : Nat} (hlen : 1 ≤ len) (hk : k < 64) :
    (setBits x (lo + len - 1) lo n).getLsbD k = if lo ≤ k ∧ k < lo + len then n.testBit (k - lo) else x.getLsbD k := by
  have hlow : x.toNat % 2 ^ lo < 2 ^ lo := Nat.mod_lt _ (Nat.two_pow_pos lo)
  have hfield : 2 ^ lo * (n % 2 ^ len) + x.toNat % 2 ^ lo < 2 ^ (lo + len) := by
    rw [Nat.pow_add]
    rw [Nat.mul_comm (2 ^ lo) (2 ^ len)]
    exact Nat.mul_add_lt_mul_of_lt_of_lt (Nat.mod_lt _ (Nat.two_pow_pos len)) hlow
  rw [setBits, word, BitVec.getLsbD_ofNat, decide_eq_true hk, Bool.true_and, show lo + len - 1 + 1 = lo + len by omega,
    show lo + len - lo = len by omega, Nat.add_comm, Nat.add_comm (x.toNat % 2 ^ lo), Nat.testBit_two_pow_mul_add _ hfield,
    Nat.testBit_two_pow_mul_add _ hlow, Nat.testBit_mod_two_pow, Nat.testBit_mod_two_pow, Nat.testBit_div_two_pow]
  by_cases h1 : k < lo + len
  · by_cases h2 : k < lo
    · rw [if_pos h1, if_pos h2, if_neg (by omega), decide_eq_true h2, Bool.true_and, BitVec.getLsbD]
    · rw [if_pos h1, if_neg h2, if_pos (by omega), decide_eq_true (by omega), Bool.true_and]
  · rw [if_neg h1, if_neg (by omega), BitVec.getLsbD, show k - (lo + len) + (lo + len) = k by omega]

theorem toNat_extractLsb'_eq_div (x : Word) (pos len : Nat) : (x.extractLsb' pos len).toNat = x.toNat / 2 ^ pos % 2 ^ len := by
  rw [BitVec.extractLsb'_toNat, Nat.shiftRight_eq_div_pow]

theorem extValue_false (x : Word) (pos len : Nat) : extValue false x pos len = (x.extractLsb' pos len).setWidth 64 := by
  rw [extValue, if_neg Bool.false_ne_true, ← toNat_extractLsb'_eq_div, word, BitVec.ofNat_toNat]

theorem extValue_true (x : Word) {pos len : Nat} (h : len ≤ 64) : extValue true x pos len = (x.extractLsb' pos len).signExtend 64 := by
  rw [extValue, if_pos rfl, sextBits_eq h, ← toNat_extractLsb'_eq_div, BitVec.ofNat_toNat, BitVec.setWidth_eq]

/-! ## The instructions -/

section
variable (w : Width) (d a : Reg) (m : Addr) (imm : BitVec 64) (pos : Fin 64) (len : Fin 65) (sg : Bool) (s : State)

theorem gives_abs : Gives (.abs w d a) 8 d (putWord w (sval w (s.g a)).natAbs) s := by
  have habs : ((sval w (s.g a)).natAbs : Int) = if sval w (s.g a) < 0 then -sval w (s.g a) else sval w (s.g a) := by
    split <;> omega
  rw [habs]
  exact gives_scalar (x := fun s => putWord w (if sval w (s.g a) < 0 then -sval w (s.g a) else sval w (s.g a))) rfl rfl rfl rfl rfl
theorem gives_sext : Gives (.sext w d a) 8 d (((s.g a).setWidth w.bits).signExtend 64) s :=
  putWord_uval w (s.g a) ▸ gives_scalar (x := fun s => putWord w (uval w (s.g a))) rfl rfl rfl rfl rfl
theorem gives_zext : Gives (.zext w d a) 8 d (((s.g a).setWidth w.bits).setWidth 64) s := by
  rw [← BitVec.ofNat_toNat, ← uval_eq]
  exact gives_scalar (x := fun s => word (uval w (s.g a))) rfl rfl rfl rfl rfl
theorem gives_bswap : Gives (.bswap w d a) 8 d (putWord w (bswapNat w (s.g a))) s :=
  gives_scalar (x := fun s => putWord w (bswapNat w (s.g a))) rfl rfl rfl rfl rfl
theorem gives_li : Gives (.li d imm) 12 d imm s := gives_scalar (x := fun _ => imm) rfl rfl rfl rfl rfl
theorem gives_lea : Gives (.lea d m) 8 d (s.effAddr m) s := gives_scalar (x := fun s => s.effAddr m) rfl rfl rfl rfl rfl
theorem gives_ext : Gives (.ext sg d a pos len) 8 d (extValue sg (s.g a) pos.val len.val) s :=
  gives_scalar (x := fun s => extValue sg (s.g a) pos.val len.val) rfl rfl rfl rfl rfl
theorem gives_ins : Gives (.ins d a pos len) 8 d (insValue (s.g d) (s.g a) pos.val len.val) s :=
  gives_scalar (x := fun s => insValue (s.g d) (s.g a) pos.val len.val) rfl rfl rfl rfl rfl

end

/-- Settles O6: each value by its bits. -/
theorem extensionsFieldsAndConstants : Obligations.ExtensionsFieldsAndConstants := by
  unfold Obligations.ExtensionsFieldsAndConstants
  intro w d a m imm pos len s
  refine ⟨gives_abs .., gives_sext .., gives_zext .., ⟨_, gives_bswap .., fun i hi => extractLsb'_putWord_bswapNat _ hi,
    fun k => getLsbD_putWord _⟩, gives_li .., gives_lea .., fun h1 _ => ⟨?_, ?_, _, gives_ins .., fun k => getLsbD_setBits h1⟩⟩
  · exact extValue_false .. ▸ gives_ext ..
  · exact extValue_true (s.g a) (Nat.lt_succ_iff.1 len.isLt) ▸ gives_ext ..

end Sys2Proof.Machine
end

section
/-! A turn that is free (04 R75): it comes down to the fetch of an instruction and to its issue, and the fetch to the checks of 03 R61. -/
namespace Sys2Proof.Machine
open Sys2Proof

/-! ## A slot of which nothing is asked -/

/-- Slot n is unpaired, and nothing but an instruction can come of its turn: no wait, no snapshot, no cause and no stop stands there. -/
structure Quiet (n : Nat) (s : State) : Prop where
  unpaired : bits (s.img n).paircfg 5 4 = 0
  live : (s.slotAt n).state = .live
  wait : (s.slotAt n).wait = none
  pairDue : (s.slotAt n).pairDue = none
  snap : (s.slotAt n).snap = none
  pending : (s.slotAt n).pending = []
  tickDue : (s.slotAt n).tickDue = false
  resuming : (s.slotAt n).resuming = false
  stopDue : (s.slotAt n).stopDue = false
  issueFrom : (s.slotAt n).issueFrom ≤ s.now n

namespace Quiet
variable {n : Nat} {s : State}

theorem bit_paircfg (h : Quiet n s) {k : Nat} (h4 : 4 ≤ k) (h5 : k ≤ 5) : bit (s.img n).paircfg k = false := by
  have h0 := h.unpaired
  refine bit_eq_of_div_mod ?_
  rw [bits] at h0
  obtain rfl | rfl : k = 4 ∨ k = 5 := by omega
  all_goals (simp only [Bool.toNat_false]; omega)

theorem partner (h : Quiet n s) : s.partner n = none := by
  rw [State.partner]
  simp only [h.bit_paircfg (Nat.le_refl 4) (by decide), h.bit_paircfg (k := 5) (by decide) (Nat.le_refl 5), Bool.or_self,
    Bool.false_eq_true, if_false]

theorem trailerOf (h : Quiet n s) : s.trailerOf n = none := by
  rw [State.trailerOf, h.partner, ite_self]

theorem pairOf (h : Quiet n s) : s.pairOf n = [n] := by rw [State.pairOf, h.partner]

theorem stopAsked (h : Quiet n s) : s.stopAsked n = false := by
  rw [State.stopAsked, h.pairOf, List.any_cons, h.stopDue, List.any_nil, Bool.or_self]

theorem takeStop (h : Quiet n s) : s.takeStop n = s := by
  rw [State.takeStop, h.stopAsked, Bool.false_and, if_neg Bool.false_ne_true]

theorem stopFirst (h : Quiet n s) (k : State → Turn) : s.stopFirst n k = k s := by
  have live : s.isLive n = true := decide_eq_true h.live
  rw [State.stopFirst, h.takeStop, h.stopAsked, live]
  rfl

theorem endSnap (h : Quiet n s) : s.endSnap n = s := by
  rw [State.endSnap]
  simp only [h.snap, h.resuming, h.stopDue, Option.isSome_none, Bool.or_self, Bool.false_eq_true, if_false]

theorem boundaryCause (h : Quiet n s) : s.boundaryCause n = none := by
  rw [State.boundaryCause, h.pending]
  exact ite_self none

/-- Nothing is raised, dropped or made at the boundary of such a slot whose watchdog has not run out. -/
theorem boundaries (h : Quiet n s) (hw : (s.slotAt n).wdDue = false) : s.boundaries n = s := by
  have tick : s.tickBoundary n = s := by rw [State.tickBoundary, h.tickDue, if_neg Bool.false_ne_true]
  have wdog : s.wdogBoundary n = s := by rw [State.wdogBoundary, hw, Bool.false_and, if_neg Bool.false_ne_true]
  have crest : s.crestBoundary n = s := by
    rw [State.crestBoundary]
    simp only [h.pending, List.any_nil, Bool.not_false, Bool.or_true, if_true]
  have pair : s.pairBoundary n = s := by rw [State.pairBoundary, h.pairDue]
  rw [State.boundaries, tick, wdog, crest, pair]

end Quiet

/-! ## The turn counted by the watchdog -/

section
variable {n : Nat} {s t : State} (h : OnlySlot n s t)
include h

theorem OnlySlot.cur : t.cur = s.cur := by rw [h.1]
theorem OnlySlot.mem : t.mem = s.mem := by rw [h.1]
theorem OnlySlot.poison : t.poison = s.poison := by rw [h.1]
theorem OnlySlot.launchAt (l : Nat) : t.launchAt l = s.launchAt l := by rw [h.1]; rfl
theorem OnlySlot.now (m : Nat) : t.now m = s.now m := by rw [h.1]; rfl

end

section
variable (s : State) (n : Nat)

theorem onlySlot_countTurn : OnlySlot n s (s.countTurn n) := by
  unfold State.countTurn
  dsimp only
  split_ifs
  · exact OnlySlot.refl n s
  · exact (onlySlot_setImg s n _).trans (onlySlot_setSlot _ _ _ rfl)
  · exact onlySlot_setImg s n _

/-- Of the slot's record only WDOG's mark may change. -/
theorem countTurn_slotAt : (s.countTurn n).slotAt n = { s.slotAt n with wdDue := ((s.countTurn n).slotAt n).wdDue } := by
  unfold State.countTurn
  dsimp only
  split_ifs
  · rfl
  · rw [State.slotAt_setSlot]
  · rw [slotAt_setImg]

/-- Of the slot's image only the watchdog's count may change. -/
theorem countTurn_img : (s.countTurn n).img n = { s.img n with wdCount := ((s.countTurn n).img n).wdCount } := by
  unfold State.countTurn
  dsimp only
  split_ifs
  · rfl
  · rw [img_setSlot_same _ _ _ (by rw [slotAt_setImg]), img_setImg]
  · rw [img_setImg]

end

/-- The marks of a turn that begins leave a quiet slot quiet. -/
theorem Quiet.of_marks {n : Nat} {s t : State} (h : Quiet n s) {c : BitVec 32} {f : Nat} {b d : Bool}
    (hi : t.img n = { s.img n with wdCount := c })
    (hs : t.slotAt n = { s.slotAt n with turnFrom := f, starting := b, wdDue := d }) (hn : t.now n = s.now n) : Quiet n t := by
  obtain ⟨unpaired, live, wait, pairDue, snap, pending, tickDue, resuming, stopDue, issueFrom⟩ := h
  constructor <;> simp only [hi, hs, hn] <;> assumption

theorem Quiet.countTurn {n : Nat} {s : State} (h : Quiet n s) : Quiet n (s.countTurn n) :=
  h.of_marks (countTurn_img s n) (countTurn_slotAt s n) ((onlySlot_countTurn s n).now n)

/-! ## The step that takes a free turn -/

theorem Quiet.freeTurn {n : Nat} {s : State} (h : Quiet n s) : s.freeTurn n = (s.countTurn n).issueTurn n := by
  have h := h.countTurn
  rw [State.freeTurn, if_neg (Nat.not_lt.2 h.issueFrom), h.endSnap, h.stopFirst, h.boundaryCause]

theorem Quiet.ownTurn {n : Nat} {s : State} (h : Quiet n s) : s.ownTurn n = (s.countTurn n).issueTurn n := by
  rw [State.ownTurn, h.wait, ← h.freeTurn]

/-- The state in which slot n issues at its turn, with `rest` of the schedule left. -/
def State.issuing (s : State) (rest : List Sched) (n : Nat) : State :=
  (({ s with agenda := rest, cur := n } : State).setSlot n { s.slotAt n with turnFrom := s.now n + 16, starting := false }).countTurn n

section
variable {n : Nat} {s : State} (rest : List Sched)

theorem img_openTurn : (s.openTurn n).img n = s.img n :=
  img_setSlot_same s n { s.slotAt n with turnFrom := s.now n + 16, starting := false } rfl

theorem slotAt_openTurn : (s.openTurn n).slotAt n = { s.slotAt n with turnFrom := s.now n + 16, starting := false } :=
  State.slotAt_setSlot ..

theorem FreeTurn.quiet (h : FreeTurn n s) : Quiet n s := by
  obtain ⟨due, unpaired, wait, pairDue, snap, pending, tickDue, -, -, resuming, stopDue, -, issueFrom⟩ := h
  rw [State.turnDue, Bool.and_eq_true, Bool.and_eq_true, Bool.and_eq_true, decide_eq_true_eq] at due
  obtain ⟨⟨⟨live, -⟩, -⟩, -⟩ := due
  constructor <;> assumption

theorem Quiet.openTurn (h : Quiet n s) : Quiet n (s.openTurn n) := h.of_marks img_openTurn slotAt_openTurn rfl

theorem FreeTurn.beginTurn (h : FreeTurn n s) : s.beginTurn n = (s.issuing s.agenda n).issueTurn n := by
  have quiet := h.quiet.openTurn
  obtain ⟨due, -, -, -, -, -, -, wdDue, -⟩ := h
  have noWdog : ((s.openTurn n).slotAt n).wdDue = false := by rw [slotAt_openTurn]; exact wdDue
  rw [State.beginTurn, due]
  simp only [Bool.not_true, Bool.false_eq_true, if_false, quiet.bit_paircfg (Nat.le_refl 4) (by decide), quiet.trailerOf,
    quiet.boundaries noWdog, quiet.ownTurn]
  rfl

theorem step_of_no_poison (h : s.poison = []) : step s = s.advance := by
  have hl : s.hasLines = false := by rw [State.hasLines, h, List.any_nil]
  rw [step, State.advanceLines, hl, if_neg Bool.false_ne_true]

/-- A turn that stands in the schedule is taken. -/
theorem runEntry_turn (there : slotExists n = true) (stays : s.turnExpires n = false) :
    runEntry (.turn n) s = runTurn (s.beginTurn n) := by
  have exist : (Sched.turn n).exists_ = true := there
  rw [runEntry, exist]
  simp only [Sched.inReset, stays, Bool.not_true, Bool.and_false, Bool.false_eq_true, if_false]

theorem Quiet.turnExpires (h : Quiet n s) : s.turnExpires n = false := by
  rw [State.turnExpires, State.expiredWait, h.wait]
  rfl

/-- The step that takes a free turn of slot n is the issue of that turn. -/
theorem FreeTurn.step_eq {rest : List Sched} (h : FreeTurn n s) (hq : s.quotaStop = none) (hp : s.poison = [])
    (hs : (s.nextEntry.exists_ = true ∧ s.turnFirst s.nextEntry = some n ∧ rest = s.agenda)
      ∨ (s.agenda = .turn n :: rest ∧ slotExists n = true ∧ s.turnFirst (.turn n) = none)) :
    step s = runTurn ((s.issuing rest n).issueTurn n) := by
  rw [step_of_no_poison hp, State.advance, hq]
  rcases hs with ⟨there, first, rfl⟩ | ⟨agenda, there, first⟩
  · simp only [there, first, if_true]
    rw [h.beginTurn]
  · have next : s.nextEntry = .turn n := by rw [State.nextEntry, agenda]; rfl
    have left : s.agenda.drop 1 = rest := by rw [agenda]; rfl
    have free : FreeTurn n { s with agenda := rest } := h
    simp only [next, first, State.matrixFirst, ite_self, left]
    rw [runEntry_turn there free.quiet.turnExpires, free.beginTurn]
    rfl

end

/-! ## The fetch (03 R61) -/

section
variable {n : Nat} {s : State}

theorem checkLines_of_no_poison (hp : s.poison = []) (f : Fetched) : s.checkLines n f = f := by
  have clean (i : Instr) : s.linePoison n i = none := by
    unfold State.linePoison
    exact if_pos hp
  cases f with
  | instr i => simp only [State.checkLines, clean]
  | trap c sub v => rfl
  | poison sub a => rfl

theorem blockPoison_of_no_poison (hp : s.poison = []) (pc : Word) : s.blockPoison n pc = none := by
  rw [State.blockPoison, State.poisonIn, hp]
  rfl

theorem fetch_of_misaligned (h : (s.pcOf n).toNat % 4 ≠ 0) : s.fetch n = .trap 0x08 0x11 (s.pcOf n) := by
  rw [State.fetch]
  exact if_pos h

variable (ha : (s.pcOf n).toNat % 4 = 0)
include ha

theorem fetch_of_codelim_le (h : s.codelim n ≤ (s.pcOf n).toNat) : s.fetch n = .trap 0x04 0 (s.pcOf n) := by
  rw [State.fetch]
  simp only [ha, h, ne_eq, not_true_eq_false, if_false, if_true]

variable (hl : (s.pcOf n).toNat < s.codelim n) (hp : s.poison = [])
include hl hp

theorem fetch_of_placeFault {c sub : Nat} {v : Word}
    (h : placeFault (s.pcOf n) (s.codelim n) (s.lengthAt n (s.pcOf n)) = some (c, sub, v)) : s.fetch n = .trap c sub v := by
  rw [State.fetch]
  simp only [ha, Nat.not_le.2 hl, blockPoison_of_no_poison hp, h, ne_eq, not_true_eq_false, if_false]

theorem fetch_of_placed (h : placeFault (s.pcOf n) (s.codelim n) (s.lengthAt n (s.pcOf n)) = none) :
    s.fetch n = readWords (isOrdinary n) (loadNat s.mem (s.pcKey n (s.pcOf n)) (s.lengthAt n (s.pcOf n))) := by
  rw [State.fetch]
  simp only [ha, Nat.not_le.2 hl, blockPoison_of_no_poison hp, h, checkLines_of_no_poison hp, ne_eq, not_true_eq_false, if_false]

theorem fetch_of_field {b : Nat} (h : placeFault (s.pcOf n) (s.codelim n) (s.lengthAt n (s.pcOf n)) = none)
    (hd : decode (loadNat s.mem (s.pcKey n (s.pcOf n)) (s.lengthAt n (s.pcOf n))) = .field b) :
    s.fetch n = .trap 0x02 (fieldBit (isOrdinary n) (loadNat s.mem (s.pcKey n (s.pcOf n)) (s.lengthAt n (s.pcOf n))) b)
      (word (loadNat s.mem (s.pcKey n (s.pcOf n)) (s.lengthAt n (s.pcOf n)) / 2 ^ (64 * (b / 64)) % 2 ^ 64)) := by
  rw [fetch_of_placed ha hl hp h, readWords, hd]

end

section
variable {pc : Word} {codelim len : Nat}

theorem placeFault_of_codelim_lt (h : codelim < pc.toNat + len) : placeFault pc codelim len = some (0x04, 1, word codelim) := if_pos h

variable (hc : pc.toNat + len ≤ codelim)
include hc

theorem placeFault_of_split (h : 32 < pc.toNat % 32 + len) : placeFault pc codelim len = some (0x03, 0, pc) :=
  (if_neg (Nat.not_lt.2 hc)).trans (if_pos h)

variable (ho : pc.toNat % 32 + len ≤ 32)
include ho

theorem placeFault_of_split_long (hl : len = 24) (h0 : pc.toNat % 32 ≠ 0) (h8 : pc.toNat % 32 ≠ 8) :
    placeFault pc codelim len = some (0x03, 1, pc) :=
  (if_neg (Nat.not_lt.2 hc)).trans ((if_neg (Nat.not_lt.2 ho)).trans (if_pos ⟨hl, h0, h8⟩))

theorem placeFault_eq_none (h : len = 24 → pc.toNat % 32 = 0 ∨ pc.toNat % 32 = 8) : placeFault pc codelim len = none :=
  (if_neg (Nat.not_lt.2 hc)).trans ((if_neg (Nat.not_lt.2 ho)).trans (if_neg fun ⟨hl, h0, h8⟩ => (h hl).elim h0 h8))

end

/-! ## A fetch that fails -/

section
variable {n : Nat} {s : State} (rest : List Sched)

theorem issuing_pcOf : (s.issuing rest n).pcOf n = s.pcOf n := by
  have img := img_openTurn (s := { s with agenda := rest }) (n := n)
  rw [State.pcOf, State.issuing, countTurn_img]
  exact (congrArg Image.pc img :)

theorem issuing_launch : ((s.issuing rest n).slotAt n).launch = (s.slotAt n).launch := by
  rw [State.issuing, countTurn_slotAt, State.slotAt_setSlot]

theorem issuing_codelim : (s.issuing rest n).codelim n = s.codelim n := by
  rw [State.codelim, State.launchOf, issuing_launch, State.issuing, (onlySlot_countTurn _ n).launchAt]
  rfl

theorem issuing_mem : (s.issuing rest n).mem = s.mem := (onlySlot_countTurn _ n).mem

theorem issuing_poison : (s.issuing rest n).poison = s.poison := (onlySlot_countTurn _ n).poison

theorem issuing_cur : (s.issuing rest n).cur = n := (onlySlot_countTurn _ n).cur

theorem issuing_lengthAt (pc : Word) : (s.issuing rest n).lengthAt n pc = s.lengthAt n pc := by
  rw [State.lengthAt, State.lengthAt, issuing_launch, issuing_mem]

theorem issuing_pcKey (pc : Word) : (s.issuing rest n).pcKey n pc = s.pcKey n pc := by
  rw [State.pcKey, State.pcKey, issuing_launch]

theorem fetch_issuing (hp : s.poison = []) : (s.issuing rest n).fetch n = s.fetch n := by
  have hpv : (s.issuing rest n).poison = [] := (issuing_poison rest).trans hp
  rw [State.fetch, State.fetch]
  simp only [issuing_pcOf, issuing_codelim, issuing_lengthAt, issuing_pcKey, issuing_mem, blockPoison_of_no_poison hp,
    blockPoison_of_no_poison hpv, checkLines_of_no_poison hp, checkLines_of_no_poison hpv]

theorem FreeTurn.quiet_issuing (h : FreeTurn n s) : Quiet n (s.issuing rest n) := by
  have quiet : Quiet n { s with agenda := rest } := FreeTurn.quiet (s := { s with agenda := rest }) h
  exact quiet.openTurn.countTurn

/-- A turn whose fetch fails traps. -/
theorem Quiet.traps_of_fetch {v : State} {c sub : Nat} {y : Word} (h : Quiet n v) (hc : v.cur = n) (hf : v.fetch n = .trap c sub y) :
    ∃ t, runTurn (v.issueTurn n) = .next t ∧ Traps n c sub y v t := by
  refine ⟨v.trap c sub y, ?_, hc ▸ traps_trap v c sub y⟩
  rw [State.issueTurn, hf]
  simp only [State.noteBoundary, h.trailerOf, runTurn]

end

/-- Settles O36: each clause by the check that fails first. -/
theorem fetchChecksInOrder : Obligations.FetchChecksInOrder := by
  unfold Obligations.FetchChecksInOrder
  intro n rest s pc off len u v x traps hq hs hfree hp
  have fails {c sub : Nat} {y : Word} (hf : s.fetch n = .trap c sub y) : traps c sub y := by
    have trap := (hfree.quiet_issuing rest).traps_of_fetch (issuing_cur rest) ((fetch_issuing rest hp).trans hf)
    rwa [← hfree.step_eq hq hp hs] at trap
  refine ⟨fun h => fails (fetch_of_misaligned h), fun ha h => fails (fetch_of_codelim_le ha h), fun ha hl => ?_⟩
  have misplaced {c sub : Nat} {y : Word} (h : placeFault pc (s.codelim n) len = some (c, sub, y)) : traps c sub y :=
    fails (fetch_of_placeFault ha hl hp h)
  refine ⟨fun h => misplaced (placeFault_of_codelim_lt h), fun hc => ⟨fun h => misplaced (placeFault_of_split hc h), fun ho => ?_⟩⟩
  exact ⟨fun h24 h0 h8 => misplaced (placeFault_of_split_long hc ho h24 h0 h8),
    fun h b hd => fails (fetch_of_field ha hl hp (placeFault_eq_none hc ho h) hd)⟩

end Sys2Proof.Machine
end

section
/-! A word that no format fits, whose L gives a length beyond CODELIM (03 R61). -/
namespace Sys2Proof.Machine
open Sys2Proof

/-- Slot 0 of launch 1, whose turn is due at the last 8 bytes within CODELIM; the first of them is 3: opcode 0x00 with L = 3. -/
def illegalAtTheEnd : State :=
  { State.reset with
    agenda := [.turn 0]
    images := [(0, { pc := 0xFF8 })]
    slots := [(0, { state := .live, launch := 1 })]
    launches := [(1, { phase := .running, record := { ({} : LaunchRec) with codelen := 0x1000 } })]
    mem := storeBytes State.reset.mem (codeKey 1 + 0xFF8) [3] }

/-- The cause of the trap that holds slot 0 after a step. -/
def heldCause (o : Out) : Option Nat :=
  match o with
  | .next t => (t.slotAt 0).hold.map (·.cause)
  | _ => none

/-- The fetch finds that the 24 bytes of L = 3 end beyond CODELIM (03 R61, check 2). -/
theorem heldCause_illegalAtTheEnd : heldCause (step illegalAtTheEnd) = some 0x04 := by decide +kernel

/-- Refutes O35: an unallocated opcode whose L is 3 is read as ILLEGAL_OP of two words, but the fetch places the 24 bytes that its L
gives, and where only 8 lie within CODELIM the turn traps with FETCH_BOUND and not with ILLEGAL_OP. -/
theorem not_stepRunsTheDecodedInstruction : ¬ Obligations.StepRunsTheDecodedInstruction := by
  unfold Obligations.StepRunsTheDecodedInstruction
  intro h
  have free : FreeTurn 0 illegalAtTheEnd := by unfold FreeTurn; decide +kernel
  obtain ⟨-, -, h⟩ := h 0 (.illegalOp 3 0) [] illegalAtTheEnd (by decide +kernel) (.inr (by decide +kernel)) free rfl rfl
    (by decide +kernel) (by decide +kernel) (by decide +kernel) (by decide +kernel)
  obtain ⟨ran, -, -⟩ := h (by decide +kernel)
  obtain ⟨ran, -, -⟩ := ran _ rfl
  have illegal := heldCause_illegalAtTheEnd
  rw [ran] at illegal
  exact absurd illegal (by decide +kernel)

end Sys2Proof.Machine
end

section
/-! The values after reset (04 R77; 21 R374, R384, R396); and NOP, WDOG, YIELD and SLEEP (04 R90; 06 R128, R133, R134). -/
namespace Sys2Proof.Machine
open Sys2Proof

/-- Settles O38: nothing is listed after reset, so that every unit reads as its default, whatever its number. -/
theorem resetHoldsTheStatedValues : Obligations.ResetHoldsTheStatedValues := by
  unfold Obligations.ResetHoldsTheStatedValues
  have registers (n : Nat) (r : Reg) : State.reset.gOf n r = 0 := by
    unfold State.gOf
    split
    · rfl
    · exact Vector.getElem_replicate r.isLt
  exact ⟨wf_nil, rfl, fun _ => rfl, rfl, rfl, rfl, rfl, rfl, fun _ => rfl, registers⟩

/-! ## Instructions that only advance -/

theorem exec_nop (s : State) : exec .nop s = issue .nop s fun s => s.retire 8 := rfl
theorem exec_wdog (s : State) : exec .wdog s = issue .wdog s fun s => (s.progress s.cur).retire 8 := rfl

/-- A slot that has yielded (04 R80). -/
def State.markYield (s : State) (n : Nat) : State := s.setSlot n { s.slotAt n with yielded := true }

theorem exec_yield (s : State) : exec .yield s = issue .yield s fun s =>
    ((s.progress s.cur).retire 8).markYield ((s.progress s.cur).retire 8).cur := rfl
theorem exec_sleep (ab : Bool) (a : Reg) (imm : BitVec 32) (s : State) : exec (.sleep ab a imm) s =
    issue (.sleep ab a imm) s fun s =>
      if sleepTick s ab a imm ≤ s.tide.toNat then s.complete s.cur 8 else s.block s.cur (.sleep (sleepTick s ab a imm)) := rfl
theorem exec_sleepWake (m : Nat) (s : State) : exec (.sleepWake m) s = .next (s.wake m) := rfl

/-- SLEEP's tick: the sum is exact and then clamped (06 R133). -/
theorem sleepTick_eq (s : State) (ab : Bool) (a : Reg) (imm : BitVec 32) :
    sleepTick s ab a imm = min ((if ab then 0 else s.tide.toNat) + (s.g a).toNat + imm.toNat) (2 ^ 64 - 1) := by
  unfold sleepTick
  cases ab
  · simp only [Bool.false_eq_true, ↓reduceIte, Nat.add_assoc]
  · simp only [↓reduceIte, Nat.zero_add]

/-- A progress point withdraws a WDOG that is due and zeroes the count; the retirement after it is an ordinary one (04 R81). -/
theorem retires_progress (s : State) (len : Nat) :
    Retires s.cur len { s.img s.cur with wdCount := 0 } (s.setSlot s.cur { s.slotAt s.cur with wdDue := false })
      ((s.progress s.cur).retire len) := by
  have key : s.progress s.cur
      = (s.setSlot s.cur { s.slotAt s.cur with wdDue := false }).setImg s.cur { s.img s.cur with wdCount := 0 } := by
    unfold State.progress State.setImg
    rw [imageKey_setSlot_same]
    · rfl
    · rfl
  refine retires_of ?_ ?_ (img_progress ..)
  · rw [key]
    exact onlySlot_setImg ..
  · rw [key]
    rfl

section
variable {m k : Nat} {s : State} (hw : (s.slotAt m).wait = some (.sleep k))
include hw

/-- What SLEEP_WAKE does to a slot that sleeps until tick k. -/
theorem wake_of_sleep : s.wake m = if k ≤ s.tide.toNat then s.complete m 8 else s := by
  unfold State.wake
  rw [hw]

end

/-- Settles O9: each instruction by what its operation does to its own slot, SLEEP by whether its tick has passed. -/
theorem plainAdvancesAndSleeps : Obligations.PlainAdvancesAndSleeps := by
  unfold Obligations.PlainAdvancesAndSleeps
  intro ab a imm m s tick
  have passes {i : Instr} (hu : unitOf i = .scalar) (hf : s.lateField i = none) (hp : s.privFault i = none)
      (hr : s.reveals i = false ∨ s.sealedHere = false) : s.issueFault i = none :=
    issueFault_eq_none hf hp (by rw [hu]; rfl) hr
  have htick : sleepTick s ab a imm = tick := sleepTick_eq ..
  refine ⟨?nop, ?wdog, ?yield, fun hs => ⟨fun ht => ?past, fun ht => ?ahead⟩, fun hs => ?sealed,
    fun k hk => ⟨fun ht => ?wakes, fun ht => ?sleeps⟩⟩
  case nop => exact ⟨_, (exec_nop s).trans (issue_ok (passes rfl rfl rfl (.inl rfl))), retires_retireOf ..⟩
  case wdog => exact ⟨_, _, (exec_wdog s).trans (issue_ok (passes rfl rfl rfl (.inl rfl))), retires_progress s 8, rfl⟩
  case yield =>
    have hr := retires_progress s 8
    have hc : ((s.progress s.cur).retire 8).cur = s.cur := hr.1.cur
    refine ⟨_, _, ?_, hr, rfl⟩
    rw [exec_yield, issue_ok (passes rfl rfl rfl (.inl rfl)), hc, State.markYield]
  case past =>
    refine ⟨_, (exec_sleep ..).trans (issue_ok (passes rfl rfl rfl (.inr hs))), ?_⟩
    rw [htick, if_pos ht]
    exact completes_complete ..
  case ahead =>
    refine blocksOn_of_body (exec_sleep ..) (passes rfl rfl rfl (.inr hs)) ?_
    rw [htick, if_neg (Nat.not_le.2 ht)]
  case sealed => exact trapsOn_of_issueFault (exec_sleep ..) (issueFault_of_sealed rfl rfl (engineAllows_scalar _) rfl hs)
  case wakes =>
    refine ⟨_, exec_sleepWake m s, ?_⟩
    rw [wake_of_sleep hk, if_pos ht]
    exact completes_complete ..
  case sleeps => rw [exec_sleepWake, wake_of_sleep hk, if_neg (Nat.not_le.2 ht)]

end Sys2Proof.Machine
end

section
/-! Global addresses: GADDR forms the address of a location and LOCAL tells whether it is an own one (05 R112 to R116). -/
namespace Sys2Proof.Machine
open Sys2Proof

/-! ## The fields of an address -/

/-- The word of the fields of a global address (05 R112). -/
def addressOf (form tile core space off : Nat) : Word :=
  word (form * 2 ^ 60 + tile * 2 ^ 50 + core * 2 ^ 48 + space * 2 ^ 44 + off)

section
variable {form tile core space off : Nat} (hf : form < 16) (ht : tile < 1024) (hc : core < 4) (hs : space < 16) (ho : off < 2 ^ 44)
include hf ht hc hs ho

theorem toNat_addressOf :
    (addressOf form tile core space off).toNat = form * 2 ^ 60 + tile * 2 ^ 50 + core * 2 ^ 48 + space * 2 ^ 44 + off := by
  rw [addressOf, word, BitVec.toNat_ofNat]
  exact Nat.mod_eq_of_lt (by omega)

/-- The fields read back from the word that they make. -/
theorem fields_addressOf : bits (addressOf form tile core space off) 63 60 = form ∧ bits (addressOf form tile core space off) 59 50 = tile
    ∧ bits (addressOf form tile core space off) 49 48 = core ∧ bits (addressOf form tile core space off) 47 44 = space
    ∧ bits (addressOf form tile core space off) 43 0 = off := by
  simp only [bits, toNat_addressOf hf ht hc hs ho]
  omega

end

/-- A word is the one that its fields make. -/
theorem addressOf_fields (x : Word) :
    addressOf (bits x 63 60) (bits x 59 50) (bits x 49 48) (bits x 47 44) (bits x 43 0) = x := by
  have := x.isLt
  refine BitVec.eq_of_toNat_eq ?_
  rw [addressOf, word, BitVec.toNat_ofNat]
  simp only [bits]
  omega

/-! ## GADDR -/

section
variable (phys self : Bool) (sp : Fin 4) (d a : Reg) (off : BitVec 32) (s : State)

/-- GADDR's address of the offset in logical tile t and core c of the launch. -/
def State.formAddr (t c : Nat) : Word :=
  if phys then physAddr (s.placeOf s.cur t) c sp.val off.toNat else logAddr t c sp.val off.toNat

/-- What g[A] must name: a logical tile below TILES, and nothing above bit 11 (05 R115). -/
def State.namesTile (x : Word) : Prop := bits x 63 12 = 0 ∧ bits x 11 2 < s.tilesOf s.cur

/-- What GADDR does once the checks of the frame have passed (05 R115). -/
def State.gaddrBody : State :=
  if self && !isOrdinary s.cur then s.trap 0x09 0x30 0
  else if !self && (bits (s.g a) 63 12 ≠ 0 || s.tilesOf s.cur ≤ bits (s.g a) 11 2) then s.trap 0x09 0x30 (s.g a)
  else
    let t := if self then (s.tileAt (tileOf s.cur)).logTile else bits (s.g a) 11 2
    let c := if sp.val ≠ 0 then 0 else if self then coreOf s.cur % 4 else bits (s.g a) 1 0
    (s.setG d (s.formAddr phys sp off t c)).retire 8

theorem exec_gaddr : exec (.gaddr phys self sp d a off) s =
    issue (.gaddr phys self sp d a off) s (State.gaddrBody phys self sp d a off) := rfl

variable {phys self sp d a off s}

theorem issueFault_gaddr (hl : phys = true → s.level s.cur ≠ 0) : s.issueFault (.gaddr phys self sp d a off) = none := by
  refine issueFault_eq_none rfl (if_neg ?_) (engineAllows_scalar _) (.inl rfl)
  simpa using hl

theorem gaddrBody_self (ho : isOrdinary s.cur = true) : s.gaddrBody phys true sp d a off =
    (s.setG d (s.formAddr phys sp off (s.tileAt (tileOf s.cur)).logTile (if sp.val = 0 then coreOf s.cur % 4 else 0))).retire 8 := by
  simp [State.gaddrBody, ho]

theorem gaddrBody_self_of_pump (ho : isOrdinary s.cur = false) : s.gaddrBody phys true sp d a off = s.trap 0x09 0x30 0 := by
  simp [State.gaddrBody, ho]

theorem gaddrBody_named (h : s.namesTile (s.g a)) : s.gaddrBody phys false sp d a off =
    (s.setG d (s.formAddr phys sp off (bits (s.g a) 11 2) (if sp.val = 0 then bits (s.g a) 1 0 else 0))).retire 8 := by
  obtain ⟨h12, ht⟩ := h
  simp [State.gaddrBody, h12, ht]

theorem gaddrBody_not_named (h : ¬ s.namesTile (s.g a)) : s.gaddrBody phys false sp d a off = s.trap 0x09 0x30 (s.g a) := by
  have h' : bits (s.g a) 63 12 ≠ 0 ∨ s.tilesOf s.cur ≤ bits (s.g a) 11 2 := by
    rwa [State.namesTile, not_and_or, Nat.not_lt] at h
  simp [State.gaddrBody, h']

end

/-! ## LOCAL -/

/-- The size of a space by its code (05 R112; 07 R136). -/
def spaceSize (space : Nat) : Nat :=
  if space = 0 then 0x80000 else if space = 1 then 0x200000 else if space = 6 then 0x10000 else 0x100000

theorem spaceSize_lt (space : Nat) : spaceSize space < 2 ^ 44 := by
  unfold spaceSize
  split_ifs
  all_goals decide

/-- An address names a location where its space is one that its form admits, its core is 0 in a store of a tile, and its offset lies
within the store. -/
theorem namesLocation_iff (x : Word) (phys : Bool) : namesLocation x phys = true ↔
    (bits x 47 44 ≤ 3 ∨ phys = true ∧ bits x 47 44 = 6) ∧ (bits x 47 44 ≠ 0 ∧ bits x 47 44 ≠ 6 → bits x 49 48 = 0)
      ∧ bits x 43 0 < spaceSize (bits x 47 44) := by
  have hsize : ∀ c : Nat, (match c with | 0 => 0x80000 | 1 => 0x200000 | 6 => 0x10000 | _ => 0x100000) = spaceSize c := by
    intro c
    unfold spaceSize
    split
    · rfl
    · rfl
    · rfl
    · next h0 h1 h6 => rw [if_neg h0, if_neg h1, if_neg h6]
  have h := hsize (bits x 47 44)
  unfold namesLocation
  simp only [Bool.and_eq_true, Bool.or_eq_true, decide_eq_true_eq, and_assoc]
  refine and_congr Iff.rfl (and_congr ⟨fun k => ?_, fun k => ?_⟩ ?_)
  · omega
  · omega
  · exact iff_of_eq (congrArg (bits x 43 0 < ·) h)

section
variable {s : State} {x : Word}

/-- LOCAL's answer for a location: its offset where it is an own one (05 R116). -/
def ownAnswer (mine : Bool) (off : Nat) : Word := if mine then word off else BitVec.ofInt 64 (-1)

/-- Is the location of an address the issuing slot's, where `tile` is its own tile in the address's form? -/
def State.holdsOwn (s : State) (tile : Nat) (x : Word) : Bool :=
  isOrdinary s.cur && decide (bits x 59 50 = tile) && (decide (bits x 47 44 ≠ 0) || decide (bits x 49 48 = coreOf s.cur % 4))

/-- A value in the logical form of a location (05 R116). -/
def State.isLogical (s : State) (x : Word) : Prop := bits x 63 60 = 9 ∧ namesLocation x false = true ∧ bits x 59 50 < s.tilesOf s.cur

/-- A value in the physical form of a location, above user level (05 R116). -/
def State.isPhysical (s : State) (x : Word) : Prop := bits x 63 60 = 8 ∧ namesLocation x true = true ∧ s.level s.cur ≠ 0

/-- The answer for a location, by whether it is an own one. -/
theorem match_ownAnswer (mine : Bool) (off : Nat) :
    (match some mine with | none => neg 2 | some true => word off | some false => neg 1) = ownAnswer mine off := by
  cases mine
  · rfl
  · rfl

theorem localValue_of_logical (h : s.isLogical x) :
    s.localValue x = ownAnswer (s.holdsOwn (s.tileAt (tileOf s.cur)).logTile x) (bits x 43 0) := by
  unfold State.isLogical at h
  unfold State.localValue
  rw [if_pos h]
  exact match_ownAnswer ..

theorem localValue_of_physical (h : s.isPhysical x) : s.localValue x = ownAnswer (s.holdsOwn (tileOf s.cur) x) (bits x 43 0) := by
  unfold State.isPhysical at h
  unfold State.localValue
  rw [if_neg (by rintro ⟨h9, -⟩; omega), if_pos h]
  exact match_ownAnswer ..

theorem localValue_of_neither (hl : ¬ s.isLogical x) (hp : ¬ s.isPhysical x) : s.localValue x = BitVec.ofInt 64 (-2) := by
  unfold State.isLogical at hl
  unfold State.isPhysical at hp
  unfold State.localValue
  rw [if_neg hl, if_neg hp]
  rfl

end

theorem gives_localq (d a : Reg) (s : State) : Gives (.localq d a) 8 d (s.localValue (s.g a)) s :=
  gives_of_writes (x := fun s => s.localValue (s.g a)) rfl (issueFault_eq_none rfl rfl (engineAllows_scalar _) (.inl rfl))

/-- Whether a location is an own one, by the fields of its address. -/
theorem holdsOwn_addressOf {s : State} {form tile core space off own : Nat} (hf : form < 16) (ht : tile < 1024) (hc : core < 4)
    (hs : space < 16) (ho : off < 2 ^ 44) : s.holdsOwn own (addressOf form tile core space off) =
      (isOrdinary s.cur && decide (tile = own ∧ (space = 0 → core = coreOf s.cur % 4))) := by
  obtain ⟨-, et, ec, es, -⟩ := fields_addressOf hf ht hc hs ho
  rw [State.holdsOwn, et, ec, es, Bool.and_assoc]
  congr 1
  rw [Bool.eq_iff_iff]
  simp [imp_iff_not_or]

/-- Settles O7: GADDR by the checks on its operand, LOCAL by reading the fields of the address back. -/
theorem globalAddressesFormedAndTold : Obligations.GlobalAddressesFormedAndTold := by
  unfold Obligations.GlobalAddressesFormedAndTold
  intro phys sp d a off s core logical physical form named
  have form_eq (t c : Nat) : s.formAddr phys sp off t (if sp.val = 0 then c else 0) = form t c := by
    cases phys
    · rfl
    · rfl
  refine ⟨fun hl => ⟨fun ho => ?self, fun ho => ?pump, fun hn => ?named, fun hn => ?unnamed⟩, fun self hl => ?user, ?told⟩
  case self =>
    exact acts_of_write (exec_gaddr ..) (issueFault_gaddr hl) (by rw [gaddrBody_self ho, form_eq]) rfl rfl
  case pump => exact trapsOn_of_body (exec_gaddr ..) (issueFault_gaddr hl) (gaddrBody_self_of_pump ho)
  case named => exact acts_of_write (exec_gaddr ..) (issueFault_gaddr hl) (by rw [gaddrBody_named hn, form_eq]) rfl rfl
  case unnamed => exact trapsOn_of_body (exec_gaddr ..) (issueFault_gaddr hl) (gaddrBody_not_named hn)
  case user => exact trapsOn_of_privFault rfl rfl (if_pos (by rw [hl]; rfl))
  case told =>
    intro size answer isLogical isPhysical
    have told := gives_localq d a s
    refine ⟨fun t c sp off h => ?_, fun t c sp off h => ?_, fun h => ?_⟩
    · obtain ⟨ht, hc, hsp, hcore, hoff, htiles, hx⟩ := h
      have ho : off < 2 ^ 44 := Nat.lt_trans hoff (spaceSize_lt sp)
      have hx : s.g a = addressOf 9 t c sp off := hx
      obtain ⟨ef, et, ec, es, eo⟩ := fields_addressOf (form := 9) (by omega) ht hc (by omega : sp < 16) ho
      have hl : s.isLogical (s.g a) := by
        rw [hx, State.isLogical, namesLocation_iff, ef, et, ec, es, eo]
        exact ⟨rfl, ⟨.inl hsp, fun k => hcore k.1, hoff⟩, htiles⟩
      rw [localValue_of_logical hl, hx, holdsOwn_addressOf (by omega) ht hc (by omega) ho, eo] at told
      exact told
    · obtain ⟨ht, hc, hsp, hcore, hoff, hlev, hx⟩ := h
      have ho : off < 2 ^ 44 := Nat.lt_trans hoff (spaceSize_lt sp)
      have hx : s.g a = addressOf 8 t c sp off := hx
      obtain ⟨ef, et, ec, es, eo⟩ := fields_addressOf (form := 8) (by omega) ht hc (by omega : sp < 16) ho
      have hp : s.isPhysical (s.g a) := by
        rw [hx, State.isPhysical, namesLocation_iff, ef, ec, es, eo]
        exact ⟨rfl, ⟨hsp.imp_right fun k => ⟨rfl, k⟩, hcore, hoff⟩, hlev⟩
      rw [localValue_of_physical hp, hx, holdsOwn_addressOf (by omega) ht hc (by omega) ho, eo] at told
      exact told
    · obtain ⟨hl, hp⟩ := h (bits (s.g a) 59 50) (bits (s.g a) 49 48) (bits (s.g a) 47 44) (bits (s.g a) 43 0)
      have ht : bits (s.g a) 59 50 < 1024 := Nat.mod_lt _ (by decide)
      have hc : bits (s.g a) 49 48 < 4 := Nat.mod_lt _ (by decide)
      have e := addressOf_fields (s.g a)
      rw [localValue_of_neither] at told
      · exact told
      · rintro ⟨hf, hn, htiles⟩
        obtain ⟨hsp, hcore, hoff⟩ := (namesLocation_iff ..).1 hn
        have hsp : bits (s.g a) 47 44 ≤ 3 := hsp.resolve_right fun k => Bool.false_ne_true k.1
        rw [hf] at e
        exact hl ⟨ht, hc, hsp, fun k => hcore ⟨k, by omega⟩, hoff, htiles, e.symm⟩
      · rintro ⟨hf, hn, hlev⟩
        obtain ⟨hsp, hcore, hoff⟩ := (namesLocation_iff ..).1 hn
        rw [hf] at e
        exact hp ⟨ht, hc, hsp.imp_right And.right, hcore, hoff, hlev, e.symm⟩

end Sys2Proof.Machine
end

section
/-! TSTART starts a sibling and SLOT_START ends the mark of its first turn (04 R75, R79, R85). -/
namespace Sys2Proof.Machine
open Sys2Proof

/-! ## Starting a slot -/

@[simp] theorem imageKey_startSlot_of_ne (s : State) {n m : Nat} (e : Engine) (pc g5 g6 : Word) (k : Nat) (h : m ≠ n) :
    (s.startSlot n e pc g5 g6 k).imageKey m = s.imageKey m := imageKey_setSlot_of_ne _ _ h

section
variable (s : State) (n : Nat) (e : Engine) (pc g5 g6 : Word) (k : Nat)

theorem slotAt_startSlot : (s.startSlot n e pc g5 g6 k).slotAt n =
    { s.slotAt n with
      state := .live, sel := 0, engine := e, exitVal := 0, starts := (s.slotAt n).starts + 1, wait := none
      turnFrom := k, issueFrom := 0, snap := none, tickDue := false, wdDue := false, pending := []
      hold := none, pairDue := none, starting := true, mirror := none, yielded := false, tickWritten := false, tickByReeve := false
      stopDue := false, resuming := false } := State.slotAt_setSlot ..

theorem slotAt_startSlot_of_ne {m : Nat} (h : m ≠ n) : (s.startSlot n e pc g5 g6 k).slotAt m = s.slotAt m :=
  State.slotAt_setSlot_of_ne _ _ h

/-- The started thread stands at the slot's own image (05 R96). -/
theorem imageKey_startSlot : (s.startSlot n e pc g5 g6 k).imageKey n = 16 * coreOf n + slotIdx n := by
  rw [State.imageKey, slotAt_startSlot]
  have := Nat.mod_lt n (by decide : 16 > 0)
  simp only [slotIdx]
  omega

theorem img_startSlot : ∃ tvec, (s.startSlot n e pc g5 g6 k).img n = startImage pc g5 g6 tvec := ⟨_, img_setImg ..⟩

theorem imageAt_startSlot_of_ne {q : Nat} (h : q ≠ 16 * coreOf n + slotIdx n) :
    (s.startSlot n e pc g5 g6 k).imageAt q = s.imageAt q := by
  rw [← imageKey_startSlot s n e pc g5 g6 k] at h
  exact look_put_of_ne _ _ _ h

end

/-- The registers of a starting thread (04 R79). -/
theorem startImage_g (pc g5 g6 tvec : Word) : (startImage pc g5 g6 tvec).g[5] = g5 ∧ (startImage pc g5 g6 tvec).g[6] = g6
    ∧ ∀ r : Reg, r ≠ 5 → r ≠ 6 → (startImage pc g5 g6 tvec).g[r] = 0 := by
  refine ⟨Vector.getElem_set_ne (by decide) (by decide) (by decide) |>.trans (Vector.getElem_set_self (by decide)),
    Vector.getElem_set_self (by decide), fun r h5 h6 => ?_⟩
  have n5 : 5 ≠ r.val := fun h => h5 (Fin.ext h.symm)
  have n6 : 6 ≠ r.val := fun h => h6 (Fin.ext h.symm)
  calc (startImage pc g5 g6 tvec).g[r]
    _ = ((Vector.replicate 32 (0 : Word)).set 5 g5)[r.val] := Vector.getElem_set_ne (by decide) r.isLt n6
    _ = (Vector.replicate 32 (0 : Word))[r.val] := Vector.getElem_set_ne (by decide) r.isLt n5
    _ = 0 := Vector.getElem_replicate r.isLt

section
variable (s : State) (l n : Nat)

/-- Noting a started pump-class slot changes no unit but a launch (20 R348). -/
theorem noteBegun_eq : s.noteBegun l n = { s with launches := (s.noteBegun l n).launches } := by
  unfold State.noteBegun
  split
  · rfl
  · rfl

/-- What is noted depends on the launches alone. -/
theorem noteBegun_launches_congr {t : State} (h : t.launches = s.launches) :
    (t.noteBegun l n).launches = (s.noteBegun l n).launches := by
  have ha : t.launchAt l = s.launchAt l := by rw [State.launchAt, h]; rfl
  unfold State.noteBegun
  rw [ha]
  split
  · exact h
  · rw [State.setLaunch, h]
    rfl

@[simp] theorem noteBegun_slotAt (m : Nat) : (s.noteBegun l n).slotAt m = s.slotAt m := by rw [noteBegun_eq]; rfl
@[simp] theorem noteBegun_imageAt (k : Nat) : (s.noteBegun l n).imageAt k = s.imageAt k := by rw [noteBegun_eq]; rfl
@[simp] theorem noteBegun_imageKey (m : Nat) : (s.noteBegun l n).imageKey m = s.imageKey m := by rw [noteBegun_eq]; rfl
@[simp] theorem noteBegun_img (m : Nat) : (s.noteBegun l n).img m = s.img m := by rw [noteBegun_eq]; rfl
@[simp] theorem noteBegun_images : (s.noteBegun l n).images = s.images := by rw [noteBegun_eq]
@[simp] theorem noteBegun_slots : (s.noteBegun l n).slots = s.slots := by rw [noteBegun_eq]
@[simp] theorem noteBegun_cur : (s.noteBegun l n).cur = s.cur := by rw [noteBegun_eq]

end

/-! ## TSTART -/

section
variable (e : Engine) (a b c d : Reg) (s : State)

/-- The sibling that TSTART, TSTOP and TREAP name: x above the issuing slot. -/
def State.sibling (s : State) (a : Reg) : Nat := s.cur + (s.g a).toNat

/-- The state in which TSTART has started its sibling: the slot acts for the issuer's launch under its logical number. -/
def State.started : State :=
  let n := s.sibling a
  let t := s.setSlot n { s.slotAt n with launch := (s.slotAt s.cur).launch, logSlot := s.logicalOf n }
  (t.startSlot n e (s.g b) (word (s.logicalOf n).toNat) (s.g c)
    (s.now s.cur - s.now s.cur % 16 + 48 + (s.g a).toNat)).noteBegun (s.slotAt s.cur).launch n

theorem exec_tstart : exec (.tstart e d a b c) s = issue (.tstart e d a b c) s fun s =>
    if (s.g a).toNat < 1 ∨ 15 < (s.g a).toNat ∨ bits (s.g b) 1 0 ≠ 0 then s.answer d (neg 3)
    else if (s.slotAt (s.sibling a)).state ≠ .free ∨ s.imageTaken (s.sibling a) (slotIdx (s.sibling a)) = true then s.answer d (neg 1)
    else if !s.bindingAllowed (s.sibling a) e then s.answer d (neg 2)
    else (s.started e a b c).answer d 0 := rfl

theorem started_cur : (s.started e a b c).cur = s.cur := noteBegun_cur ..

/-- Beside the slots, the images and the launch that notes it, a start changes no unit. -/
theorem started_eq : s.started e a b c = { s with
    images := (s.started e a b c).images, slots := (s.started e a b c).slots
    launches := (s.noteBegun (s.slotAt s.cur).launch (s.sibling a)).launches } := by
  unfold State.started
  rw [noteBegun_images, noteBegun_slots, ← noteBegun_launches_congr s _ _ (t := s.setSlot _ _ |>.startSlot _ _ _ _ _ _) rfl]
  exact noteBegun_eq ..

theorem slotAt_started_of_ne {m : Nat} (h : m ≠ s.sibling a) : (s.started e a b c).slotAt m = s.slotAt m := by
  rw [State.started, noteBegun_slotAt, slotAt_startSlot_of_ne _ _ _ _ _ _ _ h, State.slotAt_setSlot_of_ne _ _ h]

theorem imageAt_started_of_ne {k : Nat} (h : k ≠ 16 * coreOf (s.sibling a) + slotIdx (s.sibling a)) :
    (s.started e a b c).imageAt k = s.imageAt k := by
  rw [State.started, noteBegun_imageAt, imageAt_startSlot_of_ne _ _ _ _ _ _ _ h, State.imageAt_setSlot]

theorem img_started : ∃ tvec, (s.started e a b c).img (s.sibling a) =
    startImage (s.g b) (word (s.logicalOf (s.sibling a)).toNat) (s.g c) tvec := by
  rw [State.started, noteBegun_img]
  exact img_startSlot ..

/-- The record of the started slot. -/
theorem slotAt_started : (s.started e a b c).slotAt (s.sibling a) =
    { s.slotAt (s.sibling a) with
      launch := (s.slotAt s.cur).launch, logSlot := s.logicalOf (s.sibling a)
      state := .live, sel := 0, engine := e, exitVal := 0, starts := (s.slotAt (s.sibling a)).starts + 1, wait := none
      turnFrom := s.now s.cur - s.now s.cur % 16 + 48 + (s.g a).toNat, issueFrom := 0, snap := none, tickDue := false
      wdDue := false, pending := [], hold := none, pairDue := none, starting := true, mirror := none, yielded := false
      tickWritten := false, tickByReeve := false, stopDue := false, resuming := false } := by
  rw [State.started, noteBegun_slotAt, slotAt_startSlot, State.slotAt_setSlot]

variable {e a b c d s}

theorem issueFault_tstart (h : slotIdx s.cur = 0) : s.issueFault (.tstart e d a b c) = none :=
  issueFault_eq_none rfl (if_neg (not_not_intro h)) (engineAllows_scalar _) (.inl rfl)

end

/-- SLOT_START (04 R85). -/
theorem exec_slotStart {m : Nat} {s : State} (hl : (s.slotAt m).state = .live) (ht : (s.slotAt m).turnFrom ≤ s.now m) :
    exec (.slotStart m) s = .next (s.setSlot m { s.slotAt m with starting := false }) :=
  congrArg Host.Outcome.next (if_pos ⟨hl, ht⟩)

/-- Settles O12: the answers by the first test that fails, the start by what StartSlot writes. -/
theorem slotZeroStartsSiblings : Obligations.SlotZeroStartsSiblings := by
  unfold Obligations.SlotZeroStartsSiblings
  intro e d a b c s x n i
  have hb : bits (s.g b) 1 0 = (s.g b).toNat % 4 := by
    rw [bits, pow_zero, Nat.div_one]
    rfl
  refine ⟨fun h0 => ?_, fun h0 => trapsOn_of_privFault rfl rfl (if_pos h0), fun m => exec_slotStart⟩
  have hf : s.issueFault i = none := issueFault_tstart h0
  have answers {y : Word} {mid : State} (hc : mid.cur = s.cur) (ho : exec i s = .next (mid.answer d y)) :
      Finishes i 8 ((mid.img s.cur).withG d y) mid s := ⟨_, ho, ends_answer d y hc⟩
  have ran := (exec_tstart e a b c d s).trans (issue_ok hf)
  have hn : s.sibling a = n := rfl
  rw [hb, hn] at ran
  refine ⟨fun hx => ?outside, fun h1 h15 hpc => ⟨fun hn => ?taken, fun hfree hi hbind => ?binding, fun hfree hi hbind => ?starts⟩⟩
  case outside =>
    rw [if_pos hx] at ran
    exact answers rfl ran
  all_goals rw [if_neg (by omega)] at ran
  case taken =>
    rw [if_pos hn] at ran
    exact answers rfl ran
  all_goals
    have hn : ¬ ((s.slotAt n).state ≠ .free ∨ s.imageTaken n (slotIdx n) = true) := by simp [hfree, hi]
    rw [if_neg hn, hbind] at ran
  case binding => exact answers rfl ran
  case starts =>
    have slot := slotAt_started e a b c s
    obtain ⟨tvec, image⟩ := img_started e a b c s
    obtain ⟨g5, g6, g0⟩ := startImage_g (s.g b) (word (s.logicalOf n).toNat) (s.g c) tvec
    refine ⟨s.started e a b c, answers (started_cur ..) ran, started_eq .., fun m => slotAt_started_of_ne e a b c s,
      fun k => imageAt_started_of_ne e a b c s, ?_⟩
    have slot : (s.started e a b c).slotAt n = _ := slot
    have image : (s.started e a b c).img n = _ := image
    rw [slot, image]
    exact ⟨rfl, rfl, rfl, rfl, rfl, rfl, by dsimp only, rfl, g5, g6, g0, rfl, rfl⟩

end Sys2Proof.Machine
end

section
/-! The region work queue: WQPOP, WQPUSH and SPILLWAY_RETURN (04 R82, R83, R92, R93). -/
namespace Sys2Proof.Machine
open Sys2Proof

/-! ## Registers from one on -/

theorem regPlus_regPlus (r : Reg) (j k : Nat) : regPlus (regPlus r j) k = regPlus r (j + k) := by
  refine Fin.ext ?_
  simp only [regPlus, Fin.ofNat]
  omega

theorem regPlus_zero (r : Reg) : regPlus r 0 = r := Fin.ofNat_val_eq_self r

/-- A change that touches the issuing slot's image only: the slot issues still, and its record is as it was. -/
structure OnlyImage (im : Image) (s u : State) : Prop where
  only : OnlySlot s.cur s u
  slot : u.slotAt s.cur = s.slotAt s.cur
  image : u.img s.cur = im

namespace OnlyImage

theorem refl (s : State) : OnlyImage (s.img s.cur) s s := ⟨OnlySlot.refl .., rfl, rfl⟩

variable {im : Image} {s u : State} (h : OnlyImage im s u)
include h

theorem cur : u.cur = s.cur := OnlySlot.cur h.only

theorem setG (r : Reg) (x : Word) : OnlyImage (im.withG r x) s (u.setG r x) := by
  unfold State.setG
  rw [h.cur]
  exact ⟨h.only.trans (onlySlot_setGOf ..), (slotAt_setGOf ..).trans h.slot, (img_setGOf ..).trans (by rw [h.image])⟩

theorem ends_finish (len : Nat) : Ends s.cur len im s (u.finish len) := ends_of h.only h.slot h.image h.cur

theorem completes_finishBlocking (len : Nat) : Completes s.cur len im s (u.finishBlocking len) := by
  obtain ⟨ho, hi, hs⟩ := completes_complete u s.cur len
  rw [h.image] at hi hs
  rw [h.slot] at hs
  rw [State.finishBlocking, h.cur]
  exact ⟨h.only.trans ho, hi, hs⟩

/-- Ending in a form that waits or does not, after a change of the image only. -/
theorem finishesAs {i : Instr} {len : Nat} {nowait : Bool} {z : State} (hz : z.cur = s.cur)
    (hx : exec i z = .next (if nowait then u.finish len else u.finishBlocking len)) : FinishesAs i len nowait im s z := by
  cases nowait
  · exact ⟨_, hx, hz ▸ h.completes_finishBlocking len⟩
  · exact ⟨_, hx, hz ▸ h.ends_finish len⟩

end OnlyImage

/-! ## Records -/

/-- A whole record without poisoned words is given as it stands. -/
theorem giveRecord_eq (s : State) (r : Reg) (w0 w1 w2 w3 : Word) : s.giveRecord r [w0, w1, w2, w3] =
    (((s.setG (regPlus r 0) w0).setG (regPlus r 1) w1).setG (regPlus r 2) w2).setG (regPlus r 3) w3 := by
  simp [State.giveRecord, List.range_succ, bit]

theorem onlyImage_giveRecord (s : State) (r : Reg) (w0 w1 w2 w3 : Word) :
    OnlyImage (((((s.img s.cur).withG (regPlus r 1) w0).withG (regPlus r 2) w1).withG (regPlus r 3) w2).withG (regPlus r 4) w3) s
      (s.giveRecord (regPlus r 1) [w0, w1, w2, w3]) := by
  rw [giveRecord_eq, regPlus_zero, regPlus_regPlus, regPlus_regPlus, regPlus_regPlus]
  exact ((((OnlyImage.refl s).setG _ _).setG _ _).setG _ _).setG _ _

/-- A share that has a record is not at its end (04 R83). -/
theorem not_terminated {x : Share} (h : x.closed = false ∨ x.recs ≠ [] ∨ x.spilled ≠ []) : x.terminated = false := by
  unfold Share.terminated
  rcases h with h | h | h
  · rw [h]
    rfl
  · simp [h]
  · simp [h]

theorem terminated_of {x : Share} (hc : x.closed = true) (hr : x.recs = []) (hs : x.spilled = []) : x.terminated = true := by
  unfold Share.terminated
  rw [hc, hr, hs]
  rfl

section
variable {s : State} {r l : Nat}

theorem takeRecord_of_nil (h : (s.shareAt r l).recs = []) : s.takeRecord r l = none := by
  unfold State.takeRecord
  dsimp only
  rw [h]

theorem takeRecord_of_cons {w : List Word} {rest : List (List Word)} (h : (s.shareAt r l).recs = w :: rest)
    (hw : (s.regionAt r).withheld = false) :
    s.takeRecord r l = some (w, s.setShare r l { s.shareAt r l with recs := rest }) := by
  unfold State.takeRecord
  dsimp only
  rw [h, hw]
  rfl

/-- Without a spillway no entry is free. -/
theorem spillSlot_of_no_spillway (h : (s.launchAt l).record.spill = 0) : s.spillSlot l = none := by
  have he : (s.launchAt l).spillEntries = 0 := if_pos h
  unfold State.spillSlot
  dsimp only
  rw [he, List.find?_eq_none]
  intro e _
  simp

variable {w : List Word}

theorem pushRecord_closed (h : (s.shareAt r l).closed = true) : s.pushRecord r l w = (s, neg 3) := if_pos h

theorem pushRecord_room (hc : (s.shareAt r l).closed = false) (hn : (s.shareAt r l).recs.length < (s.shareAt r l).size)
    (hs : (s.shareAt r l).spilled = []) :
    s.pushRecord r l w = (s.setShare r l { s.shareAt r l with recs := (s.shareAt r l).recs ++ [w] }, 0) := by
  have hf : (s.shareAt r l).isFull = false := by simp [Share.isFull, hs, hn]
  unfold State.pushRecord
  dsimp only
  rw [hc, hf]
  rfl

theorem pushRecord_full (hc : (s.shareAt r l).closed = false) (hn : (s.shareAt r l).size ≤ (s.shareAt r l).recs.length)
    (hs : (s.launchAt l).record.spill = 0) : s.pushRecord r l w = (s, neg 1) := by
  have hf : (s.shareAt r l).isFull = true := by simp [Share.isFull, hn]
  have hnone : (if r < 64 then s.spillSlot l else none) = none := by rw [spillSlot_of_no_spillway hs, ite_self]
  unfold State.pushRecord
  dsimp only
  rw [hc, hf, hnone]
  rfl

end

/-! ## WQPOP and WQPUSH -/

section
variable (t far close : Bool) (a b d : Reg) (s : State)

/-- Ending with a status in a form that waits or does not. -/
def State.answerAs (d : Reg) (x : Word) : State := if t then s.answer d x else s.answerBlocking d x

theorem answerAs_eq (x : Word) : s.answerAs t d x = if t then (s.setG d x).finish 8 else (s.setG d x).finishBlocking 8 := rfl

theorem exec_wqpop : exec (.wqpop t d) s = issue (.wqpop t d) s fun s =>
    if (s.shareAt (ownRegion s.cur) (s.slotAt s.cur).launch).terminated then s.answerAs t d 1
    else
      match s.takeRecord (ownRegion s.cur) (s.slotAt s.cur).launch with
      | some (w, s) => (s.giveRecord (regPlus d 1) w).answerAs t d 0
      | none => if t then s.answer d (neg 1) else s.block s.cur .poll := rfl

/-- The region whose share a WQPUSH names. -/
def State.pushRegion : Nat := if far then regionOf (s.placeOf s.cur (s.g b).toNat) else ownRegion s.cur

/-- WQPUSH of the share of a region (04 R93). -/
def State.pushTo (r : Nat) : State :=
  let l := (s.slotAt s.cur).launch
  if close then
    if (s.shareAt r l).closed then s.answer d (neg 3) else (s.setShare r l { s.shareAt r l with closed := true }).answer d 0
  else
    let res := s.pushRecord r l ((List.range 4).map fun k => s.g (regPlus a k))
    res.1.answer d res.2

theorem exec_wqpush : exec (.wqpush far close d a b) s = issue (.wqpush far close d a b) s fun s =>
    if far && s.tilesOf s.cur ≤ (s.g b).toNat then s.answer d (neg 4)
    else s.pushTo close a d (s.pushRegion far b) := rfl

/-- The registers of a record from g[A] on. -/
theorem record_eq : ((List.range 4).map fun k => s.g (regPlus a k)) =
    [s.g a, s.g (regPlus a 1), s.g (regPlus a 2), s.g (regPlus a 3)] :=
  congrArg (fun r => [s.g r, s.g (regPlus a 1), s.g (regPlus a 2), s.g (regPlus a 3)]) (regPlus_zero a)

end

/-! ## SPILLWAY_RETURN -/

section
variable {s : State} {r l : Nat}

theorem exec_spillwayReturn_of_no_room (h : (s.shareAt r l).spilled = [] ∨ (s.shareAt r l).size ≤ (s.shareAt r l).recs.length) :
    exec (.spillwayReturn r l) s = .next s := by
  change Host.Outcome.next _ = _
  congr 1
  dsimp only
  split
  · rfl
  · next e rest he =>
    rw [he] at h
    exact if_pos (h.resolve_left (List.cons_ne_nil e rest))

theorem exec_spillwayReturn_of_room {e pa : Nat} {rest : List Nat} (he : (s.shareAt r l).spilled = e :: rest)
    (hn : (s.shareAt r l).recs.length < (s.shareAt r l).size)
    (ht : s.translate (s.launchAt l).part ((s.launchAt l).record.spill + 32 * e) .r = .ok pa) :
    exec (.spillwayReturn r l) s = .next (s.setShare r l
      { s.shareAt r l with recs := (s.shareAt r l).recs ++ [s.getRecord pa], spilled := rest }) := by
  change Host.Outcome.next _ = _
  congr 1
  dsimp only
  rw [he]
  dsimp only
  rw [if_neg (Nat.not_le.2 hn), Launch.spillAddr, ht]

end

/-- Settles O15: each instruction by the state of the share that it names, the return by the oldest spilled entry. -/
theorem workQueueTakesAndGives : Obligations.WorkQueueTakesAndGives := by
  unfold Obligations.WorkQueueTakesAndGives
  intro d a b t far s l r x lt q y w status
  refine ⟨fun hs => ?pass, fun hs => ⟨?popSealed, fun c => ?pushSealed⟩, ?spilled⟩
  case popSealed => exact trapsOn_of_issueFault (exec_wqpop ..) (issueFault_of_sealed rfl rfl (engineAllows_scalar _) rfl hs)
  case pushSealed => exact trapsOn_of_issueFault (exec_wqpush ..) (issueFault_of_sealed rfl rfl (engineAllows_scalar _) rfl hs)
  case spilled =>
    intro r l sh lc
    exact ⟨fun e rest pa he hn ht => exec_spillwayReturn_of_room he hn ht, exec_spillwayReturn_of_no_room⟩
  case pass =>
    have popPasses (t : Bool) : s.issueFault (.wqpop t d) = none := issueFault_eq_none rfl rfl (engineAllows_scalar _) (.inr hs)
    have pushPasses (c : Bool) : s.issueFault (.wqpush far c d a b) = none :=
      issueFault_eq_none rfl rfl (engineAllows_scalar _) (.inr hs)
    refine ⟨fun hc hr hsp => ?closed, fun hr hopen => ⟨?waits, ?tries⟩, fun w0 w1 w2 w3 rest hr hw => ?takes, fun hf hlt c => ?beyond,
      fun hq => ⟨fun hc c => ?pushClosed, fun hc => ?closes, fun hc hn hsp => ?pushes, fun hc hn hsp => ?full⟩⟩
    case closed =>
      refine ((OnlyImage.refl s).setG d 1).finishesAs rfl ?_
      rw [exec_wqpop, issue_ok (popPasses t), if_pos (terminated_of hc hr hsp), answerAs_eq]
    case waits =>
      refine blocksOn_of_body (exec_wqpop ..) (popPasses false) ?_
      rw [if_neg (by rw [not_terminated (hopen.imp_right .inr)]; decide), takeRecord_of_nil hr]
      rfl
    case tries =>
      refine finishes_of_answer (exec_wqpop ..) (popPasses true) ?_ rfl rfl
      rw [if_neg (by rw [not_terminated (hopen.imp_right .inr)]; decide), takeRecord_of_nil hr]
      rfl
    case takes =>
      have ht := takeRecord_of_cons (l := l) (r := r) hr hw
      have hne : x.recs ≠ [] := by
        rw [hr]
        exact List.cons_ne_nil _ rest
      refine ((onlyImage_giveRecord (s.setShare r l { x with recs := rest }) d w0 w1 w2 w3).setG d 0).finishesAs rfl ?_
      rw [exec_wqpop, issue_ok (popPasses t), if_neg (by rw [not_terminated (.inr (.inl hne))]; decide), ht]
      rfl
    case beyond =>
      refine finishes_of_answer (exec_wqpush ..) (pushPasses c) (if_pos ?_) rfl rfl
      exact decide_eq_true hlt
    all_goals
      have near : ¬ (far && s.tilesOf s.cur ≤ (s.g b).toNat) = true := by
        simpa [imp_iff_not_or, Nat.not_le] using hq
      have pushed (c : Bool) : exec (.wqpush far c d a b) s = .next (s.pushTo c a d q) := by
        rw [exec_wqpush, issue_ok (pushPasses c), if_neg near]
        rfl
      have answers {c : Bool} {mid : State} {v : Word} (h : s.pushTo c a d q = mid.answer d v) (hc : mid.cur = s.cur)
          (hi : mid.img s.cur = s.img s.cur) : Finishes (.wqpush far c d a b) 8 (status v) mid s :=
        ⟨_, (pushed c).trans (by rw [h]), hi ▸ ends_answer d v hc⟩
    case pushClosed =>
      refine answers ?_ rfl rfl
      cases c
      · rw [State.pushTo, if_neg Bool.false_ne_true, pushRecord_closed hc]
        rfl
      · rw [State.pushTo, if_pos rfl, if_pos hc]
        rfl
    case closes =>
      refine answers ?_ rfl rfl
      rw [State.pushTo, if_pos rfl, if_neg (by rw [hc]; decide)]
    case pushes =>
      refine answers ?_ rfl rfl
      rw [State.pushTo, if_neg Bool.false_ne_true, pushRecord_room hc hn hsp, record_eq]
    case full =>
      refine answers ?_ rfl rfl
      rw [State.pushTo, if_neg Bool.false_ne_true, pushRecord_full hc hn hsp]
      rfl

end Sys2Proof.Machine
end

section
/-! TSTOP stops a sibling and TREAP reclaims one (04 R86, R87; 08 R172). -/
namespace Sys2Proof.Machine
open Sys2Proof

/-! ## What a breach leaves -/

/-- From s to t only launches may differ. -/
def OnlyLaunches (s t : State) : Prop := t = { s with launches := t.launches }

theorem OnlyLaunches.refl (s : State) : OnlyLaunches s s := rfl
theorem OnlyLaunches.trans {s t u : State} (h : OnlyLaunches s t) (k : OnlyLaunches t u) : OnlyLaunches s u := by
  unfold OnlyLaunches at h k ⊢
  rw [k, h]
theorem onlyLaunches_setLaunch (s : State) (l : Nat) (x : Launch) : OnlyLaunches s (s.setLaunch l x) := rfl

section
variable (s : State) (l : Nat)

theorem onlyLaunches_breachGroup (num : Nat) (p at_ : Nat × Nat) : OnlyLaunches s (s.breachGroup l num p at_) := by
  unfold State.breachGroup
  split
  · exact OnlyLaunches.refl s
  · exact onlyLaunches_setLaunch ..

theorem onlyLaunches_breachFrom (p at_ : Nat × Nat) (f : Nat) (ns : List Nat) : OnlyLaunches s (s.breachFrom l p at_ f ns) := by
  induction f generalizing s ns with
  | zero => exact OnlyLaunches.refl s
  | succ f ih =>
    cases ns with
    | nil => exact OnlyLaunches.refl s
    | cons num rest =>
      rw [State.breachFrom]
      split
      · exact ih s rest
      · split
        · exact ih s rest
        · exact (onlyLaunches_breachGroup s l num p at_).trans (ih _ _)

theorem onlyLaunches_breach (num i : Nat) : OnlyLaunches s (s.breach l num i) := by
  unfold State.breach
  dsimp only
  split
  · exact OnlyLaunches.refl s
  · split
    · exact OnlyLaunches.refl s
    · split
      · exact (onlyLaunches_setLaunch ..).trans (onlyLaunches_breachFrom ..)
      · exact onlyLaunches_breachFrom ..

/-- The loss of a slot changes launches only: it breaches the groups that the slot is a member of (09 R203). -/
theorem onlyLaunches_lose (n : Nat) : OnlyLaunches s (s.lose n) := by
  unfold State.lose
  split
  · exact onlyLaunches_breach ..
  · exact OnlyLaunches.refl s

end

@[simp] theorem lose_slots (s : State) (n : Nat) : (s.lose n).slots = s.slots := by rw [onlyLaunches_lose s n]
@[simp] theorem lose_cur (s : State) (n : Nat) : (s.lose n).cur = s.cur := by rw [onlyLaunches_lose s n]
@[simp] theorem lose_slotAt (s : State) (n m : Nat) : (s.lose n).slotAt m = s.slotAt m := by rw [State.slotAt, lose_slots]; rfl

/-! ## Stopping -/

/-- From s to t the issuing slot and the state of every slot but those of a list stay. -/
def KeepsStates (ns : List Nat) (s t : State) : Prop := t.cur = s.cur ∧ ∀ m, m ∉ ns → (t.slotAt m).state = (s.slotAt m).state

theorem KeepsStates.refl (ns : List Nat) (s : State) : KeepsStates ns s s := ⟨rfl, fun _ _ => rfl⟩
theorem KeepsStates.trans {ns : List Nat} {s t u : State} (h : KeepsStates ns s t) (k : KeepsStates ns t u) : KeepsStates ns s u :=
  ⟨k.1.trans h.1, fun m hm => (k.2 m hm).trans (h.2 m hm)⟩

theorem OnlySlot.keepsStates {n : Nat} {s t : State} (h : OnlySlot n s t) (hs : (t.slotAt n).state = (s.slotAt n).state) :
    KeepsStates [] s t := by
  refine ⟨OnlySlot.cur h, fun m _ => ?_⟩
  by_cases hm : m = n
  · rw [hm, hs]
  · rw [h.2.2.1 m hm]

theorem keepsStates_complete (s : State) (n len : Nat) : KeepsStates [] s (s.complete n len) := by
  obtain ⟨ho, -, hs⟩ := completes_complete s n len
  exact OnlySlot.keepsStates ho (by rw [hs])

theorem keepsStates_setGOf (s : State) (n : Nat) (r : Reg) (x : Word) : KeepsStates [] s (s.setGOf n r x) :=
  OnlySlot.keepsStates (onlySlot_setGOf ..) (by rw [slotAt_setGOf])

theorem keepsStates_foldl {α : Type} {f : State → α → State} (h : ∀ s x, KeepsStates [] s (f s x)) (l : List α) (s : State) :
    KeepsStates [] s (l.foldl f s) := by
  induction l generalizing s with
  | nil => exact KeepsStates.refl [] s
  | cons x r ih => exact (h s x).trans (ih _)

/-- The end of a TSTOP's wait changes no slot's state. -/
theorem keepsStates_answerStop (s : State) (n : Nat) : KeepsStates [] s (s.answerStop n) := by
  refine keepsStates_foldl (fun t m => ?_) _ s
  split
  · split
    · exact (keepsStates_setGOf ..).trans (keepsStates_complete ..)
    · exact KeepsStates.refl [] t
  · exact KeepsStates.refl [] t

theorem finishSnap_eq (s : State) (n : Nat) : s.finishSnap n = { s with mem := (s.finishSnap n).mem, slots := (s.finishSnap n).slots } := by
  unfold State.finishSnap
  split
  · rfl
  · rfl

theorem keepsStates_finishSnap (s : State) (n : Nat) : KeepsStates [] s (s.finishSnap n) := by
  unfold State.finishSnap
  split
  · refine ⟨rfl, fun m _ => ?_⟩
    by_cases hm : m = n
    · rw [hm, State.slotAt_setSlot]
    · rw [State.slotAt_setSlot_of_ne _ _ hm]
      rfl
  · exact KeepsStates.refl [] s

section
variable (s : State) (n : Nat)

/-- A slot as it leaves the rotation, before what waits for its stop is told. -/
theorem stopOne_eq : s.stopOne n = (((s.finishSnap n).leaveRotation n .stopped).lose n).answerStop n := rfl

theorem stopOne_state : ((s.stopOne n).slotAt n).state = .stopped := by
  rw [stopOne_eq, (keepsStates_answerStop ..).2 n List.not_mem_nil, lose_slotAt, slotAt_leaveRotation]

theorem keepsStates_stopOne : KeepsStates [n] s (s.stopOne n) := by
  have weaken {s t : State} (h : KeepsStates [] s t) : KeepsStates [n] s t := ⟨h.1, fun m _ => h.2 m List.not_mem_nil⟩
  have leave : KeepsStates [n] (s.finishSnap n) ((s.finishSnap n).leaveRotation n .stopped) := by
    refine ⟨rfl, fun m hm => ?_⟩
    rw [State.leaveRotation, State.slotAt_setSlot_of_ne _ _ (List.ne_of_not_mem_cons hm)]
  have lost : KeepsStates [n] ((s.finishSnap n).leaveRotation n .stopped) (((s.finishSnap n).leaveRotation n .stopped).lose n) :=
    ⟨lose_cur .., fun m _ => by rw [lose_slotAt]⟩
  exact (weaken (keepsStates_finishSnap ..)).trans (leave.trans (lost.trans (weaken (keepsStates_answerStop ..))))

/-- A slot that is stopped stays so where another is. -/
theorem stopOne_state_of_stopped (m : Nat) (h : (s.slotAt n).state = .stopped) : ((s.stopOne m).slotAt n).state = .stopped := by
  by_cases hm : n = m
  · rw [hm, stopOne_state]
  · rw [(keepsStates_stopOne s m).2 n (by simpa using hm), h]

/-- TSTOP leaves its slot STOPPED, whether it is paired or not (04 R86). -/
theorem stopSlot_spec : (s.stopSlot n).cur = s.cur ∧ ((s.stopSlot n).slotAt n).state = .stopped := by
  have cur := (keepsStates_stopOne s n).1
  have state := stopOne_state s n
  unfold State.stopSlot State.pairOf
  cases s.partner n with
  | none =>
    simp only [List.foldl_cons, List.foldl_nil]
    exact ⟨cur, state⟩
  | some m =>
    simp only [List.foldl_cons, List.foldl_nil]
    exact ⟨(keepsStates_stopOne _ m).1.trans cur, stopOne_state_of_stopped _ n m state⟩

end

/-! ## Stores that are performed -/

theorem land_eq (s : State) (x : Counted) : s.land x = { s with mem := (s.land x).mem, poison := (s.land x).poison } := by
  unfold State.land State.unpoison
  split
  · rfl
  · rfl

/-- From s to t only memory, poison and the outstanding stores may differ. -/
def OnlyStores (s t : State) : Prop := t = { s with mem := t.mem, poison := t.poison, culvert := t.culvert }

theorem OnlyStores.refl (s : State) : OnlyStores s s := rfl
theorem OnlyStores.trans {s t u : State} (h : OnlyStores s t) (k : OnlyStores t u) : OnlyStores s u := by
  unfold OnlyStores at h k ⊢
  rw [k, h]
theorem onlyStores_land (s : State) (x : Counted) : OnlyStores s (s.land x) := by
  unfold OnlyStores
  rw [land_eq]

/-- Performing stores changes memory, poison and the culvert only. -/
theorem onlyStores_landMarked (s : State) (ok must : Counted → Bool) (ms : List (Counted × Bool)) :
    OnlyStores s (s.landMarked ok must ms) := by
  suffices H : ∀ (ms : List (Counted × Bool)) (acc : State × List Counted), OnlyStores acc.1
      (ms.foldl (fun (acc : State × List Counted) m =>
        if m.2 && (must m.1 || (ok m.1 && !acc.2.any m.1.follows)) then (acc.1.land m.1, acc.2) else (acc.1, acc.2 ++ [m.1])) acc).1 by
    exact (H ms (s, [])).trans rfl
  intro ms
  induction ms with
  | nil => exact fun acc => OnlyStores.refl acc.1
  | cons m r ih =>
    intro acc
    refine OnlyStores.trans ?_ (ih _)
    dsimp only
    split
    · exact onlyStores_land ..
    · exact OnlyStores.refl _

theorem onlyStores_landOwn (s : State) (n : Nat) : OnlyStores s (s.landOwn n) := by
  unfold State.landOwn
  split
  · exact OnlyStores.refl s
  · exact onlyStores_landMarked ..

namespace OnlyStores
variable {s t : State} (h : OnlyStores s t)
include h

theorem slotAt (m : Nat) : t.slotAt m = s.slotAt m := by rw [h]; rfl
theorem img (m : Nat) : t.img m = s.img m := by rw [h]; rfl
theorem cur : t.cur = s.cur := by rw [h]
theorem sealedHere : t.sealedHere = s.sealedHere := by rw [h]; rfl

end OnlyStores

/-! ## TREAP -/

section
variable (t : Bool) (a d : Reg) (s : State)

/-- TREAP's two results, in a form that waits or does not. -/
def State.answerTwo (st v : Word) : State :=
  if t then ((s.setG d st).setG (regPlus d 1) v).finish 8 else ((s.setG d st).setG (regPlus d 1) v).finishBlocking 8

/-- TREAP of a sibling from 1 to 15 above (04 R87), where the stores of a HALTED one have been performed. -/
def State.reap (n : Nat) : State :=
  match s.reapState n with
  | .live => if t then (if s.sealedHere then s.trapSealed else s.answerTwo t d (neg 1) 0) else s.block s.cur .poll
  | .halted => (s.freeSlot n).answerTwo t d 0 (s.slotAt n).exitVal
  | .stopped => (s.freeSlot n).answerTwo t d 1 0
  | .parked => s.answerTwo t d 2 0
  | .free => s.answerTwo t d (neg 2) 0

theorem exec_treap : exec (.treap t d a) s = issue (.treap t d a) s fun s =>
    if (s.g a).toNat < 1 ∨ 15 < (s.g a).toNat then s.answerTwo t d (neg 3) 0
    else State.reap t d (if (s.slotAt (s.cur + (s.g a).toNat)).state = .halted then s.landOwn (s.cur + (s.g a).toNat) else s)
      (s.cur + (s.g a).toNat) := rfl

theorem exec_tstop : exec (.tstop d a) s = issue (.tstop d a) s fun s =>
    if (s.g a).toNat < 1 ∨ 15 < (s.g a).toNat then s.answer d (neg 3)
    else if (s.slotAt (s.cur + (s.g a).toNat)).state ≠ .live then s.answer d 1
    else if s.sealedHere then s.trapSealed
    else if s.stopHeld (s.cur + (s.g a).toNat) then
      (s.setSlot (s.cur + (s.g a).toNat) { s.slotAt (s.cur + (s.g a).toNat) with stopDue := true }).block s.cur
        (.tstop d (s.cur + (s.g a).toNat))
    else (s.stopSlot (s.cur + (s.g a).toNat)).answer d 0 := rfl

end

section
variable {t : Bool} {a d : Reg} {s : State}

/-- TREAP's results in a state that leaves the issuing slot's image and record as they are. -/
theorem finishesAs_answerTwo {i : Instr} {mid : State} {st v : Word} (hc : mid.cur = s.cur) (hi : mid.img s.cur = s.img s.cur)
    (hx : exec i s = .next (mid.answerTwo t d st v)) :
    FinishesAs i 8 t (((s.img s.cur).withG d st).withG (regPlus d 1) v) mid s := by
  have h := ((OnlyImage.refl mid).setG d st).setG (regPlus d 1) v
  rw [hc, hi] at h
  exact h.finishesAs hc.symm hx

/-- Freeing a sibling leaves the issuing slot's image. -/
theorem img_freeSlot_of_ne {n m : Nat} (h : m ≠ n) : (s.freeSlot n).img m = s.img m := by
  rw [State.img, State.freeSlot, imageKey_setSlot_of_ne _ _ h]
  rfl

theorem reapState_of_ne {n : Nat} (h : (s.slotAt n).state ≠ .halted) : s.reapState n = (s.slotAt n).state := by
  unfold State.reapState
  simp [h]

theorem reapState_of_outstanding {n : Nat} (h : (s.slotAt n).state = .halted) (ho : s.outstanding n = true) : s.reapState n = .live := by
  unfold State.reapState
  simp [h, ho]

theorem reapState_of_not_outstanding {n : Nat} (h : (s.slotAt n).state = .halted) (ho : s.outstanding n = false) :
    s.reapState n = .halted := by
  unfold State.reapState
  simp [h, ho]

end

/-- Settles O13: TSTOP by the state of the slot that it stops, TREAP by that which it finds once stores are performed. -/
theorem siblingsStopAndAreReaped : Obligations.SiblingsStopAndAreReaped := by
  unfold Obligations.SiblingsStopAndAreReaped
  intro t d a s x n two free u
  refine ⟨fun h0 => ?zero, fun h0 =>
    ⟨trapsOn_of_privFault rfl rfl (if_pos h0), trapsOn_of_privFault rfl rfl (if_pos h0)⟩⟩
  have hn : s.cur + (s.g a).toNat = n := rfl
  have stopPasses : s.issueFault (.tstop d a) = none :=
    issueFault_eq_none rfl (if_neg (not_not_intro h0)) (engineAllows_scalar _) (.inl rfl)
  have reapPasses (t : Bool) : s.issueFault (.treap t d a) = none :=
    issueFault_eq_none rfl (if_neg (not_not_intro h0)) (engineAllows_scalar _) (.inl rfl)
  have stopRan := (exec_tstop a d s).trans (issue_ok stopPasses)
  have reapRan (t : Bool) := (exec_treap t a d s).trans (issue_ok (reapPasses t))
  simp only [hn] at stopRan reapRan
  have stops {y : Word} {mid : State} (hc : mid.cur = s.cur) (ho : exec (.tstop d a) s = .next (mid.answer d y)) :
      Finishes (.tstop d a) 8 ((mid.img s.cur).withG d y) mid s := ⟨_, ho, ends_answer d y hc⟩
  refine ⟨fun hx => ⟨?stopOutside, ?reapOutside⟩, fun h1 h15 => ?inside⟩
  case stopOutside =>
    rw [if_pos hx] at stopRan
    exact stops rfl stopRan
  case reapOutside =>
    refine finishesAs_answerTwo rfl rfl ((reapRan t).trans ?_)
    rw [if_pos hx]
    rfl
  have hx : ¬ ((s.g a).toNat < 1 ∨ 15 < (s.g a).toNat) := by omega
  have hcur : s.cur ≠ n := by omega
  rw [if_neg hx] at stopRan
  simp only [if_neg hx] at reapRan
  have reapHalted (h : (s.slotAt n).state = .halted) (t : Bool) : exec (.treap t d a) s = .next (u.reap t d n) :=
    (reapRan t).trans (by rw [if_pos h])
  have reapOther (h : (s.slotAt n).state ≠ .halted) (t : Bool) : exec (.treap t d a) s = .next (s.reap t d n) :=
    (reapRan t).trans (by rw [if_neg h])
  have hu : OnlyStores s u := onlyStores_landOwn s n
  have huState (h : (s.slotAt n).state = .halted) : (u.slotAt n).state = .halted := by rw [hu.slotAt, h]
  refine ⟨fun h => ?notLive, fun h hs hh => ?stopped, fun h hs hh => ?stopWaits, fun h hs => ?stopSealed, fun h ho => ?halted,
    fun h ho => ⟨?haltedWaits, fun hs => ?haltedTries, fun hs => ?haltedSealed⟩, fun h => ?reapStopped, fun h => ?parked,
    fun h => ?wasFree, fun h => ?liveWaits, fun h hs => ?liveTries, fun h hs => ?liveSealed⟩
  case notLive =>
    rw [if_pos h] at stopRan
    exact stops rfl stopRan
  case stopped =>
    obtain ⟨hc, hst⟩ := stopSlot_spec s n
    rw [if_neg (not_not_intro h), hs, if_neg Bool.false_ne_true, hh] at stopRan
    exact ⟨_, stops hc stopRan, hst⟩
  case stopWaits =>
    rw [if_neg (not_not_intro h), hs, if_neg Bool.false_ne_true, if_pos hh] at stopRan
    exact stopRan
  case stopSealed =>
    rw [if_neg (not_not_intro h), if_pos hs] at stopRan
    exact ⟨_, stopRan, traps_trap ..⟩
  case halted =>
    refine finishesAs_answerTwo hu.cur ?_ ((reapHalted h t).trans ?_)
    · rw [← hu.img s.cur]
      exact img_freeSlot_of_ne hcur
    · rw [State.reap, reapState_of_not_outstanding (huState h) ho, hu.slotAt]
      rfl
  case haltedWaits =>
    refine (reapHalted h false).trans ?_
    rw [State.reap, reapState_of_outstanding (huState h) ho, ← hu.cur]
    rfl
  case haltedTries =>
    refine finishesAs_answerTwo (t := true) hu.cur (hu.img _) ((reapHalted h true).trans ?_)
    rw [State.reap, reapState_of_outstanding (huState h) ho, hu.sealedHere, hs]
    rfl
  case haltedSealed =>
    refine ⟨_, reapHalted h true, ?_⟩
    rw [State.reap, reapState_of_outstanding (huState h) ho, hu.sealedHere, hs, ← hu.cur]
    exact traps_trap ..
  all_goals
    have hne : (s.slotAt n).state ≠ .halted := by rw [h]; decide
    have found : s.reapState n = (s.slotAt n).state := reapState_of_ne hne
    rw [h] at found
  case reapStopped =>
    refine finishesAs_answerTwo rfl (img_freeSlot_of_ne hcur) ((reapOther hne t).trans ?_)
    rw [State.reap, found]
    rfl
  case parked =>
    refine finishesAs_answerTwo rfl rfl ((reapOther hne t).trans ?_)
    rw [State.reap, found]
  case wasFree =>
    refine finishesAs_answerTwo rfl rfl ((reapOther hne t).trans ?_)
    rw [State.reap, found]
    rfl
  case liveWaits =>
    refine (reapOther hne false).trans ?_
    rw [State.reap, found]
    rfl
  case liveTries =>
    refine finishesAs_answerTwo (t := true) rfl rfl ((reapOther hne true).trans ?_)
    rw [State.reap, found, hs]
    rfl
  case liveSealed =>
    refine ⟨_, reapOther hne true, ?_⟩
    rw [State.reap, found, hs]
    exact traps_trap ..

end Sys2Proof.Machine
end

section
/-! Boundary causes: TICK and WDOG become pending, and a pending cause is delivered as an effect or a trap, or given to the reeve (12
R239, R240; 13 R254 to R256). -/
namespace Sys2Proof.Machine
open Sys2Proof

/-! ## Replacing a unit twice -/

theorem put_put {α : Type} (m : List (Nat × α)) (n : Nat) (x y : α) : put (put m n x) n y = put m n y := by
  induction m with
  | nil => simp [put]
  | cons p r ih =>
    obtain ⟨k, v⟩ := p
    simp only [put]
    split
    · simp [put]
    · split
      · simp [put]
      · next hne hlt => simp only [put, if_neg hne, if_neg hlt, ih]

theorem setSlot_setSlot (s : State) (n : Nat) (x y : Slot) : (s.setSlot n x).setSlot n y = s.setSlot n y :=
  congrArg (fun m => { s with slots := m }) (put_put ..)

/-! ## Causes that become pending -/

theorem tickBoundary_eq {s : State} {n : Nat} (h : (s.slotAt n).tickDue = true) : s.tickBoundary n = s.setSlot n
    { s.slotAt n with tickDue := false, pending := raiseIn (s.slotAt n).pending ⟨0x16, 0, 0⟩ } := by
  rw [State.tickBoundary, if_pos h, State.pend, State.slotAt_setSlot, setSlot_setSlot]

theorem wdogBoundary_eq {s : State} {n : Nat} (h : (s.slotAt n).wdDue = true) (hw : (s.slotAt n).wait = none) :
    s.wdogBoundary n = s.setSlot n { s.slotAt n with wdDue := false, pending := raiseIn (s.slotAt n).pending ⟨0x19, 0, 0⟩ } := by
  rw [State.wdogBoundary, if_pos (by rw [h, hw]; rfl), State.pend, State.slotAt_setSlot, setSlot_setSlot]

/-! ## Taking a trap, at a boundary or not -/

section
variable {s : State} {n cause : Nat} (sub : Nat) (v : Word) (b : Bool)

theorem toReeve_congr {t : State} (h : t.img n = s.img n) : t.toReeve n cause = s.toReeve n cause := by
  unfold State.toReeve
  rw [h]

/-- A trap to the reeve holds the slot with the trap's record (13 R256). -/
theorem takeTrap_of_toReeve (h : s.toReeve n cause = true) : s.takeTrap n cause sub v b =
    s.setSlot n { s.slotAt n with wait := none, hold := some ⟨cause, sub, v, (s.img n).pc, b⟩ } := by
  have hi : (s.setSlot n { s.slotAt n with wait := none }).img n = s.img n := img_setSlot_same _ _ _ rfl
  rw [State.takeTrap, if_pos ((toReeve_congr hi).trans h), State.slotAt_setSlot, State.pcOf, hi, setSlot_setSlot]

/-- A trap to supervisor level enters it (13 R255). -/
theorem takeTrap_of_not_toReeve (h : s.toReeve n cause = false) : s.takeTrap n cause sub v b =
    (s.setSlot n { s.slotAt n with wait := none }).setImg n ((s.img n).enter cause sub v (s.img n).pc b) := by
  have hi : (s.setSlot n { s.slotAt n with wait := none }).img n = s.img n := img_setSlot_same _ _ _ rfl
  rw [State.takeTrap, if_neg (by rw [toReeve_congr hi, h]; decide), State.pcOf, hi]

end

/-! ## A capture -/

/-- From s to t memory only may differ. -/
def OnlyMem (s t : State) : Prop := t = { s with mem := t.mem }

theorem OnlyMem.refl (s : State) : OnlyMem s s := rfl
theorem OnlyMem.trans {s t u : State} (h : OnlyMem s t) (k : OnlyMem t u) : OnlyMem s u := mem_only_trans h k
theorem onlyMem_write (s : State) (l : Loc) (n x : Nat) : OnlyMem s (s.write l n x) := rfl

theorem OnlyMem.slotAt {s t : State} (h : OnlyMem s t) (n : Nat) : t.slotAt n = s.slotAt n := by rw [h]; rfl
theorem OnlyMem.now {s t : State} (h : OnlyMem s t) (n : Nat) : t.now n = s.now n := by rw [h]; rfl

theorem onlyMem_foldl {α : Type} {f : State → α → State} (h : ∀ s x, OnlyMem s (f s x)) (l : List α) (s : State) :
    OnlyMem s (l.foldl f s) := by
  induction l generalizing s with
  | nil => exact OnlyMem.refl s
  | cons x r ih => exact (h s x).trans (ih _)

/-- What a capture writes to memory: the record's levels and registers, and the frame's R and SKIPTOP (12 R243). -/
def State.captureMem (s : State) (n i f : Nat) : State :=
  ((s.saveLevels n i).saveRegs n i).markFrame n f 1 (hspDepth (s.img n).hsp)

theorem onlyMem_captureMem (s : State) (n i f : Nat) : OnlyMem s (s.captureMem n i f) := by
  have word (t : State) (off : Nat) (x : Word) : OnlyMem t (t.setRecordWord n i off x) := onlyMem_write ..
  have levels : OnlyMem s (s.saveLevels n i) := onlyMem_foldl (fun t k => (word t _ _).trans (word _ _ _)) _ s
  have regs : OnlyMem (s.saveLevels n i) ((s.saveLevels n i).saveRegs n i) := onlyMem_foldl (fun t k => word t _ _) _ _
  exact (levels.trans regs).trans (onlyMem_write ..)

theorem withG_g_same (im : Image) {r : Reg} (x : Word) (h : r ≠ 0) : (im.withG r x).g[r] = x := by
  unfold Image.withG
  rw [if_neg h]
  exact Vector.getElem_set_self r.isLt

/-- The thread in its handler after the memory of a capture is written: g3 and g4, and the handler's pc, at which it issues when the turns
are over (12 R236, R243). -/
def State.enterHandler (m : State) (n x : Nat) (token pc : Word) (snap : Nat × Word) : State :=
  let s := ((m.setGOf n 3 (word x)).setGOf n 4 token).setPc n pc
  s.setSlot n { s.slotAt n with wait := none, issueFrom := s.now n + 128, snap := some snap }

theorem capture_eq (s : State) (n i f x : Nat) (vp : Option (Nat × Nat)) : ∃ token snap,
    s.capture n i f x vp = (s.captureMem n i f).enterHandler n x token (s.frameWord n f 1) snap := ⟨_, _, rfl⟩

theorem withG_pc (im : Image) (r : Reg) (x : Word) : (im.withG r x).pc = im.pc := by
  unfold Image.withG
  split
  · rfl
  · rfl

section
variable (m : State) (n x : Nat) (token pc : Word) (snap : Nat × Word)

theorem img_enterHandler : (m.enterHandler n x token pc snap).img n =
    { ((m.img n).withG 3 (word x)).withG 4 token with pc := pc } := by
  unfold State.enterHandler
  dsimp only
  rw [img_setSlot_same, State.setPc, img_setImg, img_setGOf, img_setGOf]
  rfl

theorem slotAt_enterHandler : (m.enterHandler n x token pc snap).slotAt n =
    { m.slotAt n with wait := none, issueFrom := m.now n + 128, snap := some snap } := by
  unfold State.enterHandler
  dsimp only
  rw [State.slotAt_setSlot, State.setPc, slotAt_setImg, slotAt_setGOf, slotAt_setGOf]
  rfl

end

/-- What a capture that delivers a hardware cause leaves (12 R239). -/
structure Delivered (s t : State) (n f cause sub : Nat) (v : Word) : Prop where
  pc : (t.img n).pc = s.frameWord n f 1
  g3 : (t.img n).g[3] = word cause
  g5 : (t.img n).g[5] = word sub
  g6 : (t.img n).g[6] = v
  pending : (t.slotAt n).pending = (s.slotAt n).pending
  issueFrom : (t.slotAt n).issueFrom = s.now n + 128

theorem raiseCause_delivered {s : State} {n cause f i : Nat} (sub : Nat) (v : Word) (h : s.effectTarget n cause = some (f, i)) :
    Delivered s (s.raiseCause n cause sub v none) n f cause sub v := by
  have ran : s.raiseCause n cause sub v none = ((s.capture n i f cause none).setGOf n 5 (word sub)).setGOf n 6 v := by
    unfold State.raiseCause
    rw [h]
  obtain ⟨token, snap, hc⟩ := capture_eq s n i f cause none
  have hm := onlyMem_captureMem s n i f
  rw [hc] at ran
  generalize s.captureMem n i f = m at ran hm
  have image : (s.raiseCause n cause sub v none).img n =
      (({ ((m.img n).withG 3 (word cause)).withG 4 token with pc := s.frameWord n f 1 } : Image).withG 5 (word sub)).withG 6 v := by
    rw [ran, img_setGOf, img_setGOf, img_enterHandler]
  have slot : (s.raiseCause n cause sub v none).slotAt n =
      { s.slotAt n with wait := none, issueFrom := s.now n + 128, snap := some snap } := by
    rw [ran, slotAt_setGOf, slotAt_setGOf, slotAt_enterHandler, hm.slotAt, hm.now]
  generalize s.raiseCause n cause sub v none = t at image slot
  have g3 : (((m.img n).withG 3 (word cause)).withG 4 token).g[(3 : Reg)] = word cause :=
    (withG_g_of_ne _ token (by decide)).trans (withG_g_same _ _ (by decide))
  have nat3 (im : Image) : im.g[3] = im.g[(3 : Reg)] := rfl
  have nat5 (im : Image) : im.g[5] = im.g[(5 : Reg)] := rfl
  have nat6 (im : Image) : im.g[6] = im.g[(6 : Reg)] := rfl
  refine ⟨?_, ?_, ?_, ?_, ?_, ?_⟩
  · rw [image, withG_pc, withG_pc]
  · rw [nat3, image, withG_g_of_ne _ v (by decide), withG_g_of_ne _ (word sub) (by decide)]
    exact g3
  · rw [nat5, image, withG_g_of_ne _ v (by decide), withG_g_same _ _ (by decide)]
  · rw [nat6, image, withG_g_same _ v (by decide)]
  · rw [slot]
  · rw [slot]

/-! ## Taking a pending cause -/

/-- The state in which a pending cause is raised: it is pending no more, and a QUOTA that is taken as an effect is noted (21 R380). -/
def State.unpend (s : State) (n : Nat) (r : Raised) : State :=
  let s := s.noteQuota n r.cause
  s.setSlot n { s.slotAt n with pending := (s.slotAt n).pending.filter fun p => p.cause ≠ r.cause }

theorem takeBoundary_eq (s : State) (n : Nat) (r : Raised) :
    s.takeBoundary n r = (s.unpend n r).raisePaired n r.cause r.sub r.val none := rfl

section
variable {s : State} {n : Nat} {r : Raised}

/-- Noting QUOTA changes the list of one launch's threads at most. -/
theorem noteQuota_eq (cause : Nat) : ∃ ls, s.noteQuota n cause = { s with launches := ls } ∧
    ∀ l, (look {} ls l : Launch).record = (s.launchAt l).record := by
  unfold State.noteQuota
  dsimp only
  split
  · refine ⟨_, rfl, fun l => ?_⟩
    by_cases hl : l = (s.slotAt n).launch
    · rw [hl, look_put_same]
    · rw [look_put_of_ne _ _ _ hl]
      rfl
  · exact ⟨_, rfl, fun _ => rfl⟩

theorem slotAt_unpend : (s.unpend n r).slotAt n =
    { s.slotAt n with pending := (s.slotAt n).pending.filter fun p => p.cause ≠ r.cause } := by
  obtain ⟨ls, h, -⟩ := noteQuota_eq (s := s) (n := n) r.cause
  rw [State.unpend, h, State.slotAt_setSlot]
  rfl

theorem img_unpend : (s.unpend n r).img n = s.img n := by
  obtain ⟨ls, h, -⟩ := noteQuota_eq (s := s) (n := n) r.cause
  rw [State.unpend, h, img_setSlot_same]
  · rfl
  · rfl

theorem unpend_mem : (s.unpend n r).mem = s.mem := by
  obtain ⟨ls, h, -⟩ := noteQuota_eq (s := s) (n := n) r.cause
  rw [State.unpend, h]
  rfl

theorem unpend_now : (s.unpend n r).now n = s.now n := by
  obtain ⟨ls, h, -⟩ := noteQuota_eq (s := s) (n := n) r.cause
  rw [State.unpend, h]
  rfl

theorem isSealed_unpend : (s.unpend n r).isSealed n = s.isSealed n := by
  have hl : ((s.unpend n r).slotAt n).launch = (s.slotAt n).launch := by rw [slotAt_unpend]
  have hr : ((s.unpend n r).launchAt (s.slotAt n).launch).record = (s.launchAt (s.slotAt n).launch).record := by
    obtain ⟨ls, h, hrec⟩ := noteQuota_eq (s := s) (n := n) r.cause
    rw [State.unpend, h]
    exact hrec _
  rw [State.isSealed, State.isSealed, State.launchOf, State.launchOf, hl, Launch.isSealed, Launch.isSealed, hr]

/-- Without an effect QUOTA is not noted. -/
theorem unpend_of_no_target (h : s.effectTarget n r.cause = none) :
    s.unpend n r = s.setSlot n { s.slotAt n with pending := (s.slotAt n).pending.filter fun p => p.cause ≠ r.cause } := by
  have hq : s.noteQuota n r.cause = s := if_neg (by simp [h])
  rw [State.unpend, hq]

theorem frameWord_congr {t : State} (hi : t.img n = s.img n) (hm : t.mem = s.mem) (i w : Nat) : t.frameWord n i w = s.frameWord n i w := by
  simp only [State.frameWord, State.frameOff, State.read, hi, hm]

theorem effectTarget_congr {t : State} (hi : t.img n = s.img n) (hm : t.mem = s.mem) (hs : t.isSealed n = s.isSealed n) (cause : Nat) :
    t.effectTarget n cause = s.effectTarget n cause := by
  have hf : t.frameHeads n = s.frameHeads n := by simp only [State.frameHeads, hi, frameWord_congr hi hm]
  have hr : t.freeRecord n = s.freeRecord n := by
    simp only [State.freeRecord, State.recordCount, State.recordHead, State.recordWord, State.recordOff, State.read, hi, hm]
  have hl : t.level n = s.level n := by simp only [State.level, hi]
  unfold State.effectTarget
  rw [hf, hr, hl, hs, hi]

theorem raisePaired_of_unpaired {cause sub : Nat} {v : Word} (h : s.partner n = none) :
    s.raisePaired n cause sub v none = s.raiseCause n cause sub v none := by
  have ht : s.trailerOf n = none := by rw [State.trailerOf, h, ite_self]
  unfold State.raisePaired
  dsimp only
  rw [ht]

theorem eventCause_of_unpaired (h : s.partner n = none) : s.eventCause n = s.boundaryCause n := by rw [State.eventCause, h]; rfl

/-- An unpaired slot raises its cause alone. -/
theorem takeBoundary_of_unpaired (h : s.partner n = none) :
    s.takeBoundary n r = (s.unpend n r).raiseCause n r.cause r.sub r.val none := by
  have hp : (s.unpend n r).partner n = none := by rw [State.partner, img_unpend]; exact h
  rw [takeBoundary_eq, raisePaired_of_unpaired hp]

/-- A cause whose effect's conditions do not hold is a trap (12 R239). -/
theorem takeBoundary_of_no_target (h : s.partner n = none) (ht : s.effectTarget n r.cause = none) :
    s.takeBoundary n r = (s.unpend n r).takeTrap n r.cause r.sub r.val (isBoundary r.cause) := by
  have hu : (s.unpend n r).effectTarget n r.cause = none := by
    rw [effectTarget_congr img_unpend unpend_mem isSealed_unpend, ht]
  rw [takeBoundary_of_unpaired h, State.raiseCause, hu]

theorem exec_effectDelivery (hp : s.partner n = none) (hr : s.boundaryCause n = some r) (h : (s.effectTarget n r.cause).isSome = true) :
    exec (.effectDelivery n) s = .next (s.takeBoundary n r) := by
  change Host.Outcome.next _ = _
  rw [eventCause_of_unpaired hp, hr]
  exact congrArg _ (if_pos h)

theorem exec_trapEntry (hp : s.partner n = none) (hr : s.boundaryCause n = some r) (h : s.effectTarget n r.cause = none)
    (hl : s.toReeve n r.cause = false) : exec (.trapEntry n) s = .next (s.takeBoundary n r) := by
  change Host.Outcome.next _ = _
  rw [eventCause_of_unpaired hp, hr]
  exact congrArg _ (if_pos (by rw [h, hl]; decide))

theorem exec_hypervisorTrap (hp : s.partner n = none) (hr : s.boundaryCause n = some r) (h : s.effectTarget n r.cause = none)
    (hl : s.toReeve n r.cause = true) : exec (.hypervisorTrap n) s = .next (s.takeBoundary n r) := by
  change Host.Outcome.next _ = _
  rw [eventCause_of_unpaired hp, hr]
  exact congrArg _ (if_pos (by rw [h, hl]; decide))

/-- A pair takes its causes at its leader's turn, not by these steps (13 R268). -/
theorem no_delivery_of_paired (h : (s.partner n).isSome = true) : exec (.effectDelivery n) s = .next s ∧ exec (.trapEntry n) s = .next s
    ∧ exec (.hypervisorTrap n) s = .next s := by
  have he : s.eventCause n = none := if_pos h
  refine ⟨?_, ?_, ?_⟩
  all_goals
    change Host.Outcome.next _ = _
    rw [he]

end

/-- Settles O31: the raised causes by their marks, each delivery by the case of 12 R239 that holds. -/
theorem boundaryCausesAreDelivered : Obligations.BoundaryCausesAreDelivered := by
  unfold Obligations.BoundaryCausesAreDelivered
  intro n s left
  refine ⟨fun h => congrArg Host.Outcome.next (tickBoundary_eq h), fun h hw => ?wdog, no_delivery_of_paired, fun r hp hr =>
    ⟨fun f i ht => ?effect, fun ht hl => ?trap, fun ht hl => ?reeve⟩⟩
  case wdog =>
    refine ⟨_, congrArg Host.Outcome.next (wdogBoundary_eq h hw), onlySlot_setSlot _ _ _ rfl, rfl, State.slotAt_setSlot ..⟩
  case effect =>
    have hu : (s.unpend n r).effectTarget n r.cause = some (f, i) := by
      rw [effectTarget_congr img_unpend unpend_mem isSealed_unpend, ht]
    have d := raiseCause_delivered r.sub r.val hu
    rw [← takeBoundary_of_unpaired hp] at d
    refine ⟨_, exec_effectDelivery hp hr (by rw [ht]; rfl), d.pc.trans (frameWord_congr img_unpend unpend_mem _ _), d.g3, d.g5, d.g6,
      d.pending.trans (by rw [slotAt_unpend]), d.issueFrom.trans (by rw [unpend_now])⟩
  all_goals
    have unpended := unpend_of_no_target ht
    have taken := takeBoundary_of_no_target hp ht
    have hi : (s.unpend n r).img n = s.img n := img_unpend
    have hs := slotAt_unpend (s := s) (n := n) (r := r)
    have ho : OnlySlot n s (s.unpend n r) := by
      rw [unpended]
      exact onlySlot_setSlot _ _ _ rfl
  case trap =>
    rw [takeTrap_of_not_toReeve _ _ _ ((toReeve_congr hi).trans hl)] at taken
    refine ⟨_, exec_trapEntry hp hr ht hl, ?_, ?_, ?_⟩
    · rw [taken]
      refine ho.trans (OnlySlot.trans (onlySlot_setSlot _ _ _ ?_) (onlySlot_setImg ..))
      rfl
    · rw [taken, img_setImg, hi]
    · rw [taken, slotAt_setImg, State.slotAt_setSlot, hs]
  case reeve =>
    rw [takeTrap_of_toReeve _ _ _ ((toReeve_congr hi).trans hl)] at taken
    refine ⟨_, exec_hypervisorTrap hp hr ht hl, ?_, ?_, ?_⟩
    · rw [taken]
      exact ho.trans (onlySlot_setSlot _ _ _ rfl)
    · rw [taken, img_setSlot_same, hi]
      rfl
    · rw [taken, State.slotAt_setSlot, hs, hi]

end Sys2Proof.Machine
end

section
/-! The reeve calls that act on a partition, and what their callers are given (13 R257, R267, R273; 20 R352; 22 R399; 23 R403). -/
namespace Sys2Proof.Machine
open Sys2Proof

/-! ## Writes of physical memory -/

/-- From s to t only bytes and the marks of poisoned words may differ. -/
def OnlyBytes (s t : State) : Prop := t = { s with mem := t.mem, poison := t.poison }

theorem OnlyBytes.refl (s : State) : OnlyBytes s s := rfl
theorem OnlyBytes.trans {s t u : State} (h : OnlyBytes s t) (k : OnlyBytes t u) : OnlyBytes s u := by
  unfold OnlyBytes at h k ⊢
  rw [k, h]
theorem OnlyBytes.launchAt {s t : State} (h : OnlyBytes s t) (l : Nat) : t.launchAt l = s.launchAt l := by
  rw [h]
  rfl

theorem onlyBytes_foldl {α : Type} {f : State → α → State} (h : ∀ s x, OnlyBytes s (f s x)) (l : List α) (s : State) :
    OnlyBytes s (l.foldl f s) := by
  induction l generalizing s with
  | nil => exact OnlyBytes.refl s
  | cons x r ih => exact (h s x).trans (ih _)

theorem onlyBytes_unpoison (s : State) (l : Loc) (n : Nat) : OnlyBytes s (s.unpoison l n) := by
  unfold State.unpoison
  split
  · exact OnlyBytes.refl s
  · exact rfl

theorem onlyBytes_physWrite (s : State) (pa n x : Nat) : OnlyBytes s (s.physWrite pa n x) := by
  unfold State.physWrite
  split
  · exact OnlyBytes.refl s
  · exact OnlyBytes.trans (t := { s with mem := storeNat s.mem pa n x }) rfl (onlyBytes_unpoison ..)

theorem onlyBytes_partWrite8 (s : State) (part va : Nat) (x : Word) : OnlyBytes s (s.partWrite8 part va x) := by
  unfold State.partWrite8
  split
  · split
    · exact onlyBytes_physWrite ..
    · exact OnlyBytes.refl s
  · exact OnlyBytes.refl s

theorem onlyBytes_writeDone (s : State) (l : Launch) (status : Nat) (dispatched : Bool) (detail : Nat) (a b : BitVec 128) :
    OnlyBytes s (s.writeDone l status dispatched detail a b) := by
  unfold State.writeDone
  split
  · exact OnlyBytes.refl s
  · exact onlyBytes_foldl (fun t i => onlyBytes_partWrite8 ..) _ s

/-! ## What a call answers -/

/-- A call that acts leaves the state that its action leaves, and its results go to the caller. -/
abbrev Answers (op : Instr) (c : Caller) (s mid : State) (res : List (Reg × Word)) : Prop := exec op s = .next (mid.callReturn c res)

section
variable {c : Caller} {p : Nat} {x y z w : Word} {s : State}

section
variable (h : s.callArgs 0x10 c = some (p, x, y, z, w))
include h

theorem setvec_of_misaligned (hy : y.toNat % 4 ≠ 0) : Answers (.setvec c) c s s [(5, neg 1)] := by
  have hb : bits y 1 0 ≠ 0 := by simpa [bits] using hy
  show execSetvec c s = _
  simp only [execSetvec, h, if_pos hb]

theorem setvec_of_aligned (hy : y.toNat % 4 = 0) : Answers (.setvec c) c s
    (s.setPart p { s.partAt p with
      vecs := if y = 0 then drop (s.partAt p).vecs x.toNat else put (s.partAt p).vecs x.toNat y }) [(5, 0)] := by
  have hb : ¬ bits y 1 0 ≠ 0 := by simpa [bits] using hy
  show execSetvec c s = _
  simp only [execSetvec, h, if_neg hb]

end

/-- May UNPARK make slot n STOPPED for partition p (13 R267)? -/
abbrev State.mayUnpark (s : State) (p n : Nat) : Prop :=
  slotExists n = true ∧ (s.slotAt n).state = .parked ∧ (s.slotAt n).launch ≠ 0 ∧ (s.launchOf n).part = p

section
variable (h : s.callArgs 0x11 c = some (p, x, y, z, w))
include h

theorem unpark_of_parked (hm : s.mayUnpark p x.toNat) : Answers (.unpark c) c s
    ((s.setSlot x.toNat { s.slotAt x.toNat with state := .stopped }).answerStop x.toNat) [(5, 0)] := by
  show execUnpark c s = _
  simp only [execUnpark, h, if_pos hm]

theorem unpark_of_not (hm : ¬ s.mayUnpark p x.toNat) : Answers (.unpark c) c s s [(5, neg 1)] := by
  show execUnpark c s = _
  simp only [execUnpark, h, if_neg hm]

end

section
variable (h : s.callArgs 0x12 c = some (p, x, y, z, w))
include h

theorem setroot_of_allotted (hx : x.toNat % 4096 = 0) (ha : (s.partAt p).allots x.toNat 4096 = true) :
    Answers (.setroot c) c s (s.setPart p { s.partAt p with root := some x.toNat }) [(5, 0)] := by
  show execSetroot c s = _
  simp only [execSetroot, h, if_pos (And.intro hx ha)]

theorem setroot_of_not (hx : x.toNat % 4096 ≠ 0 ∨ (s.partAt p).allots x.toNat 4096 = false) :
    Answers (.setroot c) c s s [(5, neg 1)] := by
  have hn : ¬ (x.toNat % 4096 = 0 ∧ (s.partAt p).allots x.toNat 4096 = true) := by
    rintro ⟨h0, ha⟩
    rcases hx with hx | hx
    · exact hx h0
    · simp [ha] at hx
  show execSetroot c s = _
  simp only [execSetroot, h, if_neg hn]

end

/-! ## PUMPRUN -/

/-- Is pump-class slot y free for partition p to bind (22 R399)? -/
abbrev State.pumpFree (s : State) (p y : Nat) : Prop :=
  y < 4864 ∧ y ∈ (s.partAt p).pumpSlots ∧ s.pumpBound y = false ∧ s.pumpShut y = false

theorem pumpCheck_of_not_free {a : Word} (h : ¬ s.pumpFree p y.toNat) : s.pumpCheck p a y z = (neg 1, 0) := by
  rw [State.pumpCheck, if_pos]
  simp only [State.pumpFree] at h
  grind

/-- A free slot passes PUMPRUN's first test. -/
theorem pumpFree_passes {n : Nat} (h : s.pumpFree p n) :
    ¬ (4864 ≤ n ∨ n ∉ (s.partAt p).pumpSlots ∨ s.pumpBound n = true ∨ s.pumpShut n = true) := by
  obtain ⟨hy, hp, hb, hs⟩ := h
  simp only [hb, hs, hp, not_true_eq_false, Bool.false_eq_true, or_false]
  omega

/-- Does a launch end, by a kill or a fatal fault (04 R68, R69)? -/
abbrev Launch.ends (l : Launch) : Prop := l.killed = true ∨ (l.fault ≠ none ∧ l.closed = true)

theorem ending_iff (l : Launch) : l.ending = true ↔ l.ends := by
  simp [Launch.ending, Launch.ends, Option.isSome_iff_ne_none]

section
variable (hf : s.pumpFree p y.toNat)
include hf

theorem pumpCheck_of_none (hl : s.launchOfRecord p x.toNat = none) : s.pumpCheck p x y z = (neg 2, 0) := by
  simp only [State.pumpCheck, if_neg (pumpFree_passes hf), hl]

variable {l : Nat} (hl : s.launchOfRecord p x.toNat = some l)
include hl

theorem pumpCheck_of_ends (he : (s.launchAt l).ends) : s.pumpCheck p x y z = (neg 2, 0) := by
  simp only [State.pumpCheck, if_neg (pumpFree_passes hf), hl, if_pos ((ending_iff _).mpr he)]

variable (he : ¬ (s.launchAt l).ends)
include he

theorem pumpCheck_of_bad_entry (hz : z.toNat % 4 ≠ 0 ∨ (s.launchAt l).record.codelen ≤ z.toNat) :
    s.pumpCheck p x y z = (neg 3, 0) := by
  simp only [State.pumpCheck, if_neg (pumpFree_passes hf), hl, ending_iff, if_neg he, if_pos hz]

theorem pumpCheck_of_entry (ha : z.toNat % 4 = 0) (hz : z.toNat < (s.launchAt l).record.codelen) : s.pumpCheck p x y z =
    if 16 ≤ (s.launchAt l).pumps.length then (neg 4, 0) else (0, l) := by
  have good : ¬ (z.toNat % 4 ≠ 0 ∨ (s.launchAt l).record.codelen ≤ z.toNat) := by omega
  simp only [State.pumpCheck, if_neg (pumpFree_passes hf), hl, ending_iff, if_neg he, if_neg good]

end

section
variable (h : s.callArgs 0x13 c = some (p, x, y, z, w))
include h

theorem pumprun_of_refused {r : Word} (hr : s.pumpCheck p x y z = (r, 0)) (h0 : r ≠ 0) : Answers (.pumprun c) c s s [(5, r)] := by
  show execPumprun c s = _
  simp only [execPumprun, h, hr, if_neg h0]

theorem pumprun_of_bound {l : Nat} (hr : s.pumpCheck p x y z = (0, l)) :
    Answers (.pumprun c) c s (s.bindPump l ⟨y.toNat, z, w⟩) [(5, 0)] := by
  show execPumprun c s = _
  simp only [execPumprun, h, hr, if_true]

end

/-! ## DBPOP -/

section
variable (h : s.callArgs 0x14 c = some (p, x, y, z, w))
include h

theorem dbpop_of_value {v : Word} {r : List Word} (hd : (s.partAt p).doorbell = v :: r) :
    Answers (.dbpop c) c s (s.setPart p { s.partAt p with doorbell := r }) [(5, v), (6, 0)] := by
  show execDbpop c s = _
  simp only [execDbpop, h, hd]

theorem dbpop_of_empty (hd : (s.partAt p).doorbell = []) : Answers (.dbpop c) c s s [(6, neg 1)] := by
  show execDbpop c s = _
  simp only [execDbpop, h, hd]

end

/-! ## SUBMIT -/

/-- Can the record at a be read (04 R66)? -/
abbrev State.recordReadable (s : State) (p a : Nat) : Prop := a % 64 = 0 ∧ s.mapped p a 128 .r = true

/-- The records that a partition has in a queue (04 R67). -/
abbrev State.heldIn (s : State) (p prio : Nat) : Nat :=
  s.launches.countP fun q => q.2.phase = .queued && q.2.part = p && q.2.record.prio = prio

theorem submitAt_of_not_readable {a : Nat} (h : ¬ s.recordReadable p a) : s.submitAt p a = (s, neg 1) := by
  rw [State.submitAt, if_pos]
  simp only [State.recordReadable] at h
  grind

section
variable {a : Nat} (h : s.recordReadable p a)
include h

theorem recordReadable_passes : ¬ (a % 64 ≠ 0 ∨ (!s.mapped p a 128 .r) = true) := by simp [h.1, h.2]

theorem submitAt_of_full (hp : (s.readRecord p a).prio ≤ 3) (hq : 256 ≤ s.heldIn p (s.readRecord p a).prio) :
    s.submitAt p a = (s, neg 2) := by
  simp only [State.submitAt, if_neg (recordReadable_passes h), if_pos (And.intro hp hq)]

variable {l : Nat} (hq : s.heldIn p (s.readRecord p a).prio < 256) (hl : s.newId = some l)
include hq hl

theorem submitAt_of_good (hf : s.recordFault p (s.readRecord p a) = none) : s.submitAt p a =
    ({ s.setLaunch l { part := p, recAddr := a, record := s.readRecord p a, order := s.nextOrder } with
        nextLaunch := l % 65535 + 1 }, 0) := by
  simp only [State.submitAt, if_neg (recordReadable_passes h), if_neg (fun k => Nat.not_le.mpr hq (And.right k)), hl, hf]

theorem submitAt_of_fault {d : Nat} (hf : s.recordFault p (s.readRecord p a) = some d) :
    ∃ u, s.submitAt p a = (u, 1) ∧ OnlyBytes s u := by
  refine ⟨_, ?_, onlyBytes_writeDone s
    { part := p, recAddr := a, record := s.readRecord p a, order := s.nextOrder, phase := .done } 6 false d 0 0⟩
  simp only [State.submitAt, if_neg (recordReadable_passes h), if_neg (fun k => Nat.not_le.mpr hq (And.right k)), hl, hf]

end

theorem submit_answers {u : State} {r : Word} (h : s.callArgs 0x15 c = some (p, x, y, z, w)) (hr : s.submitAt p x.toNat = (u, r)) :
    Answers (.submit c) c s u [(5, r)] := by
  show execSubmit c s = _
  simp only [execSubmit, h, hr]

/-! ## CANCEL -/

theorem cancelLaunch_phase {l : Nat} (h : (s.launchAt l).phase = .queued) : ((s.cancelLaunch l).launchAt l).phase = .done := by
  simp only [State.cancelLaunch, h]
  rw [(onlyBytes_writeDone ..).launchAt, State.launchAt_setLaunch]

theorem killLaunch_killed (s : State) (l : Nat) : ((s.killLaunch l).launchAt l).killed = true := by
  unfold State.killLaunch
  generalize s.stopLaunch l = t
  exact congrArg Launch.killed (State.launchAt_setLaunch ..)

theorem cancelLaunch_of_started {l : Nat} (hq : (s.launchAt l).phase ≠ .queued) (hd : (s.launchAt l).phase ≠ .done) :
    s.cancelLaunch l = s.killLaunch l := by
  unfold State.cancelLaunch
  dsimp only
  split
  · next h => exact absurd h hq
  · next h => exact absurd h hd
  · rfl

section
variable (h : s.callArgs 0x16 c = some (p, x, y, z, w))
include h

theorem cancel_of_none (hl : s.launchOfRecord p x.toNat = none) : Answers (.cancel c) c s s [(5, neg 1)] := by
  show execCancel c s = _
  simp only [execCancel, h, hl]

theorem cancel_of_some {l : Nat} (hl : s.launchOfRecord p x.toNat = some l) :
    Answers (.cancel c) c s (s.cancelLaunch l) [(5, 0)] := by
  show execCancel c s = _
  simp only [execCancel, h, hl]

end
end

/-! ## The caller's results -/

theorem callArgs_of_held {s : State} {n num : Nat} {h : Hold} (hh : (s.slotAt n).hold = some h) (hc : h.cause = 0x20)
    (hv : h.val = word num) :
    s.callArgs num (.slot n) = some ((s.launchOf n).part, s.gOf n 5, s.gOf n 6, s.gOf n 7, s.gOf n 8) := by
  simp only [State.callArgs, hh, if_pos (And.intro hc hv)]

section
variable (s : State) (n : Nat)

theorem slotAt_unhold : (s.unhold n).slotAt n =
    { s.slotAt n with hold := none, turnFrom := max (s.slotAt n).turnFrom (s.now n + 1) } := by
  rw [State.unhold, slotAt_awake, State.slotAt_setSlot]
  rfl

theorem img_unhold : (s.unhold n).img n = s.img n := by
  rw [State.unhold, State.awake, img_setSlot_same, img_setSlot_same]
  · rfl
  · rfl

theorem onlySlot_unhold : OnlySlot n s (s.unhold n) :=
  OnlySlot.trans (onlySlot_setSlot _ _ { s.slotAt n with hold := none } rfl) (onlySlot_awake ..)

theorem onlySlot_skipAt : OnlySlot n s (s.skipAt n) := by
  unfold State.skipAt
  dsimp only
  split
  · exact OnlySlot.refl ..
  · exact onlySlot_setImg ..

theorem slotAt_skipAt : (s.skipAt n).slotAt n = s.slotAt n := by
  unfold State.skipAt
  dsimp only
  split
  · rfl
  · rfl

/-- A held slot that goes on after its instruction, at its first turn after the cycle (13 R256). -/
theorem onlySlot_hctl2 : OnlySlot n s (s.hctl2 n) := (onlySlot_unhold s n).trans (onlySlot_skipAt ..)

theorem slotAt_hctl2 : (s.hctl2 n).slotAt n =
    { s.slotAt n with hold := none, turnFrom := max (s.slotAt n).turnFrom (s.now n + 1) } :=
  (slotAt_skipAt ..).trans (slotAt_unhold ..)

theorem img_hctl2 (ha : (s.img n).pc.toNat % 4 = 0) (hl : (s.img n).pc.toNat < s.codelim n) :
    (s.hctl2 n).img n = (s.img n).atNext ((s.img n).pc + word (s.lengthAt n (s.img n).pc)) := by
  have launch : ((s.unhold n).slotAt n).launch = (s.slotAt n).launch := by rw [slotAt_unhold]
  have pc : (s.unhold n).pcOf n = (s.img n).pc := by rw [State.pcOf, img_unhold]
  have lim : (s.unhold n).codelim n = s.codelim n := by
    rw [State.codelim, State.launchOf, launch]
    rfl
  have len : (s.unhold n).lengthAt n (s.img n).pc = s.lengthAt n (s.img n).pc := by
    rw [State.lengthAt, launch]
    rfl
  have within : ¬ (bits (s.img n).pc 1 0 ≠ 0 ∨ s.codelim n ≤ (s.img n).pc.toNat) := by
    simp only [bits]
    omega
  unfold State.hctl2 State.skipAt
  dsimp only
  rw [pc, lim, len, if_neg within, settle_eq, img_setImg, img_unhold]

end

/-- A slot that called has its result and goes on after its HVC (13 R273). -/
theorem callReturn_slot (s : State) (n : Nat) (v : Word) :
    OnlySlot n s (s.callReturn (.slot n) [(5, v)])
    ∧ (s.callReturn (.slot n) [(5, v)]).slotAt n =
      { s.slotAt n with hold := none, turnFrom := max (s.slotAt n).turnFrom (s.now n + 1) }
    ∧ ((s.img n).pc.toNat % 4 = 0 → (s.img n).pc.toNat < s.codelim n → (s.callReturn (.slot n) [(5, v)]).img n =
      ((s.img n).withG 5 v).atNext ((s.img n).pc + word (s.lengthAt n (s.img n).pc))) := by
  have ret : s.callReturn (.slot n) [(5, v)] = (s.setGOf n 5 v).hctl2 n := rfl
  have image := img_setGOf s n 5 v
  have slot := slotAt_setGOf s n 5 v n
  have only := onlySlot_setGOf s n 5 v
  rw [ret]
  generalize s.setGOf n 5 v = t at image slot only
  have pc : (t.img n).pc = (s.img n).pc := by rw [image, withG_pc]
  have lim : t.codelim n = s.codelim n := by rw [State.codelim, State.launchOf, slot, only.launchAt, State.codelim, State.launchOf]
  have len : t.lengthAt n (s.img n).pc = s.lengthAt n (s.img n).pc := by rw [State.lengthAt, slot, only.mem, State.lengthAt]
  refine ⟨only.trans (onlySlot_hctl2 ..), ?_, fun ha hl => ?_⟩
  · rw [slotAt_hctl2, slot, only.now]
  · rw [img_hctl2 t n (by rwa [pc]) (by rwa [pc, lim]), pc, len, image]

/-! ## The obligation -/

/-- Settles O50. -/
theorem reeveCallsAnswer : Obligations.ReeveCallsAnswer := by
  intro c p x y z w s
  refine ⟨fun h => ⟨setvec_of_misaligned h, setvec_of_aligned h⟩, fun h => ⟨unpark_of_parked h, unpark_of_not h⟩,
    fun h => ⟨setroot_of_allotted h, setroot_of_not h⟩, ?pumprun, fun h => ⟨fun v r => dbpop_of_value h, dbpop_of_empty h⟩, ?submit,
    ?cancel, fun n num h => callArgs_of_held, fun q a b e f v => ⟨rfl, rfl⟩, ?slot⟩
  case pumprun =>
    intro h
    refine ⟨fun hf => pumprun_of_refused h (pumpCheck_of_not_free hf) (by decide),
      fun hf hl => pumprun_of_refused h (pumpCheck_of_none hf hl) (by decide), fun l hf hl =>
      ⟨fun he => pumprun_of_refused h (pumpCheck_of_ends hf hl he) (by decide),
        fun he hz => pumprun_of_refused h (pumpCheck_of_bad_entry hf hl he hz) (by decide), fun he ha hz => ⟨fun hp => ?_, fun hp => ?_⟩⟩⟩
    · exact pumprun_of_refused h ((pumpCheck_of_entry hf hl he ha hz).trans (if_pos hp)) (by decide)
    · exact pumprun_of_bound h ((pumpCheck_of_entry hf hl he ha hz).trans (if_neg (by omega)))
  case submit =>
    intro h
    refine ⟨fun hg => submit_answers h (submitAt_of_not_readable hg), fun hg hp hq => submit_answers h (submitAt_of_full hg hp hq),
      fun l hg hq hl hf => submit_answers h (submitAt_of_good hg hq hl hf), fun l e hg hq hl hf => ?_⟩
    obtain ⟨u, hu, only⟩ := submitAt_of_fault hg hq hl hf
    exact ⟨u, submit_answers h hu, only⟩
  case cancel =>
    intro h
    refine ⟨cancel_of_none h, fun l hl hq => ⟨_, cancel_of_some h hl, cancelLaunch_phase hq⟩,
      fun l hl hq hd => ⟨_, cancel_of_some h hl, ?_⟩⟩
    rw [cancelLaunch_of_started hq hd]
    exact killLaunch_killed s l
  case slot =>
    intro n v
    exact callReturn_slot s n v

end Sys2Proof.Machine
end

section
/-! GLOBAL accesses and counted stores at their issue (07 R138, R139, R159; 09 R196, R197). -/
namespace Sys2Proof.Machine
open Sys2Proof

/-! ## Resolving a GLOBAL address -/

section
variable {s : State} {x : Word} {l : Loc} {n al : Nat} (hl : s.globalLoc x = .ok l) (hs : l.off + n ≤ spSize l.sp)
include hl hs

theorem resolve_plain (ha : x.toNat % al = 0) : s.resolve .plain .glob x n al = .ok l := by
  simp [State.resolve, hl, hs, ha, kindAllowed, bind, Except.bind, pure, Except.pure]

theorem resolve_counted_of_store (h : l.sp ≠ .g) (h' : l.sp ≠ .a) : s.resolve .counted .glob x n al = .error (0x09, 1) := by
  simp [State.resolve, hl, hs, h, h', kindAllowed, bind, Except.bind, throw, throwThe, MonadExceptOf.throw]

theorem resolve_counted_of_group (h : l.sp = .g ∨ l.sp = .a) (ht : l.tile ∉ s.groupTiles s.cur) :
    s.resolve .counted .glob x n al = .error (0x09, 3) := by
  rcases h with h | h
  all_goals
    rw [h] at hs
    simp [State.resolve, hl, hs, h, ht, kindAllowed, bind, Except.bind, throw, throwThe, MonadExceptOf.throw]

theorem resolve_counted (h : l.sp = .g ∨ l.sp = .a) (ht : l.tile ∈ s.groupTiles s.cur) (ha : x.toNat % al = 0) :
    s.resolve .counted .glob x n al = .ok l := by
  rcases h with h | h
  all_goals
    rw [h] at hs
    simp [State.resolve, hl, hs, h, ht, ha, kindAllowed, bind, Except.bind, pure, Except.pure]

end

/-! ## Issue -/

/-- A GLOBAL access of a location blocks its thread (07 R138). -/
theorem memory_glob {s : State} {x : Word} {l : Loc} {op : AccessOp} {bytes count : Nat} {reg : Reg} {data : List Word}
    (hl : s.globalLoc x = .ok l) (hs : l.off + bytes * count ≤ spSize l.sp) (ha : x.toNat % bytes = 0) :
    s.memory .plain .glob x op bytes count reg data = s.block s.cur (.globalOut ⟨op, bytes, count, reg, data, x, l⟩ 0) := by
  rw [State.memory, resolve_plain hl hs ha]
  rfl

/-- What a counted store leaves in the culvert (09 R197). -/
def State.countedEntry (s : State) (w : Width) (d : Reg) (l : Loc) : Counted :=
  { slot := s.cur, cls := 6, tile := tileOf s.cur, due := s.countedDue l, loc := l, data := leBytes (w.bits / 8) (s.g d).toNat
    counted := true, mx := s.matrixIssued s.cur }

theorem countedStore_of_ok {s : State} {w : Width} {d : Reg} {x : Word} {l : Loc}
    (h : s.resolve .counted .glob x (w.bits / 8) (w.bits / 8) = .ok l) :
    s.countedStore w d x = ({ s with culvert := s.culvert ++ [s.countedEntry w d l] } : State).retire 8 := by
  rw [State.countedStore, h]
  rfl

theorem countedStore_of_error {s : State} {w : Width} {d : Reg} {x : Word} {c sub : Nat}
    (h : s.resolve .counted .glob x (w.bits / 8) (w.bits / 8) = .error (c, sub)) : s.countedStore w d x = s.trap c sub x := by
  rw [State.countedStore, h]

/-- Does a counted store that issues now, with the cycle V, lie in its group's counted window with V (09 R196)? -/
abbrev State.inWindow (s : State) (v : Nat) : Prop :=
  ∃ lid g i edge, s.membership s.cur = some (lid, g, i) ∧ (s.launchAt lid).isLevel = true
    ∧ g.edges.getD i none = some edge ∧ edge ≤ s.now s.cur ∧ v ≤ edge + 4095

/-- The cycle V of a counted store that issues now (09 R197). -/
abbrev State.countedCycle (s : State) (l : Loc) : Nat :=
  s.now s.cur + 20 + 4 * hops (s.tileAt (tileOf s.cur)).logTile (s.tileAt l.tile).logTile

theorem countedDue_of_inWindow {s : State} {l : Loc} (h : s.inWindow (s.countedCycle l)) : s.countedDue l = some (s.countedCycle l) := by
  obtain ⟨lid, g, i, edge, hm, hlev, hedge, hlo, hhi⟩ := h
  have within : edge ≤ s.now s.cur ∧ s.now s.cur ≤ edge + 4095 ∧ s.countedCycle l ≤ edge + 4095 :=
    ⟨hlo, by unfold State.countedCycle at hhi; omega, hhi⟩
  simp only [State.countedDue, hm, hlev, hedge, Bool.not_true, Bool.false_eq_true, if_false]
  exact if_pos within

theorem countedDue_of_not_inWindow {s : State} {l : Loc} (h : ¬ s.inWindow (s.countedCycle l)) : s.countedDue l = none := by
  unfold State.countedDue
  split
  · rfl
  · next lid g i hm =>
    split
    · rfl
    · next hlev =>
      split
      · rfl
      · next edge hedge =>
        have hlev : (s.launchAt lid).isLevel = true := by simpa using hlev
        exact if_neg fun ⟨hlo, _, hhi⟩ => h ⟨lid, g, i, edge, hm, hlev, hedge, hlo, hhi⟩

/-- The scalar accesses pass the frame's checks. -/
theorem issueFault_access {s : State} {i : Instr} (hu : unitOf i = .scalar) (hf : s.lateField i = none) (hp : s.privFault i = none)
    (hr : s.reveals i = false) : s.issueFault i = none :=
  issueFault_eq_none hf hp (by rw [hu]; rfl) (.inl hr)

section
variable (w : Width) (sg : Bool) (o : Ord) (d : Reg) (m : Addr) {s : State} {l : Loc} (hl : s.globalLoc (s.effAddr m) = .ok l)
  (ha : (s.effAddr m).toNat % (w.bits / 8) = 0)
include hl ha

theorem blocksOn_ld (hs : l.off + w.bits / 8 ≤ spSize l.sp) :
    BlocksOn (.ld w sg o .glob d m) (.globalOut ⟨.load sg, w.bits / 8, 1, d, [], s.effAddr m, l⟩ 0) s s :=
  blocksOn_of_body (exec_ld ..) (issueFault_access rfl rfl rfl rfl) (memory_glob hl (by rwa [Nat.mul_one]) ha)

theorem blocksOn_ldm (hs : l.off + w.bits / 8 * 4 ≤ spSize l.sp) :
    BlocksOn (.ldm w sg o .glob d m) (.globalOut ⟨.load sg, w.bits / 8, 4, d, [], s.effAddr m, l⟩ 0) s s :=
  blocksOn_of_body (exec_ldm ..) (issueFault_access rfl rfl rfl rfl) (memory_glob hl hs ha)

theorem blocksOn_stm (hs : l.off + w.bits / 8 * 4 ≤ spSize l.sp) : BlocksOn (.stm w o .glob d m)
    (.globalOut ⟨.store, w.bits / 8, 4, d, (List.range 4).map fun k => s.g (regPlus d k), s.effAddr m, l⟩ 0) s s :=
  blocksOn_of_body (exec_stm ..) (issueFault_access rfl rfl rfl rfl) (memory_glob hl hs ha)

theorem blocksOn_st (hs : l.off + w.bits / 8 ≤ spSize l.sp) (ho : o ≠ .counted) :
    BlocksOn (.st w o .glob d m) (.globalOut ⟨.store, w.bits / 8, 1, d, [s.g d], s.effAddr m, l⟩ 0) s s := by
  have source : s.sources d 1 = [s.g d] := by
    rw [State.sources, List.range_one, List.map_singleton, regPlus_zero]
  refine blocksOn_of_body (exec_st ..) (issueFault_access rfl rfl rfl rfl) ?_
  rw [if_neg ho, source]
  exact memory_glob hl (by rwa [Nat.mul_one]) ha

end

/-- A counted ST's body in full. -/
theorem exec_st_counted (w : Width) (d : Reg) (m : Addr) (s : State) :
    exec (.st w .counted .glob d m) s = .next (s.countedStore w d (s.effAddr m)) :=
  (exec_st ..).trans <| (issue_ok (issueFault_access rfl rfl rfl rfl)).trans <| by rw [if_pos rfl]

/-- A counted ST of a location that Resolve refuses. -/
theorem trapsOn_counted {w : Width} {d : Reg} {m : Addr} {s : State} {sub : Nat}
    (h : s.resolve .counted .glob (s.effAddr m) (w.bits / 8) (w.bits / 8) = .error (0x09, sub)) :
    TrapsOn (.st w .counted .glob d m) 0x09 sub (s.effAddr m) s :=
  ⟨_, (exec_st_counted ..).trans (by rw [countedStore_of_error h]), traps_trap ..⟩

/-- A counted ST that goes enters the culvert, and its thread goes on. -/
theorem acts_counted {w : Width} {d : Reg} {m : Addr} {s : State} {l : Loc}
    (h : s.resolve .counted .glob (s.effAddr m) (w.bits / 8) (w.bits / 8) = .ok l) :
    Acts (.st w .counted .glob d m) 8 (s.img s.cur) { s with culvert := s.culvert ++ [s.countedEntry w d l] } s :=
  ⟨_, (exec_st_counted ..).trans (congrArg _ (countedStore_of_ok h)), retires_retireOf ..⟩

end Sys2Proof.Machine
end

section
/-! A GLOBAL access at its owner (07 R138, R141, R144, R149). -/
namespace Sys2Proof.Machine
open Sys2Proof

/-! ## What stays while stores are performed -/

theorem onlyStores_foldl {α : Type} {f : State → α → State} (h : ∀ s x, OnlyStores s (f s x)) (l : List α) (s : State) :
    OnlyStores s (l.foldl f s) := by
  induction l generalizing s with
  | nil => exact OnlyStores.refl s
  | cons x r ih => exact (h s x).trans (ih _)

theorem onlyStores_landAccepted (s : State) (l : Loc) (n : Nat) : OnlyStores s (s.landAccepted l n) := by
  unfold State.landAccepted State.landAll
  split
  · exact OnlyStores.refl s
  · generalize hq : (fun x : Counted => x.cls = 6 && !x.counted && decide (wordKey x.loc.key ∈ wordsTouched l.key n)) = q
    exact OnlyStores.trans (t := { s with culvert := s.culvert.filter fun x => !q x }) rfl
      (onlyStores_foldl (fun t x => onlyStores_land t x) _ _)

theorem landAll_of_none {s : State} {q : Counted → Bool} (h : ∀ y ∈ s.culvert, q y = false) : s.landAll q = s := by
  have none : s.culvert.filter q = [] := List.filter_eq_nil_iff.mpr fun y hy => by rw [h y hy]; exact Bool.false_ne_true
  have all : (s.culvert.filter fun x => !q x) = s.culvert := List.filter_eq_self.mpr fun y hy => by rw [h y hy]; rfl
  rw [State.landAll, none, all]
  rfl

/-- Where the culvert holds counted stores only of the class, no accepted one is to be performed. -/
theorem landAccepted_of_counted {s : State} (h : ∀ y ∈ s.culvert, y.cls = 6 → y.counted = true) (l : Loc) (n : Nat) :
    s.landAccepted l n = s := by
  unfold State.landAccepted
  split
  · rfl
  · refine landAll_of_none fun y hy => ?_
    by_cases hc : y.cls = 6
    · simp [h y hy hc]
    · simp [hc]

namespace OnlyStores
variable {s t : State} (h : OnlyStores s t)
include h

theorem launchOf (m : Nat) : t.launchOf m = s.launchOf m := by rw [h]; rfl
theorem rangesOf (l : Loc) : t.rangesOf l = s.rangesOf l := by rw [h]; rfl

end OnlyStores

/-! ## The race check -/

/-- Nothing is checked in an unchecked launch, nor of a store without checked ranges (07 R155, R156). -/
theorem raceCheck_of_unchecked {s : State} {k : Nat} {l : Loc} (h : (s.launchOf k).isChecked = false ∨ s.rangesOf l = [])
    (n : Nat) (wr : Bool) : s.raceCheck k l n wr = .ok s := by
  unfold State.raceCheck
  split
  · rfl
  · next hc =>
    have hr : s.rangesOf l = [] := by
      rcases h with h | h
      · simp [h] at hc
      · exact h
    rw [State.checkedGranules]
    simp only [hr, if_true]
    rfl

/-! ## A store's writes -/

section
variable (s : State) (n : Nat) (a : Access)

theorem onlyBytes_writeElem {l : Loc} (h : l.sp ≠ .ctx) (e x : Nat) : OnlyBytes s (s.writeElem n l e x) := by
  rw [State.writeElem, if_neg h]
  exact OnlyBytes.trans (t := s.write l e x) rfl (onlyBytes_unpoison ..)

variable (h : a.loc.sp ≠ .ctx)
include h

theorem onlyBytes_storeElems : OnlyBytes s (s.storeElems n a) :=
  (onlyBytes_foldl (fun t i => onlyBytes_writeElem t n (l := a.elem i) h a.bytes (a.data.getD i 0).toNat) _ s).trans
    (onlyBytes_unpoison ..)

theorem storeElems_mem : (s.storeElems n a).mem =
    (List.range a.count).foldl (fun m i => storeNat m (a.elem i).key a.bytes (a.data.getD i 0).toNat) s.mem := by
  rw [State.storeElems, unpoison_mem]
  refine (List.foldl_hom State.mem fun t i => ?_).symm
  rw [State.writeElem, if_neg (show (a.elem i).sp ≠ .ctx from h), unpoison_mem]
  rfl

theorem storeElems_poison (hp : s.poison = []) : (s.storeElems n a).poison = [] := by
  have clean {t : State} (ht : t.poison = []) (l : Loc) (e : Nat) : (t.unpoison l e).poison = [] := by
    rw [State.unpoison, if_pos ht, ht]
  refine clean ?_ _ _
  refine List.foldlRecOn (motive := fun t : State => t.poison = []) _ _ hp fun t ht i _ => ?_
  rw [State.writeElem, if_neg (show (a.elem i).sp ≠ .ctx from h)]
  exact clean (t := t.write (a.elem i) a.bytes (a.data.getD i 0).toNat) ht _ _

end

/-! ## Stops that take no place -/

theorem takeStop_of_not_asked {s : State} {n : Nat} (h : s.stopAsked n = false) : s.takeStop n = s := by
  rw [State.takeStop, h, Bool.false_and, if_neg Bool.false_ne_true]

theorem mem_pairOf (s : State) (n : Nat) : n ∈ s.pairOf n := by
  unfold State.pairOf
  split
  · exact List.mem_cons_self
  · exact List.mem_cons_self

/-- A thread whose access is under way does not stop (04 R86). -/
theorem takeStop_of_underWay {s : State} {n : Nat} (h : s.accessUnderWay n = true) : s.takeStop n = s := by
  have held : s.stopHeld n = true := List.any_eq_true.mpr ⟨n, mem_pairOf s n, by rw [h]; rfl⟩
  rw [State.takeStop, held, Bool.not_true, Bool.and_false, if_neg Bool.false_ne_true]

theorem pairOf_congr {s t : State} {n : Nat} (h : (t.img n).paircfg = (s.img n).paircfg) : t.pairOf n = s.pairOf n := by
  unfold State.pairOf State.partner
  rw [h]

theorem stopAsked_of_pair {s t : State} {n : Nat} (hp : (t.img n).paircfg = (s.img n).paircfg)
    (hs : ∀ j, (t.slotAt j).stopDue = (s.slotAt j).stopDue) (h : ∀ j ∈ s.pairOf n, (s.slotAt j).stopDue = false) :
    t.stopAsked n = false := by
  refine List.any_eq_false.mpr fun j hj => ?_
  rw [hs, h j (pairOf_congr hp ▸ hj)]
  exact Bool.false_ne_true

section
variable (s : State) (n : Nat) (w : Wait)

theorem slotAt_block : (s.block n w).slotAt n = { s.slotAt n with wait := some w } := State.slotAt_setSlot ..

theorem img_block : (s.block n w).img n = s.img n := img_setSlot_same _ _ _ rfl

theorem stopDue_block (j : Nat) : ((s.block n w).slotAt j).stopDue = (s.slotAt j).stopDue := by
  by_cases h : j = n
  · rw [h, slotAt_block]
  · rw [State.block, State.slotAt_setSlot_of_ne _ _ h]

end

/-! ## The owner serves a request -/

/-- What the owner does with a request that a window admits, once the accepted stores at its words are performed: `State.ownerServes` from
there on. -/
def State.ownerTakes (s : State) (n : Nat) (a : Access) (edges : Nat) : State :=
  match (if a.op.checked then s.raceCheck n a.loc (a.bytes * a.count) (a.op = .store) else .ok s) with
  | .error (sub, off) => s.block n (.globalIn a (.race sub (a.ea - word a.loc.off + word off)))
  | .ok s =>
    match a.op.tagOp with
    | some op =>
      if s.poisoned a.loc 8 then s.block n (.globalIn a .poison)
      else if s.tagReady op a.loc then
        let r := (s.tagTaken op a.loc n).perform n a
        r.2.block n (.globalIn a r.1)
      else s.block n (.tagged op a.reg a.loc a.ea edges)
    | none =>
      let r := s.perform n a
      if s.postsGlobal n a then
        ({ r.2 with mem := s.mem, culvert := s.culvert ++ s.globalEntries n a } : State).block n (.globalIn a r.1)
      else r.2.block n (.globalIn a r.1)

section
variable {s : State} {n : Nat} {a : Access} (edges : Nat)

theorem ownerServes_of_refused {q : Nat} (h : s.windowRefusal n a.loc (a.bytes * a.count) a.op.rights = some q) :
    s.ownerServes n a edges = s.block n (.globalIn a (.window q)) := by
  simp only [State.ownerServes, h]

theorem ownerServes_of_admitted (h : s.windowRefusal n a.loc (a.bytes * a.count) a.op.rights = none) :
    s.ownerServes n a edges = (s.landAccepted a.loc (a.bytes * a.count)).ownerTakes n a edges := by
  simp only [State.ownerServes, h]
  rfl

variable (s n a) in
/-- A request that is taken blocks its thread on the answer, or a waiting one on its word's tag. -/
theorem ownerTakes_blocks : ∃ u w, s.ownerTakes n a edges = u.block n w
    ∧ ((∃ r, w = .globalIn a r) ∨ (a.op.tagOp ≠ none ∧ u = s)) := by
  unfold State.ownerTakes
  split
  · exact ⟨_, _, rfl, .inl ⟨_, rfl⟩⟩
  · next t ht =>
    split
    · next op hop =>
      split
      · exact ⟨_, _, rfl, .inl ⟨_, rfl⟩⟩
      · split
        · exact ⟨_, _, rfl, .inl ⟨_, rfl⟩⟩
        · have unchecked : a.op.checked = false := by
            cases h : a.op
            all_goals simp_all [AccessOp.tagOp, AccessOp.checked]
          rw [unchecked, if_neg Bool.false_ne_true] at ht
          obtain rfl := Except.ok.inj ht
          exact ⟨_, _, rfl, .inr ⟨by rw [hop]; exact Option.some_ne_none _, rfl⟩⟩
    · split
      · exact ⟨_, _, rfl, .inl ⟨_, rfl⟩⟩
      · exact ⟨_, _, rfl, .inl ⟨_, rfl⟩⟩

section
variable (hc : (s.launchOf n).isChecked = false ∨ s.rangesOf a.loc = []) (hx : a.loc.sp ≠ .ctx)
include hc hx

/-- The values of an unchecked, unpoisoned load. -/
theorem ownerTakes_load {sg : Bool} (ha : a.op = .load sg) (hp : s.poisoned a.loc (a.bytes * a.count) = false) :
    s.ownerTakes n a edges = s.block n (.globalIn a (.done ((List.range a.count).map fun i =>
      extend sg (8 * a.bytes) (s.read (a.elem i) a.bytes)))) := by
  have values : s.perform n a =
      (.done ((List.range a.count).map fun i => extend sg (8 * a.bytes) (s.read (a.elem i) a.bytes)), s) := by
    have read (i : Nat) : s.readElem (a.elem i) a.bytes = s.read (a.elem i) a.bytes := if_neg (show (a.elem i).sp ≠ .ctx from hx)
    simp only [State.perform, ha, hp, Bool.and_false, Bool.false_eq_true, if_false, read]
  have posts : s.postsGlobal n a = false := by simp [State.postsGlobal, ha]
  have check := raceCheck_of_unchecked hc (a.bytes * a.count) (a.op = .store)
  have tag : a.op.tagOp = none := by rw [ha]; rfl
  simp only [State.ownerTakes, check, ite_self, tag, values, posts, Bool.false_eq_true, if_false]

/-- An unchecked store is performed, or, of a thread that posts its stores, accepted (07 R141). -/
theorem ownerTakes_store (ha : a.op = .store) : s.ownerTakes n a edges =
    (if s.postsGlobal n a then { s with culvert := s.culvert ++ s.globalEntries n a } else s.storeElems n a).block n
      (.globalIn a (.done [])) := by
  have stored : s.perform n a = (.done [], s.storeElems n a) := by
    simp only [State.perform, ha, AccessOp.reads, Bool.false_and, Bool.false_eq_true, if_false]
  have check := raceCheck_of_unchecked hc (a.bytes * a.count) (a.op = .store)
  have tag : a.op.tagOp = none := by rw [ha]; rfl
  simp only [State.ownerTakes, check, ite_self, tag, stored]
  split
  · next posts =>
    have clean : s.poison = [] := by
      simp only [State.postsGlobal, Bool.and_eq_true, decide_eq_true_eq] at posts
      exact posts.1.2
    have only := onlyBytes_storeElems s n a hx
    have poison := storeElems_poison s n a hx clean
    generalize s.storeElems n a = t at only poison
    rw [OnlyBytes, poison, ← clean] at only
    rw [only]
  · rfl

end
end

/-- What a window or the owner makes of a request, left to the reply: what GLOBAL_REQUEST does where the request is not late, of a thread
whose stop it does not take. -/
theorem globalRequest_runs {s : State} {k : Nat} {a : Access} {edges : Nat} (hw : (s.slotAt k).wait = some (.globalOut a edges))
    (hl : s.requestLate k a = false) : exec (.globalRequest k) s = .next ((s.ownerServes k a edges).takeStop k) := by
  show execGlobalRequest k s = _
  simp only [execGlobalRequest, hw, hl, Bool.false_eq_true, if_false]

section
variable {s : State} {k : Nat} {a : Access} {edges : Nat}

theorem accessUnderWay_block (s : State) (k : Nat) (a : Access) (r : Reply) : (s.block k (.globalIn a r)).accessUnderWay k = true := by
  unfold State.accessUnderWay
  rw [slotAt_block]

/-- A request of a thread that is not asked to stop, or is none that can wait for a tag, leaves the thread blocked. -/
theorem takeStop_ownerServes (h : a.op.tagOp = none ∨ ∀ j ∈ s.pairOf k, (s.slotAt j).stopDue = false) :
    (s.ownerServes k a edges).takeStop k = s.ownerServes k a edges := by
  cases hw : s.windowRefusal k a.loc (a.bytes * a.count) a.op.rights with
  | some q =>
    rw [ownerServes_of_refused edges hw]
    exact takeStop_of_underWay (accessUnderWay_block ..)
  | none =>
    rw [ownerServes_of_admitted edges hw]
    have only := onlyStores_landAccepted s a.loc (a.bytes * a.count)
    generalize s.landAccepted a.loc (a.bytes * a.count) = v at only
    obtain ⟨u, w, ran, ⟨r, rfl⟩ | ⟨tag, rfl⟩⟩ := ownerTakes_blocks v k a edges
    · rw [ran]
      exact takeStop_of_underWay (accessUnderWay_block ..)
    · rw [ran]
      refine takeStop_of_not_asked (stopAsked_of_pair (s := s) ?_ (fun j => ?_) (h.resolve_left tag))
      · rw [img_block, only.img]
      · rw [stopDue_block, only.slotAt]

/-- What the owner answers to a load or a store that nothing checks (07 R159), v being the state once the accepted stores at its words are
performed, and u that in which the answer r is left. -/
structure OwnerAnswers (v : State) (k : Nat) (a : Access) (u : State) (r : Wait) : Prop where
  load : ∀ sg, a.op = .load sg → v.poisoned a.loc (a.bytes * a.count) = false → u = v ∧ r = .globalIn a (.done
    ((List.range a.count).map fun i => extend sg (8 * a.bytes) (v.read (a.elem i) a.bytes)))
  store : a.op = .store → r = .globalIn a (.done [])
  performed : a.op = .store → v.postsGlobal k a = false →
    u.mem = (List.range a.count).foldl (fun m i => storeNat m (a.elem i).key a.bytes (a.data.getD i 0).toNat) v.mem ∧ OnlyBytes v u
  accepted : a.op = .store → v.postsGlobal k a = true → u = { v with culvert := v.culvert ++ v.globalEntries k a }

theorem ownerTakes_answers {v : State} (hc : (v.launchOf k).isChecked = false ∨ v.rangesOf a.loc = []) (hx : a.loc.sp ≠ .ctx) :
    ∃ u r, v.ownerTakes k a edges = u.block k r ∧ OwnerAnswers v k a u r := by
  by_cases store : a.op = .store
  · refine ⟨_, _, ownerTakes_store edges hc hx store, ?_⟩
    refine ⟨fun sg h => ?_, fun _ => rfl, fun _ h => ?_, fun _ h => if_pos h⟩
    · rw [store] at h
      cases h
    · rw [h, if_neg Bool.false_ne_true]
      exact ⟨storeElems_mem v k a hx, onlyBytes_storeElems v k a hx⟩
  have noStore {p : Prop} (h : a.op = .store) : p := absurd h store
  by_cases load : (∃ sg, a.op = .load sg) ∧ v.poisoned a.loc (a.bytes * a.count) = false
  · obtain ⟨⟨sg, ha⟩, hp⟩ := load
    refine ⟨_, _, ownerTakes_load edges hc hx ha hp, ⟨fun sg' h _ => ⟨rfl, ?_⟩, noStore, noStore, noStore⟩⟩
    rw [ha] at h
    cases h
    rfl
  · obtain ⟨u, r, ran, -⟩ := ownerTakes_blocks v k a edges
    exact ⟨u, r, ran, ⟨fun sg ha hp => absurd ⟨⟨sg, ha⟩, hp⟩ load, noStore, noStore, noStore⟩⟩

/-- GLOBAL_REQUEST's outcome: a refusal, or what the owner answers. -/
theorem ownerServes_answers (s : State) (k : Nat) (a : Access) (edges : Nat) : ∃ r u, s.ownerServes k a edges = u.block k r
    ∧ (∀ q, s.windowRefusal k a.loc (a.bytes * a.count) a.op.rights = some q → r = .globalIn a (.window q) ∧ u = s)
    ∧ (s.windowRefusal k a.loc (a.bytes * a.count) a.op.rights = none →
        ((s.launchOf k).isChecked = false ∨ s.rangesOf a.loc = []) → a.loc.sp ≠ .ctx →
        OwnerAnswers (s.landAccepted a.loc (a.bytes * a.count)) k a u r) := by
  cases hw : s.windowRefusal k a.loc (a.bytes * a.count) a.op.rights with
  | some q =>
    refine ⟨_, _, ownerServes_of_refused edges hw, fun q' h => ?_, fun h => ?_⟩
    · cases h
      exact ⟨rfl, rfl⟩
    · cases h
  | none =>
    rw [ownerServes_of_admitted edges hw]
    have only := onlyStores_landAccepted s a.loc (a.bytes * a.count)
    generalize s.landAccepted a.loc (a.bytes * a.count) = v at only
    by_cases plain : ((s.launchOf k).isChecked = false ∨ s.rangesOf a.loc = []) ∧ a.loc.sp ≠ .ctx
    · obtain ⟨hc, hx⟩ := plain
      obtain ⟨u, r, ran, answers⟩ := ownerTakes_answers (edges := edges) (k := k) (a := a) (v := v)
        (by rwa [only.launchOf, only.rangesOf]) hx
      exact ⟨r, u, ran, (fun _ h => nomatch h), fun _ _ _ => answers⟩
    · obtain ⟨u, r, ran, -⟩ := ownerTakes_blocks v k a edges
      exact ⟨r, u, ran, (fun _ h => nomatch h), fun _ hc hx => absurd ⟨hc, hx⟩ plain⟩

end

end Sys2Proof.Machine
end

section
/-! The owner's reply, a counted store that becomes visible, and a tagged wait's limit (07 R138, R147; 09 R197). -/
namespace Sys2Proof.Machine
open Sys2Proof

/-! ## PAIRCFG stays -/

theorem paircfg_withG (im : Image) (r : Reg) (x : Word) : (im.withG r x).paircfg = im.paircfg := by
  unfold Image.withG
  split
  · rfl
  · rfl

theorem paircfg_countTick (im : Image) : im.countTick.paircfg = im.paircfg := by
  unfold Image.countTick
  split
  · rfl
  · rfl

/-! ## Completing an access -/

/-- Completing after what an instruction does to its slot's image. -/
theorem completes_of {n len : Nat} {im : Image} {s u : State} (ho : OnlySlot n s u) (hs : u.slotAt n = s.slotAt n) (hi : u.img n = im) :
    Completes n len im s (u.complete n len) := by
  subst hi
  obtain ⟨ho', hi', hs'⟩ := completes_complete u n len
  exact ⟨ho.trans ho', hi', by rw [hs', hs]⟩

/-- A completion leaves what a stop is decided by. -/
theorem Completes.stop {n len : Nat} {im : Image} {s t : State} (h : Completes n len im s t) (hp : im.paircfg = (s.img n).paircfg) :
    (t.img n).paircfg = (s.img n).paircfg ∧ ∀ j, (t.slotAt j).stopDue = (s.slotAt j).stopDue := by
  obtain ⟨only, image, slot⟩ := h
  refine ⟨?_, fun j => ?_⟩
  · rw [image, paircfg_countTick]
    exact hp
  · by_cases hj : j = n
    · rw [hj, slot]
    · rw [only.2.2.1 j hj]

/-- A trap leaves what a stop is decided by. -/
theorem Traps.stop {n cause sub : Nat} {v : Word} {s t : State} (h : Traps n cause sub v s t) :
    (t.img n).paircfg = (s.img n).paircfg ∧ ∀ j, (t.slotAt j).stopDue = (s.slotAt j).stopDue := by
  unfold Traps at h
  split at h
  · obtain ⟨only, image, slot⟩ := h
    refine ⟨by rw [image], fun j => ?_⟩
    by_cases hj : j = n
    · rw [hj, slot]
    · rw [only.2.2.1 j hj]
  · obtain ⟨only, image, slot⟩ := h
    refine ⟨by rw [image]; rfl, fun j => ?_⟩
    by_cases hj : j = n
    · rw [hj, slot]
    · rw [only.2.2.1 j hj]

section
variable {s : State} {k : Nat} {a : Access}

theorem globalReply_runs {r : Reply} (hw : (s.slotAt k).wait = some (.globalIn a r)) :
    exec (.globalReply k) s = .next ((s.replyArrives k a r).takeStop k) := by
  show execGlobalReply k s = _
  simp only [execGlobalReply, hw]

variable (s k a) in
theorem onlySlot_putReply (vals : List Word) : OnlySlot k s (s.putReply k a.reg vals)
    ∧ (s.putReply k a.reg vals).slotAt k = s.slotAt k
    ∧ (s.putReply k a.reg vals).img k =
      (List.range vals.length).foldl (fun im i => im.withG (regPlus a.reg i) (vals.getD i 0)) (s.img k) := by
  unfold State.putReply
  generalize List.range vals.length = is
  induction is generalizing s with
  | nil => exact ⟨OnlySlot.refl k s, rfl, rfl⟩
  | cons i is ih =>
    obtain ⟨only, slot, image⟩ := ih (s.setGOf k (regPlus a.reg i) (vals.getD i 0))
    exact ⟨(onlySlot_setGOf ..).trans only, by rw [List.foldl_cons, slot, slotAt_setGOf], by
      rw [List.foldl_cons, image, img_setGOf, List.foldl_cons]⟩

theorem paircfg_foldl_withG (is : List Nat) (r : Nat → Reg) (x : Nat → Word) (im : Image) :
    (is.foldl (fun im i => im.withG (r i) (x i)) im).paircfg = im.paircfg := by
  induction is generalizing im with
  | nil => rfl
  | cons i is ih => rw [List.foldl_cons, ih, paircfg_withG]

/-- The values of a reply go to the registers, and the instruction completes (07 R138). -/
theorem completes_replyArrives {vals : List Word} (h : ∀ full, a.op ≠ .tagset full) : Completes k 8
    ((List.range vals.length).foldl (fun im i => im.withG (regPlus a.reg i) (vals.getD i 0)) (s.img k)) s
    (s.replyArrives k a (.done vals)) := by
  have free : a.op.stallOf a.count = 0 := by
    unfold AccessOp.stallOf
    split
    · next full hop => exact absurd hop (h full)
    · rfl
  have ran : s.replyArrives k a (.done vals) = (s.putReply k a.reg vals).complete k 8 := by
    rw [State.replyArrives, free, State.stall, if_pos rfl]
  obtain ⟨only, slot, image⟩ := onlySlot_putReply s k a vals
  rw [ran]
  exact completes_of only slot image

/-- A reply with values completes the instruction of a thread that is not asked to stop. -/
theorem globalReply_of_done {vals : List Word} (hw : (s.slotAt k).wait = some (.globalIn a (.done vals)))
    (h : ∀ full, a.op ≠ .tagset full) (hd : ∀ j ∈ s.pairOf k, (s.slotAt j).stopDue = false) :
    ∃ t, exec (.globalReply k) s = .next t ∧ Completes k 8
      ((List.range vals.length).foldl (fun im i => im.withG (regPlus a.reg i) (vals.getD i 0)) (s.img k)) s t := by
  have done := completes_replyArrives (s := s) (k := k) (vals := vals) h
  obtain ⟨pair, stop⟩ := done.stop (paircfg_foldl_withG ..)
  exact ⟨_, (globalReply_runs hw).trans (by rw [takeStop_of_not_asked (stopAsked_of_pair pair stop hd)]), done⟩

/-- A refusal traps with WINDOW (07 R149). -/
theorem globalReply_of_window {q : Nat} (hw : (s.slotAt k).wait = some (.globalIn a (.window q)))
    (hd : ∀ j ∈ s.pairOf k, (s.slotAt j).stopDue = false) : ∃ t, exec (.globalReply k) s = .next t ∧ Traps k 0x0A q a.ea s t := by
  have trap := traps_takeTrap s k 0x0A q a.ea
  obtain ⟨pair, stop⟩ := trap.stop
  have stays := takeStop_of_not_asked (stopAsked_of_pair pair stop hd)
  exact ⟨_, (globalReply_runs hw).trans (congrArg _ stays), trap⟩

/-- What keeps a slot from its boundary is told by its pair's waits and snapshots and by what the cores copy. -/
theorem stopHeld_congr {s t : State} {n : Nat} (hp : (t.img n).paircfg = (s.img n).paircfg) (hn : ∀ m, t.now m = s.now m)
    (hc : ∀ c, t.coreAt c = s.coreAt c)
    (hs : ∀ m, (t.slotAt m).wait = (s.slotAt m).wait ∧ (t.slotAt m).snap = (s.slotAt m).snap
      ∧ (t.slotAt m).resuming = (s.slotAt m).resuming ∧ (t.slotAt m).issueFrom = (s.slotAt m).issueFrom) :
    t.stopHeld n = s.stopHeld n := by
  have under (m : Nat) : t.accessUnderWay m = s.accessUnderWay m := by
    unfold State.accessUnderWay
    rw [(hs m).1]
  have snap (m : Nat) : t.inSnapshot m = s.inSnapshot m := by
    obtain ⟨-, h1, h2, h3⟩ := hs m
    simp only [State.inSnapshot, h1, h2, h3, hn]
  simp only [State.stopHeld, pairOf_congr hp, under, snap, hc]

/-- A thread that was asked to stop is stopped after its access, where nothing else holds it (04 R86). -/
theorem globalReply_stops {vals : List Word} (hw : (s.slotAt k).wait = some (.globalIn a (.done vals)))
    (h : ∀ full, a.op ≠ .tagset full) (hd : (s.slotAt k).stopDue = true)
    (hh : (s.setSlot k { s.slotAt k with wait := none }).stopHeld k = false) :
    ∃ t, exec (.globalReply k) s = .next t ∧ (t.slotAt k).state = .stopped := by
  have done := completes_replyArrives (s := s) (k := k) (vals := vals) h
  obtain ⟨pair, stop⟩ := done.stop (paircfg_foldl_withG ..)
  obtain ⟨only, -, slot⟩ := done
  have ran := globalReply_runs hw
  generalize s.replyArrives k a (.done vals) = t at ran only slot pair stop
  have asked : t.stopAsked k = true := List.any_eq_true.mpr ⟨k, mem_pairOf t k, by rw [stop, hd]⟩
  have free : t.stopHeld k = false := by
    rw [← hh]
    refine stopHeld_congr ?_ (fun m => only.now m) (fun c => by rw [only.1]; rfl) fun m => ?_
    · rw [pair, img_setSlot_same]
      rfl
    · by_cases hm : m = k
      · rw [hm, slot, State.slotAt_setSlot]
        exact ⟨rfl, rfl, rfl, rfl⟩
      · rw [only.2.2.1 m hm, State.slotAt_setSlot_of_ne _ _ hm]
        exact ⟨rfl, rfl, rfl, rfl⟩
  refine ⟨t.stopSlot k, ran.trans ?_, (stopSlot_spec t k).2⟩
  rw [State.takeStop, asked, free]
  rfl

end

/-! ## A counted store becomes visible -/

section
variable {s : State} {k : Nat} {y : Counted}

theorem exec_countedStoreVisible (hy : s.culvert[k]? = some y) (hc : y.counted = true) : exec (.countedStoreVisible k) s =
    .next (if s.mayLand k y then ({ s with culvert := s.culvert.eraseIdx k } : State).land y else s) := by
  show execCountedStoreVisible k s = _
  simp only [execCountedStoreVisible, State.landAt, hy, Option.any_some, hc, if_true]

theorem mayLand_of_first (hd : s.countedReady y = true) (h : ∀ z ∈ s.culvert.take k, z.slot ≠ y.slot) : s.mayLand k y = true := by
  have none : (s.culvert.take k).any y.follows = false := List.any_eq_false.mpr fun z hz => by simp [Counted.follows, h z hz]
  rw [State.mayLand, hd, none]
  rfl

theorem mayLand_of_earlier (hr : y.rel = true) (h : ∃ z ∈ s.culvert.take k, z.slot = y.slot) : s.mayLand k y = false := by
  obtain ⟨z, hz, hs⟩ := h
  have some : (s.culvert.take k).any y.follows = true := List.any_eq_true.mpr ⟨z, hz, by simp [Counted.follows, hs, hr]⟩
  rw [State.mayLand, some, Bool.not_true, Bool.and_false]

end

theorem land_mem (s : State) (x : Counted) : (s.land x).mem = storeBytes s.mem x.loc.key x.data := by
  rw [State.land, unpoison_mem]

/-! ## A wait's limit -/

section
variable {s : State} {k : Nat} {op : TagOp}

theorem exec_waitlimit (k : Nat) (s : State) :
    exec (.waitlimit k) s = .next (if (s.partner k).isSome then s else s.checkWaitLimit k) := rfl

theorem checkWaitLimit_of_tagged {r : Reg} {l : Loc} {ea : Word} {edges : Nat}
    (hw : (s.slotAt k).wait = some (.tagged op r l ea edges)) : s.checkWaitLimit k = s := by
  simp only [State.checkWaitLimit, State.withdrawnWait, hw]

theorem withdrawExpired_of_tagged {r : Reg} {l : Loc} {ea : Word} {edges : Nat}
    (hw : (s.slotAt k).wait = some (.tagged op r l ea edges)) :
    s.withdrawExpired k = if bits (s.img k).waitlim 31 0 ≠ 0 ∧ bits (s.img k).waitlim 31 0 < edges then
      s.setSlot k { s.slotAt k with wait := some (.expired op ea) } else s := by
  by_cases past : bits (s.img k).waitlim 31 0 ≠ 0 ∧ bits (s.img k).waitlim 31 0 < edges
  · have limit : s.pastLimit k edges = true := by simpa [State.pastLimit] using past
    rw [if_pos past]
    simp only [State.withdrawExpired, State.expiredWait, hw, limit, if_true]
    rfl
  · have limit : s.pastLimit k edges = false := by simpa [State.pastLimit] using past
    rw [if_neg past]
    simp only [State.withdrawExpired, State.expiredWait, hw, limit, Bool.false_eq_true, if_false]

theorem checkWaitLimit_of_expired {ea : Word} (hw : (s.slotAt k).wait = some (.expired op ea)) :
    s.checkWaitLimit k = if s.turnDue k then (s.openTurn k).waitExpire k op ea else s := by
  simp only [State.checkWaitLimit, State.withdrawnWait, hw]

/-- A cause that is not enabled as an effect traps. -/
theorem traps_raiseCause {n cause sub : Nat} {v : Word} (he : bit (s.img n).effen cause = false) (hb : isBoundary cause = false) :
    Traps n cause sub v s (s.raiseCause n cause sub v none) := by
  have none : s.effectTarget n cause = none := if_neg fun h => by simp [he] at h
  have ran : s.raiseCause n cause sub v Option.none = s.takeTrap n cause sub v false := by
    simp only [State.raiseCause, none, hb]
  rw [ran]
  exact traps_takeTrap ..

/-- WAITLIMIT's subcode (07 R147). -/
def TagOp.limitSub : TagOp → Nat
  | .ldf => 0 | .lde => 1 | .stf => 2

theorem waitExpire_eq (s : State) (k : Nat) (op : TagOp) (ea : Word) :
    s.waitExpire k op ea = s.raisePaired k 0x0D op.limitSub ea none := by
  cases op
  all_goals rfl

/-- The withdrawn wait of an unpaired thread traps at its turn (07 R147). -/
theorem waitlimit_traps {ea : Word} (hw : (s.slotAt k).wait = some (.expired op ea)) (he : bit (s.img k).effen 0x0D = false)
    (ht : s.turnDue k = true) (hp : s.partner k = none) :
    ∃ t, exec (.waitlimit k) s = .next t ∧ Traps k 0x0D op.limitSub ea (s.openTurn k) t := by
  have unpaired : (s.openTurn k).partner k = none := by
    rw [State.partner, img_openTurn]
    exact hp
  refine ⟨_, (exec_waitlimit k s).trans ?_, traps_raiseCause (s := s.openTurn k) (by rwa [img_openTurn]) rfl⟩
  rw [hp, checkWaitLimit_of_expired hw, if_pos ht, waitExpire_eq, raisePaired_of_unpaired unpaired]
  rfl

end

/-! ## The obligation -/

theorem not_tagset_of_store {op : AccessOp} (h : op = .store ∨ op = .stf ∨ op = .stff) (full : Bool) : op ≠ .tagset full := by
  rcases h with rfl | rfl | rfl
  all_goals exact nofun

/-- Settles O21: the issue of an access, its owner, its reply, counted stores and limits, each by its own rule. -/
theorem globalAccessesGoToTheirOwner : Obligations.GlobalAccessesGoToTheirOwner := by
  intro w sg o d m s
  refine ⟨fun l hl hs ha => ⟨blocksOn_ld w sg o d m hl ha hs, blocksOn_st w o d m hl ha hs,
      fun h4 => ⟨blocksOn_ldm w sg o d m hl ha h4, blocksOn_stm w o d m hl ha h4⟩,
      fun hg hA => trapsOn_counted (resolve_counted_of_store hl hs hg hA),
      fun hg ht => trapsOn_counted (resolve_counted_of_group hl hs hg ht), fun hg ht => ?countedStore⟩,
    fun k a edges hw => ⟨fun hl => ?late, fun hl hd => ?request⟩, fun k a hw hop => ⟨fun hd => ?stored, fun hd hh => ?storedStops⟩,
    fun k a vals hw h hd => globalReply_of_done hw h hd, fun k a q hw hd => globalReply_of_window hw hd,
    fun k y hy hc hr hd => ⟨fun h => ?visible, fun h => ?waits⟩, fun k op r l ea edges hw => ⟨?notYet, withdrawExpired_of_tagged hw⟩,
    fun k op ea hw => ⟨fun ht => ?noTurn, fun hp => ?paired, waitlimit_traps hw⟩⟩
  case countedStore =>
    exact ⟨s.countedDue l, acts_counted (resolve_counted hl hs hg ht ha), countedDue_of_inWindow, countedDue_of_not_inWindow⟩
  case late =>
    show execGlobalRequest k s = _
    simp only [execGlobalRequest, hw, hl, if_true]
  case request =>
    obtain ⟨r, u, ran, refused, answers⟩ := ownerServes_answers s k a edges
    refine ⟨fun h => landAccepted_of_counted h .., r, u, (globalRequest_runs hw hl).trans ?_, refused, fun hq hc hx => ?_⟩
    · rw [takeStop_ownerServes hd, ran]
      rfl
    · obtain ⟨load, store, performed, accepted⟩ := answers hq hc hx
      exact ⟨load, fun ha => ⟨store ha, performed ha, accepted ha⟩⟩
  case stored =>
    exact globalReply_of_done hw (not_tagset_of_store hop) hd
  case storedStops =>
    exact globalReply_stops hw (not_tagset_of_store hop) hd hh
  case visible =>
    refine ⟨_, (exec_countedStoreVisible hy hc).trans (congrArg _ (if_pos (mayLand_of_first hd h))), land_mem .., ?_⟩
    rw [land_eq]
  case waits =>
    exact (exec_countedStoreVisible hy hc).trans (congrArg _ (if_neg (by rw [mayLand_of_earlier hr h]; exact Bool.false_ne_true)))
  case notYet =>
    rw [exec_waitlimit, checkWaitLimit_of_tagged hw, ite_self]
  case noTurn =>
    rw [exec_waitlimit, checkWaitLimit_of_expired hw, ht, if_neg Bool.false_ne_true, ite_self]
  case paired =>
    rw [exec_waitlimit, if_pos (Option.isSome_iff_ne_none.mpr hp)]

end Sys2Proof.Machine
end

section
/-! A copy whose progress stands past its row's end, which no step of the model leaves but a state may hold: its next part has no byte, and the
step holds the 64-bit word at its source all the same (20 R359). -/
namespace Sys2Proof.Machine
open Sys2Proof

/-- A copy of one row of one byte between DRAM pages, of which BYTESDONE says that the byte is moved and ROWSDONE that the row is not. -/
def pastRow : Copy :=
  { w0 := 4, w1 := 0x10004, w2 := 0x10001, w3 := 0, id := 0, ch := 0, slot := 0, launch := 0, level := 0, bytesDone := 1 }

/-- The copy in flight on core 0, its source in the stack of die 0, which is shut down, and its destination in that of die 1. -/
def pastRowState : State :=
  (State.reset.setCore 0
    { fifo := [pastRow]
      tlb := [⟨0, 0, 0x10000, 0, true, true, true⟩, ⟨0, 0x10000, 0x10000, 0x3000000000, true, true, true⟩] }).setDie 0 { shut := true }

/-- The one part that is due: no byte, at byte 5 of the source's page and of the destination's. -/
def pastRowMove : Move := ⟨⟨.dram, 0, 5⟩, ⟨.dram, 0, 0x3000000005⟩, 0, 5⟩

theorem pastRow_placed : pastRowState.placePieces 0 0 pastRow (.dram 4) (.dram 0x10004) (pastRow.unit (.dram 4) (.dram 0x10004)) =
    (.ok [pastRowMove], pastRowState) := rfl

theorem pastRow_servers : pastRowState.copyServer pastRow pastRowMove.src 0 = .here 5
    ∧ pastRowState.copyServer pastRow pastRowMove.dst 0 = .here 0x3000000005 := by decide +kernel

/-- The word at the source reads as poisoned, and the step poisons the word at the destination, of which it writes no byte. -/
theorem pastRow_poisons : ∃ u, exec (.copyChunk 0 0 .refused) pastRowState = .next u ∧ u.poison = [0x3000000000] := by
  refine ⟨_, rfl, ?_⟩
  decide +kernel

/-- Refutes O55: of a copy whose BYTESDONE is not below RBYTES the part due has no byte; where its source's stack is shut down, the word
held for it counts as poisoned, and COPY_CHUNK poisons a word of the destination, so that more than memory and the cores changes. -/
theorem not_copiesMoveAndComplete : ¬ Obligations.CopiesMoveAndComplete := by
  intro h
  obtain ⟨-, -, moves, -⟩ := h 0 0 .refused pastRow pastRowState rfl (by decide +kernel)
  obtain ⟨-, placed⟩ := moves rfl (by decide +kernel) (by decide +kernel)
  obtain ⟨-, served⟩ := placed _ _ pastRow_placed
  obtain ⟨-, -, here⟩ := served rfl
  have only : ∀ m ∈ [pastRowMove], m = pastRowMove := fun m => List.mem_singleton.mp
  obtain ⟨t, ht, -, -, -, rest⟩ := here (fun _ => 5) (fun _ => 0x3000000005)
    (fun m hm => by
      rw [only m hm]
      exact ⟨by rw [← pastRow_servers.1, ← pastRow_servers.2]; rfl, by decide, by decide, fun _ i hi => absurd hi (Nat.not_lt_zero i),
        fun _ => by decide +kernel⟩)
    (List.pairwise_singleton ..) (fun m hm => by rw [only m hm]; rfl)
    (fun x hx _ _ i _ hi => by rw [only x hx] at hi; exact absurd hi (Nat.not_lt_zero i)) rfl rfl rfl rfl
  obtain ⟨u, hu, poison⟩ := pastRow_poisons
  have same : t = u := Host.Outcome.next.inj (ht.symm.trans hu)
  have kept : t.poison = pastRowState.poison := by rw [rest]
  rw [same, poison] at kept
  exact absurd kept (by decide +kernel)

end Sys2Proof.Machine
end

section
/-! What the steps over a launch's tiles, cores and slots leave unchanged: folds, the service of a ready queue, released stores, and the
matrix queues. -/
namespace Sys2Proof.Machine
open Sys2Proof

/-! ## Folds over units -/

section
variable {α β : Type} {f : State → α → State} {l : List α}

/-- What every step of a fold leaves stays. -/
theorem foldl_keeps (obs : State → β) (h : ∀ s, ∀ x ∈ l, obs (f s x) = obs s) (s : State) : obs (l.foldl f s) = obs s :=
  List.foldlRecOn (motive := fun t => obs t = obs s) l f rfl fun t ht x hx => (h t x hx).trans ht

/-- What a relation holds between a state and each step's is so between the ends of the fold. -/
theorem foldl_rel {r : State → State → Prop} (refl : ∀ s, r s s) (trans : ∀ {s t u}, r s t → r t u → r s u)
    (h : ∀ s, ∀ x ∈ l, r s (f s x)) (s : State) : r s (l.foldl f s) :=
  List.foldlRecOn (motive := fun t => r s t) l f (refl s) fun t ht x hx => trans ht (h t x hx)

/-- What the step of one element makes so, and the others keep, is so after the fold, in states of which an invariant holds. -/
theorem foldl_sets {i p : State → Prop} {x : α} (hx : x ∈ l) (inv : ∀ s, ∀ y ∈ l, i s → i (f s y)) (set : ∀ s, i s → p (f s x))
    (keep : ∀ s, ∀ y ∈ l, i s → p s → p (f s y)) {s : State} (hs : i s) : i (l.foldl f s) ∧ p (l.foldl f s) := by
  have after (l : List α) (inv : ∀ s, ∀ y ∈ l, i s → i (f s y)) (keep : ∀ s, ∀ y ∈ l, i s → p s → p (f s y)) {s : State}
      (hs : i s) (hp : p s) : i (l.foldl f s) ∧ p (l.foldl f s) :=
    List.foldlRecOn (motive := fun t => i t ∧ p t) l f ⟨hs, hp⟩ fun t ht y hy => ⟨inv t y hy ht.1, keep t y hy ht.1 ht.2⟩
  induction l generalizing s with
  | nil => exact absurd hx List.not_mem_nil
  | cons y r ih =>
    have invR : ∀ s, ∀ y ∈ r, i s → i (f s y) := fun s z hz => inv s z (List.mem_cons_of_mem y hz)
    have keepR : ∀ s, ∀ y ∈ r, i s → p s → p (f s y) := fun s z hz => keep s z (List.mem_cons_of_mem y hz)
    have hy := inv s y List.mem_cons_self hs
    rcases List.mem_cons.mp hx with rfl | hr
    · exact after r invR keepR hy (set s hs)
    · exact ih hr invR keepR hy

end

/-! ## The service of a core's ready queue -/

theorem imageKey_div (s : State) (n : Nat) : s.imageKey n / 16 = coreOf n := by
  unfold State.imageKey
  omega

/-- From s to t only what stands on core c may differ: its own state, and its slots and their images. -/
structure OnlyOn (c : Nat) (s t : State) : Prop where
  only : t = { s with images := t.images, slots := t.slots, cores := t.cores }
  slots : ∀ m, coreOf m ≠ c → t.slotAt m = s.slotAt m
  images : ∀ k, k / 16 ≠ c → t.imageAt k = s.imageAt k
  cores : ∀ k, k ≠ c → t.coreAt k = s.coreAt k

namespace OnlyOn

variable {c : Nat} {s t u : State}

theorem refl (c : Nat) (s : State) : OnlyOn c s s := ⟨rfl, fun _ _ => rfl, fun _ _ => rfl, fun _ _ => rfl⟩

theorem trans (h : OnlyOn c s t) (k : OnlyOn c t u) : OnlyOn c s u := by
  refine ⟨?_, fun m hm => (k.slots m hm).trans (h.slots m hm), fun m hm => (k.images m hm).trans (h.images m hm),
    fun m hm => (k.cores m hm).trans (h.cores m hm)⟩
  rw [k.only, h.only]

theorem of_onlySlot {n : Nat} (h : OnlySlot n s t) (hn : coreOf n = c) : OnlyOn c s t := by
  obtain ⟨only, images, slots, -⟩ := h
  refine ⟨?_, fun m hm => slots m fun e => hm (e ▸ hn), fun k hk => images k fun e => hk ?_, fun k _ => ?_⟩
  · rw [only]
  · rw [e, imageKey_div, hn]
  · rw [only]
    rfl

theorem setCore (c : Nat) (s : State) (x : Core) : OnlyOn c s (s.setCore c x) :=
  ⟨rfl, fun _ _ => rfl, fun _ _ => rfl, fun _ hk => State.coreAt_setCore_of_ne _ _ hk⟩

variable (h : OnlyOn c s t)
include h

theorem tiles : t.tiles = s.tiles := by rw [h.only]
theorem launches : t.launches = s.launches := by rw [h.only]
theorem launchAt (k : Nat) : t.launchAt k = s.launchAt k := by rw [h.only]; rfl

end OnlyOn

/-- From s to t only core c's ready queue and arms, and its slots and their images, may differ. -/
structure OnlyServed (c : Nat) (s t : State) : Prop where
  on : OnlyOn c s t
  core : t.coreAt c = { s.coreAt c with ready := (t.coreAt c).ready, arms := (t.coreAt c).arms }

theorem OnlyServed.refl (c : Nat) (s : State) : OnlyServed c s s := ⟨OnlyOn.refl c s, rfl⟩
theorem OnlyServed.trans {c : Nat} {s t u : State} (h : OnlyServed c s t) (k : OnlyServed c t u) : OnlyServed c s u :=
  ⟨h.on.trans k.on, by rw [k.core, h.core]⟩
theorem OnlyServed.of_onlySlot {c n : Nat} {s t : State} (h : OnlySlot n s t) (hn : coreOf n = c) : OnlyServed c s t := by
  refine ⟨OnlyOn.of_onlySlot h hn, ?_⟩
  rw [h.1]
  rfl

theorem pushHeld_eq (x : Core) : ∃ r a, x.pushHeld = { x with ready := r, arms := a } := by
  unfold Core.pushHeld
  refine List.foldlRecOn (motive := fun y : Core => ∃ r a, y = { x with ready := r, arms := a }) _ _ ⟨x.ready, x.arms, rfl⟩
    fun y ⟨r, a, hy⟩ i _ => ?_
  subst hy
  split
  · split
    · exact ⟨_, _, rfl⟩
    · exact ⟨_, _, rfl⟩
  · exact ⟨_, _, rfl⟩

theorem firstOf_mem {s : State} {l : List Nat} {n : Nat} (h : s.firstOf l = some n) : n ∈ l := by
  cases l with
  | nil => cases h
  | cons x r =>
    cases h
    refine List.foldlRecOn (motive := fun a => a ∈ x :: r) r _ List.mem_cons_self fun a ha b hb => ?_
    split
    · exact List.mem_cons_of_mem x hb
    · exact ha

theorem coreOf_of_popWaiters {s : State} {c n : Nat} (h : n ∈ s.popWaiters c) : coreOf n = c := by
  obtain ⟨k, hk, rfl⟩ := List.mem_map.mp (List.mem_of_mem_filter h)
  have := List.mem_range.mp hk
  unfold coreOf
  omega

theorem onlyServed_setCore (s : State) (c : Nat) {x : Core} {r : Vector (List (Nat × Word)) 4} {a : List (Nat × Arm)}
    (h : x = { s.coreAt c with ready := r, arms := a }) : OnlyServed c s (s.setCore c x) := by
  refine ⟨OnlyOn.setCore .., ?_⟩
  rw [State.coreAt_setCore, h]

/-- A slot that takes an entry, and goes on. -/
theorem onlySlot_takesEntry (s : State) (n : Nat) (d : Reg) (p : Fin 4) (x : Word) : OnlySlot n s ((s.giveEntry n d p x).served n 8) :=
  ((onlySlot_setGOf ..).trans (onlySlot_setGOf ..)).trans ((onlySlot_awake ..).trans (completes_complete ..).1)

/-- Serving RQPOP changes what stands on its core only. -/
theorem onlyServed_serveQueue (s : State) (c : Nat) : OnlyServed c s (s.serveQueue c) := by
  suffices h : ∀ f s, OnlyServed c s (State.serveReady s c f) from h 32 s
  intro f
  induction f with
  | zero => exact OnlyServed.refl c
  | succ f ih =>
    intro s
    unfold State.serveReady
    split
    · next n p x hn hp =>
      obtain ⟨r, a, hx⟩ := pushHeld_eq ((s.coreAt c).readyTake p)
      have hc := coreOf_of_popWaiters (firstOf_mem hn)
      have core : OnlyServed c s (s.setCore c ((s.coreAt c).readyTake p).pushHeld) := onlyServed_setCore s c hx
      exact (core.trans (OnlyServed.of_onlySlot (onlySlot_takesEntry ..) hc)).trans (ih _)
    · exact OnlyServed.refl c s

/-- Where no slot of a core waits in RQPOP nothing is served. -/
theorem serveQueue_of_no_waiters {s : State} {c : Nat} (h : ∀ m, coreOf m = c → ∀ d k, (s.slotAt m).wait ≠ some (.rqpop d k)) :
    s.serveQueue c = s := by
  have none : s.popWaiters c = [] := by
    refine List.filter_eq_nil_iff.mpr fun n hn => ?_
    obtain ⟨k, hk, rfl⟩ := List.mem_map.mp hn
    have := List.mem_range.mp hk
    have hc : coreOf (16 * c + k) = c := by unfold coreOf; omega
    split
    · next d x hw => exact absurd hw (h _ hc d x)
    · exact Bool.false_ne_true
  unfold State.serveQueue State.serveReady
  rw [none]
  rfl

/-! ## Stores that are released (07 R150) -/

/-- From s to t the slots only may differ, and of each of them its wait, which stays one or none. -/
structure OnlyWaits (s t : State) : Prop where
  only : t = { s with slots := t.slots }
  slot : ∀ n, t.slotAt n = { s.slotAt n with wait := (t.slotAt n).wait }
  isSome : ∀ n, (t.slotAt n).wait.isSome = (s.slotAt n).wait.isSome

theorem OnlyWaits.refl (s : State) : OnlyWaits s s := ⟨rfl, fun _ => rfl, fun _ => rfl⟩
theorem OnlyWaits.trans {s t u : State} (h : OnlyWaits s t) (k : OnlyWaits t u) : OnlyWaits s u := by
  refine ⟨?_, fun n => ?_, fun n => (k.isSome n).trans (h.isSome n)⟩
  · rw [k.only, h.only]
  · rw [k.slot n, h.slot n]

section
variable (s : State) (tiles : List Nat) (n : Nat)

theorem refuseWait_of_tagged {op : TagOp} {r : Reg} {x : Loc} {ea : Word} {k : Nat} (hw : (s.slotAt n).wait = some (.tagged op r x ea k))
    (hx : x.tile ∈ tiles) : s.refuseWait tiles n = s.block n (.globalIn ⟨op.access, 8, 1, r, [], ea, x⟩ (.window 1)) := by
  simp only [State.refuseWait, hw, hx, if_true]

theorem refuseWait_of_not (h : ∀ op r x ea k, (s.slotAt n).wait = some (.tagged op r x ea k) → x.tile ∉ tiles) : s.refuseWait tiles n = s := by
  unfold State.refuseWait
  split
  · next op r x ea k hw => exact if_neg (h op r x ea k hw)
  · rfl

theorem onlyWaits_refuseWait : OnlyWaits s (s.refuseWait tiles n) := by
  unfold State.refuseWait
  split
  · next op r x ea k hw =>
    split
    · refine ⟨rfl, fun m => ?_, fun m => ?_⟩
      · by_cases hm : m = n
        · rw [hm, slotAt_block]
        · rw [State.block, State.slotAt_setSlot_of_ne _ _ hm]
      · by_cases hm : m = n
        · rw [hm, slotAt_block, hw]
          rfl
        · rw [State.block, State.slotAt_setSlot_of_ne _ _ hm]
    · exact OnlyWaits.refl s
  · exact OnlyWaits.refl s

theorem slotAt_refuseWait_of_ne {m : Nat} (h : m ≠ n) : (s.refuseWait tiles n).slotAt m = s.slotAt m := by
  unfold State.refuseWait
  split
  · split
    · exact State.slotAt_setSlot_of_ne _ _ h
    · rfl
  · rfl

end

/-- The stores at the words of a launch's tiles that their controllers have accepted, performed. -/
def State.landQuit (s : State) (l : Nat) : State :=
  if s.culvert = [] then s else s.landAll fun x => x.loc.sp ≠ .dram && decide (x.loc.tile ∈ (s.launchAt l).place)

theorem onlyStores_landAll (s : State) (q : Counted → Bool) : OnlyStores s (s.landAll q) :=
  OnlyStores.trans (t := { s with culvert := s.culvert.filter fun x => !q x }) rfl
    (onlyStores_foldl (fun t x => onlyStores_land t x) _ _)

theorem onlyStores_landQuit (s : State) (l : Nat) : OnlyStores s (s.landQuit l) := by
  unfold State.landQuit
  split
  · exact OnlyStores.refl s
  · exact onlyStores_landAll ..

/-- The slots that stand for other launches. -/
def State.others (s : State) (l : Nat) : List Nat := (s.slots.filter fun p => p.2.launch ≠ l).map (·.1)

theorem quitStores_eq (s : State) (l : Nat) :
    s.quitStores l = ((s.landQuit l).others l).foldl (fun t n => t.refuseWait (s.launchAt l).place n) (s.landQuit l) := rfl

theorem onlyWaits_refuseWaits (s : State) (tiles ns : List Nat) : OnlyWaits s (ns.foldl (fun t n => t.refuseWait tiles n) s) :=
  foldl_rel OnlyWaits.refl OnlyWaits.trans (fun t n _ => onlyWaits_refuseWait t tiles n) s

/-- What releasing a launch's stores leaves. -/
structure Quit (s q : State) : Prop where
  only : q = { s with mem := q.mem, poison := q.poison, culvert := q.culvert, slots := q.slots }
  slot : ∀ n, q.slotAt n = { s.slotAt n with wait := (q.slotAt n).wait }
  isSome : ∀ n, (q.slotAt n).wait.isSome = (s.slotAt n).wait.isSome

namespace Quit

variable {s q : State} (h : Quit s q)
include h

theorem img (n : Nat) : q.img n = s.img n := by
  unfold State.img State.imageKey
  rw [h.slot n, h.only]
  rfl
theorem imageAt (k : Nat) : q.imageAt k = s.imageAt k := by rw [h.only]; rfl
theorem tileAt (k : Nat) : q.tileAt k = s.tileAt k := by rw [h.only]; rfl
theorem coreAt (k : Nat) : q.coreAt k = s.coreAt k := by rw [h.only]; rfl
theorem launchAt (k : Nat) : q.launchAt k = s.launchAt k := by rw [h.only]; rfl
theorem pumpCoreShared (l c : Nat) : q.pumpCoreShared l c = s.pumpCoreShared l c := by rw [h.only]; rfl
theorem slotsOf (l : Nat) : q.slotsOf l = s.slotsOf l := by
  unfold State.slotsOf
  rw [h.launchAt]
  exact List.filter_congr fun n _ => by rw [h.slot n]

end Quit

theorem quit_quitStores (s : State) (l : Nat) : Quit s (s.quitStores l) := by
  have stores := onlyStores_landQuit s l
  have waits := onlyWaits_refuseWaits (s.landQuit l) (s.launchAt l).place ((s.landQuit l).others l)
  rw [← quitStores_eq] at waits
  generalize s.quitStores l = q at waits
  generalize s.landQuit l = m at stores waits
  refine ⟨?_, fun n => ?_, fun n => ?_⟩
  · rw [waits.only, stores]
  · rw [waits.slot n, stores.slotAt]
  · rw [waits.isSome n, stores.slotAt]

section
variable {s : State} {l : Nat}

theorem quitStores_mem (h : s.culvert = []) : (s.quitStores l).mem = s.mem := by
  have waits := onlyWaits_refuseWaits (s.landQuit l) (s.launchAt l).place ((s.landQuit l).others l)
  rw [← quitStores_eq] at waits
  have none : s.landQuit l = s := if_pos h
  rw [waits.only, none]

theorem mem_keys_of_look_ne {α : Type} {d : α} {m : List (Nat × α)} {n : Nat} {p : α → Prop} (hp : p (look d m n)) (hd : ¬ p d) :
    ∃ x, (n, x) ∈ m ∧ p x := by
  induction m with
  | nil => exact absurd hp hd
  | cons q r ih =>
    obtain ⟨k, v⟩ := q
    unfold look at hp
    split at hp
    · next h => exact ⟨v, by rw [h]; exact List.mem_cons_self, hp⟩
    · obtain ⟨x, hx, hp⟩ := ih hp
      exact ⟨x, List.mem_cons_of_mem _ hx, hp⟩

/-- Another launch's wait at a word of the released stores is refused. -/
theorem quitStores_refuses {n : Nat} {op : TagOp} {r : Reg} {x : Loc} {ea : Word} {k : Nat} (hl : (s.slotAt n).launch ≠ l)
    (hw : (s.slotAt n).wait = some (.tagged op r x ea k)) (hx : x.tile ∈ (s.launchAt l).place) :
    ((s.quitStores l).slotAt n).wait = some (.globalIn ⟨op.access, 8, 1, r, [], ea, x⟩ (.window 1)) := by
  have stores := onlyStores_landQuit s l
  rw [quitStores_eq]
  rw [← stores.slotAt n] at hl hw
  generalize s.landQuit l = m at hl hw
  have listed : n ∈ m.others l := by
    have waits : (m.slotAt n).launch ≠ l ∧ (m.slotAt n).wait ≠ none := ⟨hl, by rw [hw]; exact Option.some_ne_none _⟩
    obtain ⟨y, hy, hp⟩ := mem_keys_of_look_ne (p := fun y : Slot => y.launch ≠ l ∧ y.wait ≠ none) waits (fun h => h.2 rfl)
    exact List.mem_map.mpr ⟨_, List.mem_filter.mpr ⟨hy, by simpa using hp.1⟩, rfl⟩
  refine (foldl_sets (i := fun t => (t.slotAt n).wait = some (.tagged op r x ea k)
      ∨ (t.slotAt n).wait = some (.globalIn ⟨op.access, 8, 1, r, [], ea, x⟩ (.window 1)))
    (p := fun t => (t.slotAt n).wait = some (.globalIn ⟨op.access, 8, 1, r, [], ea, x⟩ (.window 1))) listed ?inv ?set ?keep (.inl hw)).2
  all_goals
    have refused (t : State) (h : (t.slotAt n).wait = some (.tagged op r x ea k)) :
        ((t.refuseWait (s.launchAt l).place n).slotAt n).wait = some (.globalIn ⟨op.access, 8, 1, r, [], ea, x⟩ (.window 1)) := by
      rw [refuseWait_of_tagged t _ n h hx, slotAt_block]
    have stays (t : State) (y : Nat) (h : (t.slotAt n).wait = some (.globalIn ⟨op.access, 8, 1, r, [], ea, x⟩ (.window 1))) :
        ((t.refuseWait (s.launchAt l).place y).slotAt n).wait = some (.globalIn ⟨op.access, 8, 1, r, [], ea, x⟩ (.window 1)) := by
      by_cases hy : n = y
      · rw [← hy, refuseWait_of_not t _ n (fun _ _ _ _ _ hw => nomatch h.symm.trans hw), h]
      · rw [slotAt_refuseWait_of_ne _ _ _ hy, h]
  case inv =>
    intro t y _ h
    rcases h with h | h
    · by_cases hy : n = y
      · exact .inr (hy ▸ refused t h)
      · exact .inl (by rw [slotAt_refuseWait_of_ne _ _ _ hy, h])
    · exact .inr (stays t y h)
  case set =>
    intro t h
    rcases h with h | h
    · exact refused t h
    · exact stays t n h
  case keep => exact fun t y _ _ h => stays t y h

/-- A slot that waits at none of the released words stays as it is. -/
theorem slotAt_quitStores {n : Nat} (h : ∀ op r x ea k, (s.slotAt n).wait = some (.tagged op r x ea k) → x.tile ∉ (s.launchAt l).place) :
    (s.quitStores l).slotAt n = s.slotAt n := by
  rw [quitStores_eq]
  have stores := onlyStores_landQuit s l
  rw [← stores.slotAt n] at h ⊢
  generalize s.landQuit l = m at h
  refine List.foldlRecOn (motive := fun t : State => t.slotAt n = m.slotAt n) _ _ rfl fun t ht y _ => ?_
  by_cases hy : n = y
  · rw [← hy, refuseWait_of_not t _ n (by rw [ht]; exact h), ht]
  · rw [slotAt_refuseWait_of_ne _ _ _ hy, ht]

end

end Sys2Proof.Machine
end

section
/-! LAUNCH_COMPLETE: what a launch's end releases (04 R69, R70, R73; 07 R150, R153; 11 R208). -/
namespace Sys2Proof.Machine
open Sys2Proof

/-! ## A tile that a launch leaves -/

/-- From s to t only tile p, and what the rings hold, may differ. -/
structure OnlyTile (p : Nat) (s t : State) : Prop where
  only : t = { s with tiles := t.tiles, regions := t.regions }
  tiles : ∀ k, k ≠ p → t.tileAt k = s.tileAt k
  shares : ∀ r, (t.regionAt r).shares = (s.regionAt r).shares

namespace OnlyTile

variable {p : Nat} {s t u : State}

theorem refl (p : Nat) (s : State) : OnlyTile p s s := ⟨rfl, fun _ _ => rfl, fun _ => rfl⟩
theorem trans (h : OnlyTile p s t) (k : OnlyTile p t u) : OnlyTile p s u := by
  refine ⟨?_, fun m hm => (k.tiles m hm).trans (h.tiles m hm), fun r => (k.shares r).trans (h.shares r)⟩
  rw [k.only, h.only]
theorem setTile (p : Nat) (s : State) (x : Tile) : OnlyTile p s (s.setTile p x) :=
  ⟨rfl, fun _ hk => State.tileAt_setTile_of_ne _ _ hk, fun _ => rfl⟩

end OnlyTile

theorem onlyTile_returnToken (s : State) (p : Nat) : OnlyTile p s (s.returnToken p) := by
  unfold State.returnToken
  split
  · exact OnlyTile.refl p s
  · refine OnlyTile.trans (t := s.setRegion (regionOf p) { s.regionAt (regionOf p) with
      returned := (s.regionAt (regionOf p)).returned ++ [(s.regionAt (regionOf p)).rcycle] }) ⟨rfl, fun _ _ => rfl, fun r => ?_⟩
      (OnlyTile.setTile ..)
    by_cases hr : r = regionOf p
    · rw [hr, State.regionAt_setRegion]
    · rw [State.regionAt_setRegion_of_ne _ _ hr]

theorem tileAt_returnToken (s : State) (p : Nat) :
    (s.returnToken p).tileAt p = { s.tileAt p with mx := { (s.tileAt p).mx with token := none } } := by
  unfold State.returnToken
  split
  · next h => rw [← h]
  · rw [State.tileAt_setTile]
    rfl

theorem onlyTile_clearQueue (s : State) (p : Nat) : OnlyTile p s (s.clearQueue p) :=
  (onlyTile_returnToken s p).trans (OnlyTile.setTile ..)

theorem tileAt_clearQueue (s : State) (p : Nat) : ((s.clearQueue p).tileAt p).mx.queue = []
    ∧ ((s.clearQueue p).tileAt p).mx.token = none ∧ ((s.clearQueue p).tileAt p).launch = (s.tileAt p).launch := by
  unfold State.clearQueue
  simp only [State.tileAt_setTile, tileAt_returnToken]
  exact ⟨trivial, trivial, trivial⟩

theorem onlyTile_leaveTile (s : State) (p : Nat) : OnlyTile p s (s.leaveTile p) :=
  (onlyTile_clearQueue s p).trans (OnlyTile.setTile ..)

theorem launch_leaveTile (s : State) (p : Nat) : ((s.leaveTile p).tileAt p).launch = none := by
  unfold State.leaveTile
  rw [State.tileAt_setTile]

/-- From s to t only some tiles, and what the rings hold, may differ. -/
structure OnlyTiles (ps : List Nat) (s t : State) : Prop where
  only : t = { s with tiles := t.tiles, regions := t.regions }
  tiles : ∀ k, k ∉ ps → t.tileAt k = s.tileAt k
  shares : ∀ r, (t.regionAt r).shares = (s.regionAt r).shares

theorem onlyTiles_foldl {f : State → Nat → State} (h : ∀ s p, OnlyTile p s (f s p)) (ps : List Nat) (s : State) :
    OnlyTiles ps s (ps.foldl f s) := by
  refine foldl_rel (r := OnlyTiles ps) (fun s => ⟨rfl, fun _ _ => rfl, fun _ => rfl⟩) (fun {s t u} h k => ⟨?_, ?_, ?_⟩) (fun s p hp => ?_) s
  · rw [k.only, h.only]
  · exact fun m hm => (k.tiles m hm).trans (h.tiles m hm)
  · exact fun r => (k.shares r).trans (h.shares r)
  · exact ⟨(h s p).only, fun k hk => (h s p).tiles k fun e => hk (e ▸ hp), (h s p).shares⟩

/-- What a step makes of its tile, and the steps of other tiles leave, is so of every tile of a fold. -/
theorem foldl_tile {f : State → Nat → State} (h : ∀ s p, OnlyTile p s (f s p)) {q : Tile → Prop} {ps : List Nat} {p : Nat} (hp : p ∈ ps)
    {i : Tile → Prop} (inv : ∀ s, i (s.tileAt p) → i ((f s p).tileAt p)) (set : ∀ s, i (s.tileAt p) → q ((f s p).tileAt p)) {s : State}
    (hs : i (s.tileAt p)) : q ((ps.foldl f s).tileAt p) := by
  refine (foldl_sets (i := fun t => i (t.tileAt p)) (p := fun t => q (t.tileAt p)) hp (fun t y _ ht => ?_) (fun t ht => set t ht)
    (fun t y _ ht hq => ?_) hs).2
  · by_cases hy : p = y
    · exact hy ▸ inv t ht
    · rw [(h t y).tiles p hy]
      exact ht
  · by_cases hy : p = y
    · exact hy ▸ set t ht
    · rw [(h t y).tiles p hy]
      exact hq

/-! ## A core that a launch leaves -/

theorem pumpCoreShared_congr {s t : State} (h : t.launches = s.launches) (l c : Nat) : t.pumpCoreShared l c = s.pumpCoreShared l c := by
  unfold State.pumpCoreShared
  rw [h]

section
variable (s : State) (l c : Nat)

theorem onlyOn_thinCore : OnlyOn c s (s.thinCore l c) := (OnlyOn.setCore ..).trans (onlyServed_serveQueue ..).on

theorem rx_thinCore : ((s.thinCore l c).coreAt c).rx = (s.coreAt c).rx.filter fun m => m.launch ≠ l := by
  obtain ⟨r, a, hx⟩ := pushHeld_eq (s.withoutLaunch l (s.coreAt c))
  have served := (onlyServed_serveQueue (s.setCore c (s.withoutLaunch l (s.coreAt c)).pushHeld) c).core
  rw [State.coreAt_setCore, hx] at served
  unfold State.thinCore
  rw [hx, served]
  rfl

theorem onlyOn_leaveCore : OnlyOn c s (s.leaveCore l c) := by
  unfold State.leaveCore
  split
  · exact onlyOn_thinCore ..
  · exact OnlyOn.setCore ..

variable {s l c}

theorem leaveCore_of_shared (h : s.pumpCoreShared l c = true) : s.leaveCore l c = s.thinCore l c := if_pos h
theorem leaveCore_of_not_shared (h : s.pumpCoreShared l c = false) : s.leaveCore l c = s.setCore c (s.coreAt c).emptied :=
  if_neg (by rw [h]; exact Bool.false_ne_true)

end

/-- What leaving some cores leaves. -/
structure LeavesCores (l : Nat) (cs : List Nat) (s t : State) : Prop where
  only : t = { s with images := t.images, slots := t.slots, cores := t.cores }
  others : ∀ c, c ∉ cs → t.coreAt c = s.coreAt c
  slots : ∀ n, ¬ (coreOf n ∈ cs ∧ s.pumpCoreShared l (coreOf n) = true) → t.slotAt n = s.slotAt n
  own : ∀ c ∈ cs, s.pumpCoreShared l c = false → t.coreAt c = (s.coreAt c).emptied
  shared : ∀ c ∈ cs, s.pumpCoreShared l c = true → (t.coreAt c).rx = (s.coreAt c).rx.filter fun m => m.launch ≠ l

theorem leavesCores_foldl (l : Nat) (cs : List Nat) (s : State) : LeavesCores l cs s (cs.foldl (fun s c => s.leaveCore l c) s) := by
  have launches : ∀ t : State, t.launches = s.launches → ∀ y ∈ cs, (t.leaveCore l y).launches = s.launches :=
    fun t ht y _ => (onlyOn_leaveCore t l y).launches.trans ht
  have share {t : State} (ht : t.launches = s.launches) (c : Nat) := pumpCoreShared_congr ht l c
  refine ⟨?only, fun c hc => ?others, fun n hn => ?slots, fun c hc hs => ?own, fun c hc hs => ?shared⟩
  case only =>
    refine foldl_rel (r := fun s t : State => t = { s with images := t.images, slots := t.slots, cores := t.cores }) (fun s => rfl)
      (fun h k => by rw [k, h]) (fun t c _ => (onlyOn_leaveCore t l c).only) s
  case others =>
    refine foldl_keeps (fun t => t.coreAt c) (fun t y hy => (onlyOn_leaveCore t l y).cores c fun e => hc (e ▸ hy)) s
  case slots =>
    refine (List.foldlRecOn (motive := fun t : State => t.launches = s.launches ∧ t.slotAt n = s.slotAt n) _ _ ⟨rfl, rfl⟩
      fun t ht y hy => ⟨launches t ht.1 y hy, ?_⟩).2
    by_cases hc : coreOf n = y
    · have free : t.pumpCoreShared l y = false := by
        rw [share ht.1, ← hc]
        exact Bool.eq_false_iff.mpr fun hs => hn ⟨hc ▸ hy, hs⟩
      rw [leaveCore_of_not_shared free, State.slotAt_setCore]
      exact ht.2
    · exact ((onlyOn_leaveCore t l y).slots n hc).trans ht.2
  case own =>
    refine (foldl_sets (i := fun t : State => t.launches = s.launches ∧ (t.coreAt c = s.coreAt c ∨ t.coreAt c = (s.coreAt c).emptied))
      (p := fun t : State => t.coreAt c = (s.coreAt c).emptied) hc (fun t y hy ht => ⟨launches t ht.1 y hy, ?_⟩) (fun t ht => ?_)
      (fun t y _ ht hp => ?_) ⟨rfl, .inl rfl⟩).2
    all_goals
      have empty (t : State) (ht : t.launches = s.launches ∧ (t.coreAt c = s.coreAt c ∨ t.coreAt c = (s.coreAt c).emptied)) :
          (t.leaveCore l c).coreAt c = (s.coreAt c).emptied := by
        rw [leaveCore_of_not_shared ((share ht.1 c).trans hs), State.coreAt_setCore]
        rcases ht.2 with h | h
        · rw [h]
        · rw [h]
          rfl
    · by_cases hy' : c = y
      · exact .inr (hy' ▸ empty t ht)
      · rw [(onlyOn_leaveCore t l y).cores c hy']
        exact ht.2
    · exact empty t ht
    · by_cases hy' : c = y
      · exact hy' ▸ empty t ht
      · rw [(onlyOn_leaveCore t l y).cores c hy']
        exact hp
  case shared =>
    refine (foldl_sets (i := fun t : State => t.launches = s.launches ∧ ((t.coreAt c).rx = (s.coreAt c).rx
        ∨ (t.coreAt c).rx = (s.coreAt c).rx.filter fun m => m.launch ≠ l))
      (p := fun t : State => (t.coreAt c).rx = (s.coreAt c).rx.filter fun m => m.launch ≠ l) hc
      (fun t y hy ht => ⟨launches t ht.1 y hy, ?_⟩) (fun t ht => ?_) (fun t y _ ht hp => ?_) ⟨rfl, .inl rfl⟩).2
    all_goals
      have thin (t : State) (ht : t.launches = s.launches ∧ ((t.coreAt c).rx = (s.coreAt c).rx
          ∨ (t.coreAt c).rx = (s.coreAt c).rx.filter fun m => m.launch ≠ l)) :
          ((t.leaveCore l c).coreAt c).rx = (s.coreAt c).rx.filter fun m => m.launch ≠ l := by
        rw [leaveCore_of_shared ((share ht.1 c).trans hs), rx_thinCore]
        rcases ht.2 with h | h
        · rw [h]
        · rw [h, List.filter_filter]
          simp only [Bool.and_self]
    · by_cases hy' : c = y
      · exact .inr (hy' ▸ thin t ht)
      · rw [(onlyOn_leaveCore t l y).cores c hy']
        exact ht.2
    · exact thin t ht
    · by_cases hy' : c = y
      · exact hy' ▸ thin t ht
      · rw [(onlyOn_leaveCore t l y).cores c hy']
        exact hp

/-! ## Slots that become FREE -/

theorem slotAt_freeAll (ns : List Nat) (s : State) (n : Nat) :
    (ns.foldl (fun s n => s.setSlot n {}) s).slotAt n = if n ∈ ns then {} else s.slotAt n := by
  split
  · next h =>
    refine (foldl_sets (i := fun _ => True) (p := fun t : State => t.slotAt n = {}) h (fun _ _ _ _ => trivial)
      (fun t _ => State.slotAt_setSlot ..) (fun t y _ _ ht => ?_) (s := s) trivial).2
    by_cases hy : n = y
    · rw [hy, State.slotAt_setSlot]
    · rw [State.slotAt_setSlot_of_ne _ _ hy, ht]
  · next h =>
    exact foldl_keeps (fun t => t.slotAt n) (fun t y hy => State.slotAt_setSlot_of_ne _ _ fun e => h (e ▸ hy)) s

theorem freeAll_eq (ns : List Nat) (s : State) :
    ns.foldl (fun s n => s.setSlot n {}) s = { s with slots := (ns.foldl (fun s n => s.setSlot n {}) s).slots } :=
  foldl_rel (r := fun s t : State => t = { s with slots := t.slots }) (fun _ => rfl) (fun h k => by rw [k, h]) (fun _ _ _ => rfl) s

end Sys2Proof.Machine
end

section
/-! A launch's end, and the second run of a witness launch (04 R69, R70, R73). -/
namespace Sys2Proof.Machine
open Sys2Proof

/-! ## What a launch's end releases -/

/-- The state of a launch that has ended. -/
def Launch.ended (l : Launch) : Launch :=
  { l with phase := .done, closed := true, groups := [], savedTiles := [], savedShares := [], begun := [], inbox := [] }

/-- What a launch's end leaves of a state s, in which a launch's slots, tiles, cores and shares stand; q is the state in which its stores
are released. -/
structure Released (l : Nat) (s q t : State) : Prop where
  launch : t.launchAt l = (s.launchAt l).ended
  own : ∀ n ∈ s.slotsOf l, t.slotAt n = {}
  slots : ∀ n, n ∉ s.slotsOf l → ¬ (coreOf n ∈ (s.launchAt l).cores ∧ s.pumpCoreShared l (coreOf n) = true) → t.slotAt n = q.slotAt n
  tiles : ∀ p ∈ (s.launchAt l).place, (t.tileAt p).launch = none
  others : ∀ p, p ∉ (s.launchAt l).place → t.tileAt p = s.tileAt p
  shares : ∀ r, find (t.regionAt r).shares l = none
  cores : ∀ c ∈ (s.launchAt l).cores, s.pumpCoreShared l c = false → t.coreAt c = (s.coreAt c).emptied
  rx : ∀ c ∈ (s.launchAt l).cores, s.pumpCoreShared l c = true → (t.coreAt c).rx = (s.coreAt c).rx.filter fun m => m.launch ≠ l
  mem : t.mem = q.mem

theorem find_drop_same {α : Type} (m : List (Nat × α)) (n : Nat) : find (drop m n) n = none := by
  induction m with
  | nil => rfl
  | cons p r ih =>
    obtain ⟨k, v⟩ := p
    by_cases h : k = n
    · rw [drop, List.filter_cons_of_neg (by simp [h])]
      exact ih
    · rw [drop, List.filter_cons_of_pos (by simp [h]), find, if_neg (Ne.symm h)]
      exact ih

/-- Every region without the shares of one launch. -/
def State.dropShares (s : State) (l : Nat) : State :=
  { s with regions := s.regions.map fun p => (p.1, { p.2 with shares := drop p.2.shares l }) }

theorem shares_dropShares (s : State) (l r : Nat) : ((s.dropShares l).regionAt r).shares = drop (s.regionAt r).shares l :=
  congrArg Region.shares (look_map (f := fun (_ : Nat) (x : Region) => { x with shares := drop x.shares l }) (fun _ => rfl) s.regions r)

theorem releaseLaunch_releases (s : State) (l : Nat) : Released l s (s.quitStores l) (s.releaseLaunch l) := by
  have quit := quit_quitStores s l
  unfold State.releaseLaunch
  generalize s.quitStores l = q at quit
  dsimp only
  rw [quit.launchAt, quit.slotsOf]
  have left := leavesCores_foldl l (s.launchAt l).cores.eraseDups q
  generalize hA : (s.launchAt l).cores.eraseDups.foldl (fun s c => s.leaveCore l c) q = a at left
  have free := slotAt_freeAll (s.slotsOf l) a
  have freeOnly := freeAll_eq (s.slotsOf l) a
  generalize hB : (s.slotsOf l).foldl (fun s n => s.setSlot n {}) a = b at free freeOnly
  have tiles := onlyTiles_foldl onlyTile_leaveTile (s.launchAt l).place b
  have gone (p : Nat) (hp : p ∈ (s.launchAt l).place) : (((s.launchAt l).place.foldl State.leaveTile b).tileAt p).launch = none :=
    foldl_tile (q := fun x => x.launch = none) (i := fun _ => True) onlyTile_leaveTile hp (fun _ _ => trivial)
      (fun t _ => launch_leaveTile t p) (s := b) trivial
  generalize hD : (s.launchAt l).place.foldl State.leaveTile b = d at tiles gone
  have dSlots (n : Nat) : d.slotAt n = b.slotAt n := by rw [tiles.only]; rfl
  have dCores (c : Nat) : d.coreAt c = a.coreAt c := by rw [tiles.only, freeOnly]; rfl
  refine ⟨State.launchAt_setLaunch .., fun n hn => ?_, fun n hn hc => ?_, gone, fun p hp => ?_, fun r => ?_, fun c hc hs => ?_,
    fun c hc hs => ?_, ?_⟩
  · exact (dSlots n).trans ((free n).trans (if_pos hn))
  · refine (dSlots n).trans ((free n).trans ((if_neg hn).trans (left.slots n fun k => hc ⟨?_, ?_⟩)))
    · exact List.mem_eraseDups.mp k.1
    · exact (quit.pumpCoreShared ..).symm.trans k.2
  · refine (tiles.tiles p hp).trans ?_
    rw [freeOnly, left.only]
    exact quit.tileAt p
  · refine (congrArg (fun x => find x l) (shares_dropShares d l r)).trans (find_drop_same ..)
  · refine (dCores c).trans ((left.own c (List.mem_eraseDups.mpr hc) ((quit.pumpCoreShared ..).trans hs)).trans ?_)
    rw [quit.coreAt]
  · refine (congrArg Core.rx (dCores c)).trans ((left.shared c (List.mem_eraseDups.mpr hc) ((quit.pumpCoreShared ..).trans hs)).trans ?_)
    rw [quit.coreAt]
  · show d.mem = _
    rw [tiles.only, freeOnly, left.only]

/-- What ends a launch reads none of the bytes that its completion record takes. -/
theorem Released.of_onlyBytes {l : Nat} {s w q t : State} (h : OnlyBytes s w) (k : Released l w q t) : Released l s q t := by
  have launch : w.launchAt l = s.launchAt l := h.launchAt l
  have slotsOf : w.slotsOf l = s.slotsOf l := by rw [h]; rfl
  have shared (c : Nat) : w.pumpCoreShared l c = s.pumpCoreShared l c := pumpCoreShared_congr (by rw [h]) l c
  have core (c : Nat) : w.coreAt c = s.coreAt c := by rw [h]; rfl
  have tile (p : Nat) : w.tileAt p = s.tileAt p := by rw [h]; rfl
  obtain ⟨hl, own, slots, tiles, others, shares, cores, rx, mem⟩ := k
  rw [launch] at hl slots tiles others cores rx
  rw [slotsOf] at own slots
  simp only [shared, core] at slots cores rx
  simp only [tile] at others
  exact ⟨hl, own, slots, tiles, others, shares, cores, rx, mem⟩

/-! ## LAUNCH_COMPLETE -/

section
variable {s : State} {l : Nat}

theorem launchComplete_of_not_over (h : s.runOver l = false) : exec (.launchComplete l) s = .next s :=
  congrArg Host.Outcome.next (if_neg (by rw [h]; exact Bool.false_ne_true))

theorem launchComplete_of_over (h : s.runOver l = true) : exec (.launchComplete l) s = .next (s.endRun l) :=
  congrArg Host.Outcome.next (if_pos h)

theorem endRun_of_not_witness (h : (s.launchAt l).isWitness = false) :
    s.endRun l = s.endLaunch l (s.verdict l).1 (s.verdict l).2 0 0 := by
  unfold State.endRun
  exact if_pos (by rw [h]; rfl)

theorem endLaunch_releases (s : State) (l status detail : Nat) (a b : BitVec 128) :
    Released l s ((s.writeDone (s.launchAt l) status true detail a b).quitStores l) (s.endLaunch l status detail a b) :=
  (releaseLaunch_releases ..).of_onlyBytes (onlyBytes_writeDone ..)

section
variable (hw : (s.launchAt l).isWitness = true) (hv : (s.verdict l).1 = 0)
include hw hv

theorem endRun_of_first (hr : (s.launchAt l).run = 0) : s.endRun l = s.endFirstRun l := by
  simp only [State.endRun, hw, hv, hr, Bool.not_true, Bool.false_eq_true, if_false, ne_eq, not_true, if_true]

theorem endRun_of_second (hr : (s.launchAt l).run ≠ 0) : s.endRun l = s.endLaunch l
    (if (s.launchAt l).digestA = digestOf (s.outWords (s.launchAt l)) then 0 else 1) 0 (s.launchAt l).digestA
    (digestOf (s.outWords (s.launchAt l))) := by
  simp only [State.endRun, hw, hv, hr, Bool.not_true, Bool.false_eq_true, if_false, ne_eq, not_true]

end

theorem outWords_onlyTiles {ps : List Nat} {t : State} (h : OnlyTiles ps s t) (lc : Launch) : t.outWords lc = s.outWords lc := by
  rw [h.only]
  rfl

/-- The end of a witness launch's first run releases its stores and empties its matrix queues. -/
theorem endFirstRun_ends : ∃ u, OnlyTiles (s.launchAt l).place (s.quitStores l) u ∧ s.endFirstRun l = u.setLaunch l
      { s.launchAt l with phase := .between, run := 1, closed := true, digestA := digestOf ((s.quitStores l).outWords (s.launchAt l)) }
    ∧ ∀ p ∈ (s.launchAt l).place, (u.tileAt p).mx.queue = [] ∧ (u.tileAt p).mx.token = none
      ∧ (u.tileAt p).launch = (s.tileAt p).launch := by
  have quit := quit_quitStores s l
  unfold State.endFirstRun
  generalize s.quitStores l = q at quit
  dsimp only
  rw [quit.launchAt]
  have tiles := onlyTiles_foldl onlyTile_clearQueue (s.launchAt l).place q
  refine ⟨_, tiles, ?_, fun p hp => ?_⟩
  · rw [outWords_onlyTiles tiles]
  · refine foldl_tile (i := fun x => x.launch = (s.tileAt p).launch)
      (q := fun x => x.mx.queue = [] ∧ x.mx.token = none ∧ x.launch = (s.tileAt p).launch) onlyTile_clearQueue hp ?_ ?_ ?_
    · exact fun t ht => (tileAt_clearQueue t p).2.2.trans ht
    · intro t ht
      obtain ⟨queue, token, launch⟩ := tileAt_clearQueue t p
      exact ⟨queue, token, launch.trans ht⟩
    · rw [quit.tileAt]

/-! ## The outcome -/

theorem verdict_of_killed (h : (s.launchAt l).killed = true) : s.verdict l = (3, 0) := by
  unfold State.verdict
  exact if_pos h

section
variable (hk : (s.launchAt l).killed = false)
include hk

theorem verdict_of_fault {n c : Nat} (h : (s.launchAt l).fault = some (n, c)) : s.verdict l = (4, n * 2 ^ 32 + c % 65536) := by
  simp only [State.verdict, hk, h, Bool.false_eq_true, if_false]

variable (hf : (s.launchAt l).fault = none) (hc : s.failedCopy l = none)
include hf hc

theorem verdict_of_breach {g i : Nat} (h : (s.launchAt l).breach = some (g, i)) : s.verdict l = (5, g * 256 + i) := by
  simp only [State.verdict, hk, hf, hc, h, Bool.false_eq_true, if_false]

theorem verdict_of_complete (h : (s.launchAt l).breach = none) : s.verdict l = (0, 0) := by
  simp only [State.verdict, hk, hf, hc, h, Bool.false_eq_true, if_false]

end
end

end Sys2Proof.Machine
end

section
/-! What sets a launch up: its stores, its code region, its shares and its groups (04 R65, R71, R73, R82; 09 R188); DISPATCH and
WITNESS_SECOND_RUN. -/
namespace Sys2Proof.Machine
open Sys2Proof

/-! ## The stores and the code region -/

/-- From s to t only bytes, the tags of words, the marks of poisoned words and the stamps may differ. -/
def OnlyContents (s t : State) : Prop := t = { s with mem := t.mem, empties := t.empties, poison := t.poison, stamps := t.stamps }

theorem OnlyContents.refl (s : State) : OnlyContents s s := rfl
theorem OnlyContents.trans {s t u : State} (h : OnlyContents s t) (k : OnlyContents t u) : OnlyContents s u := by
  unfold OnlyContents at h k ⊢
  rw [k, h]
theorem OnlyBytes.onlyContents {s t : State} (h : OnlyBytes s t) : OnlyContents s t := by
  unfold OnlyContents
  rw [h]

theorem onlyContents_foldl {α : Type} {f : State → α → State} (h : ∀ s x, OnlyContents s (f s x)) (l : List α) (s : State) :
    OnlyContents s (l.foldl f s) := foldl_rel OnlyContents.refl OnlyContents.trans (fun s x _ => h s x) s

theorem onlyContents_haul (s : State) (src dst n : Nat) : OnlyContents s (s.haul src dst n) := by
  unfold State.haul
  refine OnlyContents.trans (t := { s with
      mem := copyMem s.mem src dst n, poison := s.poison.filter fun k => !decide (dst ≤ k ∧ k + 8 ≤ dst + n) })
    rfl (onlyContents_foldl (fun _ _ => by exact rfl) _ _)

theorem onlyContents_haulIn (part : Nat) : ∀ (f : Nat) (s : State) (va dst n : Nat), OnlyContents s (s.haulIn part va dst n f)
  | 0, s, _, _, _ => OnlyContents.refl s
  | f + 1, s, va, dst, n => by
    unfold State.haulIn
    split
    · exact OnlyContents.refl s
    · refine OnlyContents.trans ?_ (onlyContents_haulIn part f _ _ _ _)
      split
      · split
        · exact onlyContents_haul ..
        · exact OnlyContents.refl s
      · exact OnlyContents.refl s

theorem onlyContents_haulPart (part : Nat) : ∀ (f : Nat) (s : State) (va dst n : Nat), OnlyContents s (s.haulPart part va dst n f)
  | 0, s, _, _, _ => OnlyContents.refl s
  | f + 1, s, va, dst, n => by
    unfold State.haulPart
    split
    · exact OnlyContents.refl s
    · refine OnlyContents.trans ?_ (onlyContents_haulPart part f _ _ _ _)
      split
      · split
        · split
          · exact OnlyContents.refl s
          · exact onlyContents_haul ..
        · exact OnlyContents.refl s
      · exact OnlyContents.refl s

theorem onlyContents_applyImage (s : State) (lc : Launch) (e : ImageEntry) : OnlyContents s (s.applyImage lc e) := by
  unfold State.applyImage
  split
  · exact onlyContents_haulPart ..
  · split
    · exact OnlyContents.refl s
    · dsimp only
      split
      · exact (onlyContents_haulIn ..).trans (onlyContents_foldl (fun _ _ => by exact rfl) _ _)
      · exact onlyContents_haulIn ..

theorem onlyContents_loadStores (s : State) (l : Nat) : OnlyContents s (s.loadStores l) :=
  (onlyContents_foldl (fun _ _ => by exact rfl) _ _).trans (onlyContents_foldl (fun t e => onlyContents_applyImage t _ e) _ _)

theorem onlyContents_loadCode (s : State) (l : Nat) : OnlyContents s (s.loadCode l) :=
  OnlyContents.trans (t := { s with
    mem := clearMem s.mem (codeKey l) (codeKey l + 0x1000000)
    poison := s.poison.filter fun w => !decide (codeKey l ≤ w ∧ w < codeKey l + 0x1000000) }) rfl (onlyContents_haulIn ..)

theorem onlyContents_restoreOuts (s : State) (l : Nat) : OnlyContents s (s.restoreOuts l) := by
  refine onlyContents_foldl (fun t p => ?_) _ _
  split
  · exact (onlyBytes_partWrite8 ..).onlyContents
  · split
    · exact rfl
    · exact OnlyContents.refl t

/-! ## Shares, groups and rings -/

/-- From s to t only some regions may differ, and of each of them its shares or its ring. -/
def OnlyRegions (s t : State) : Prop := t = { s with regions := t.regions }

theorem onlyRegions_foldl {f : State → Nat → State} (h : ∀ s r, OnlyRegions s (f s r)) (rs : List Nat) (s : State) :
    OnlyRegions s (rs.foldl f s) :=
  foldl_rel (r := OnlyRegions) (fun _ => rfl) (fun {s t u} h k => by unfold OnlyRegions at h k ⊢; rw [k, h]) (fun s r _ => h s r) s

section
variable (s : State) (l : Nat)

theorem onlyRegions_giveShares : OnlyRegions s (s.giveShares l) := onlyRegions_foldl (fun _ _ => by exact rfl) ..

theorem onlyRegions_seedRings (seed : Nat) : OnlyRegions s (s.seedRings l seed) := onlyRegions_foldl (fun _ _ => by exact rfl) ..

theorem shareAt_setShare (r : Nat) (x : Share) : (s.setShare r l x).shareAt r l = x := by
  unfold State.setShare State.shareAt
  rw [State.regionAt_setRegion]
  exact look_put_same ..

theorem shareAt_setShare_of_ne {r k : Nat} (x : Share) (h : k ≠ r) : (s.setShare r l x).shareAt k l = s.shareAt k l := by
  unfold State.setShare State.shareAt
  rw [State.regionAt_setRegion_of_ne _ _ h]

/-- Each region of a launch's placement has the launch's share, empty. -/
theorem shareAt_giveShares {r : Nat} (h : r ∈ regionsOf (s.launchAt l).place) :
    (s.giveShares l).shareAt r l = { size := (s.launchAt l).record.wqshare } := by
  refine (foldl_sets (i := fun _ => True) (p := fun t : State => t.shareAt r l = { size := (s.launchAt l).record.wqshare }) h
    (fun _ _ _ _ => trivial) (fun t _ => shareAt_setShare ..) (fun t y _ _ ht => ?_) (s := s) trivial).2
  by_cases hy : r = y
  · rw [hy, shareAt_setShare]
  · rw [shareAt_setShare_of_ne _ _ _ hy, ht]

theorem shareAt_seedRings (seed r : Nat) : (s.seedRings l seed).shareAt r l = s.shareAt r l := by
  refine foldl_keeps (fun t => t.shareAt r l) (fun t y _ => ?_) s
  unfold State.shareAt
  by_cases hy : r = y
  · rw [hy, State.regionAt_setRegion]
  · rw [State.regionAt_setRegion_of_ne _ _ hy]

theorem lastHolder_seedRings (seed : Nat) {r : Nat} (h : r ∈ regionsOf (s.launchAt l).place) :
    ((s.seedRings l seed).regionAt r).lastHolder = seed % 16 := by
  refine (foldl_sets (i := fun _ => True) (p := fun t : State => (t.regionAt r).lastHolder = seed % 16) h (fun _ _ _ _ => trivial)
    (fun t _ => congrArg Region.lastHolder (State.regionAt_setRegion ..)) (fun t y _ _ ht => ?_) (s := s) trivial).2
  by_cases hy : r = y
  · rw [hy, State.regionAt_setRegion]
  · rw [State.regionAt_setRegion_of_ne _ _ hy, ht]

/-- A launch's groups at their start, in the regions of its placement. -/
def Launch.grouped (l : Launch) : Launch :=
  { l with groups := l.plan.groups.map fun g => { g with region := groupRegion l.place g }, spillNext := 0 }

theorem giveGroups_eq : s.giveGroups l = s.setLaunch l (s.launchAt l).grouped := rfl

end

/-! ## WITNESS_SECOND_RUN -/

/-- The state in which a witness launch's second run is prepared: what it has on its pump-class cores is given up. -/
def State.leavePumps (s : State) (l : Nat) : State :=
  ((s.slotsOf l).filter fun n => decide (n ∈ (s.launchAt l).begun)).foldl (fun s n => s.setSlot n {})
    ((((s.launchAt l).pumpSlots.map coreOf).eraseDups).foldl (fun s c => s.leaveCore l c) s)

/-- What giving up the pump-class cores leaves. -/
theorem leavePumps_leaves (s : State) (l : Nat) : ∃ a, LeavesCores l ((s.launchAt l).pumpSlots.map coreOf).eraseDups s a
    ∧ s.leavePumps l = { a with slots := (s.leavePumps l).slots }
    ∧ ∀ n, (s.leavePumps l).slotAt n = if n ∈ (s.launchAt l).begun ∧ (s.slotAt n).launch = l then {} else a.slotAt n := by
  refine ⟨_, leavesCores_foldl .., freeAll_eq .., fun n => ?_⟩
  have own : n ∈ (s.slotsOf l).filter (fun n => decide (n ∈ (s.launchAt l).begun))
      ↔ n ∈ (s.launchAt l).begun ∧ (s.slotAt n).launch = l := by
    unfold State.slotsOf Launch.slots Launch.pumpSlots
    simp only [List.mem_filter, List.mem_append, decide_eq_true_eq]
    exact ⟨fun h => ⟨h.2, h.1.2⟩, fun h => ⟨⟨.inr (.inr h.1), h.2⟩, h.1⟩⟩
  unfold State.leavePumps
  rw [slotAt_freeAll]
  simp only [own]

/-- The state that WITNESS_SECOND_RUN prepares. -/
def State.secondRun (s : State) (l seed : Nat) : State :=
  ((((((s.leavePumps l).setLaunch l { s.launchAt l with phase := .dispatched, breach := none, begun := [] }).loadStores l).giveShares
    l).giveGroups l).restoreOuts l).seedRings l seed

section
variable {s : State} {l seed : Nat}

theorem witnessSecondRun_of_between (hp : (s.launchAt l).phase = .between) (hk : (s.launchAt l).killed = false)
    (hf : (s.launchAt l).fault = none) : exec (.witnessSecondRun ⟨l, seed⟩) s = .next (s.secondRun l seed) :=
  congrArg Host.Outcome.next (if_pos (by rw [hp, hk, hf]; rfl))

theorem witnessSecondRun_of_not
    (h : (s.launchAt l).phase ≠ .between ∨ (s.launchAt l).killed = true ∨ (s.launchAt l).fault ≠ none) :
    exec (.witnessSecondRun ⟨l, seed⟩) s = .next s := by
  refine congrArg Host.Outcome.next (if_neg fun k => ?_)
  simp only [Bool.and_eq_true, decide_eq_true_eq, Bool.not_eq_true', Option.isNone_iff_eq_none] at k
  obtain ⟨⟨hp, hk⟩, hf⟩ := k
  rcases h with h | h | h
  · exact h hp
  · exact Bool.false_ne_true (hk.symm.trans h)
  · exact h hf

/-- What preparing the second run leaves: the launch's own record, shares and rings, memory, and what is given up. -/
structure Prepared (s t : State) (l seed : Nat) : Prop where
  only : t = { s.leavePumps l with
    mem := t.mem, empties := t.empties, poison := t.poison, stamps := t.stamps, regions := t.regions, launches := t.launches }
  launch : t.launchAt l = ({ s.launchAt l with phase := .dispatched, breach := none, begun := [] } : Launch).grouped
  share : ∀ r ∈ regionsOf (s.launchAt l).place, t.shareAt r l = { size := (s.launchAt l).record.wqshare }
  ring : ∀ r ∈ regionsOf (s.launchAt l).place, (t.regionAt r).lastHolder = seed % 16

theorem secondRun_prepares (s : State) (l seed : Nat) : Prepared s (s.secondRun l seed) l seed := by
  unfold State.secondRun
  have launch := State.launchAt_setLaunch (s.leavePumps l) l { s.launchAt l with phase := .dispatched, breach := none, begun := [] }
  have only : (s.leavePumps l).setLaunch l { s.launchAt l with phase := .dispatched, breach := none, begun := [] }
      = { s.leavePumps l with launches := ((s.leavePumps l).setLaunch l
          { s.launchAt l with phase := .dispatched, breach := none, begun := [] }).launches } := rfl
  generalize (s.leavePumps l).setLaunch l { s.launchAt l with phase := .dispatched, breach := none, begun := [] } = a at launch only
  have load := onlyContents_loadStores a l
  generalize a.loadStores l = b at load
  have launchB : b.launchAt l = _ := (by rw [load]; rfl : b.launchAt l = a.launchAt l).trans launch
  have give := onlyRegions_giveShares b l
  have share := @shareAt_giveShares b l
  rw [launchB] at share
  generalize b.giveShares l = c at give share
  have launchC : c.launchAt l = _ := (by rw [give]; rfl : c.launchAt l = b.launchAt l).trans launchB
  rw [giveGroups_eq, launchC]
  have launchD := State.launchAt_setLaunch c l ({ s.launchAt l with phase := .dispatched, breach := none, begun := [] } : Launch).grouped
  generalize hd : c.setLaunch l ({ s.launchAt l with phase := .dispatched, breach := none, begun := [] } : Launch).grouped = d at launchD
  have group : d = { c with launches := d.launches } := by rw [← hd]; rfl
  have outs := onlyContents_restoreOuts d l
  generalize d.restoreOuts l = e at outs
  have launchE : e.launchAt l = _ := (by rw [outs]; rfl : e.launchAt l = d.launchAt l).trans launchD
  have seeds := onlyRegions_seedRings e l seed
  have ring := @lastHolder_seedRings e l seed
  have same := shareAt_seedRings e l seed
  rw [launchE] at ring
  generalize e.seedRings l seed = t at seeds ring same
  refine ⟨?_, ?_, fun r hr => ?_, fun r hr => ring hr⟩
  · rw [seeds, outs, group, give, load, only]
  · exact (by rw [seeds]; rfl : t.launchAt l = e.launchAt l).trans launchE
  · refine (same r).trans (Eq.trans ?_ (share hr))
    rw [outs, group]
    rfl

end

end Sys2Proof.Machine
end

section
/-! DISPATCH (04 R65, R67, R71). -/
namespace Sys2Proof.Machine
open Sys2Proof

/-- What allotting a placement leaves. -/
structure Allotted (l : Nat) (place : List Nat) (plan : Plan) (s t : State) : Prop where
  only : t = { s with launches := t.launches, everDispatched := t.everDispatched, tiles := t.tiles }
  launch : t.launchAt l = { s.launchAt l with phase := .dispatched, place := place, plan := plan, closed := true }
  own : ∀ i, i < place.length → (t.tileAt (place.getD i 0)).launch = some l ∧ (t.tileAt (place.getD i 0)).logTile = i
  others : ∀ x, x ∉ place → t.tileAt x = s.tileAt x

/-- Logical tile i of a placement, as the tile that a launch is given. -/
def State.allotTile (l : Nat) (place : List Nat) (s : State) (i : Nat) : State :=
  s.setTile (place.getD i 0) { s.tileAt (place.getD i 0) with launch := some l, logTile := i }

theorem getD_inj_of_nodup {place : List Nat} (h : place.Nodup) {i j : Nat} (hi : i < place.length) (hj : j < place.length) :
    place.getD i 0 = place.getD j 0 ↔ i = j := by
  rw [List.getD_eq_getElem _ _ hi, List.getD_eq_getElem _ _ hj]
  exact h.getElem_inj_iff

theorem getD_mem {place : List Nat} {i : Nat} (hi : i < place.length) : place.getD i 0 ∈ place := by
  rw [List.getD_eq_getElem _ _ hi]
  exact List.getElem_mem hi

theorem allot_allots (s : State) (l : Nat) {place : List Nat} (plan : Plan) (h : place.Nodup) :
    Allotted l place plan s (s.allot l place plan) := by
  show Allotted l place plan s ((List.range place.length).foldl (State.allotTile l place) _)
  have only := foldl_rel (f := State.allotTile l place) (l := List.range place.length)
    (r := fun s t : State => t = { s with tiles := t.tiles })
    (fun _ => rfl) (fun h k => by rw [k, h]) (fun _ _ _ => rfl)
    ({ s.setLaunch l { s.launchAt l with phase := .dispatched, place := place, plan := plan, closed := true } with
      everDispatched := true } : State)
  refine ⟨?_, ?_, fun i hi => ?_, fun x hx => ?_⟩
  · rw [only]
    rfl
  · rw [only]
    exact State.launchAt_setLaunch ..
  · refine (foldl_sets (i := fun _ => True) (p := fun t : State => (t.tileAt (place.getD i 0)).launch = some l
      ∧ (t.tileAt (place.getD i 0)).logTile = i) (List.mem_range.mpr hi) (fun _ _ _ _ => trivial) (fun t _ => ?_)
      (fun t j hj _ ht => ?_) trivial).2
    all_goals unfold State.allotTile
    · rw [State.tileAt_setTile]
      exact ⟨rfl, rfl⟩
    · by_cases e : i = j
      · rw [e, State.tileAt_setTile]
        exact ⟨rfl, rfl⟩
      · rw [State.tileAt_setTile_of_ne _ _ fun k => e ((getD_inj_of_nodup h hi (List.mem_range.mp hj)).mp k)]
        exact ht
  · exact foldl_keeps (fun t => t.tileAt x)
      (fun t j hj => State.tileAt_setTile_of_ne _ _ fun e => hx (e ▸ getD_mem (List.mem_range.mp hj))) _

section
variable {s : State} {l : Nat} {plan : Plan} {place : List Nat}

theorem placeOk_passes {lc : Launch} {gs : List Group} (h : s.placeOk lc gs place = true) :
    place.length = lc.record.tiles ∧ place.Nodup ∧ ∀ p ∈ place, p < 1024 := by
  simp only [State.placeOk, Bool.and_eq_true, decide_eq_true_eq, List.all_eq_true] at h
  obtain ⟨⟨⟨⟨⟨⟨⟨length, nodup⟩, free⟩, -⟩, -⟩, -⟩, -⟩, -⟩ := h
  exact ⟨length, nodup, fun p hp => (free p hp).1.1.1⟩

theorem canDispatch_passes (h : s.canDispatch l plan place = true) :
    (s.launchAt l).phase = .queued ∧ s.queueHead (s.launchAt l).record.prio = some l ∧ s.placeOk (s.launchAt l) plan.groups place = true
    ∧ ∀ p, p < (s.launchAt l).record.prio → s.headFits p = false := by
  simp only [State.canDispatch, Bool.and_eq_true, decide_eq_true_eq, Bool.not_eq_true', List.any_eq_false, List.mem_range,
    Bool.not_eq_true] at h
  obtain ⟨⟨⟨phase, head⟩, fits⟩, higher⟩ := h
  exact ⟨phase, head, fits, higher⟩

theorem dispatch_of_not (h : s.canDispatch l (s.readPlan (s.launchAt l).part (s.launchAt l).record) place = false) :
    exec (.dispatch l place) s = .next s :=
  congrArg Host.Outcome.next (if_neg (by rw [h]; exact Bool.false_ne_true))

/-- What DISPATCH leaves. -/
structure Dispatched (l : Nat) (place : List Nat) (plan : Plan) (s t : State) : Prop where
  phase : (t.launchAt l).phase = .dispatched
  placed : (t.launchAt l).place = place
  planned : (t.launchAt l).plan = plan
  closed : (t.launchAt l).closed = true
  own : ∀ i, i < place.length → (t.tileAt (place.getD i 0)).launch = some l ∧ (t.tileAt (place.getD i 0)).logTile = i
  others : ∀ x, x ∉ place → t.tileAt x = s.tileAt x
  share : ∀ r ∈ regionsOf place, t.shareAt r l = { size := (s.launchAt l).record.wqshare }
  slots : t.slots = s.slots
  images : t.images = s.images
  cores : t.cores = s.cores

theorem saveOuts_saves (s : State) (l : Nat) :
    ∃ o, s.saveOuts l = { s with launches := (s.saveOuts l).launches }
      ∧ (s.saveOuts l).launchAt l = { s.launchAt l with outsSaved := o } := by
  unfold State.saveOuts
  dsimp only
  split
  · exact ⟨_, rfl, State.launchAt_setLaunch ..⟩
  · exact ⟨_, rfl, rfl⟩

theorem dispatch_of_can (h : s.canDispatch l (s.readPlan (s.launchAt l).part (s.launchAt l).record) place = true) :
    ∃ t, exec (.dispatch l place) s = .next t
      ∧ Dispatched l place (s.readPlan (s.launchAt l).part (s.launchAt l).record) s t := by
  refine ⟨_, congrArg Host.Outcome.next (if_pos h), ?_⟩
  obtain ⟨-, -, fits, -⟩ := canDispatch_passes h
  obtain ⟨-, nodup, -⟩ := placeOk_passes fits
  have allot := allot_allots s l (s.readPlan (s.launchAt l).part (s.launchAt l).record) nodup
  generalize s.readPlan (s.launchAt l).part (s.launchAt l).record = plan at allot
  generalize s.allot l place plan = a at allot
  have load := (onlyContents_loadCode a l).trans (onlyContents_loadStores _ l)
  dsimp only
  generalize (a.loadCode l).loadStores l = b at load
  have launchB : b.launchAt l = _ := (by rw [load]; rfl : b.launchAt l = a.launchAt l).trans allot.launch
  have give := onlyRegions_giveShares b l
  have share := @shareAt_giveShares b l
  rw [launchB] at share
  generalize b.giveShares l = c at give share
  have launchC : c.launchAt l = _ := (by rw [give]; rfl : c.launchAt l = b.launchAt l).trans launchB
  rw [giveGroups_eq]
  have launchD := State.launchAt_setLaunch c l (c.launchAt l).grouped
  generalize hd : c.setLaunch l (c.launchAt l).grouped = d at launchD
  have group : d = { c with launches := d.launches } := by rw [← hd]; rfl
  obtain ⟨o, outs, launch⟩ := saveOuts_saves d l
  generalize d.saveOuts l = t at outs launch
  have only : t = { a with
      mem := t.mem, empties := t.empties, poison := t.poison, stamps := t.stamps, regions := t.regions, launches := t.launches } := by
    rw [outs, group, give, load]
  have tiles (x : Nat) : t.tileAt x = a.tileAt x := by rw [only]; rfl
  rw [launchD, launchC] at launch
  refine ⟨?_, ?_, ?_, ?_, fun i hi => ?_, fun x hx => (tiles x).trans (allot.others x hx), fun r hr => ?_, ?_, ?_, ?_⟩
  · rw [launch]; rfl
  · rw [launch]; rfl
  · rw [launch]; rfl
  · rw [launch]; rfl
  · rw [tiles]; exact allot.own i hi
  · refine Eq.trans ?_ (share hr)
    rw [outs, group]
    rfl
  · rw [only, allot.only]
  · rw [only, allot.only]
  · rw [only, allot.only]

end

end Sys2Proof.Machine
end

section
/-! LAUNCH_START: its tiles, the slots of BINDS, its pump-class cores and slots, and the operating points of its level groups (04 R73, R76,
R79; 09 R196). -/
namespace Sys2Proof.Machine
open Sys2Proof

/-! ## Logical slots -/

section
variable {l : Launch} {s : State}

/-- Logical slots of a placement without repetition stand on slots of their own. -/
theorem slotOf_inj (h : l.place.Nodup) {a b : Nat} (ha : a / 64 < l.place.length) (hb : b / 64 < l.place.length)
    (e : l.slotOf a = l.slotOf b) : a = b := by
  unfold Launch.slotOf at e
  have tile := (getD_inj_of_nodup h ha hb).mp (by omega)
  omega

theorem slotOf_lt (h : ∀ p ∈ l.place, p < 1024) {a : Nat} (ha : a / 64 < l.place.length) : l.slotOf a < 0x10000 := by
  have := h _ (getD_mem ha)
  unfold Launch.slotOf
  omega

end

theorem ownImage (n : Nat) : 16 * coreOf n + slotIdx n = n := by
  unfold coreOf slotIdx
  omega

theorem imageKey_of_sel {s : State} {n : Nat} (h : (s.slotAt n).sel = 0) : s.imageKey n = n := by
  have own := ownImage n
  have := Nat.mod_lt n (by decide : 16 > 0)
  simp only [State.imageKey, h, slotIdx] at own ⊢
  omega

/-! ## A tile at its start -/

/-- Tile p is at its start as logical tile i of launch l: its slots are free and stand for their logical slots. -/
structure Opened (l i p : Nat) (t : State) : Prop where
  tile : ∃ y, t.tileAt p = startTile l i y
  slots : ∀ k, k < 64 → t.slotAt (64 * p + k) = { launch := l, logSlot := .ofNat 16 (64 * i + k) }

/-- The slots of a tile, set to stand for logical tile i of launch l. -/
def State.layTile (s : State) (l i p : Nat) : State :=
  (List.range 64).foldl (fun s k => s.setSlot (64 * p + k) { launch := l, logSlot := .ofNat 16 (64 * i + k) }) s

theorem layTile_eq (s : State) (l i p : Nat) : s.layTile l i p = { s with slots := (s.layTile l i p).slots } :=
  foldl_rel (r := fun s t : State => t = { s with slots := t.slots }) (fun _ => rfl) (fun h k => by rw [k, h]) (fun _ _ _ => rfl) s

theorem slotAt_layTile (s : State) (l i p : Nat) {k : Nat} (h : k < 64) :
    (s.layTile l i p).slotAt (64 * p + k) = { launch := l, logSlot := .ofNat 16 (64 * i + k) } := by
  refine (foldl_sets (i := fun _ => True) (p := fun t : State => t.slotAt (64 * p + k) = { launch := l, logSlot := .ofNat 16 (64 * i + k) })
    (List.mem_range.mpr h) (fun _ _ _ _ => trivial) (fun t _ => State.slotAt_setSlot ..) (fun t j _ _ ht => ?_) trivial).2
  by_cases e : k = j
  · rw [e, State.slotAt_setSlot]
  · rw [State.slotAt_setSlot_of_ne _ _ (by omega), ht]

theorem slotAt_layTile_of_ne (s : State) (l i p : Nat) {n : Nat} (h : n / 64 ≠ p) : (s.layTile l i p).slotAt n = s.slotAt n :=
  foldl_keeps (fun t => t.slotAt n) (fun t k hk => State.slotAt_setSlot_of_ne _ _ (by have := List.mem_range.mp hk; omega)) s

/-- What starting logical tile i of a launch, which is tile p, leaves. -/
structure StartsTile (l i p : Nat) (s t : State) : Prop where
  only : t = { s with images := t.images, slots := t.slots, cores := t.cores, tiles := t.tiles }
  opened : Opened l i p t
  tiles : ∀ k, k ≠ p → t.tileAt k = s.tileAt k
  slots : ∀ n, n / 64 ≠ p → t.slotAt n = s.slotAt n

theorem startTileAt_starts (s : State) (l i : Nat) : StartsTile l i ((s.launchAt l).place.getD i 0) s (s.startTileAt l i) := by
  unfold State.startTileAt
  dsimp only
  generalize (s.launchAt l).plan = plan
  generalize (s.launchAt l).place.getD i 0 = p
  have tile := State.tileAt_setTile s p (startTile l i (s.tileAt p))
  have others (k : Nat) (h : k ≠ p) := State.tileAt_setTile_of_ne s (startTile l i (s.tileAt p)) h
  have set : s.setTile p (startTile l i (s.tileAt p)) = { s with tiles := (s.setTile p (startTile l i (s.tileAt p))).tiles } := rfl
  generalize s.setTile p (startTile l i (s.tileAt p)) = a at tile others set
  have cores : (List.range 4).foldl (fun s c => s.setCore (4 * p + c) (startCore l plan (4 * i + c))) a
      = { a with cores := ((List.range 4).foldl (fun s c => s.setCore (4 * p + c) (startCore l plan (4 * i + c))) a).cores } :=
    foldl_rel (r := fun s t : State => t = { s with cores := t.cores }) (fun _ => rfl) (fun h k => by rw [k, h]) (fun _ _ _ => rfl) a
  generalize (List.range 4).foldl (fun s c => s.setCore (4 * p + c) (startCore l plan (4 * i + c))) a = b at cores
  have lay := layTile_eq b l i p
  have own := fun k => @slotAt_layTile b l i p k
  have other := fun n => @slotAt_layTile_of_ne b l i p n
  show StartsTile l i p s { b.layTile l i p with images := (b.layTile l i p).images.filter fun q => q.1 / 64 ≠ p }
  generalize b.layTile l i p = c at lay own other
  have tiles (k : Nat) : c.tileAt k = a.tileAt k := by rw [lay, cores]; rfl
  refine ⟨?_, ⟨⟨s.tileAt p, (tiles p).trans tile⟩, own⟩, fun k hk => (tiles k).trans (others k hk), fun n hn => (other n hn).trans ?_⟩
  · rw [lay, cores, set]
  · rw [cores, set]
    rfl

/-- Every tile of a launch's placement is at its start. -/
theorem startTiles_opens {s : State} {l : Nat} {lc : Launch} (hl : s.launchAt l = lc) (h : lc.place.Nodup) :
    ((List.range lc.place.length).foldl (fun s i => s.startTileAt l i) s).launchAt l = lc
    ∧ ∀ i, i < lc.place.length → Opened l i (lc.place.getD i 0) ((List.range lc.place.length).foldl (fun s i => s.startTileAt l i) s) := by
  have inv : ∀ t : State, ∀ j ∈ List.range lc.place.length, t.launchAt l = lc → (t.startTileAt l j).launchAt l = lc := by
    intro t j _ ht
    rw [(startTileAt_starts t l j).only]
    exact ht
  refine ⟨List.foldlRecOn (motive := fun t : State => t.launchAt l = lc) _ _ hl fun t ht j hj => inv t j hj ht, fun i hi => ?_⟩
  have set (t : State) (ht : t.launchAt l = lc) : Opened l i (lc.place.getD i 0) (t.startTileAt l i) := ht ▸ (startTileAt_starts t l i).opened
  refine (foldl_sets (i := fun t : State => t.launchAt l = lc) (p := Opened l i (lc.place.getD i 0)) (List.mem_range.mpr hi) inv set
    (fun t j hj ht ho => ?_) hl).2
  by_cases e : i = j
  · exact e ▸ set t ht
  · obtain ⟨-, -, tiles, slots⟩ := startTileAt_starts t l j
    rw [ht] at tiles slots
    have ne : lc.place.getD i 0 ≠ lc.place.getD j 0 := fun k => e ((getD_inj_of_nodup h hi (List.mem_range.mp hj)).mp k)
    obtain ⟨⟨y, hy⟩, own⟩ := ho
    exact ⟨⟨y, (tiles _ ne).trans hy⟩, fun k hk => (slots _ (by omega)).trans (own k hk)⟩

/-! ## The slots of BINDS -/

/-- The slots of a launch's tiles stand for their logical slots and wait for nothing. -/
def Owned (l : Nat) (lc : Launch) (t : State) : Prop := ∀ i, i < lc.place.length → ∀ k, k < 64 →
  (t.slotAt (64 * lc.place.getD i 0 + k)).launch = l ∧ (t.slotAt (64 * lc.place.getD i 0 + k)).logSlot = .ofNat 16 (64 * i + k)
  ∧ (t.slotAt (64 * lc.place.getD i 0 + k)).wait = none

/-- An entry of BINDS has started its slot. -/
structure BoundAs (l : Nat) (lc : Launch) (e : Word) (t : State) : Prop where
  state : (t.slotAt (lc.slotOf (bindLog e))).state = .live
  engine : (t.slotAt (lc.slotOf (bindLog e))).engine = bindEngine e
  launch : (t.slotAt (lc.slotOf (bindLog e))).launch = l
  logSlot : (t.slotAt (lc.slotOf (bindLog e))).logSlot = .ofNat 16 (bindLog e)
  turn : (t.slotAt (lc.slotOf (bindLog e))).turnFrom = 32 + bindSlot e
  sel : (t.slotAt (lc.slotOf (bindLog e))).sel = 0
  image : ∃ tvec, t.imageAt (lc.slotOf (bindLog e)) = startImage (word (bits e 63 32)) (word (bindLog e)) lc.record.arg tvec

theorem BoundAs.congr {l : Nat} {lc : Launch} {e : Word} {s t : State} (h : BoundAs l lc e s)
    (hs : t.slotAt (lc.slotOf (bindLog e)) = s.slotAt (lc.slotOf (bindLog e)))
    (hi : t.imageAt (lc.slotOf (bindLog e)) = s.imageAt (lc.slotOf (bindLog e))) : BoundAs l lc e t := by
  obtain ⟨state, engine, launch, logSlot, turn, sel, image⟩ := h
  rw [← hs] at state engine launch logSlot turn sel
  rw [← hi] at image
  exact ⟨state, engine, launch, logSlot, turn, sel, image⟩

section
variable {s : State} {l : Nat} {lc : Launch} {e : Word}

theorem launchAt_startBind (s : State) (l : Nat) (e : Word) : (s.startBind l e).launchAt l = s.launchAt l := rfl

theorem slotAt_startBind_of_ne (hl : s.launchAt l = lc) {m : Nat} (h : m ≠ lc.slotOf (bindLog e)) :
    (s.startBind l e).slotAt m = s.slotAt m := by
  subst hl
  exact (slotAt_startSlot_of_ne _ _ _ _ _ _ _ h).trans (State.slotAt_setSlot_of_ne _ _ h)

theorem slotAt_startBind (hl : s.launchAt l = lc) : (s.startBind l e).slotAt (lc.slotOf (bindLog e)) =
    { s.slotAt (lc.slotOf (bindLog e)) with
      bound := true, state := .live, sel := 0, engine := bindEngine e, exitVal := 0
      starts := (s.slotAt (lc.slotOf (bindLog e))).starts + 1, wait := none
      turnFrom := 32 + bindSlot e, issueFrom := 0, snap := none, tickDue := false, wdDue := false, pending := []
      hold := none, pairDue := none, starting := true, mirror := none, yielded := false, tickWritten := false, tickByReeve := false
      stopDue := false, resuming := false } := by
  subst hl
  refine (slotAt_startSlot ..).trans ?_
  rw [State.slotAt_setSlot]

theorem imageAt_startBind_of_ne (hl : s.launchAt l = lc) {m : Nat} (h : m ≠ lc.slotOf (bindLog e)) :
    (s.startBind l e).imageAt m = s.imageAt m := by
  subst hl
  exact imageAt_startSlot_of_ne _ _ _ _ _ _ _ (by rw [ownImage]; exact h)

theorem imageAt_startBind (hl : s.launchAt l = lc) : ∃ tvec, (s.startBind l e).imageAt (lc.slotOf (bindLog e)) =
    startImage (word (bits e 63 32)) (word (bindLog e)) lc.record.arg tvec := by
  subst hl
  obtain ⟨tvec, h⟩ := img_startSlot (s.setSlot ((s.launchAt l).slotOf (bindLog e))
      { s.slotAt ((s.launchAt l).slotOf (bindLog e)) with bound := true })
    ((s.launchAt l).slotOf (bindLog e)) (bindEngine e) (word (bits e 63 32)) (word (bindLog e)) (s.launchAt l).record.arg (32 + bindSlot e)
  rw [State.img, imageKey_startSlot, ownImage] at h
  exact ⟨tvec, h⟩

theorem owned_startBind (hl : s.launchAt l = lc) (h : Owned l lc s) : Owned l lc (s.startBind l e) := by
  intro i hi k hk
  obtain ⟨launch, logSlot, wait⟩ := h i hi k hk
  by_cases hn : 64 * lc.place.getD i 0 + k = lc.slotOf (bindLog e)
  · have slot := slotAt_startBind (e := e) hl
    rw [hn] at launch logSlot ⊢
    rw [slot]
    exact ⟨launch, logSlot, rfl⟩
  · rw [slotAt_startBind_of_ne hl hn]
    exact ⟨launch, logSlot, wait⟩

theorem boundAs_startBind (hl : s.launchAt l = lc) (h : Owned l lc s) (he : bindLog e / 64 < lc.place.length) :
    BoundAs l lc e (s.startBind l e) := by
  have slot := slotAt_startBind (e := e) hl
  obtain ⟨launch, logSlot, -⟩ := h _ he (bindLog e % 64) (Nat.mod_lt _ (by decide))
  rw [Nat.div_add_mod] at logSlot
  refine ⟨?_, ?_, ?_, ?_, ?_, ?_, imageAt_startBind hl⟩
  all_goals rw [slot]
  · exact launch
  · exact logSlot

/-- Every entry of BINDS that alone names its slot has started it. -/
theorem startBinds_bind (hl : s.launchAt l = lc) (ho : Owned l lc s) (hn : lc.place.Nodup) {bs : List Word}
    (hb : ∀ e ∈ bs, bindLog e / 64 < lc.place.length) (hu : ∀ e' ∈ bs, bindLog e' = bindLog e → e' = e) (he : e ∈ bs) :
    (bs.foldl (fun s e => s.startBind l e) s).launchAt l = lc ∧ Owned l lc (bs.foldl (fun s e => s.startBind l e) s)
    ∧ BoundAs l lc e (bs.foldl (fun s e => s.startBind l e) s) := by
  rw [← and_assoc]
  refine foldl_sets (i := fun t : State => t.launchAt l = lc ∧ Owned l lc t) he
    (fun t y _ ht => ⟨(launchAt_startBind t l y).trans ht.1, owned_startBind ht.1 ht.2⟩)
    (fun t ht => boundAs_startBind ht.1 ht.2 (hb e he)) (fun t y hy ht hp => ?_) ⟨hl, ho⟩
  by_cases hs : lc.slotOf (bindLog e) = lc.slotOf (bindLog y)
  · rw [hu y hy (slotOf_inj hn (hb e he) (hb y hy) hs).symm]
    exact boundAs_startBind ht.1 ht.2 (hb e he)
  · exact hp.congr (slotAt_startBind_of_ne ht.1 hs) (imageAt_startBind_of_ne ht.1 hs)

/-! ## Pump-class cores and slots -/

theorem onlyOn_startPumpCore (s : State) (l c : Nat) : OnlyOn c s (s.startPumpCore l c) := by
  unfold State.startPumpCore
  dsimp only
  split
  · exact onlyOn_thinCore ..
  · exact OnlyOn.setCore ..

/-- Where no slot of a core waits, its own slots and images stay too. -/
theorem startPumpCore_of_no_waits {c : Nat} (h : ∀ m, coreOf m = c → (s.slotAt m).wait = none) :
    ∃ x, s.startPumpCore l c = s.setCore c x := by
  unfold State.startPumpCore State.thinCore
  dsimp only
  split
  · refine ⟨_, serveQueue_of_no_waiters fun m hm d k hw => ?_⟩
    rw [State.slotAt_setCore, h m hm] at hw
    cases hw
  · exact ⟨_, rfl⟩

theorem startPumpCore_keeps {c n : Nat} (h : ∀ m, coreOf m = coreOf n → (s.slotAt m).wait = none) :
    (∀ m, coreOf m = coreOf n → (s.startPumpCore l c).slotAt m = s.slotAt m) ∧ (s.startPumpCore l c).imageAt n = s.imageAt n := by
  by_cases hc : coreOf n = c
  · obtain ⟨x, hx⟩ := startPumpCore_of_no_waits (l := l) (hc ▸ h)
    rw [hx]
    exact ⟨fun _ _ => rfl, rfl⟩
  · have on := onlyOn_startPumpCore s l c
    exact ⟨fun m hm => on.slots m (hm ▸ hc), on.images n hc⟩

/-- From s to t the slot n, its image, the tiles and launch l stay. -/
structure Stays (l n : Nat) (s t : State) : Prop where
  slot : t.slotAt n = s.slotAt n
  image : t.imageAt n = s.imageAt n
  tiles : t.tiles = s.tiles
  launch : t.launchAt l = s.launchAt l

theorem Stays.refl (l n : Nat) (s : State) : Stays l n s s := ⟨rfl, rfl, rfl, rfl⟩
theorem Stays.trans {n : Nat} {s t u : State} (h : Stays l n s t) (k : Stays l n t u) : Stays l n s u :=
  ⟨k.slot.trans h.slot, k.image.trans h.image, k.tiles.trans h.tiles, k.launch.trans h.launch⟩

theorem stays_startPumpCores {n : Nat} (h : ∀ m, coreOf m = coreOf n → (s.slotAt m).wait = none) (cs : List Nat) :
    Stays l n s (cs.foldl (fun s c => s.startPumpCore l c) s) := by
  refine (List.foldlRecOn (motive := fun t : State => Stays l n s t ∧ ∀ m, coreOf m = coreOf n → (t.slotAt m).wait = none) _ _
    ⟨Stays.refl .., h⟩ fun t ht c _ => ?_).1
  obtain ⟨slots, image⟩ := startPumpCore_keeps (l := l) (c := c) ht.2
  have on := onlyOn_startPumpCore t l c
  exact ⟨ht.1.trans ⟨slots n rfl, image, on.tiles, on.launchAt l⟩, fun m hm => by rw [slots m hm]; exact ht.2 m hm⟩

theorem stays_startPump {n : Nat} (h : n < 0x10000) (b : PumpBind) : Stays l n s (s.startPump l b) := by
  have ne : n ≠ 0x10000 + b.slot := by omega
  refine ⟨?_, ?_, rfl, ?_⟩
  · exact (slotAt_startSlot_of_ne _ _ _ _ _ _ _ ne).trans (State.slotAt_setSlot_of_ne _ _ ne)
  · exact imageAt_startSlot_of_ne _ _ _ _ _ _ _ (by rw [ownImage]; exact ne)
  · refine (look_map (f := fun q x : _ => if q = l then x else { x with begun := delFrom x.begun (0x10000 + b.slot) })
      (fun q => ?_) s.launches l).trans (if_pos rfl)
    split
    · rfl
    · rfl

theorem stays_startPumps {n : Nat} (h : n < 0x10000) (bs : List PumpBind) : Stays l n s (bs.foldl (fun s b => s.startPump l b) s) :=
  foldl_rel (Stays.refl l n) Stays.trans (fun _ b _ => stays_startPump h b) s

end

/-! ## The operating points -/

/-- From s to t only the operating points and the droops of tiles may differ. -/
structure OnlyPoints (s t : State) : Prop where
  only : t = { s with tiles := t.tiles }
  tile : ∀ p, ∃ q d a v, t.tileAt p = { s.tileAt p with point := q, droop := d, droopAt := a, volt := v }

theorem OnlyPoints.refl (s : State) : OnlyPoints s s := ⟨rfl, fun _ => ⟨_, _, _, _, rfl⟩⟩
theorem OnlyPoints.trans {s t u : State} (h : OnlyPoints s t) (k : OnlyPoints t u) : OnlyPoints s u := by
  refine ⟨by rw [k.only, h.only], fun p => ?_⟩
  obtain ⟨q, d, a, v, ht⟩ := h.tile p
  obtain ⟨q', d', a', v', hu⟩ := k.tile p
  exact ⟨q', d', a', v', by rw [hu, ht]⟩

theorem onlyPoints_setTile (s : State) (p : Nat) {q : Nat} {d : Bool} {a : Option Nat} {v : Option (Nat × Bool)} {x : Tile}
    (hx : x = { s.tileAt p with point := q, droop := d, droopAt := a, volt := v }) : OnlyPoints s (s.setTile p x) := by
  refine ⟨rfl, fun k => ?_⟩
  by_cases hk : k = p
  · rw [hk, State.tileAt_setTile, hx]
    exact ⟨_, _, _, _, rfl⟩
  · rw [State.tileAt_setTile_of_ne _ _ hk]
    exact ⟨_, _, _, _, rfl⟩

theorem onlyPoints_setPoint (s : State) (p q : Nat) : OnlyPoints s (s.setPoint p q) :=
  foldl_rel OnlyPoints.refl OnlyPoints.trans (fun t k _ => onlyPoints_setTile t k rfl) s

theorem onlyPoints_evenDroop (s : State) (p : Nat) : OnlyPoints s (s.evenDroop p) :=
  foldl_rel OnlyPoints.refl OnlyPoints.trans (fun t k _ => onlyPoints_setTile t k rfl) s

theorem onlyPoints_evenPoints (s : State) (l : Nat) : OnlyPoints s (s.evenPoints l) := by
  unfold State.evenPoints
  dsimp only
  split
  · exact foldl_rel OnlyPoints.refl OnlyPoints.trans (fun t g _ => (onlyPoints_setPoint ..).trans (onlyPoints_evenDroop ..)) s
  · exact OnlyPoints.refl s

/-! ## LAUNCH_START -/

section
variable {s : State} {l : Nat}

theorem launchStart_of_dispatched (hp : (s.launchAt l).phase = .dispatched) (hk : (s.launchAt l).killed = false)
    (hf : (s.launchAt l).fault = none) : exec (.launchStart l) s = .next (s.startLaunch l) :=
  congrArg Host.Outcome.next (if_pos (by rw [hp, hk, hf]; rfl))

theorem launchStart_of_not (h : (s.launchAt l).phase ≠ .dispatched ∨ (s.launchAt l).killed = true ∨ (s.launchAt l).fault ≠ none) :
    exec (.launchStart l) s = .next s := by
  refine congrArg Host.Outcome.next (if_neg fun k => ?_)
  simp only [Bool.and_eq_true, decide_eq_true_eq, Bool.not_eq_true', Option.isNone_iff_eq_none] at k
  obtain ⟨⟨hp, hk⟩, hf⟩ := k
  rcases h with h | h | h
  · exact h hp
  · exact Bool.false_ne_true (hk.symm.trans h)
  · exact h hf

/-- A launch that runs, its windows open. -/
def Launch.running (l : Launch) : Launch := { l with phase := .running, closed := false }

/-- The state in which a launch's tiles are at their start. -/
def State.tilesStarted (s : State) (l : Nat) : State :=
  (List.range (s.launchAt l).place.length).foldl (fun s i => s.startTileAt l i) (s.setLaunch l (s.launchAt l).running)

/-- Then its slots of BINDS are started. -/
def State.bindsStarted (s : State) (l : Nat) : State :=
  (s.launchAt l).plan.binds.foldl (fun s e => s.startBind l e) (s.tilesStarted l)

/-- Then its pump-class cores are at their start and its pump-class slots started. -/
def State.pumpsStarted (s : State) (l : Nat) : State :=
  (s.launchAt l).pumps.foldl (fun s b => s.startPump l b)
    ((((s.launchAt l).pumpSlots.map coreOf).eraseDups).foldl (fun s c => s.startPumpCore l c) (s.bindsStarted l))

theorem startLaunch_eq (s : State) (l : Nat) : s.startLaunch l = (s.pumpsStarted l).evenPoints l := rfl

theorem tilesStarted_opens (hn : (s.launchAt l).place.Nodup) : (s.tilesStarted l).launchAt l = (s.launchAt l).running
    ∧ ∀ i, i < (s.launchAt l).place.length → Opened l i ((s.launchAt l).place.getD i 0) (s.tilesStarted l) :=
  startTiles_opens (lc := (s.launchAt l).running) (State.launchAt_setLaunch ..) hn

/-- Starting slots sets no tile and leaves the launch. -/
theorem pumpsStarted_keeps (s : State) (l : Nat) :
    (s.pumpsStarted l).tiles = (s.tilesStarted l).tiles ∧ (s.pumpsStarted l).launchAt l = (s.tilesStarted l).launchAt l := by
  have binds {β : Type} (obs : State → β) (h : ∀ s e, obs (s.startBind l e) = obs s) :
      obs (s.bindsStarted l) = obs (s.tilesStarted l) :=
    foldl_keeps obs (fun t e _ => h t e) _
  have pumps {β : Type} (obs : State → β) (hc : ∀ s c, obs (s.startPumpCore l c) = obs s) (hp : ∀ s b, obs (s.startPump l b) = obs s) :
      obs (s.pumpsStarted l) = obs (s.bindsStarted l) :=
    (foldl_keeps obs (fun t b _ => hp t b) _).trans (foldl_keeps obs (fun t c _ => hc t c) _)
  refine ⟨(pumps State.tiles (fun t c => (onlyOn_startPumpCore t l c).tiles) fun _ _ => rfl).trans (binds State.tiles fun _ _ => rfl),
    (pumps (fun t => t.launchAt l) (fun t c => (onlyOn_startPumpCore t l c).launchAt l)
      fun t b => (stays_startPump (n := 0) (by decide) b).launch).trans (binds (fun t => t.launchAt l) fun t e => launchAt_startBind t l e)⟩

/-- The tiles that LAUNCH_START leaves, and the launch. -/
theorem startLaunch_opens (hn : (s.launchAt l).place.Nodup) : (s.startLaunch l).launchAt l = (s.launchAt l).running
    ∧ ∀ i, i < (s.launchAt l).place.length → ∃ y, (s.startLaunch l).tileAt ((s.launchAt l).place.getD i 0) = startTile l i y := by
  rw [startLaunch_eq]
  have points := onlyPoints_evenPoints (s.pumpsStarted l) l
  generalize (s.pumpsStarted l).evenPoints l = t at points
  obtain ⟨launch, opened⟩ := tilesStarted_opens hn
  obtain ⟨tiles, same⟩ := pumpsStarted_keeps s l
  refine ⟨?_, fun i hi => ?_⟩
  · rw [points.only]
    exact same.trans launch
  · obtain ⟨y, hy⟩ := (opened i hi).tile
    obtain ⟨q, d, a, v, ht⟩ := points.tile ((s.launchAt l).place.getD i 0)
    have tile : (s.pumpsStarted l).tileAt ((s.launchAt l).place.getD i 0) = startTile l i y := by
      rw [State.tileAt, tiles]
      exact hy
    rw [ht, tile]
    exact ⟨{ y with point := q, droop := d, droopAt := a, volt := v }, rfl⟩

/-- LAUNCH_START starts each slot of BINDS. -/
theorem startLaunch_binds (hn : (s.launchAt l).place.Nodup) (hp : ∀ p ∈ (s.launchAt l).place, p < 1024)
    (hb : ∀ e ∈ (s.launchAt l).plan.binds, bindLog e / 64 < (s.launchAt l).place.length) {e : Word} (he : e ∈ (s.launchAt l).plan.binds)
    (hu : ∀ e' ∈ (s.launchAt l).plan.binds, bindLog e' = bindLog e → e' = e) : BoundAs l (s.launchAt l).running e (s.startLaunch l) := by
  rw [startLaunch_eq]
  have points := onlyPoints_evenPoints (s.pumpsStarted l) l
  obtain ⟨launch, opened⟩ := tilesStarted_opens hn
  have owned : Owned l (s.launchAt l).running (s.tilesStarted l) := by
    intro i hi k hk
    have slot := (opened i hi).slots k hk
    exact ⟨congrArg Slot.launch slot, congrArg Slot.logSlot slot, congrArg Slot.wait slot⟩
  have started := startBinds_bind launch owned hn hb hu he
  obtain ⟨-, owned, bound⟩ : (s.bindsStarted l).launchAt l = _ ∧ Owned l _ (s.bindsStarted l)
      ∧ BoundAs l _ e (s.bindsStarted l) := started
  have low := slotOf_lt hp (hb e he)
  have quiet (m : Nat) (hm : coreOf m = coreOf ((s.launchAt l).slotOf (bindLog e))) : ((s.bindsStarted l).slotAt m).wait = none := by
    have wait := (owned _ (hb e he) (m % 64) (Nat.mod_lt _ (by decide))).2.2
    have split : 64 * (s.launchAt l).place.getD (bindLog e / 64) 0 + m % 64 = m := by
      unfold coreOf Launch.slotOf at hm
      omega
    exact split ▸ wait
  have stays : Stays l ((s.launchAt l).slotOf (bindLog e)) (s.bindsStarted l) (s.pumpsStarted l) :=
    (stays_startPumpCores quiet _).trans (stays_startPumps low _)
  have bound : BoundAs l (s.launchAt l).running e (s.pumpsStarted l) := bound.congr stays.slot stays.image
  exact bound.congr (by rw [points.only]; rfl) (by rw [points.only]; rfl)

end

end Sys2Proof.Machine
end

section
/-! A launch's start and its end (04 R65, R67 to R71, R73, R76, R79, R82). -/
namespace Sys2Proof.Machine
open Sys2Proof

theorem not_canDispatch {s : State} {l : Nat} {plan : Plan} {place : List Nat}
    (h : (s.launchAt l).phase ≠ .queued ∨ s.queueHead (s.launchAt l).record.prio ≠ some l ∨ s.placeOk (s.launchAt l) plan.groups place = false
      ∨ ∃ p, p < (s.launchAt l).record.prio ∧ s.headFits p = true) : s.canDispatch l plan place = false := by
  refine Bool.eq_false_iff.mpr fun k => ?_
  obtain ⟨phase, head, fits, higher⟩ := canDispatch_passes k
  rcases h with h | h | h | ⟨p, hp, h⟩
  · exact h phase
  · exact h head
  · exact Bool.false_ne_true (h.symm.trans fits)
  · exact Bool.false_ne_true ((higher p hp).symm.trans h)

theorem bindLog_lt (e : Word) : bindLog e < 65536 := Nat.mod_lt _ (by decide)

/-- A tile at its start. -/
theorem startTile_fields (l i : Nat) (y : Tile) : (startTile l i y).launch = some l ∧ (startTile l i y).logTile = i ∧ (startTile l i y).cycle = 0
    ∧ (startTile l i y).mx.queue = [] ∧ (startTile l i y).mx.act = false ∧ (∀ k : Fin 16, (startTile l i y).sems[k] = 0)
    ∧ (startTile l i y).mx.mconf = BitVec.ofNat 10 (i % 4 * 16 + 2 ^ (i % 4)) :=
  ⟨rfl, rfl, rfl, rfl, rfl, fun k => Vector.getElem_replicate k.isLt, rfl⟩

/-- Settles O56: DISPATCH and LAUNCH_START stage by stage, and the release of what a launch's end leaves. -/
theorem launchesStartAndEnd : Obligations.LaunchesStartAndEnd := by
  unfold Obligations.LaunchesStartAndEnd
  intro l seed place s lc plan v
  refine ⟨fun h => ?dispatch, fun h => dispatch_of_not (not_canDispatch h), fun hp hk hf hn hlow => ?start, launchStart_of_not,
    launchComplete_of_not_over, ⟨fun h => quitStores_mem h, fun n op r x ea k hl hw hx => quitStores_refuses hl hw hx,
      fun n h => slotAt_quitStores h⟩, fun h hw => ?complete, fun h hw hv hr => ?first, fun h hw hv hr => ?second,
    fun hp hk hf => ?again, witnessSecondRun_of_not, verdict_of_killed, fun n c hk => verdict_of_fault hk,
    fun hk hf hc => ⟨fun g i => verdict_of_breach hk hf hc, verdict_of_complete hk hf hc⟩⟩
  case dispatch =>
    obtain ⟨t, run, d⟩ := dispatch_of_can h
    exact ⟨t, run, d.phase, d.placed, d.planned, d.closed, d.own, d.others, d.share, d.slots, d.images, d.cores⟩
  case start =>
    obtain ⟨launch, tiles⟩ := startLaunch_opens hn
    refine ⟨_, launchStart_of_dispatched hp hk hf, congrArg Launch.phase launch, congrArg Launch.closed launch, startLaunch_mem .., ?_, ?_⟩
    · intro hb e he hu n
      obtain ⟨state, engine, launch, logSlot, turn, sel, tvec, image⟩ := startLaunch_binds hn hlow hb he hu
      have img : (s.startLaunch l).img n = _ := (congrArg (s.startLaunch l).imageAt (imageKey_of_sel sel)).trans image
      obtain ⟨g5, g6, g0⟩ := startImage_g (word (bits e 63 32)) (word (bindLog e)) lc.record.arg tvec
      rw [img]
      refine ⟨state, engine, launch, ?_, turn, rfl, g5, g6, g0⟩
      exact (congrArg BitVec.toNat logSlot).trans (Nat.mod_eq_of_lt (bindLog_lt e))
    · intro i hi x
      obtain ⟨y, hy⟩ := tiles i hi
      have hx : x = startTile l i y := hy
      rw [hx]
      exact startTile_fields l i y
  case complete =>
    intro u
    have ends : exec (.launchComplete l) s = .next (s.endLaunch l v.1 v.2 0 0) := by rw [launchComplete_of_over h, endRun_of_not_witness hw]
    have done := endLaunch_releases s l v.1 v.2 0 0
    exact ⟨_, ends, congrArg Launch.phase done.launch, congrArg Launch.closed done.launch, congrArg Launch.groups done.launch, done.own,
      done.slots, done.tiles, done.others, done.shares, done.cores, done.rx, done.mem⟩
  case first =>
    intro u
    have ends : exec (.launchComplete l) s = .next (s.endFirstRun l) := by rw [launchComplete_of_over h, endRun_of_first hw hv hr]
    obtain ⟨m, only, eq, tiles⟩ := endFirstRun_ends (s := s) (l := l)
    have quit := quit_quitStores s l
    rw [eq] at ends
    refine ⟨_, ends, State.launchAt_setLaunch .., tiles, fun p hp => (only.tiles p hp).trans (quit.tileAt p), ?_, ?_, ?_, ?_⟩
    · show m.mem = _
      rw [only.only]
    · show m.slots = _
      rw [only.only]
    · show m.images = _
      rw [only.only, quit.only]
    · show m.cores = _
      rw [only.only, quit.only]
  case second =>
    have done := endLaunch_releases s l (if lc.digestA = digestOf (s.outWords lc) then 0 else 1) 0 lc.digestA (digestOf (s.outWords lc))
    exact ⟨_, by rw [launchComplete_of_over h, endRun_of_second hw hv hr], congrArg Launch.phase done.launch, done.mem⟩
  case again =>
    have run := witnessSecondRun_of_between (seed := seed) hp hk hf
    obtain ⟨only, launch, share, ring⟩ := secondRun_prepares s l seed
    obtain ⟨a, left, freed, slots⟩ := leavePumps_leaves s l
    generalize s.secondRun l seed = t at run only launch share ring
    generalize s.leavePumps l = b at only freed slots
    have cores (c : Nat) : t.coreAt c = a.coreAt c := by rw [only, freed]; rfl
    refine ⟨t, run, ?_, ?_, ?_, fun r hr => ⟨share r hr, ring r hr⟩, fun n hn => ?_, ?_, fun c hc => ?_, fun c hc => ?_⟩
    · rw [launch]; rfl
    · rw [launch]; rfl
    · rw [launch]; rfl
    · have slot : t.slotAt n = b.slotAt n := by rw [only]; rfl
      rw [slot, slots, left.slots n fun k => hn ⟨List.mem_eraseDups.mp k.1, k.2⟩]
    · rw [only, freed, left.only]
    · rw [cores]
      exact left.others c fun k => hc (List.mem_eraseDups.mp k)
    · rw [cores]
      split
      · next hs => exact left.shared c (List.mem_eraseDups.mpr hc) hs
      · next hs => exact left.own c (List.mem_eraseDups.mpr hc) (Bool.eq_false_iff.mpr hs)

end Sys2Proof.Machine
end

section
/-! CONTEXT_SWITCH of one slot and of a whole sluice group (04 R80; 05 R96; 09 R201; 13 R263, R265). -/
namespace Sys2Proof.Machine
open Sys2Proof

/-! ## A slot that is pointed at another image -/

theorem wait_withdraw (x : Slot) : x.withdraw.wait = if withdrawable x.wait then none else x.wait := by
  unfold Slot.withdraw
  split
  · rfl
  · rfl

/-- A snapshot under way is no part of what a thread keeps. -/
theorem residue_without_snap (x : Slot) : ({ x with snap := none } : Slot).residue = x.residue := by
  unfold Slot.residue
  rw [wait_withdraw, wait_withdraw]

section
variable (s : State) (n i : Nat)

theorem slotAt_finishSnap : (s.finishSnap n).slotAt n = { s.slotAt n with snap := none } := by
  unfold State.finishSnap
  split
  · exact State.slotAt_setSlot ..
  · next h => rw [← h]

theorem slotAt_finishSnap_of_ne {m : Nat} (h : m ≠ n) : (s.finishSnap n).slotAt m = s.slotAt m := by
  unfold State.finishSnap
  split
  · exact State.slotAt_setSlot_of_ne _ _ h
  · rfl

theorem imageKey_finishSnap : (s.finishSnap n).imageKey n = s.imageKey n := by
  unfold State.imageKey
  rw [slotAt_finishSnap]

/-- The residues while a thread leaves slot n. -/
def State.residuesWith : List (Nat × Residue) := put s.residues (s.imageKey n) (s.slotAt n).residue

theorem pointAt_eq : s.pointAt n i = { s.finishSnap n with slots := (s.pointAt n i).slots, residues := (s.pointAt n i).residues } := rfl

theorem images_pointAt : (s.pointAt n i).images = s.images := by rw [pointAt_eq, finishSnap_eq]
theorem launches_pointAt : (s.pointAt n i).launches = s.launches := by rw [pointAt_eq, finishSnap_eq]

theorem residues_finishSnap :
    put (s.finishSnap n).residues ((s.finishSnap n).imageKey n) ((s.finishSnap n).slotAt n).residue = s.residuesWith n := by
  rw [imageKey_finishSnap, slotAt_finishSnap, residue_without_snap, finishSnap_eq]
  rfl

theorem residues_pointAt : (s.pointAt n i).residues = drop (s.residuesWith n) (16 * coreOf n + i) := by
  rw [← residues_finishSnap]
  rfl

theorem slotAt_pointAt : ∃ k, (s.pointAt n i).slotAt n =
    { (s.slotAt n).resumeAs (look {} (s.residuesWith n) (16 * coreOf n + i)) with
      sel := Fin.ofNat 16 (i + 16 - slotIdx n), turnFrom := k } := by
  unfold State.pointAt
  dsimp only
  rw [residues_finishSnap, slotAt_finishSnap]
  unfold State.awake
  rw [State.slotAt_setSlot, State.slotAt_setSlot]
  exact ⟨_, rfl⟩

theorem slotAt_pointAt_of_ne {m : Nat} (h : m ≠ n) : (s.pointAt n i).slotAt m = s.slotAt m := by
  unfold State.pointAt State.awake
  dsimp only
  rw [State.slotAt_setSlot_of_ne _ _ h, State.slotAt_setSlot_of_ne _ _ h]
  exact slotAt_finishSnap_of_ne s n h

theorem imageKey_pointAt : (s.pointAt n i).imageKey n = 16 * coreOf n + i % 16 := by
  obtain ⟨k, slot⟩ := slotAt_pointAt s n i
  have := Nat.mod_lt n (by decide : 16 > 0)
  unfold State.imageKey
  rw [slot]
  simp only [Fin.ofNat, slotIdx]
  omega

theorem imageKey_pointAt_of_ne {m : Nat} (h : m ≠ n) : (s.pointAt n i).imageKey m = s.imageKey m := by
  unfold State.imageKey
  rw [slotAt_pointAt_of_ne s n i h]

end

/-! ## The switch of one slot -/

theorem standsStill_of_canSwitch {s : State} {n : Nat} (h : s.canSwitch n = true) : s.standsStill n = true := (Bool.and_eq_true_iff.mp h).1

theorem live_of_standsStill {s : State} {n : Nat} (h : s.standsStill n = true) : (s.slotAt n).state = .live := by
  simp only [State.standsStill, Bool.and_eq_true, decide_eq_true_eq] at h
  obtain ⟨⟨⟨⟨⟨⟨live, -⟩, -⟩, -⟩, -⟩, -⟩, -⟩ := h
  exact live

section
variable {s : State} {n : Nat} {sel : Fin 16}

theorem contextSwitch_of_one (h : s.canSwitch n = true) (hi : s.imageShared n sel.val = false) (hg : s.groupSwitch n sel.val = none) :
    exec (.contextSwitch n sel) s = .next (s.pointAt n sel.val) := by
  show execContextSwitch n sel s = _
  simp only [execContextSwitch, h, hi, hg, Bool.not_false, Bool.and_self, if_true]

theorem contextSwitch_of_group {l : Nat} {g : Group} (h : s.canSwitch n = true) (hi : s.imageShared n sel.val = false)
    (hg : s.groupSwitch n sel.val = some (l, g)) : exec (.contextSwitch n sel) s = .next (s.switchGroup l g n sel.val) := by
  show execContextSwitch n sel s = _
  simp only [execContextSwitch, h, hi, hg, Bool.not_false, Bool.and_self, if_true]

theorem contextSwitch_of_not (h : s.canSwitch n = false ∨ s.imageShared n sel.val = true) : exec (.contextSwitch n sel) s = .next s := by
  refine congrArg Host.Outcome.next (if_neg fun k => ?_)
  obtain ⟨can, shared⟩ := Bool.and_eq_true_iff.mp k
  rcases h with h | h
  · exact Bool.false_ne_true (h.symm.trans can)
  · rw [h] at shared
    exact Bool.false_ne_true shared

/-- What stands outside the images while slot n is pointed from its image at another: what the thread that leaves keeps, and what returns. -/
theorem pointAt_exchanges {i : Nat} (h : 16 * coreOf n + i ≠ s.imageKey n) :
    look {} (s.residuesWith n) (16 * coreOf n + i) = look {} s.residues (16 * coreOf n + i)
    ∧ look {} (s.pointAt n i).residues (s.imageKey n) = (s.slotAt n).residue := by
  refine ⟨look_put_of_ne _ _ _ h, ?_⟩
  rw [residues_pointAt, look_drop_of_ne _ _ (Ne.symm h)]
  exact look_put_same ..

/-! ## The switch of a group -/

/-- May the members of a group be switched as some moves say? -/
def State.groupAble (s : State) (g : Group) (ms : List (Nat × Nat × Nat)) : Bool :=
  ms.all fun m => s.standsStill m.2.1 && (g.out = [] || s.atSwitchPoint m.2.1) && !s.imageHeld (coreOf m.2.1) m.2.2 (ms.map fun k => k.2.1)

theorem groupAble_iff {g : Group} {ms : List (Nat × Nat × Nat)} : s.groupAble g ms = true ↔
    ∀ m ∈ ms, s.standsStill m.2.1 = true ∧ (g.out = [] ∨ s.atSwitchPoint m.2.1 = true)
      ∧ s.imageHeld (coreOf m.2.1) m.2.2 (ms.map fun k => k.2.1) = false := by
  simp only [State.groupAble, List.all_eq_true, Bool.and_eq_true, Bool.or_eq_true, decide_eq_true_eq, Bool.not_eq_true', and_assoc]

/-- A group as a switch by some moves leaves it: in, or out with the images that its threads left. -/
def State.switched (s : State) (g : Group) (ms : List (Nat × Nat × Nat)) : Group :=
  { (if g.out = [] then g.withdrawLinks else g) with out := if g.out = [] then ms.map fun m => (m.1, s.imageNum m.2.1) else [] }

/-- Points each slot of some moves at its image. -/
def State.pointAll (s : State) (ms : List (Nat × Nat × Nat)) : State := ms.foldl (fun s m => s.pointAt m.2.1 m.2.2) s

theorem switchGroup_of_able {l i : Nat} {g : Group} (h : s.groupAble g (s.groupMoves (s.launchAt l) g n i) = true) :
    s.switchGroup l g n i = (s.setGroup l (s.switched g (s.groupMoves (s.launchAt l) g n i))).pointAll (s.groupMoves (s.launchAt l) g n i) :=
  if_pos h

theorem switchGroup_of_not_able {l i : Nat} {g : Group} (h : ¬ s.groupAble g (s.groupMoves (s.launchAt l) g n i) = true) :
    s.switchGroup l g n i = s := if_neg h

theorem num_switched (g : Group) (ms : List (Nat × Nat × Nat)) : (s.switched g ms).num = g.num := by
  unfold State.switched
  split
  · rfl
  · rfl

theorem mem_groups_setGroup {lc : Launch} {g x : Group} (hx : x ∈ (lc.setGroup g).groups) (h : x.num = g.num) : x = g := by
  obtain ⟨y, -, hy⟩ := List.mem_map.mp hx
  split at hy
  · exact hy.symm
  · next k => exact absurd (hy ▸ h) k

theorem images_pointAll (ms : List (Nat × Nat × Nat)) (s : State) : (s.pointAll ms).images = s.images :=
  foldl_keeps State.images (fun t m _ => images_pointAt t m.2.1 m.2.2) s
theorem launches_pointAll (ms : List (Nat × Nat × Nat)) (s : State) : (s.pointAll ms).launches = s.launches :=
  foldl_keeps State.launches (fun t m _ => launches_pointAt t m.2.1 m.2.2) s

theorem slotAt_pointAll {ms : List (Nat × Nat × Nat)} {m : Nat} (h : m ∉ ms.map (·.2.1)) (s : State) :
    (s.pointAll ms).slotAt m = s.slotAt m :=
  foldl_keeps (fun t => t.slotAt m) (fun t _ hx => slotAt_pointAt_of_ne t _ _ fun e => h (e ▸ List.mem_map_of_mem hx)) s

/-- Each slot of moves that name no slot twice stands at its image then. -/
theorem imageKey_pointAll {ms : List (Nat × Nat × Nat)} (h : (ms.map (·.2.1)).Nodup) (s : State) {m : Nat × Nat × Nat} (hm : m ∈ ms) :
    (s.pointAll ms).imageKey m.2.1 = 16 * coreOf m.2.1 + m.2.2 % 16 := by
  have set (t : State) : (t.pointAt m.2.1 m.2.2).imageKey m.2.1 = 16 * coreOf m.2.1 + m.2.2 % 16 := imageKey_pointAt ..
  generalize 16 * coreOf m.2.1 + m.2.2 % 16 = key at set
  have keep : ∀ t : State, ∀ y ∈ ms, True → t.imageKey m.2.1 = key → (t.pointAt y.2.1 y.2.2).imageKey m.2.1 = key := by
    intro t y hy _ ht
    by_cases e : m.2.1 = y.2.1
    · rw [← List.inj_on_of_nodup_map h hm hy e]
      exact set t
    · exact (imageKey_pointAt_of_ne t _ _ e).trans ht
  exact (foldl_sets (i := fun _ => True) (p := fun t : State => t.imageKey m.2.1 = key) hm (fun _ _ _ _ => trivial) (fun t _ => set t) keep
    trivial).2

end

end Sys2Proof.Machine
end

section
/-! LAUNCH_PREEMPT: what a launch is saved as, and what it leaves (13 R264; 11 R218; 20 R362). -/
namespace Sys2Proof.Machine
open Sys2Proof

/-! ## What releasing the stores leaves of a launch's quota -/

theorem Quit.quotaDue {s q : State} (h : Quit s q) (l : Nat) : q.quotaDue l = s.quotaDue l := by
  have live : q.liveThreads l = s.liveThreads l := by
    unfold State.liveThreads State.liveSlots
    rw [h.slotsOf]
    simp only [h.img]
    refine congrArg _ (List.filter_congr fun n _ => ?_)
    unfold State.isLive
    rw [h.slot n]
  have takes (n : Nat) : q.takesQuota n = s.takesQuota n := by
    have waits : (q.slotAt n).wait.isNone = (s.slotAt n).wait.isNone := by rw [← Option.not_isSome, h.isSome, Option.not_isSome]
    unfold State.takesQuota State.level
    dsimp only
    rw [h.img, waits, h.slot n]
  have aside : q.quotaAside l = s.quotaAside l := by rw [h.only]; rfl
  unfold State.quotaDue
  rw [h.launchAt, live, aside, funext takes]

/-! ## A pump-class core that a launch leaves -/

theorem settleChans_eq (k : Core) (cs : List (Fin 4)) :
    cs.foldl Core.settleChan k = { k with chans := (cs.foldl Core.settleChan k).chans } :=
  List.foldlRecOn (motive := fun x : Core => x = { k with chans := x.chans }) cs _ rfl fun x hx i _ => by rw [Core.settleChan, hx]

/-- Every arm of a core is one for another launch. -/
def Core.noArms (l : Nat) (k : Core) : Prop := ∀ a ∈ k.arms, a.2.launch ≠ l

theorem noArms_pushHeld {l : Nat} {k : Core} (h : k.noArms l) : k.pushHeld.noArms l := by
  unfold Core.pushHeld
  refine List.foldlRecOn (motive := Core.noArms l) _ _ h fun x hx i _ => ?_
  split
  · split
    · exact fun a ha => hx a (List.mem_of_mem_filter ha)
    · exact hx
  · exact hx

theorem coreAt_of_onlySlot {n c : Nat} {s t : State} (h : OnlySlot n s t) : t.coreAt c = s.coreAt c := by
  rw [h.1]
  rfl

theorem noArms_serveQueue {l c : Nat} {s : State} (h : (s.coreAt c).noArms l) : ((s.serveQueue c).coreAt c).noArms l := by
  suffices all : ∀ f s, (s.coreAt c).noArms l → ((State.serveReady s c f).coreAt c).noArms l from all 32 s h
  intro f
  induction f with
  | zero => exact fun s h => h
  | succ f ih =>
    intro s h
    unfold State.serveReady
    split
    · next n p x hn hp =>
      refine ih _ ?_
      rw [coreAt_of_onlySlot (onlySlot_takesEntry ..), State.coreAt_setCore]
      exact noArms_pushHeld h
    · exact h

theorem dropPump_eq (k : Core) (l : Nat) : ∃ x : Core, k.dropPump l = x.pushHeld ∧ x.rx = (k.rx.filter fun m => m.launch ≠ l)
    ∧ x.fifo = (k.fifo.filter fun x => x.launch ≠ l) ∧ x.arms = k.arms.filter fun a => a.2.launch ≠ l := by
  unfold Core.dropPump
  refine ⟨_, rfl, ?_⟩
  rw [settleChans_eq]
  exact ⟨rfl, rfl, rfl⟩

theorem dropPump_core (k : Core) (l : Nat) : (k.dropPump l).rx = (k.rx.filter fun m => m.launch ≠ l)
    ∧ (k.dropPump l).fifo = (k.fifo.filter fun x => x.launch ≠ l) ∧ (k.dropPump l).noArms l := by
  obtain ⟨x, hx, rx, fifo, arms⟩ := dropPump_eq k l
  obtain ⟨r, a, h⟩ := pushHeld_eq x
  have none : x.noArms l := by
    intro a ha
    rw [arms] at ha
    exact of_decide_eq_true (List.mem_filter.mp ha).2
  rw [hx]
  refine ⟨?_, ?_, noArms_pushHeld none⟩
  · rw [h]
    exact rx
  · rw [h]
    exact fifo

section
variable (s : State) (l c : Nat)

theorem onlyOn_dropPump : OnlyOn c s (s.dropPump l c) := (OnlyOn.setCore ..).trans (onlyServed_serveQueue ..).on

theorem coreAt_dropPump : ((s.dropPump l c).coreAt c).rx = ((s.coreAt c).rx.filter fun m => m.launch ≠ l)
    ∧ ((s.dropPump l c).coreAt c).fifo = ((s.coreAt c).fifo.filter fun x => x.launch ≠ l) ∧ ((s.dropPump l c).coreAt c).noArms l := by
  obtain ⟨rx, fifo, arms⟩ := dropPump_core (s.coreAt c) l
  unfold State.dropPump
  have core := State.coreAt_setCore s c ((s.coreAt c).dropPump l)
  generalize (s.coreAt c).dropPump l = x at core rx fifo arms
  generalize s.setCore c x = u at core
  have served := (onlyServed_serveQueue u c).core
  rw [core] at served
  refine ⟨?_, ?_, noArms_serveQueue (core ▸ arms)⟩
  · rw [served]
    exact rx
  · rw [served]
    exact fifo

end

/-! ## Folds that come to each unit once -/

/-- What the step of one element makes so is so after a fold that comes to it once, in states of which an invariant of the other steps holds. -/
theorem foldl_once {α : Type} {f : State → α → State} {l : List α} (hn : l.Nodup) {i p : State → Prop} {x : α} (hx : x ∈ l)
    (before : ∀ s, ∀ y ∈ l, y ≠ x → i s → i (f s y)) (set : ∀ s, i s → p (f s x)) (after : ∀ s, ∀ y ∈ l, y ≠ x → p s → p (f s y))
    {s : State} (hs : i s) : p (l.foldl f s) := by
  induction l generalizing s with
  | nil => exact absurd hx List.not_mem_nil
  | cons y r ih =>
    obtain ⟨hy, hr⟩ := List.nodup_cons.mp hn
    rcases List.mem_cons.mp hx with rfl | hx
    · refine List.foldlRecOn (motive := p) r f (set s hs) fun t ht z hz =>
        after t z (List.mem_cons_of_mem _ hz) (fun e => hy (e ▸ hz)) ht
    · refine ih hr hx (fun t z hz => before t z (List.mem_cons_of_mem _ hz)) (fun t z hz => after t z (List.mem_cons_of_mem _ hz))
        (before s y List.mem_cons_self (fun e => hy (e ▸ hx)) hs)

theorem nodup_eraseDups {α : Type} [DecidableEq α] (l : List α) : l.eraseDups.Nodup := by
  induction h : l.length using Nat.strong_induction_on generalizing l with
  | _ n ih =>
    cases l with
    | nil => exact List.nodup_nil
    | cons a r =>
      rw [List.eraseDups_cons]
      have short : (r.filter fun b => !b == a).length < n := by
        have := List.length_filter_le (fun b => !b == a) r
        simp only [List.length_cons] at h
        omega
      refine List.nodup_cons.mpr ⟨fun ha => ?_, ih _ short _ rfl⟩
      have := (List.mem_filter.mp (List.mem_eraseDups.mp ha)).2
      simp at this

theorem nodup_pumpCores (l : Launch) : l.pumpCores.Nodup := nodup_eraseDups _

/-! ## A tile that is freed -/

theorem look_filter {α : Type} (d : α) (f : Nat → Bool) (m : List (Nat × α)) {k : Nat} (h : f k = true) :
    look d (m.filter fun p => f p.1) k = look d m k := by
  induction m with
  | nil => rfl
  | cons p r ih =>
    obtain ⟨j, v⟩ := p
    rw [List.filter_cons]
    split
    · simp only [look, ih]
    · next hj =>
      have ne : k ≠ j := fun e => hj (e ▸ h)
      rw [look, if_neg ne, ih]

/-- From s to t only some tiles, with what stands on them, and what the rings hold, may differ. -/
structure OnlyFreed (ps : List Nat) (s t : State) : Prop where
  only : t = { s with
    tiles := t.tiles, regions := t.regions, slots := t.slots, images := t.images, residues := t.residues, cores := t.cores }
  cores : ∀ c, c / 4 ∉ ps → t.coreAt c = s.coreAt c

theorem onlyFreed_freeTile (s : State) (p : Nat) : OnlyFreed [p] s (s.freeTile p) := by
  refine ⟨?_, fun c hc => ?_⟩
  · unfold State.freeTile
    dsimp only
    rw [(onlyTile_returnToken s p).only]
    rfl
  · refine (look_filter ({} : Core) (fun c => decide (c / 4 ≠ p)) _ (decide_eq_true fun e => hc (e ▸ List.mem_singleton_self _))).trans ?_
    show (s.returnToken p).coreAt c = _
    rw [(onlyTile_returnToken s p).only]
    rfl

theorem launch_freeTile (s : State) (p : Nat) : ((s.freeTile p).tileAt p).launch = none :=
  congrArg Tile.launch (State.tileAt_setTile ..)

theorem launch_freeTile_of_none {s : State} {p q : Nat} (h : (s.tileAt p).launch = none) : ((s.freeTile q).tileAt p).launch = none := by
  by_cases e : p = q
  · rw [e]
    exact launch_freeTile s q
  · refine (congrArg Tile.launch ((State.tileAt_setTile_of_ne _ _ e).trans ((onlyTile_returnToken s q).tiles p e))).trans h

theorem onlyFreed_freeTiles (ps : List Nat) (s : State) : OnlyFreed ps s (ps.foldl (fun s p => s.freeTile p) s) := by
  refine foldl_rel (r := OnlyFreed ps) (fun s => ⟨rfl, fun _ _ => rfl⟩) (fun {s t u} h k => ⟨?_, ?_⟩) (fun t p hp => ?_) s
  · rw [k.only, h.only]
  · exact fun c hc => (k.cores c hc).trans (h.cores c hc)
  · have free := onlyFreed_freeTile t p
    exact ⟨free.only, fun c hc => free.cores c fun e => hc (List.mem_singleton.mp e ▸ hp)⟩

theorem launch_freeTiles {ps : List Nat} {p : Nat} (hp : p ∈ ps) (s : State) :
    ((ps.foldl (fun s p => s.freeTile p) s).tileAt p).launch = none := by
  exact (foldl_sets (i := fun _ => True) (p := fun t : State => (t.tileAt p).launch = none) hp (fun _ _ _ _ => trivial)
    (fun t _ => launch_freeTile t p) (fun t y _ _ ht => launch_freeTile_of_none ht) trivial).2

/-! ## LAUNCH_PREEMPT -/

/-- A launch as it is saved, where its stores are released. -/
def State.savedLaunch (s : State) (l : Nat) : Launch :=
  { s.launchAt l with
    phase := .saved, place := [], groups := (s.launchAt l).groups.map Group.withdrawLinks
    savedTiles := (s.launchAt l).place.map s.saveTile, savedShares := s.savedSharesOf l
    savedPumps := (s.launchAt l).pumpCores.map fun c => (s.coreAt c).savePump l c
    quotaPaused := s.quotaDue l, quotaOwed := false
    work := addCount (s.launchAt l).work Activity.save.index 1 }

/-- The slots of some numbers, their waits withdrawn. -/
def State.withdrawAll (s : State) (ns : List Nat) : State := ns.foldl (fun s n => s.setSlot n (s.slotAt n).withdraw) s
/-- What a launch has on some pump-class cores, taken off them. -/
def State.dropPumps (s : State) (l : Nat) (cs : List Nat) : State := cs.foldl (fun s c => s.dropPump l c) s
/-- Some tiles, freed. -/
def State.freeTiles (s : State) (ps : List Nat) : State := ps.foldl (fun s p => s.freeTile p) s

theorem saveLaunch_eq (s : State) (l : Nat) : s.saveLaunch l =
    (((((s.quitStores l).setLaunch l ((s.quitStores l).savedLaunch l)).withdrawAll ((s.quitStores l).slotsOf l)).dropPumps l
      ((s.quitStores l).launchAt l).pumpCores).dropShares l).freeTiles ((s.quitStores l).launchAt l).place := rfl

theorem withdrawAll_eq (s : State) (ns : List Nat) : s.withdrawAll ns = { s with slots := (s.withdrawAll ns).slots } :=
  foldl_rel (r := fun s t : State => t = { s with slots := t.slots }) (fun _ => rfl) (fun h k => by rw [k, h]) (fun _ _ _ => rfl) s

theorem dropPumps_eq (s : State) (l : Nat) (cs : List Nat) : s.dropPumps l cs = { s with
    images := (s.dropPumps l cs).images, slots := (s.dropPumps l cs).slots, cores := (s.dropPumps l cs).cores } :=
  foldl_rel (r := fun s t : State => t = { s with images := t.images, slots := t.slots, cores := t.cores })
    (fun _ => rfl) (fun h k => by rw [k, h]) (fun t c _ => (onlyOn_dropPump t l c).only) s

theorem coreAt_dropPumps (s : State) (l : Nat) {cs : List Nat} (hn : cs.Nodup) {c : Nat} (hc : c ∈ cs) :
    ((s.dropPumps l cs).coreAt c).rx = ((s.coreAt c).rx.filter fun m => m.launch ≠ l)
    ∧ ((s.dropPumps l cs).coreAt c).fifo = ((s.coreAt c).fifo.filter fun x => x.launch ≠ l) ∧ ((s.dropPumps l cs).coreAt c).noArms l := by
  refine foldl_once hn (i := fun t : State => t.coreAt c = s.coreAt c)
    (p := fun t : State => (t.coreAt c).rx = ((s.coreAt c).rx.filter fun m => m.launch ≠ l)
      ∧ (t.coreAt c).fifo = ((s.coreAt c).fifo.filter fun x => x.launch ≠ l) ∧ (t.coreAt c).noArms l) hc
    (fun t y _ hy ht => ?_) (fun t ht => ?_) (fun t y _ hy ht => ?_) rfl
  · exact ((onlyOn_dropPump t l y).cores c (Ne.symm hy)).trans ht
  · exact ht ▸ coreAt_dropPump t l c
  · rw [(onlyOn_dropPump t l y).cores c (Ne.symm hy)]
    exact ht

/-- What saving a launch leaves, where q is the state with its stores released. -/
structure Saved (l : Nat) (q t : State) : Prop where
  launch : t.launchAt l = q.savedLaunch l
  mem : t.mem = q.mem
  tiles : ∀ p ∈ (q.launchAt l).place, (t.tileAt p).launch = none
  pumps : ∀ c ∈ (q.launchAt l).pumpCores, c / 4 ∉ (q.launchAt l).place →
    (t.coreAt c).rx = ((q.coreAt c).rx.filter fun m => m.launch ≠ l)
    ∧ (t.coreAt c).fifo = ((q.coreAt c).fifo.filter fun x => x.launch ≠ l) ∧ (t.coreAt c).noArms l

theorem saveLaunch_saves (s : State) (l : Nat) : Saved l (s.quitStores l) (s.saveLaunch l) := by
  rw [saveLaunch_eq]
  generalize s.quitStores l = q
  have launch := State.launchAt_setLaunch q l (q.savedLaunch l)
  have set : q.setLaunch l (q.savedLaunch l) = { q with launches := (q.setLaunch l (q.savedLaunch l)).launches } := rfl
  generalize q.setLaunch l (q.savedLaunch l) = a at launch set
  have slots := withdrawAll_eq a (q.slotsOf l)
  generalize a.withdrawAll (q.slotsOf l) = b at slots
  have coreB (c : Nat) : b.coreAt c = q.coreAt c := by rw [slots, set]; rfl
  have only := dropPumps_eq b l (q.launchAt l).pumpCores
  have pumps (c : Nat) := coreAt_dropPumps b l (c := c) (nodup_pumpCores (q.launchAt l))
  simp only [coreB] at pumps
  generalize b.dropPumps l (q.launchAt l).pumpCores = d at only pumps
  have free := onlyFreed_freeTiles (q.launchAt l).place (d.dropShares l)
  refine ⟨?_, ?_, fun p hp => launch_freeTiles hp (d.dropShares l), fun c hc hp => ?_⟩
  · refine Eq.trans ?_ launch
    unfold State.freeTiles
    rw [free.only, State.dropShares, only, slots]
    rfl
  · unfold State.freeTiles
    rw [free.only, State.dropShares, only, slots, set]
  · unfold State.freeTiles
    rw [free.cores c hp]
    exact pumps c hc

section
variable {s : State} {l : Nat}

theorem launchPreempt_of_safe (hp : (s.launchAt l).phase = .running) (hs : s.launchSafe l = true) :
    exec (.launchPreempt l) s = .next (s.saveLaunch l) := congrArg Host.Outcome.next (if_pos (by rw [hp, hs]; rfl))

theorem launchPreempt_of_not (h : (s.launchAt l).phase ≠ .running ∨ s.launchSafe l = false) : exec (.launchPreempt l) s = .next s := by
  refine congrArg Host.Outcome.next (if_neg fun k => ?_)
  simp only [Bool.and_eq_true, decide_eq_true_eq] at k
  rcases h with h | h
  · exact h k.1
  · exact Bool.false_ne_true (h.symm.trans k.2)

end

end Sys2Proof.Machine
end

section
/-! The bytes of a tile's stores by their place within the tile, as they are saved and put back (13 R264). -/
namespace Sys2Proof.Machine
open Sys2Proof

/-! ## Places within a tile -/

section
variable (u off : Nat)

theorem key_g : (⟨.g, u, off⟩ : Loc).key = 2 ^ 60 + u * 0x80000 + off := rfl
theorem key_a : (⟨.a, u, off⟩ : Loc).key = 2 ^ 61 + u * 0x200000 + off := rfl
theorem key_c : (⟨.c, u, off⟩ : Loc).key = 2 ^ 61 + 2 ^ 40 + u * 0x100000 + off := rfl
theorem key_w : (⟨.w, u, off⟩ : Loc).key = 2 ^ 61 + 2 ^ 41 + u * 0x100000 + off := rfl

end

theorem tileKey_eq (t r : Nat) : tileKey t r =
    if r < 0x200000 then 2 ^ 60 + 4 * t * 0x80000 + r
    else if r < 0x400000 then 2 ^ 61 + t * 0x200000 + (r - 0x200000)
    else if r < 0x500000 then 2 ^ 61 + 2 ^ 40 + t * 0x100000 + (r - 0x400000)
    else 2 ^ 61 + 2 ^ 41 + t * 0x100000 + (r - 0x500000) := by
  unfold tileKey
  rw [key_g, key_a, key_c, key_w, Nat.add_zero, Nat.add_zero, Nat.add_zero, Nat.add_zero]

theorem tileRel_eq (t k : Nat) : tileRel t k =
    if 2 ^ 60 + 4 * t * 0x80000 ≤ k ∧ k < 2 ^ 60 + 4 * t * 0x80000 + 0x200000 then some (k - (2 ^ 60 + 4 * t * 0x80000))
    else if 2 ^ 61 + t * 0x200000 ≤ k ∧ k < 2 ^ 61 + t * 0x200000 + 0x200000 then some (0x200000 + (k - (2 ^ 61 + t * 0x200000)))
    else if 2 ^ 61 + 2 ^ 40 + t * 0x100000 ≤ k ∧ k < 2 ^ 61 + 2 ^ 40 + t * 0x100000 + 0x100000 then
      some (0x400000 + (k - (2 ^ 61 + 2 ^ 40 + t * 0x100000)))
    else if 2 ^ 61 + 2 ^ 41 + t * 0x100000 ≤ k ∧ k < 2 ^ 61 + 2 ^ 41 + t * 0x100000 + 0x100000 then
      some (0x500000 + (k - (2 ^ 61 + 2 ^ 41 + t * 0x100000)))
    else none := by
  unfold tileRel
  rw [key_g, key_a, key_c, key_w, Nat.add_zero, Nat.add_zero, Nat.add_zero, Nat.add_zero]

section
variable {t u r k : Nat}

theorem tileKey_of_tileRel (h : tileRel t k = some r) : r < 0x600000 ∧ tileKey t r = k := by
  rw [tileRel_eq] at h
  rw [tileKey_eq]
  split_ifs at h with g a c w
  · cases h
    rw [if_pos (by omega)]
    omega
  · cases h
    rw [if_neg (by omega), if_pos (by omega)]
    omega
  · cases h
    rw [if_neg (by omega), if_neg (by omega), if_pos (by omega)]
    omega
  · cases h
    rw [if_neg (by omega), if_neg (by omega), if_neg (by omega)]
    omega

/-- Stores of different kinds and tiles lie apart. -/
theorem tileKey_inj (ht : t < 1024) (hu : u < 1024) {q : Nat} (hr : r < 0x600000) (hq : q < 0x600000) (h : tileKey t r = tileKey u q) :
    t = u ∧ r = q := by
  rw [tileKey_eq, tileKey_eq] at h
  split_ifs at h <;> omega

theorem tileRel_tileKey (ht : t < 1024) (hr : r < 0x600000) : tileRel t (tileKey t r) = some r := by
  cases h : tileRel t (tileKey t r) with
  | none =>
    rw [tileRel_eq, tileKey_eq] at h
    split_ifs at h <;> omega
  | some q =>
    obtain ⟨hq, key⟩ := tileKey_of_tileRel h
    rw [(tileKey_inj ht ht hq hr key).2]

theorem tileRel_tileKey_of_ne (ht : t < 1024) (hu : u < 1024) (hr : r < 0x600000) (h : t ≠ u) : tileRel t (tileKey u r) = none := by
  cases k : tileRel t (tileKey u r) with
  | none => rfl
  | some q =>
    obtain ⟨hq, key⟩ := tileKey_of_tileRel k
    exact absurd (tileKey_inj ht hu hq hr key).1 h

end

section
variable (t : Nat) {off : Nat}

theorem locKey_g (h : off < 0x200000) : (⟨.g, 4 * t, off⟩ : Loc).key = tileKey t off := by
  rw [key_g, tileKey_eq, if_pos h]
theorem locKey_a (h : off < 0x200000) : (⟨.a, t, off⟩ : Loc).key = tileKey t (0x200000 + off) := by
  rw [key_a, tileKey_eq, if_neg (by omega), if_pos (by omega), Nat.add_sub_cancel_left]
theorem locKey_c (h : off < 0x100000) : (⟨.c, t, off⟩ : Loc).key = tileKey t (0x400000 + off) := by
  rw [key_c, tileKey_eq, if_neg (by omega), if_neg (by omega), if_pos (by omega), Nat.add_sub_cancel_left]
theorem locKey_w : (⟨.w, t, off⟩ : Loc).key = tileKey t (0x500000 + off) := by
  rw [key_w, tileKey_eq, if_neg (by omega), if_neg (by omega), if_neg (by omega), Nat.add_sub_cancel_left]

end

/-! ## Bytes saved by their place -/

/-- The bytes of a memory that have a place, by it. -/
def placed (rel : Nat → Option Nat) (m : List Host.Cell) : List (Nat × Byte) := m.filterMap fun p => (rel p.1).map fun r => (r, p.2)

/-- A memory in which some bytes have been put at the keys of their places. -/
def putAt (key : Nat → Nat) (cells : List (Nat × Byte)) (m : List Host.Cell) : List Host.Cell :=
  cells.foldl (fun m p => setByte m (key p.1) p.2) m

theorem byteAt_cons (p : Host.Cell) (m : List Host.Cell) (a : Nat) : byteAt (p :: m) a = if a = p.1 then p.2 else byteAt m a := rfl

section
variable {rel : Nat → Option Nat} {key : Nat → Nat}

/-- The byte at a place is that at its key, where no other place has it. -/
theorem byteAt_placed {r : Nat} (hr : rel (key r) = some r) (hk : ∀ k, rel k = some r → k = key r) (m : List Host.Cell) :
    byteAt (placed rel m) r = byteAt m (key r) := by
  induction m with
  | nil => rfl
  | cons p m ih =>
    unfold placed at ih ⊢
    rw [List.filterMap_cons, byteAt_cons]
    cases h : rel p.1 with
    | none =>
      have ne : key r ≠ p.1 := fun e => by rw [← e, hr] at h; cases h
      rw [if_neg ne]
      exact ih
    | some q =>
      rw [Option.map_some, byteAt_cons, ih]
      by_cases e : r = q
      · rw [if_pos e, if_pos (hk p.1 (e ▸ h)).symm]
      · have ne : key r ≠ p.1 := fun k => e (Option.some.inj (hr.symm.trans (k ▸ h)))
        rw [if_neg e, if_neg ne]

theorem map_placed (m : List Host.Cell) : (placed rel m).map Prod.fst = (m.map Prod.fst).filterMap rel := by
  unfold placed
  rw [List.map_filterMap, List.filterMap_map]
  refine List.filterMap_congr fun p _ => ?_
  cases h : rel p.1 with
  | none => simp only [Function.comp_apply, h, Option.map_none]
  | some r => simp only [Function.comp_apply, h, Option.map_some]

theorem nodup_placed (hk : ∀ k j r, rel k = some r → rel j = some r → k = j) {m : List Host.Cell} (h : (m.map Prod.fst).Nodup) :
    ((placed rel m).map Prod.fst).Nodup := by
  rw [map_placed]
  exact h.filterMap fun a b r ha hb => hk a b r ha hb

theorem rel_of_mem_placed {m : List Host.Cell} {p : Nat × Byte} (hp : p ∈ placed rel m) : ∃ k, rel k = some p.1 := by
  have listed := List.mem_map_of_mem (f := Prod.fst) hp
  rw [map_placed] at listed
  obtain ⟨k, -, hk⟩ := List.mem_filterMap.mp listed
  exact ⟨k, hk⟩

theorem byteAt_putAt_of_ne {a : Nat} {cells : List (Nat × Byte)} (h : ∀ p ∈ cells, a ≠ key p.1) (m : List Host.Cell) :
    byteAt (putAt key cells m) a = byteAt m a :=
  List.foldlRecOn (motive := fun x => byteAt x a = byteAt m a) _ _ rfl fun x hx p hp => by
    rw [byteAt_setByte_of_ne _ _ (h p hp), hx]

/-- Where a memory is blank at a place, putting bytes at places named once each leaves the byte named for it there. -/
theorem byteAt_putAt {cells : List (Nat × Byte)} (hn : (cells.map Prod.fst).Nodup) {r : Nat} (hk : ∀ p ∈ cells, key r = key p.1 → r = p.1)
    {m : List Host.Cell} (hm : byteAt m (key r) = blank) : byteAt (putAt key cells m) (key r) = byteAt cells r := by
  induction cells generalizing m with
  | nil => exact hm
  | cons p cells ih =>
    obtain ⟨hp, hr⟩ := List.nodup_cons.mp hn
    have later : ∀ q ∈ cells, key r = key q.1 → r = q.1 := fun q hq => hk q (List.mem_cons_of_mem _ hq)
    rw [byteAt_cons]
    unfold putAt at ih ⊢
    rw [List.foldl_cons]
    by_cases e : r = p.1
    · rw [if_pos e, e]
      refine (byteAt_putAt_of_ne (key := key) (fun q hq k => hp ?_) _).trans (byteAt_setByte_same ..)
      exact (later q hq (e ▸ k)).symm.trans e ▸ List.mem_map_of_mem hq
    · rw [if_neg e]
      exact ih hr later ((byteAt_setByte_of_ne _ _ fun k => e (hk p List.mem_cons_self k)).trans hm)

end

/-! ## A tile's stores, saved and put back -/

section
variable {t u r : Nat}

/-- The bytes of a memory are those of a tile's stores by their places, or lie elsewhere. -/
theorem byteAt_tileCells (ht : t < 1024) (hr : r < 0x600000) (m : List Host.Cell) :
    byteAt (placed (tileRel t) m) r = byteAt m (tileKey t r) :=
  byteAt_placed (tileRel_tileKey ht hr) (fun _ hk => (tileKey_of_tileRel hk).2.symm) m

theorem place_lt {m : List Host.Cell} {p : Nat × Byte} (hp : p ∈ placed (tileRel t) m) : p.1 < 0x600000 := by
  obtain ⟨k, hk⟩ := rel_of_mem_placed hp
  exact (tileKey_of_tileRel hk).1

/-- A memory without a tile's stores. -/
def clearedTile (t : Nat) (m : List Host.Cell) : List Host.Cell := m.filter fun p => (tileRel t p.1).isNone

theorem byteAt_filter_of_neg (f : Nat → Bool) (m : List Host.Cell) {k : Nat} (h : f k = false) :
    byteAt (m.filter fun p => f p.1) k = blank := by
  induction m with
  | nil => rfl
  | cons p m ih =>
    rw [List.filter_cons]
    split
    · next hp =>
      have ne : k ≠ p.1 := fun e => Bool.false_ne_true (h.symm.trans (e ▸ hp))
      rw [byteAt_cons, if_neg ne, ih]
    · exact ih

/-- Where tile u's stores come from tile t's, they hold what those held. -/
theorem byteAt_restored (ht : t < 1024) (hu : u < 1024) (hr : r < 0x600000) {old : List Host.Cell} (hn : (old.map Prod.fst).Nodup)
    (m : List Host.Cell) :
    byteAt (putAt (tileKey u) (placed (tileRel t) old) (clearedTile u m)) (tileKey u r) = byteAt old (tileKey t r) := by
  have once : ((placed (tileRel t) old).map Prod.fst).Nodup :=
    nodup_placed (fun k j r hk hj => (tileKey_of_tileRel hk).2.symm.trans (tileKey_of_tileRel hj).2) hn
  have blank : byteAt (clearedTile u m) (tileKey u r) = blank :=
    byteAt_filter_of_neg (fun k => (tileRel u k).isNone) m (by rw [tileRel_tileKey hu hr]; rfl)
  rw [byteAt_putAt once (fun p hp e => (tileKey_inj hu hu hr (place_lt hp) e).2) blank, byteAt_tileCells ht hr]

/-- Another tile's stores stay. -/
theorem byteAt_restored_of_ne {v : Nat} (hu : u < 1024) (hv : v < 1024) (h : u ≠ v) (hr : r < 0x600000) (old m : List Host.Cell) :
    byteAt (putAt (tileKey u) (placed (tileRel t) old) (clearedTile u m)) (tileKey v r) = byteAt m (tileKey v r) := by
  rw [byteAt_putAt_of_ne fun p hp e => h (tileKey_inj hv hu hr (place_lt hp) e).1.symm]
  exact look_filter _ (fun k => (tileRel u k).isNone) m (by rw [tileRel_tileKey_of_ne hu hv hr h]; rfl)

end

end Sys2Proof.Machine
end

section
/-! The save block of a core's channels, read back (20 R362), and the arms that fire for messages that waited (11 R218). -/
namespace Sys2Proof.Machine
open Sys2Proof

/-! ## The channels of a save block -/

theorem word_leNat (x : Nat) : word (leNat (leBytes 8 x)) = word x := by
  rw [leNat_leBytes]
  exact BitVec.eq_of_toNat_eq (by simp [word])

/-- A doubleword of a block that begins with doublewords. -/
theorem blockWord_words {ws : List Nat} {i : Nat} (h : i < ws.length) (rest : List Byte) :
    blockWord (ws.flatMap (leBytes 8) ++ rest) (8 * i) = word ws[i] := by
  induction ws generalizing i with
  | nil => exact absurd h (Nat.not_lt_zero _)
  | cons w ws ih =>
    rw [List.flatMap_cons, List.append_assoc]
    cases i with
    | zero =>
      rw [blockWord, List.drop_zero, List.take_left' (length_leBytes ..), word_leNat]
      rfl
    | succ i =>
      have later := ih (Nat.lt_of_succ_lt_succ h)
      unfold blockWord at later ⊢
      rw [Nat.mul_succ, Nat.add_comm, ← List.drop_drop, List.drop_left' (length_leBytes ..), later]
      rfl

/-- The doublewords of a channel in a save block. -/
def Chan.words (x : Chan) : List Nat := [x.nextId, x.completed, x.error.toNat, 0]

/-- The doublewords of a core's channels in a save block. -/
def Core.chanWords (c : Core) : List Nat := (List.finRange 4).flatMap fun ch => (c.chans[ch]).words

theorem saveBlock_eq (c : Core) : ∃ rest, c.saveBlock = c.chanWords.flatMap (leBytes 8) ++ rest := by
  refine ⟨_, congrArg (· ++ _) ?_⟩
  unfold Core.chanWords
  rw [List.flatMap_assoc]
  refine List.flatMap_congr fun ch _ => ?_
  simp only [Chan.words, List.flatMap_cons, List.flatMap_nil, List.append_nil, List.append_assoc]

theorem length_chanWords (c : Core) : c.chanWords.length = 16 := rfl

theorem getElem_chanWords (c : Core) (ch : Fin 4) (j : Nat) (h : j < 4) :
    c.chanWords[4 * ch.val + j]'(by rw [length_chanWords]; omega) = (c.chans[ch]).words[j]'h := by
  fin_cases ch <;> interval_cases j <;> rfl

theorem blockChan_saveBlock (c : Core) {ch : Fin 4} (h : c.chans[ch].nextId < 2 ^ 64 ∧ c.chans[ch].completed < 2 ^ 64) :
    blockChan c.saveBlock ch.val = c.chans[ch] := by
  obtain ⟨rest, hb⟩ := saveBlock_eq c
  have at_ (j : Nat) (hj : j < 4) : blockWord c.saveBlock (32 * ch.val + 8 * j) = word ((c.chans[ch]).words[j]'hj) := by
    rw [show 32 * ch.val + 8 * j = 8 * (4 * ch.val + j) by omega, hb, blockWord_words (by rw [length_chanWords]; omega),
      getElem_chanWords c ch j hj]
  have next := at_ 0 (by decide)
  have completed := at_ 1 (by decide)
  have error := at_ 2 (by decide)
  unfold blockChan
  simp only [Nat.mul_zero, Nat.add_zero, Nat.mul_one] at next completed error
  rw [next, completed, error]
  have kept {x : Nat} (hx : x < 2 ^ 64) : (word x).toNat = x := Nat.mod_eq_of_lt hx
  show ({ nextId := (word (c.chans[ch]).nextId).toNat, completed := (word (c.chans[ch]).completed).toNat
          error := word (c.chans[ch]).error.toNat } : Chan) = _
  rw [kept h.1, kept h.2, word, BitVec.ofNat_toNat, BitVec.setWidth_eq]

/-! ## A core of a saved tile -/

/-- The core k is y of another tile: the numbers of the slots that messages sit at, and the copies, aside. -/
structure MovedFrom (y k : Core) : Prop where
  mailbox : k.mailbox = y.mailbox
  ready : k.ready = y.ready
  win : k.win = y.win
  arms : k.arms = y.arms
  rx : ∃ f : Option Nat → Option Nat, k.rx = y.rx.map fun m => { m with seat := f m.seat }
  chans : (∀ ch : Fin 4, y.chans[ch].nextId < 2 ^ 64 ∧ y.chans[ch].completed < 2 ^ 64) → k.chans = y.chans

theorem getD_map_range {α : Type} (f : Nat → α) {n k : Nat} (h : k < n) (d : α) : ((List.range n).map f).getD k d = f k := by
  rw [List.getD_eq_getElem _ _ (by simpa using h)]
  simp

theorem coreOn_saveTile (q : State) (old new : Nat) {c : Nat} (hc : c < 4) :
    MovedFrom (q.coreAt (4 * old + c)) ((q.saveTile old).coreOn new c) := by
  have core : (q.saveTile old).cores.getD c {} = q.coreAt (4 * old + c) :=
    getD_map_range (fun c => q.coreAt (4 * old + c)) hc _
  have block : (q.saveTile old).blocks.getD c [] = (q.coreAt (4 * old + c)).saveBlock := by
    show (List.map Core.saveBlock (List.map _ _)).getD c [] = _
    rw [List.map_map, getD_map_range _ hc]
    rfl
  unfold TileSave.coreOn
  rw [core, block]
  refine ⟨rfl, rfl, rfl, rfl, ⟨_, rfl⟩, fun h => ?_⟩
  show Vector.ofFn (fun ch : Fin 4 => blockChan (q.coreAt (4 * old + c)).saveBlock ch.val) = _
  rw [funext fun ch => blockChan_saveBlock _ (h ch)]
  exact Vector.ext fun i hi => Vector.getElem_ofFn hi

/-! ## Arms that fire for messages that waited -/

/-- The arm of a launch that one buffered message fires, where those of some indices have fired. -/
def State.lateHit (s : State) (c : Core) (l : Nat) (gone : List Nat) (m : Msg) : Option (Nat × Arm) :=
  if m.fired then none else c.arms.find? fun a =>
    a.2.sender = m.sender && a.2.launch = l && s.reaches m.launch l && !a.2.held && !decide (a.1 ∈ gone)

/-- What one buffered message does to the arms fired and the messages passed. -/
def State.lateArm (s : State) (c : Core) (l : Nat) (r : List Nat × List Msg) (m : Msg) : List Nat × List Msg :=
  match s.lateHit c l r.1 m with
  | some (i, _) => (r.1 ++ [i], r.2 ++ [{ m with fired := true }])
  | none => (r.1, r.2 ++ [m])

theorem lateArms_eq (s : State) (c : Core) (l : Nat) : s.lateArms c l = c.rx.foldl (s.lateArm c l) ([], []) := rfl

section
variable {s : State} {c : Core} {l : Nat} {r : List Nat × List Msg} {m : Msg}

theorem lateArm_of_hit {a : Nat × Arm} (h : s.lateHit c l r.1 m = some a) :
    s.lateArm c l r m = (r.1 ++ [a.1], r.2 ++ [{ m with fired := true }]) := by
  unfold State.lateArm
  rw [h]
theorem lateArm_of_none (h : s.lateHit c l r.1 m = none) : s.lateArm c l r m = (r.1, r.2 ++ [m]) := by
  unfold State.lateArm
  rw [h]

end

/-- Where no arm fires, every message stays as it is. -/
theorem lateArms_of_none {s : State} {c : Core} {l : Nat} (h : (s.lateArms c l).1 = []) : s.lateArms c l = ([], c.rx) := by
  have all (ms : List Msg) (r : List Nat × List Msg) (hr : (ms.foldl (s.lateArm c l) r).1 = []) :
      ms.foldl (s.lateArm c l) r = ([], r.2 ++ ms) ∧ r.1 = [] := by
    induction ms generalizing r with
    | nil => exact ⟨Prod.ext hr (List.append_nil _).symm, hr⟩
    | cons m ms ih =>
      obtain ⟨rest, fired⟩ := ih _ hr
      cases hit : s.lateHit c l r.1 m with
      | some a =>
        rw [lateArm_of_hit hit] at fired
        exact absurd fired (by simp)
      | none =>
        rw [lateArm_of_none hit] at rest fired
        refine ⟨?_, fired⟩
        rw [List.foldl_cons, lateArm_of_none hit, rest]
        simp only [List.append_assoc, List.singleton_append]
  exact (all c.rx ([], []) h).1

theorem lateArms_congr {s u : State} {l : Nat} (h : (u.launchAt l).part = (s.launchAt l).part) (c : Core) : u.lateArms c l = s.lateArms c l := by
  have reaches (d : Nat) : u.reaches d l = s.reaches d l := by
    unfold State.reaches
    rw [h]
  unfold State.lateArms
  simp only [reaches]

/-- Where the messages sit is nothing to the arms that they fire. -/
theorem lateArms_of_seats (s : State) (l : Nat) {c d : Core} (ha : d.arms = c.arms) {f : Option Nat → Option Nat}
    (hr : d.rx = c.rx.map fun m => { m with seat := f m.seat }) : (s.lateArms d l).1 = (s.lateArms c l).1 := by
  rw [lateArms_eq, lateArms_eq, hr]
  have all (ms : List Msg) (r q : List Nat × List Msg) (hq : r.1 = q.1) :
      ((ms.map fun m => { m with seat := f m.seat }).foldl (s.lateArm d l) r).1 = (ms.foldl (s.lateArm c l) q).1 := by
    induction ms generalizing r q with
    | nil => exact hq
    | cons m ms ih =>
      refine ih _ _ ?_
      have hits : s.lateHit d l r.1 { m with seat := f m.seat } = s.lateHit c l q.1 m := by
        unfold State.lateHit
        rw [ha, hq]
      cases hit : s.lateHit c l q.1 m with
      | some a => rw [lateArm_of_hit (hits.trans hit), lateArm_of_hit hit, hq]
      | none => rw [lateArm_of_none (hits.trans hit), lateArm_of_none hit, hq]
  exact all c.rx _ _ rfl

/-- A core none of whose arms is for a launch fires none for it. -/
theorem lateArms_of_noArms {s : State} {c : Core} {l : Nat} (h : c.noArms l) : (s.lateArms c l).1 = [] := by
  rw [lateArms_eq]
  refine List.foldlRecOn (motive := fun r : List Nat × List Msg => r.1 = []) _ _ rfl fun r hr m _ => ?_
  have none : s.lateHit c l r.1 m = none := by
    unfold State.lateHit
    split
    · rfl
    · refine List.find?_eq_none.mpr fun a ha k => ?_
      simp only [Bool.and_eq_true, decide_eq_true_eq] at k
      obtain ⟨⟨⟨⟨-, own⟩, -⟩, -⟩, -⟩ := k
      exact h a ha own
  rw [lateArm_of_none none]
  exact hr

/-- From c to d only the messages, the arms and the ready queues of a core may differ. -/
def OnlyMessages (c d : Core) : Prop := d = { c with rx := d.rx, arms := d.arms, ready := d.ready }

theorem onlyMessages_fireArm (c : Core) (i : Nat) (a : Arm) : OnlyMessages c (c.fireArm i a) := by
  unfold Core.fireArm
  split
  · rfl
  · rfl

/-- A core after the arms of some indices have fired. -/
def Core.fireArms (c : Core) (fired : List Nat) : Core :=
  (List.range 16).foldl (fun c i =>
    match c.arms.find? fun a => a.1 = i && decide (i ∈ fired) with
    | some (_, a) => c.fireArm i a
    | none => c) c

theorem fireLate_eq (s : State) (l c : Nat) : s.fireLate l c =
    s.setCore c (({ s.coreAt c with rx := (s.lateArms (s.coreAt c) l).2 } : Core).fireArms (s.lateArms (s.coreAt c) l).1) := rfl

theorem onlyMessages_fireArms (c : Core) (fired : List Nat) : OnlyMessages c (c.fireArms fired) := by
  refine List.foldlRecOn (motive := OnlyMessages c) _ _ rfl fun d hd i _ => ?_
  split
  · next a _ =>
    have fire := onlyMessages_fireArm d i a
    unfold OnlyMessages at hd fire ⊢
    rw [fire, hd]
  · exact hd

theorem fireArms_nil (c : Core) : c.fireArms [] = c := by
  refine List.foldlRecOn (motive := fun d => d = c) _ _ rfl fun d hd i _ => ?_
  have none : (d.arms.find? fun a => a.1 = i && decide (i ∈ ([] : List Nat))) = none :=
    List.find?_eq_none.mpr fun a _ => by simp
  rw [none]
  exact hd

theorem onlyMessages_fireLate (s : State) (l c : Nat) : OnlyMessages (s.coreAt c) ((s.fireLate l c).coreAt c) := by
  rw [fireLate_eq, State.coreAt_setCore]
  have fire := onlyMessages_fireArms { s.coreAt c with rx := (s.lateArms (s.coreAt c) l).2 } (s.lateArms (s.coreAt c) l).1
  unfold OnlyMessages at fire ⊢
  rw [fire]

theorem coreAt_fireLate_of_none {s : State} {l c : Nat} (h : (s.lateArms (s.coreAt c) l).1 = []) : (s.fireLate l c).coreAt c = s.coreAt c := by
  rw [fireLate_eq, State.coreAt_setCore, lateArms_of_none h, fireArms_nil]

theorem onlyOn_fireLate (s : State) (l c : Nat) : OnlyOn c s (s.fireLate l c) := OnlyOn.setCore ..

end Sys2Proof.Machine
end

section
/-! LAUNCH_RESTORE, tile by tile (13 R264). -/
namespace Sys2Proof.Machine
open Sys2Proof

/-! ## Units set in a row -/

section
variable {α : Type} {set : State → Nat → α → State} {get : State → Nat → α} (same : ∀ s n x, get (set s n x) n = x)
  (other : ∀ s n x m, m ≠ n → get (set s n x) m = get s m) (a n : Nat) (f : Nat → α) (s : State)
include other

/-- A row of units that are set one after the other, and a unit beside it. -/
theorem foldl_setRow_beside {m : Nat} (h : ∀ k, k < n → m ≠ a + k) :
    get ((List.range n).foldl (fun s k => set s (a + k) (f k)) s) m = get s m :=
  foldl_keeps (fun t => get t m) (fun t k hk => other t _ _ m (h k (List.mem_range.mp hk))) s

include same

/-- A row of units that are set one after the other, and one of them. -/
theorem foldl_setRow {k : Nat} (h : k < n) : get ((List.range n).foldl (fun s k => set s (a + k) (f k)) s) (a + k) = f k :=
  foldl_once List.nodup_range (i := fun _ => True) (p := fun t => get t (a + k) = f k) (List.mem_range.mpr h) (fun _ _ _ _ _ => trivial)
    (fun t _ => same t _ _) (fun t j _ hj ht => (other t _ _ _ (by omega)).trans ht) trivial

end

/-! ## A tile that is restored -/

/-- Tile t holds what a saved tile held, as logical tile i of launch l. -/
structure TileBack (l i t : Nat) (x : TileSave) (u : State) : Prop where
  launch : (u.tileAt t).launch = some l
  logTile : (u.tileAt t).logTile = i
  sems : (u.tileAt t).sems = x.tile.sems
  core : ∀ c, c < 4 → u.coreAt (4 * t + c) = x.coreOn t c
  slot : ∀ k, k < 64 → u.slotAt (64 * t + k) = x.slots.getD k {}
  image : ∀ k, k < 64 → u.imageAt (64 * t + k) = x.images.getD k {}

/-- What restoring a tile leaves. -/
structure RestoresTile (l i t : Nat) (x : TileSave) (s u : State) : Prop where
  only : u = { s with
    tiles := u.tiles, cores := u.cores, slots := u.slots, images := u.images, residues := u.residues, mem := u.mem
    empties := u.empties, poison := u.poison, stamps := u.stamps }
  back : TileBack l i t x u
  mem : u.mem = putAt (tileKey t) x.cells (clearedTile t s.mem)
  tiles : ∀ k, k ≠ t → u.tileAt k = s.tileAt k
  cores : ∀ c, c / 4 ≠ t → u.coreAt c = s.coreAt c
  slots : ∀ n, n / 64 ≠ t → u.slotAt n = s.slotAt n
  images : ∀ k, k / 64 ≠ t → u.imageAt k = s.imageAt k

/-- Tile t as it goes on with what a saved tile held. -/
def TileSave.tileOn (x : TileSave) (l i : Nat) (here : Tile) : Tile :=
  { x.tile with
    launch := some l, logTile := i, cycle := ceilDiv x.tile.cycle 16 * 16
    point := here.point, droop := here.droop, droopAt := here.droopAt, volt := here.volt }

/-- The units of tile t set to those of a saved tile, before its stores. -/
def State.unitsBack (s : State) (l i t : Nat) (x : TileSave) : State :=
  let s := s.setTile t (x.tileOn l i (s.tileAt t))
  let s := (List.range 4).foldl (fun s c => s.setCore (4 * t + c) (x.coreOn t c)) s
  let s := (List.range 64).foldl (fun s k => s.setSlot (64 * t + k) (x.slots.getD k {})) s
  (List.range 64).foldl (fun s k => s.setImage (64 * t + k) (x.images.getD k {})) s

/-- The stores of tile t set to those of a saved tile, with the threads that are switched out. -/
def State.storesBack (s : State) (t : Nat) (x : TileSave) : State :=
  let s := s.clearTile t
  { s with
    residues := x.residues.foldl (fun m p => put m (64 * t + p.1) p.2) s.residues
    mem := x.cells.foldl (fun m p => setByte m (tileKey t p.1) p.2) s.mem
    empties := x.empties.foldl (fun e r => addTo e (tileKey t r)) s.empties
    poison := x.poison.foldl (fun e r => addTo e (tileKey t r)) s.poison
    stamps := x.stamps.foldl (fun m p => put m (tileKey t p.1) p.2) s.stamps }

theorem restoreTile_eq (s : State) (l i t : Nat) (x : TileSave) : s.restoreTile l i t x = (s.unitsBack l i t x).storesBack t x := rfl

theorem storesBack_eq (s : State) (t : Nat) (x : TileSave) : ∃ rs es ps ss, s.storesBack t x = { s with
    residues := rs, mem := putAt (tileKey t) x.cells (clearedTile t s.mem), empties := es, poison := ps, stamps := ss } :=
  ⟨_, _, _, _, rfl⟩

theorem unitsBack_restores (s : State) (l i t : Nat) (x : TileSave) : ∃ u, s.unitsBack l i t x = u
    ∧ u = { s with tiles := u.tiles, cores := u.cores, slots := u.slots, images := u.images } ∧ TileBack l i t x u
    ∧ (∀ k, k ≠ t → u.tileAt k = s.tileAt k) ∧ (∀ c, c / 4 ≠ t → u.coreAt c = s.coreAt c)
    ∧ (∀ n, n / 64 ≠ t → u.slotAt n = s.slotAt n) ∧ ∀ k, k / 64 ≠ t → u.imageAt k = s.imageAt k := by
  refine ⟨_, rfl, ?_⟩
  unfold State.unitsBack
  dsimp only
  have tile := State.tileAt_setTile s t (x.tileOn l i (s.tileAt t))
  have others (k : Nat) (h : k ≠ t) := State.tileAt_setTile_of_ne s (x.tileOn l i (s.tileAt t)) h
  have set : s.setTile t (x.tileOn l i (s.tileAt t)) = { s with tiles := (s.setTile t (x.tileOn l i (s.tileAt t))).tiles } := rfl
  generalize s.setTile t (x.tileOn l i (s.tileAt t)) = a at tile others set
  have cores := @foldl_setRow _ State.setCore State.coreAt State.coreAt_setCore
    (fun s n x m h => State.coreAt_setCore_of_ne s x h) (4 * t) 4 (x.coreOn t) a
  have besideC := @foldl_setRow_beside _ State.setCore State.coreAt
    (fun s n x m h => State.coreAt_setCore_of_ne s x h) (4 * t) 4 (x.coreOn t) a
  have onlyC : (List.range 4).foldl (fun s c => s.setCore (4 * t + c) (x.coreOn t c)) a
      = { a with cores := ((List.range 4).foldl (fun s c => s.setCore (4 * t + c) (x.coreOn t c)) a).cores } :=
    foldl_rel (r := fun s t : State => t = { s with cores := t.cores }) (fun _ => rfl) (fun h k => by rw [k, h]) (fun _ _ _ => rfl) a
  generalize (List.range 4).foldl (fun s c => s.setCore (4 * t + c) (x.coreOn t c)) a = b at cores besideC onlyC
  have slots := @foldl_setRow _ State.setSlot State.slotAt State.slotAt_setSlot
    (fun s n x m h => State.slotAt_setSlot_of_ne s x h) (64 * t) 64 (fun k => x.slots.getD k {}) b
  have besideS := @foldl_setRow_beside _ State.setSlot State.slotAt
    (fun s n x m h => State.slotAt_setSlot_of_ne s x h) (64 * t) 64 (fun k => x.slots.getD k {}) b
  have onlyS : (List.range 64).foldl (fun s k => s.setSlot (64 * t + k) (x.slots.getD k {})) b
      = { b with slots := ((List.range 64).foldl (fun s k => s.setSlot (64 * t + k) (x.slots.getD k {})) b).slots } :=
    foldl_rel (r := fun s t : State => t = { s with slots := t.slots }) (fun _ => rfl) (fun h k => by rw [k, h]) (fun _ _ _ => rfl) b
  generalize (List.range 64).foldl (fun s k => s.setSlot (64 * t + k) (x.slots.getD k {})) b = c at slots besideS onlyS
  have images := @foldl_setRow _ State.setImage State.imageAt State.imageAt_setImage
    (fun s n x m h => State.imageAt_setImage_of_ne s x h) (64 * t) 64 (fun k => x.images.getD k {}) c
  have besideI := @foldl_setRow_beside _ State.setImage State.imageAt
    (fun s n x m h => State.imageAt_setImage_of_ne s x h) (64 * t) 64 (fun k => x.images.getD k {}) c
  have onlyI : (List.range 64).foldl (fun s k => s.setImage (64 * t + k) (x.images.getD k {})) c
      = { c with images := ((List.range 64).foldl (fun s k => s.setImage (64 * t + k) (x.images.getD k {})) c).images } :=
    foldl_rel (r := fun s t : State => t = { s with images := t.images }) (fun _ => rfl) (fun h k => by rw [k, h]) (fun _ _ _ => rfl) c
  generalize (List.range 64).foldl (fun s k => s.setImage (64 * t + k) (x.images.getD k {})) c = d at images besideI onlyI
  have tileD (k : Nat) : d.tileAt k = a.tileAt k := by rw [onlyI, onlyS, onlyC]; rfl
  have coreD (k : Nat) : d.coreAt k = b.coreAt k := by rw [onlyI, onlyS]; rfl
  have slotD (k : Nat) : d.slotAt k = c.slotAt k := by rw [onlyI]; rfl
  refine ⟨?_, ⟨?_, ?_, ?_, fun c hc => (coreD _).trans (cores hc), fun k hk => (slotD _).trans (slots hk), fun k hk => images hk⟩,
    fun k hk => (tileD k).trans (others k hk), fun c hc => (coreD c).trans ((besideC fun k hk => ?_).trans ?_),
    fun n hn => (slotD n).trans ((besideS fun k hk => ?_).trans ?_), fun k hk => (besideI fun j hj => ?_).trans ?_⟩
  · rw [onlyI, onlyS, onlyC, set]
  · rw [tileD, tile]; rfl
  · rw [tileD, tile]; rfl
  · rw [tileD, tile]; rfl
  · omega
  · rw [set]; rfl
  · omega
  · rw [onlyC, set]; rfl
  · omega
  · rw [onlyS, onlyC, set]; rfl

theorem restoreTile_restores (s : State) (l i t : Nat) (x : TileSave) : RestoresTile l i t x s (s.restoreTile l i t x) := by
  obtain ⟨u, hu, only, back, tiles, cores, slots, images⟩ := unitsBack_restores s l i t x
  obtain ⟨rs, es, ps, ss, eq⟩ := storesBack_eq u t x
  rw [restoreTile_eq, hu, eq]
  obtain ⟨launch, logTile, sems, core, slot, image⟩ := back
  have mem : u.mem = s.mem := by rw [only]
  refine ⟨?_, ⟨launch, logTile, sems, core, slot, image⟩, ?_, tiles, cores, slots, images⟩
  · rw [only]
  · show putAt _ _ (clearedTile t u.mem) = _
    rw [mem]

end Sys2Proof.Machine
end

section
/-! LAUNCH_RESTORE of a launch that was saved: what stands on its new tiles and its pump-class cores (13 R264; 11 R218; 20 R362). -/
namespace Sys2Proof.Machine
open Sys2Proof

/-! ## The tiles of a placement -/

/-- Tile t holds what tile `old` of a state q held, as logical tile i of launch l, its stores with it. -/
structure BackFrom (q : State) (l i t old : Nat) (u : State) : Prop where
  units : TileBack l i t (q.saveTile old) u
  bytes : ∀ r, r < 0x600000 → byteAt u.mem (tileKey t r) = byteAt q.mem (tileKey old r)

/-- The tiles of a state q that a launch was saved from, restored on a placement, tile for tile. -/
def State.tilesBack (s q : State) (l : Nat) (olds place : List Nat) : State :=
  (List.range place.length).foldl (fun s i =>
    match (olds.map q.saveTile)[i]? with
    | some x => s.restoreTile l i (place.getD i 0) x
    | none => s) s

section
variable {s q : State} {l : Nat} {olds place : List Nat}

theorem tilesBack_step (hlen : olds.length = place.length) {i : Nat} (hi : i < place.length) (s : State) :
    (match (olds.map q.saveTile)[i]? with | some x => s.restoreTile l i (place.getD i 0) x | none => s)
      = s.restoreTile l i (place.getD i 0) (q.saveTile (olds.getD i 0)) := by
  have listed : (olds.map q.saveTile)[i]? = some (q.saveTile (olds.getD i 0)) := by
    rw [List.getElem?_map, List.getElem?_eq_getElem (hlen ▸ hi), List.getD_eq_getElem _ _ (hlen ▸ hi)]
    rfl
  rw [listed]

theorem tilesBack_eq (hlen : olds.length = place.length) : s.tilesBack q l olds place =
    (List.range place.length).foldl (fun s i => s.restoreTile l i (place.getD i 0) (q.saveTile (olds.getD i 0))) s :=
  List.foldl_ext _ _ _ fun t _ hi => tilesBack_step hlen (List.mem_range.mp hi) t

/-- Each logical tile is back on its tile. -/
theorem tilesBack_back (hlen : olds.length = place.length) (hn : place.Nodup) (hp : ∀ p ∈ place, p < 1024) (ho : ∀ p ∈ olds, p < 1024)
    (hm : (q.mem.map Prod.fst).Nodup) {i : Nat} (hi : i < place.length) :
    BackFrom q l i (place.getD i 0) (olds.getD i 0) (s.tilesBack q l olds place) := by
  rw [tilesBack_eq hlen]
  have low := hp _ (getD_mem hi)
  refine foldl_once List.nodup_range (i := fun _ => True) (p := BackFrom q l i (place.getD i 0) (olds.getD i 0)) (List.mem_range.mpr hi)
    (fun _ _ _ _ _ => trivial) (fun t _ => ?_) (fun t j hj hne ht => ?_) trivial
  · have restores := restoreTile_restores t l i (place.getD i 0) (q.saveTile (olds.getD i 0))
    refine ⟨restores.back, fun r hr => ?_⟩
    rw [restores.mem]
    exact byteAt_restored (ho _ (getD_mem (hlen ▸ hi))) low hr hm t.mem
  · have hj := List.mem_range.mp hj
    obtain ⟨-, -, mem, tiles, cores, slots, images⟩ := restoreTile_restores t l j (place.getD j 0) (q.saveTile (olds.getD j 0))
    have ne : place.getD i 0 ≠ place.getD j 0 := fun e => hne ((getD_inj_of_nodup hn hi hj).mp e).symm
    obtain ⟨⟨launch, logTile, sems, core, slot, image⟩, bytes⟩ := ht
    rw [← tiles _ ne] at launch logTile sems
    refine ⟨⟨launch, logTile, sems, fun c hc => (cores _ (by omega)).trans (core c hc), fun k hk => (slots _ (by omega)).trans (slot k hk),
      fun k hk => (images _ (by omega)).trans (image k hk)⟩, fun r hr => ?_⟩
    rw [mem]
    exact (byteAt_restored_of_ne (hp _ (getD_mem hj)) low (Ne.symm ne) hr q.mem t.mem).trans (bytes r hr)

/-- Restoring tiles leaves the launches and the cores of others. -/
theorem tilesBack_keeps (hlen : olds.length = place.length) (hp : ∀ p ∈ place, p < 1024) :
    (s.tilesBack q l olds place).launches = s.launches
    ∧ ∀ c, 4096 ≤ c → (s.tilesBack q l olds place).coreAt c = s.coreAt c := by
  rw [tilesBack_eq hlen]
  refine ⟨foldl_keeps State.launches (fun t i _ => ?_) s, fun c hc => foldl_keeps (fun t => t.coreAt c) (fun t i hi => ?_) s⟩
  · rw [(restoreTile_restores ..).only]
  · refine (restoreTile_restores ..).cores c fun e => ?_
    have := hp _ (getD_mem (List.mem_range.mp hi))
    omega

end

/-! ## Pump-class cores -/

theorem putArms_eq (as : List (Nat × Arm)) (k : Core) : as.foldl Core.putArm k = { k with arms := (as.foldl Core.putArm k).arms } :=
  List.foldlRecOn (motive := fun x : Core => x = { k with arms := x.arms }) as _ rfl fun x hx a _ => by rw [Core.putArm, hx]

theorem loadPump_core (k : Core) (p : PumpSave) (b : Bool) :
    (k.loadPump p b).rx = p.rx ++ k.rx ∧ (p.arms = [] → (k.loadPump p b).arms = k.arms) := by
  unfold Core.loadPump
  dsimp only
  rw [settleChans_eq, putArms_eq]
  refine ⟨rfl, fun h => ?_⟩
  rw [h]
  rfl

/-- The saves that some cores of a state q have for a launch, read back. -/
def State.pumpsBack (s q : State) (l : Nat) (cs : List Nat) : State :=
  (cs.map fun c => (q.coreAt c).savePump l c).foldl (fun s p => s.loadPump l p) s

section
variable {s q : State} {l : Nat} {cs : List Nat}

theorem pumpsBack_eq : s.pumpsBack q l cs = cs.foldl (fun s c => s.loadPump l ((q.coreAt c).savePump l c)) s := List.foldl_map

theorem pumpsBack_only : s.pumpsBack q l cs = { s with cores := (s.pumpsBack q l cs).cores } := by
  rw [pumpsBack_eq]
  exact foldl_rel (r := fun s t : State => t = { s with cores := t.cores }) (fun _ => rfl) (fun h k => by rw [k, h]) (fun _ _ _ => rfl) s

theorem coreAt_loadPump_of_ne (s : State) (l : Nat) (k : Core) {c d : Nat} (h : d ≠ c) :
    (s.loadPump l (k.savePump l c)).coreAt d = s.coreAt d :=
  State.coreAt_setCore_of_ne _ _ h

theorem coreAt_pumpsBack_of_not_mem {c : Nat} (h : c ∉ cs) : (s.pumpsBack q l cs).coreAt c = s.coreAt c := by
  rw [pumpsBack_eq]
  exact foldl_keeps (fun t => t.coreAt c) (fun t y hy => coreAt_loadPump_of_ne t l _ fun e => h (e ▸ hy)) s

/-- The launch's messages stand before those of others then, and where it had no arm those of others stay. -/
theorem coreAt_pumpsBack (hn : cs.Nodup) {c : Nat} (hc : c ∈ cs) (ha : (q.coreAt c).noArms l) (hs : (s.coreAt c).noArms l) :
    ((s.pumpsBack q l cs).coreAt c).rx = ((q.coreAt c).rx.filter fun m => m.launch = l) ++ (s.coreAt c).rx
    ∧ ((s.pumpsBack q l cs).coreAt c).noArms l := by
  rw [pumpsBack_eq]
  have none : ((q.coreAt c).savePump l c).arms = [] := by
    refine List.filter_eq_nil_iff.mpr fun a h => ?_
    simpa using ha a h
  refine foldl_once hn (i := fun t : State => t.coreAt c = s.coreAt c)
    (p := fun t : State => (t.coreAt c).rx = ((q.coreAt c).rx.filter fun m => m.launch = l) ++ (s.coreAt c).rx ∧ (t.coreAt c).noArms l) hc
    (fun t y _ hy ht => (coreAt_loadPump_of_ne t l _ (Ne.symm hy)).trans ht) (fun t ht => ?_) (fun t y _ hy ht => ?_) rfl
  · obtain ⟨rx, arms⟩ := loadPump_core (t.coreAt c) ((q.coreAt c).savePump l c) (t.pumpCoreShared l c)
    have core : (t.loadPump l ((q.coreAt c).savePump l c)).coreAt c = _ := State.coreAt_setCore ..
    rw [core]
    refine ⟨rx.trans (by rw [ht]; rfl), fun a h => hs a ?_⟩
    have same := arms none
    rw [ht] at same
    exact same ▸ ht ▸ h
  · rw [coreAt_loadPump_of_ne t l _ (Ne.symm hy)]
    exact ht

end

end Sys2Proof.Machine
end

section
/-! LAUNCH_RESTORE: the arms that fire late and the slots that take entries, and the whole restore (11 R214, R218; 13 R264). -/
namespace Sys2Proof.Machine
open Sys2Proof

/-! ## Late arms and waiting slots, core by core -/

/-- A core's late arms fire, and its slots that wait in RQPOP take entries. -/
def State.wakeCore (s : State) (l c : Nat) : State := (s.fireLate l c).serveQueue c
/-- So on some cores. -/
def State.wakeCores (s : State) (l : Nat) (cs : List Nat) : State := cs.foldl (fun s c => s.wakeCore l c) s

theorem onlyOn_wakeCore (s : State) (l c : Nat) : OnlyOn c s (s.wakeCore l c) := (onlyOn_fireLate s l c).trans (onlyServed_serveQueue ..).on

/-- A core none of whose arms is for the launch keeps its messages. -/
theorem wakeCore_of_noArms {s : State} {l c : Nat} (h : (s.coreAt c).noArms l) :
    ((s.wakeCore l c).coreAt c).rx = (s.coreAt c).rx ∧ ((s.wakeCore l c).coreAt c).noArms l := by
  have same := coreAt_fireLate_of_none (s := s) (l := l) (c := c) (lateArms_of_noArms h)
  unfold State.wakeCore
  generalize s.fireLate l c = u at same
  have served := (onlyServed_serveQueue u c).core
  rw [same] at served
  refine ⟨?_, noArms_serveQueue (same ▸ h)⟩
  rw [served]

theorem wakeCores_of_noArms {s : State} {l : Nat} (cs : List Nat) {c : Nat} (h : (s.coreAt c).noArms l) :
    ((s.wakeCores l cs).coreAt c).rx = (s.coreAt c).rx := by
  refine (List.foldlRecOn (motive := fun t : State => (t.coreAt c).rx = (s.coreAt c).rx ∧ (t.coreAt c).noArms l) cs _ ⟨rfl, h⟩
    fun t ht y _ => ?_).1
  by_cases e : c = y
  · subst e
    obtain ⟨rx, arms⟩ := wakeCore_of_noArms ht.2
    exact ⟨rx.trans ht.1, arms⟩
  · rw [(onlyOn_wakeCore t l y).cores c e]
    exact ht

theorem wakeCores_only (s : State) (l : Nat) (cs : List Nat) : s.wakeCores l cs = { s with
    images := (s.wakeCores l cs).images, slots := (s.wakeCores l cs).slots, cores := (s.wakeCores l cs).cores } :=
  foldl_rel (r := fun s t : State => t = { s with images := t.images, slots := t.slots, cores := t.cores }) (fun _ => rfl)
    (fun h k => by rw [k, h]) (fun t c _ => (onlyOn_wakeCore t l c).only) s

/-- A core as the late arms leave it: its mailbox, windows and channels stay, and all of it where none fires. -/
structure Woken (s : State) (l : Nat) (y k : Core) : Prop where
  mailbox : k.mailbox = y.mailbox
  win : k.win = y.win
  chans : k.chans = y.chans
  quiet : (s.lateArms y l).1 = [] → k = y

theorem Woken.refl (s : State) (l : Nat) (y : Core) : Woken s l y y := ⟨rfl, rfl, rfl, fun _ => rfl⟩

/-- Firing what fires late keeps that of a core. -/
theorem Woken.fireLate {s t : State} {l c : Nat} {y : Core} (hp : (t.launchAt l).part = (s.launchAt l).part) (h : Woken s l y (t.coreAt c)) :
    Woken s l y ((t.fireLate l c).coreAt c) := by
  have only := onlyMessages_fireLate t l c
  have quiet (k : (s.lateArms y l).1 = []) : (t.fireLate l c).coreAt c = y := by
    have same := h.quiet k
    refine (coreAt_fireLate_of_none ?_).trans same
    rw [same, lateArms_congr hp, k]
  unfold OnlyMessages at only
  refine ⟨?_, ?_, ?_, quiet⟩
  · rw [only]; exact h.mailbox
  · rw [only]; exact h.win
  · rw [only]; exact h.chans

/-- What stands on tile t while the cores wake: units as a saved tile held them, where no slot waits in RQPOP. -/
structure TileWoken (s : State) (l t : Nat) (x : TileSave) (u : State) : Prop where
  part : (u.launchAt l).part = (s.launchAt l).part
  core : ∀ c, c < 4 → Woken s l (x.coreOn t c) (u.coreAt (4 * t + c))
  slot : ∀ k, k < 64 → u.slotAt (64 * t + k) = x.slots.getD k {}
  image : ∀ k, k < 64 → u.imageAt (64 * t + k) = x.images.getD k {}

theorem TileWoken.wakeCore {s u : State} {l t : Nat} {x : TileSave} (hx : ∀ k d p, (x.slots.getD k {}).wait ≠ some (.rqpop d p))
    (h : TileWoken s l t x u) (c : Nat) : TileWoken s l t x (u.wakeCore l c) := by
  obtain ⟨part, core, slot, image⟩ := h
  by_cases hc : c / 4 = t
  · have idle : (u.fireLate l c).serveQueue c = u.fireLate l c := by
      refine serveQueue_of_no_waiters fun m hm d p => ?_
      have own : 64 * t + m % 64 = m := by unfold coreOf at hm; omega
      have wait := slot (m % 64) (Nat.mod_lt _ (by decide))
      rw [own] at wait
      have same : (u.fireLate l c).slotAt m = u.slotAt m := rfl
      rw [same, wait]
      exact hx _ d p
    unfold State.wakeCore
    rw [idle]
    refine ⟨part, fun d hd => ?_, slot, image⟩
    by_cases e : 4 * t + d = c
    · rw [e]
      exact Woken.fireLate part (e ▸ core d hd)
    · rw [(onlyOn_fireLate u l c).cores _ e]
      exact core d hd
  · have on := onlyOn_wakeCore u l c
    refine ⟨?_, fun d hd => ?_, fun k hk => ?_, fun k hk => ?_⟩
    · rw [on.launchAt]
      exact part
    · rw [on.cores _ (by omega)]
      exact core d hd
    · rw [on.slots _ (by unfold coreOf; omega)]
      exact slot k hk
    · rw [on.images _ (by omega)]
      exact image k hk

theorem TileWoken.wakeCores {s u : State} {l t : Nat} {x : TileSave} (hx : ∀ k d p, (x.slots.getD k {}).wait ≠ some (.rqpop d p))
    (h : TileWoken s l t x u) (cs : List Nat) : TileWoken s l t x (u.wakeCores l cs) :=
  List.foldlRecOn (motive := TileWoken s l t x) cs _ h fun _ hv c _ => hv.wakeCore hx c

theorem slot_saveTile (q : State) (old : Nat) {k : Nat} (h : k < 64) :
    (q.saveTile old).slots.getD k {} = (q.slotAt (64 * old + k)).withdraw := getD_map_range (fun k => (q.slotAt (64 * old + k)).withdraw) h _

theorem image_saveTile (q : State) (old : Nat) {k : Nat} (h : k < 64) : (q.saveTile old).images.getD k {} = q.imageAt (64 * old + k) :=
  getD_map_range (fun k => q.imageAt (64 * old + k)) h _

/-- A saved slot waits in no RQPOP. -/
theorem wait_saveTile (q : State) (old k : Nat) (d : Reg) (p : Nat) : ((q.saveTile old).slots.getD k {}).wait ≠ some (.rqpop d p) := by
  by_cases h : k < 64
  · rw [slot_saveTile q old h, wait_withdraw]
    split
    · exact nofun
    · next hw => exact fun e => hw (by rw [e]; rfl)
  · have none : (q.saveTile old).slots.getD k {} = {} := List.getD_eq_default _ _ (by simpa [State.saveTile] using h)
    rw [none]
    exact nofun

/-! ## The whole restore -/

/-- A saved launch that runs again on a placement. -/
def Launch.restored (l : Launch) (place : List Nat) : Launch :=
  { l with
    phase := .running, place := place, savedTiles := [], savedPumps := [], savedShares := []
    groups := l.groups.map fun g => { g with region := groupRegion place g, seen := none }
    work := addCount l.work Activity.restore.index 1 }

/-- The shares of a saved launch in the regions of a placement. -/
def State.sharesBack (s : State) (lc : Launch) (l : Nat) (place : List Nat) : State :=
  (regionsOf place).foldl (fun s r => s.setShare r l (lc.newShare place r)) s

/-- A launch that a state q was saved as, restored on a placement, before its messages and its arms. -/
def State.launchBack (u q : State) (l : Nat) (place : List Nat) : State :=
  ((((u.setLaunch l ((q.savedLaunch l).restored place)).tilesBack q l (q.launchAt l).place place).pumpsBack q l
    (q.launchAt l).pumpCores).sharesBack (q.savedLaunch l) l place).evenPoints l

/-- Then it has its messages. -/
def State.inboxBack (s q : State) (l : Nat) : State := s.takeInbox l (q.launchAt l).inbox []

section
variable {u q : State} {l : Nat} {place : List Nat}

theorem restoreLaunch_eq (hl : u.launchAt l = q.savedLaunch l) : u.restoreLaunch l place =
    ((u.launchBack q l place).inboxBack q l).wakeCores l (((u.launchBack q l place).inboxBack q l).launchAt l).cores.eraseDups := by
  unfold State.restoreLaunch
  dsimp only
  rw [hl]
  rfl

theorem onlyRegions_sharesBack (s : State) (lc : Launch) (l : Nat) (place : List Nat) : OnlyRegions s (s.sharesBack lc l place) :=
  onlyRegions_foldl (fun _ _ => by exact rfl) ..

/-- What a restore leaves before the arms fire. -/
structure LaunchBack (l : Nat) (place : List Nat) (q u e : State) : Prop where
  launch : e.launchAt l = (q.savedLaunch l).restored place
  tiles : ∀ i, i < place.length → BackFrom q l i (place.getD i 0) ((q.launchAt l).place.getD i 0) e
  pumps : ∀ c ∈ (q.launchAt l).pumpCores, 4096 ≤ c → (q.coreAt c).noArms l → (u.coreAt c).noArms l →
    (e.coreAt c).rx = ((q.coreAt c).rx.filter fun m => m.launch = l) ++ (u.coreAt c).rx ∧ (e.coreAt c).noArms l

theorem BackFrom.congr {i t old : Nat} {a b : State} (h : BackFrom q l i t old a) (tile : (b.tileAt t).launch = (a.tileAt t).launch
      ∧ (b.tileAt t).logTile = (a.tileAt t).logTile ∧ (b.tileAt t).sems = (a.tileAt t).sems)
    (core : ∀ c, c < 4 → b.coreAt (4 * t + c) = a.coreAt (4 * t + c)) (slots : b.slots = a.slots) (images : b.images = a.images)
    (mem : b.mem = a.mem) : BackFrom q l i t old b := by
  obtain ⟨⟨launch, logTile, sems, cores, slot, image⟩, bytes⟩ := h
  refine ⟨⟨tile.1.trans launch, tile.2.1.trans logTile, tile.2.2.trans sems, fun c hc => (core c hc).trans (cores c hc), fun k hk => ?_,
    fun k hk => ?_⟩, fun r hr => ?_⟩
  · unfold State.slotAt
    rw [slots]
    exact slot k hk
  · unfold State.imageAt
    rw [images]
    exact image k hk
  · rw [mem]
    exact bytes r hr

theorem launchBack_back (hp : ∀ p ∈ place, p < 1024) (hn : place.Nodup) (ho : ∀ p ∈ (q.launchAt l).place, p < 1024)
    (hlen : (q.launchAt l).place.length = place.length) (hm : (q.mem.map Prod.fst).Nodup)
    (hc : ∀ c ∈ (q.launchAt l).pumpCores, 4096 ≤ c) : LaunchBack l place q u (u.launchBack q l place) := by
  unfold State.launchBack
  have launch := State.launchAt_setLaunch u l ((q.savedLaunch l).restored place)
  have coreA (c : Nat) : (u.setLaunch l ((q.savedLaunch l).restored place)).coreAt c = u.coreAt c := rfl
  generalize u.setLaunch l ((q.savedLaunch l).restored place) = a at launch coreA
  obtain ⟨launches, cores⟩ := tilesBack_keeps (s := a) (q := q) (l := l) hlen hp
  have back (i : Nat) (hi : i < place.length) := tilesBack_back (s := a) (l := l) hlen hn hp ho hm hi
  generalize a.tilesBack q l (q.launchAt l).place place = b at launches cores back
  have only := pumpsBack_only (s := b) (q := q) (l := l) (cs := (q.launchAt l).pumpCores)
  have below (c : Nat) (h : c < 4096) := coreAt_pumpsBack_of_not_mem (s := b) (q := q) (l := l) (c := c) fun k => absurd (hc c k) (by omega)
  have pumps (c : Nat) (h : c ∈ (q.launchAt l).pumpCores) := coreAt_pumpsBack (s := b) (q := q) (l := l) (nodup_pumpCores (q.launchAt l)) h
  generalize b.pumpsBack q l (q.launchAt l).pumpCores = d at only below pumps
  have shares := onlyRegions_sharesBack d (q.savedLaunch l) l place
  generalize d.sharesBack (q.savedLaunch l) l place = f at shares
  have points := onlyPoints_evenPoints f l
  generalize f.evenPoints l = e at points
  have coreE (c : Nat) : e.coreAt c = d.coreAt c := by rw [points.only, shares]; rfl
  refine ⟨?_, fun i hi => (back i hi).congr ?_ (fun c hc => ?_) ?_ ?_ ?_, fun c h low ha hu => ?_⟩
  · have same : e.launchAt l = b.launchAt l := by rw [points.only, shares, only]; rfl
    rw [same, State.launchAt, launches]
    exact launch
  · obtain ⟨p, r, k, v, tile⟩ := points.tile (place.getD i 0)
    have same : f.tileAt (place.getD i 0) = b.tileAt (place.getD i 0) := by rw [shares, only]; rfl
    rw [tile, same]
    exact ⟨rfl, rfl, rfl⟩
  · have := hp _ (getD_mem hi)
    exact (coreE _).trans (below _ (by omega))
  · rw [points.only, shares, only]
  · rw [points.only, shares, only]
  · rw [points.only, shares, only]
  · have same : b.coreAt c = u.coreAt c := (cores c low).trans (coreA c)
    rw [coreE, ← same]
    exact pumps c h ha (same ▸ hu)

end

end Sys2Proof.Machine
end

section
/-! Launches that are saved and restored, and slots that are switched (04 R80; 05 R96; 09 R201, R202; 13 R263 to R265; 20 R362). -/
namespace Sys2Proof.Machine
open Sys2Proof

theorem nodup_keys {α : Type} {m : List (Nat × α)} (h : rising m = true) : (m.map Prod.fst).Nodup := by
  induction m with
  | nil => exact List.nodup_nil
  | cons p m ih =>
    obtain ⟨rest, first⟩ := rising_cons.mp h
    refine List.nodup_cons.mpr ⟨fun k => ?_, ih rest⟩
    obtain ⟨q, hq, e⟩ := List.mem_map.mp k
    exact absurd (first q hq) (by omega)

/-- Pump-class cores stand past the ordinary ones. -/
theorem pumpCores_high {l : Launch} (h : ∀ n ∈ l.begun, isOrdinary n = false) {c : Nat} (hc : c ∈ l.pumpCores) : 4096 ≤ c := by
  obtain ⟨n, hn, rfl⟩ := List.mem_map.mp (List.mem_eraseDups.mp hc)
  rcases List.mem_append.mp hn with hn | hn
  · obtain ⟨b, -, rfl⟩ := List.mem_map.mp hn
    unfold coreOf
    omega
  · have high := h n hn
    simp only [isOrdinary, decide_eq_false_iff_not] at high
    unfold coreOf
    omega

/-! ## LAUNCH_RESTORE -/

section
variable {s : State} {l : Nat} {place : List Nat}

theorem launchRestore_of_fit (hp : (s.launchAt l).phase = .saved) (hk : (s.launchAt l).killed = false) (hf : (s.launchAt l).fault = none)
    (hq : (s.launchAt l).quotaPaused = false) (ho : s.placeOk (s.launchAt l) (s.launchAt l).groups place = true)
    (hr : ((s.launchAt l).savedPumps.all fun p => (s.coreAt p.core).hasRoom p) = true) :
    exec (.launchRestore l place) s = .next (s.restoreLaunch l place) :=
  congrArg Host.Outcome.next (if_pos (by rw [hp, hk, hf, hq, ho, hr]; rfl))

theorem launchRestore_of_not (h : (s.launchAt l).phase ≠ .saved ∨ (s.launchAt l).killed = true ∨ (s.launchAt l).fault ≠ none
      ∨ (s.launchAt l).quotaPaused = true ∨ s.placeOk (s.launchAt l) (s.launchAt l).groups place = false
      ∨ ((s.launchAt l).savedPumps.all fun p => (s.coreAt p.core).hasRoom p) = false) :
    exec (.launchRestore l place) s = .next s := by
  refine congrArg Host.Outcome.next (if_neg fun k => ?_)
  simp only [Bool.and_eq_true, decide_eq_true_eq, Bool.not_eq_true', Option.isNone_iff_eq_none] at k
  obtain ⟨⟨⟨⟨⟨hp, hk⟩, hf⟩, hq⟩, ho⟩, hr⟩ := k
  rcases h with h | h | h | h | h | h
  · exact h hp
  · exact Bool.false_ne_true (hk.symm.trans h)
  · exact h hf
  · exact Bool.false_ne_true (hq.symm.trans h)
  · exact Bool.false_ne_true (h.symm.trans ho)
  · exact Bool.false_ne_true (h.symm.trans hr)

end

theorem inboxBack_of_empty {s q : State} {l : Nat} (h : (q.launchAt l).inbox = []) :
    s.inboxBack q l = s.setLaunch l { s.launchAt l with inbox := [] } := by
  unfold State.inboxBack
  rw [h]
  rfl

theorem state_withdraw (x : Slot) : x.withdraw.state = x.state ∧ x.withdraw.sel = x.sel := by
  unfold Slot.withdraw
  split
  · exact ⟨rfl, rfl⟩
  · exact ⟨rfl, rfl⟩

/-- What tile t holds of what tile `old` held before a launch was saved, as logical tile i, when it runs again. -/
structure TileRestored (l i t old : Nat) (s : State) (m : List Host.Cell) (w : State) : Prop where
  launch : (w.tileAt t).launch = some l
  logTile : (w.tileAt t).logTile = i
  sems : (w.tileAt t).sems = (s.tileAt old).sems
  cores : ∀ c, c < 4 → ∃ k, MovedFrom (s.coreAt (4 * old + c)) k ∧ Woken s l k (w.coreAt (4 * t + c))
  slots : ∀ k, k < 64 → w.imageAt (64 * t + k) = s.imageAt (64 * old + k)
    ∧ (w.slotAt (64 * t + k)).state = (s.slotAt (64 * old + k)).state ∧ (w.slotAt (64 * t + k)).sel = (s.slotAt (64 * old + k)).sel
  bytes : ∀ r, r < 0x600000 → byteAt w.mem (tileKey t r) = byteAt m (tileKey old r)

section
variable {s q e : State} {l : Nat} {place : List Nat}

theorem tileRestored_of_back (quit : Quit s q) {i t old : Nat} (h : BackFrom q l i t old e) (hp : (e.launchAt l).part = (s.launchAt l).part)
    (hi : (q.launchAt l).inbox = []) (cs : List Nat) : TileRestored l i t old s q.mem ((e.inboxBack q l).wakeCores l cs) := by
  obtain ⟨⟨launch, logTile, sems, core, slot, image⟩, bytes⟩ := h
  have only := wakeCores_only (e.inboxBack q l) l cs
  rw [inboxBack_of_empty hi] at only ⊢
  have part : ((e.setLaunch l { e.launchAt l with inbox := [] }).launchAt l).part = (s.launchAt l).part := by
    rw [State.launchAt_setLaunch]
    exact hp
  have start : TileWoken s l t (q.saveTile old) (e.setLaunch l { e.launchAt l with inbox := [] }) :=
    ⟨part, fun c hc => (core c hc).symm ▸ Woken.refl .., slot, image⟩
  obtain ⟨-, cores, slots, images⟩ := start.wakeCores (wait_saveTile q old) cs
  generalize (e.setLaunch l { e.launchAt l with inbox := [] }).wakeCores l cs = w at only cores slots images
  have tile : w.tileAt t = e.tileAt t := by rw [only]; rfl
  rw [← tile] at launch logTile sems
  refine ⟨launch, logTile, sems.trans (show (q.tileAt old).sems = _ by rw [quit.tileAt]), fun c hc => ⟨_, ?_, cores c hc⟩,
    fun k hk => ⟨?_, ?_, ?_⟩, fun r hr => ?_⟩
  · exact quit.coreAt _ ▸ coreOn_saveTile q old t hc
  · rw [images k hk, image_saveTile q old hk, quit.imageAt]
  · rw [slots k hk, slot_saveTile q old hk, (state_withdraw _).1, quit.slot]
  · rw [slots k hk, slot_saveTile q old hk, (state_withdraw _).2, quit.slot]
  · rw [only]
    exact bytes r hr

end

theorem pumpCore_off {lc : Launch} (hb : ∀ n ∈ lc.begun, isOrdinary n = false) (hp : ∀ p ∈ lc.place, p < 1024) {c : Nat}
    (hc : c ∈ lc.pumpCores) : c / 4 ∉ lc.place := by
  have high := pumpCores_high hb hc
  exact fun h => absurd (hp _ h) (by omega)

/-- A launch that stood in s as `lc` and was saved runs in w on a placement, with what it had. -/
structure LaunchRestored (l : Nat) (place : List Nat) (s t w : State) : Prop where
  phase : (w.launchAt l).phase = .running
  placed : (w.launchAt l).place = place
  rx : ∀ c ∈ (s.launchAt l).pumpCores, (s.coreAt c).noArms l →
    (w.coreAt c).rx = ((s.coreAt c).rx.filter fun m => m.launch = l) ++ (t.coreAt c).rx
  tiles : ∀ i, i < place.length → TileRestored l i (place.getD i 0) ((s.launchAt l).place.getD i 0) s t.mem w

/-- LAUNCH_RESTORE on a placement that fits, of what LAUNCH_PREEMPT left. -/
theorem launchRestore_restores {s q t u : State} {l : Nat} {place : List Nat} (quit : Quit s q) (saved : Saved l q t)
    (hu : u = { t with tide := u.tide }) (wf : Memory.wf q.mem = true) (hb : ∀ n ∈ (s.launchAt l).begun, isOrdinary n = false)
    (hlen : (s.launchAt l).place.length = (s.launchAt l).record.tiles) (hlow : ∀ p ∈ (s.launchAt l).place, p < 1024)
    (hk : (s.launchAt l).killed = false) (hf : (s.launchAt l).fault = none) (hq : s.quotaDue l = false) (hin : (s.launchAt l).inbox = [])
    (hr : ((t.launchAt l).savedPumps.all fun p => (t.coreAt p.core).hasRoom p) = true)
    (hfit : u.placeOk (u.launchAt l) (u.launchAt l).groups place = true) :
    ∃ w, exec (.launchRestore l place) u = .next w ∧ LaunchRestored l place s t w := by
  obtain ⟨launch, mem, -, pumps⟩ := saved
  have own := quit.launchAt l
  rw [own] at pumps
  have launchU : u.launchAt l = q.savedLaunch l := by rw [hu]; exact launch
  have coreU (c : Nat) : u.coreAt c = t.coreAt c := by rw [hu]; rfl
  obtain ⟨length, nodup, low⟩ := placeOk_passes hfit
  have length : (s.launchAt l).place.length = place.length := by
    rw [hlen, length, launchU]
    exact congrArg (fun x => x.record.tiles) own.symm
  have restore : exec (.launchRestore l place) u = .next (u.restoreLaunch l place) := by
    refine launchRestore_of_fit ?_ ?_ ?_ ?_ hfit ?_
    · rw [launchU]; rfl
    · rw [launchU]; exact (congrArg Launch.killed own).trans hk
    · rw [launchU]; exact (congrArg Launch.fault own).trans hf
    · rw [launchU]; exact (quit.quotaDue l).trans hq
    · rw [launchU, ← launch]
      simp only [coreU]
      exact hr
  have back : LaunchBack l place q u (u.launchBack q l place) := by
    refine launchBack_back low nodup ?_ ?_ (nodup_keys (mem_wf_iff.mp wf).1) ?_
    · rw [own]; exact hlow
    · rw [own]; exact length
    · rw [own]; exact fun c hc => pumpCores_high hb hc
  rw [restoreLaunch_eq launchU] at restore
  generalize u.launchBack q l place = e at restore back
  obtain ⟨launchE, tilesE, pumpsE⟩ := back
  have inbox : (q.launchAt l).inbox = [] := (congrArg Launch.inbox own).trans hin
  generalize ((e.inboxBack q l).launchAt l).cores.eraseDups = cs at restore
  have part : (e.launchAt l).part = (s.launchAt l).part := by
    rw [launchE]
    show (q.launchAt l).part = _
    rw [own]
  have launchW : ((e.inboxBack q l).wakeCores l cs).launchAt l = { e.launchAt l with inbox := [] } := by
    rw [wakeCores_only, inboxBack_of_empty inbox]
    exact State.launchAt_setLaunch ..
  refine ⟨_, restore, ?_, ?_, fun c hc ha => ?_, fun i hi => ?_⟩
  · rw [launchW, launchE]; rfl
  · rw [launchW, launchE]; rfl
  · obtain ⟨-, -, free⟩ := pumps c hc (pumpCore_off hb hlow hc)
    obtain ⟨rx, arms⟩ := pumpsE c (own ▸ hc) (pumpCores_high hb hc) (by rw [quit.coreAt]; exact ha) (by rw [coreU]; exact free)
    rw [quit.coreAt, coreU] at rx
    rw [inboxBack_of_empty inbox]
    exact (wakeCores_of_noArms cs (s := e.setLaunch l { e.launchAt l with inbox := [] }) arms).trans rx
  · rw [mem, ← own]
    exact tileRestored_of_back quit (tilesE i hi) part inbox cs

/-- Settles O57: what the save keeps of each tile and pump-class core is what the restore puts back, and the later steps of the restore
touch none of it; a switch exchanges what stands outside the images. -/
theorem launchesAreSavedAndRestored : Obligations.LaunchesAreSavedAndRestored := by
  unfold Obligations.LaunchesAreSavedAndRestored
  intro l place slot sel s lc
  refine ⟨launchPreempt_of_not, fun hp hs => ?preempt, launchRestore_of_not, fun hc hi hg => ?one, fun h g hc hi hg => ?group,
    contextSwitch_of_not⟩
  case preempt =>
    have quit := quit_quitStores s l
    have saved := saveLaunch_saves s l
    have run := launchPreempt_of_safe hp hs
    have wf (h : MemOk s) : Memory.wf (s.quitStores l).mem = true := quitStores_mem_wf l h
    generalize s.quitStores l = q at quit saved wf
    generalize s.saveLaunch l = t at run saved
    have ⟨launch, mem, tiles, pumps⟩ := saved
    have own := quit.launchAt l
    rw [own] at tiles pumps
    refine ⟨t, run, ?_, ?_, mem, tiles, fun hb hlow c hc => ?pumps, ?restore⟩
    · rw [launch]; rfl
    · rw [launch]; rfl
    case pumps =>
      obtain ⟨rx, fifo, -⟩ := pumps c hc (pumpCore_off hb hlow hc)
      rw [quit.coreAt] at rx fifo
      refine ⟨rx, fifo, ?_⟩
      rw [launch, ← quit.coreAt]
      exact List.mem_map_of_mem (own ▸ hc)
    case restore =>
      intro hm hb hlen hlow u hu hk hf hq hin hr hfit
      obtain ⟨w, restore, phase, placed, rx, restored⟩ := launchRestore_restores quit saved hu (wf hm) hb hlen hlow hk hf hq hin hr hfit
      refine ⟨w, restore, phase, placed, rx, fun i hi => ?_⟩
      intro old new
      obtain ⟨launchT, logTile, sems, cores, slots, bytes⟩ := restored i hi
      refine ⟨launchT, logTile, sems, fun c hc => ?_, slots, fun off h => ⟨?_, ?_⟩, fun off h => ⟨?_, ?_⟩⟩
      · intro x y
        obtain ⟨k, moved, woken⟩ := cores c hc
        obtain ⟨f, rx⟩ := moved.rx
        refine ⟨woken.mailbox.trans moved.mailbox, fun quiet => ?_, woken.win.trans moved.win, fun h => woken.chans.trans (moved.chans h)⟩
        exact (congrArg Core.ready (woken.quiet ((lateArms_of_seats s l moved.arms rx).trans quiet))).trans moved.ready
      · rw [locKey_g _ h, locKey_g _ h]
        exact bytes _ (by omega)
      · rw [locKey_a _ h, locKey_a _ h]
        exact bytes _ (by omega)
      · rw [locKey_c _ h, locKey_c _ h]
        exact bytes _ (by omega)
      · rw [locKey_w, locKey_w]
        exact bytes _ (by omega)
  case one =>
    have run := contextSwitch_of_one hc hi hg
    obtain ⟨k, there⟩ := slotAt_pointAt s slot sel.val
    refine ⟨s.pointAt slot sel.val, run, images_pointAt .., fun m hm => slotAt_pointAt_of_ne s slot _ hm, ?_, ?_, fun hne => ?_, pointAt_eq ..⟩
    · rw [imageKey_pointAt, Nat.mod_eq_of_lt sel.isLt]
    · rw [there]
      exact live_of_standsStill (standsStill_of_canSwitch hc)
    · intro x r y z
      obtain ⟨comes, leaves⟩ := pointAt_exchanges hne
      have hx : x = _ := there
      have hz : z = y.residue := leaves
      rw [comes] at hx
      rw [hx, hz]
      exact ⟨rfl, rfl, rfl, rfl, rfl, wait_withdraw y, rfl, rfl, rfl, rfl⟩
  case group =>
    intro ms able
    have run := contextSwitch_of_group hc hi hg
    refine ⟨fun hn => ?_, fun ha nodup => ?_⟩
    · rw [run, switchGroup_of_not_able fun k => hn (groupAble_iff.mp k)]
    · rw [switchGroup_of_able (groupAble_iff.mpr ha)] at run
      refine ⟨_, run, images_pointAll .., fun m hm => imageKey_pointAll nodup _ hm, fun n hn => slotAt_pointAll hn _, fun x hx hnum => ?_⟩
      have launches := launches_pointAll ms (s.setGroup h (s.switched g ms))
      have same : (((s.setGroup h (s.switched g ms)).pointAll ms).launchAt h) = (s.launchAt h).setGroup (s.switched g ms) := by
        unfold State.launchAt
        rw [launches]
        exact State.launchAt_setLaunch ..
      have member : x = s.switched g ms := mem_groups_setGroup (same ▸ hx) (hnum.trans (num_switched (s := s) g ms).symm)
      rw [member]
      rfl

end Sys2Proof.Machine
end

section
/-! What Put leaves of a number (05 R100), and what the sums, bitwise instructions, shifts, products and quotients of 05 R103 to R109
write. -/
namespace Sys2Proof.Machine
open Sys2Proof

/-! ## Put (05 R100) -/

theorem bits_pos (w : Width) : 0 < w.bits := by cases w <;> decide

/-- The word that Put writes, read as two's complement, is the number's balanced residue. -/
theorem toInt_putWord (w : Width) (v : Int) : (putWord w v).toInt = v.bmod (2 ^ w.bits) := by
  rw [putWord_eq, BitVec.toInt_signExtend_of_le (bits_le w), BitVec.toInt_ofInt]

theorem sub_toInt_putWord_emod (w : Width) (v : Int) : (v - (putWord w v).toInt) % 2 ^ w.bits = 0 := by
  rw [toInt_putWord, Int.bmod_eq_self_sub_mul_bdiv, sub_sub_cancel, Nat.cast_pow, Nat.cast_ofNat, Int.mul_emod_right]

theorem toInt_putWord_bounds (w : Width) (v : Int) :
    -(2 ^ (w.bits - 1)) ≤ (putWord w v).toInt ∧ (putWord w v).toInt < 2 ^ (w.bits - 1) := by
  rw [putWord_eq, BitVec.toInt_signExtend_of_le (bits_le w)]
  exact ⟨BitVec.le_toInt _, BitVec.toInt_lt⟩

/-- Put of a natural number writes its low bits, sign-extended. -/
theorem putWord_natCast (w : Width) (n : Nat) : putWord w n = (BitVec.ofNat w.bits n).signExtend 64 := by
  rw [putWord_eq, BitVec.ofInt_natCast]

/-- Settles O1: Put as a sign extension of the low bits, which the operands read. -/
theorem putNarrowsAndSignExtends : Obligations.PutNarrowsAndSignExtends := by
  unfold Obligations.PutNarrowsAndSignExtends
  intro w v x
  obtain ⟨low, high⟩ := toInt_putWord_bounds w v
  exact ⟨sub_toInt_putWord_emod w v, low, high, fun _ => getLsbD_putWord v, uval_eq w x, sval_eq w x, rfl, rfl⟩

/-! ## Instructions that write one register -/

/-- An instruction of the scalar set whose value has another form. -/
theorem gives_scalar_of_eq {i : Instr} {s : State} {len : Nat} {d : Reg} {x : State → Word} {v : Word} (hv : x s = v)
    (hx : exec i s = writes i len s d x) (hu : unitOf i = .scalar) (hl : s.lateField i = none) (hp : s.privFault i = none)
    (hr : s.reveals i = false) : Gives i len d v s :=
  hv ▸ gives_scalar hx hu hl hp hr

/-! ## Sums (05 R103) -/

theorem uval_lt (w : Width) (x : Word) : uval w x < 2 ^ w.bits := Nat.mod_lt _ (Nat.two_pow_pos _)

/-- An unsigned sum can only pass the upper bound. -/
theorem satTo_false_add (w : Width) (x y : Word) :
    satTo false w (xval false w x + xval false w y) = min ((uval w x : Int) + uval w y) (2 ^ w.bits - 1) := by
  have bound : (0 : Int) < 2 ^ w.bits := by positivity
  show max 0 (min ((uval w x : Int) + uval w y) (2 ^ w.bits - 1)) = _
  omega

/-- An unsigned difference can only pass zero. -/
theorem satTo_false_sub (w : Width) (x y : Word) :
    satTo false w (xval false w x - xval false w y) = max 0 ((uval w x : Int) - uval w y) := by
  have bound : (uval w x : Int) < 2 ^ w.bits := by exact_mod_cast uval_lt w x
  show max 0 (min ((uval w x : Int) - uval w y) (2 ^ w.bits - 1)) = _
  omega

/-- Settles O2: the operands' sums as the instructions compute them, and the saturated ones by the bound that they can pass. -/
theorem sumsAndSaturatedSums : Obligations.SumsAndSaturatedSums := by
  unfold Obligations.SumsAndSaturatedSums
  intro w d a b c imm s
  refine ⟨?add, ?addi, ?sub, ?madd, ?addsSigned, ?adds, ?subsSigned, ?subs⟩
  case add =>
    exact gives_scalar_of_eq (x := fun s => putWord w (uval w (s.g a) + uval w (s.g b) : Nat))
      (congrArg _ (Nat.cast_add ..)) rfl rfl rfl rfl rfl
  case addi =>
    exact gives_scalar_of_eq (x := fun s => putWord w (uval w (s.g a) + uval w (immWord imm) : Nat))
      (congrArg _ (Nat.cast_add ..)) rfl rfl rfl rfl rfl
  case sub =>
    exact gives_scalar (x := fun s => putWord w ((uval w (s.g a) : Int) - uval w (s.g b))) rfl rfl rfl rfl rfl
  case madd =>
    refine gives_scalar_of_eq (x := fun s => putWord w (uval w (s.g a) * uval w (s.g b) + uval w (s.g c) : Nat))
      (congrArg _ ?_) rfl rfl rfl rfl rfl
    push_cast
    rfl
  case addsSigned =>
    exact gives_scalar (x := fun s => putWord w (satTo true w (xval true w (s.g a) + xval true w (s.g b)))) rfl rfl rfl rfl rfl
  case adds =>
    exact gives_scalar_of_eq (x := fun s => putWord w (satTo false w (xval false w (s.g a) + xval false w (s.g b))))
      (congrArg _ (satTo_false_add ..)) rfl rfl rfl rfl rfl
  case subsSigned =>
    exact gives_scalar (x := fun s => putWord w (satTo true w (xval true w (s.g a) - xval true w (s.g b)))) rfl rfl rfl rfl rfl
  case subs =>
    exact gives_scalar_of_eq (x := fun s => putWord w (satTo false w (xval false w (s.g a) - xval false w (s.g b))))
      (congrArg _ (satTo_false_sub ..)) rfl rfl rfl rfl rfl

/-! ## Bits, shifts and rotations (05 R103, R105) -/

section
variable (w : Width) (x y : Word)

theorem putWord_and : putWord w (uval w x &&& uval w y : Nat) = ((x &&& y).setWidth w.bits).signExtend 64 := by
  rw [putWord_natCast, uval_eq, uval_eq, ← BitVec.toNat_and, BitVec.ofNat_toNat, BitVec.setWidth_eq, BitVec.setWidth_and]

theorem putWord_or : putWord w (uval w x ||| uval w y : Nat) = ((x ||| y).setWidth w.bits).signExtend 64 := by
  rw [putWord_natCast, uval_eq, uval_eq, ← BitVec.toNat_or, BitVec.ofNat_toNat, BitVec.setWidth_eq, BitVec.setWidth_or]

theorem putWord_xor : putWord w (uval w x ^^^ uval w y : Nat) = ((x ^^^ y).setWidth w.bits).signExtend 64 := by
  rw [putWord_natCast, uval_eq, uval_eq, ← BitVec.toNat_xor, BitVec.ofNat_toNat, BitVec.setWidth_eq, BitVec.setWidth_xor]

/-- A logical right shift by the width or more leaves nothing, which the quotient says by itself. -/
theorem shrValue_false (n : Nat) : shrValue false w x n = uval w x / 2 ^ n := by
  rw [shrValue, if_neg Bool.false_ne_true]
  split
  · next h =>
    have small : uval w x < 2 ^ n := (uval_lt w x).trans_le (Nat.pow_le_pow_right Nat.two_pos h)
    exact (Int.ediv_eq_zero_of_lt (Int.natCast_nonneg _) (by exact_mod_cast small)).symm
  · push_cast
    rfl

theorem rotValue_left (n : Nat) :
    rotValue false w x n = (((x.setWidth w.bits).rotateLeft (n % w.bits)).toNat : Nat) := by
  have fits : uval w x / 2 ^ (w.bits - n % w.bits) < 2 ^ w.bits := (Nat.div_le_self ..).trans_lt (uval_lt w x)
  rw [rotValue, if_neg Bool.false_ne_true, BitVec.toNat_rotateLeft, ← uval_eq, Nat.mod_mod, Nat.shiftLeft_eq,
    Nat.shiftRight_eq_div_pow, Nat.or_mod_two_pow, Nat.mod_eq_of_lt fits]

theorem rotValue_right (n : Nat) :
    rotValue true w x n = (((x.setWidth w.bits).rotateRight (n % w.bits)).toNat : Nat) := by
  have below : n % w.bits < w.bits := Nat.mod_lt _ (bits_pos w)
  have fits : uval w x / 2 ^ (n % w.bits) < 2 ^ w.bits := (Nat.div_le_self ..).trans_lt (uval_lt w x)
  rw [rotValue, if_pos rfl, BitVec.toNat_rotateRight, ← uval_eq, Nat.mod_mod, Nat.shiftLeft_eq, Nat.shiftRight_eq_div_pow]
  generalize n % w.bits = r at below fits
  rcases Nat.eq_zero_or_pos r with rfl | pos
  · rw [Nat.sub_zero, Nat.mod_self, Nat.sub_zero, pow_zero, Nat.mul_one, Nat.div_one, Nat.div_eq_of_lt (uval_lt w x), Nat.or_zero,
      Nat.mul_mod_left, Nat.or_zero, Nat.mod_eq_of_lt (uval_lt w x)]
  · rw [Nat.mod_eq_of_lt (show w.bits - r < w.bits by omega), Nat.sub_sub_self below.le, Nat.or_mod_two_pow, Nat.mod_eq_of_lt fits,
      Nat.or_comm]

/-- Put of a word of the width sign-extends it. -/
theorem putWord_toNat (y : BitVec w.bits) : putWord w y.toNat = y.signExtend 64 := by
  rw [putWord_natCast, BitVec.ofNat_toNat, BitVec.setWidth_eq]

end

/-- Settles O3: each value by the low bits as a bit vector, or by the exact product or quotient by a power of two. -/
theorem bitwiseAndShifts : Obligations.BitwiseAndShifts := by
  unfold Obligations.BitwiseAndShifts
  intro w d a b imm n s
  refine ⟨?and, ?andi, ?or, ?ori, ?xor, ?xori, ?andn, ?shl, ?shli, ?shr, ?shri, ?sar, ?sari, ?rotLeft, ?rotRight⟩
  case and =>
    exact gives_scalar_of_eq (x := fun s => putWord w (uval w (s.g a) &&& uval w (s.g b) : Nat)) (putWord_and ..) rfl rfl rfl rfl rfl
  case andi =>
    exact gives_scalar_of_eq (x := fun s => putWord w (uval w (s.g a) &&& uval w (immWord imm) : Nat)) (putWord_and ..)
      rfl rfl rfl rfl rfl
  case or =>
    exact gives_scalar_of_eq (x := fun s => putWord w (uval w (s.g a) ||| uval w (s.g b) : Nat)) (putWord_or ..) rfl rfl rfl rfl rfl
  case ori =>
    exact gives_scalar_of_eq (x := fun s => putWord w (uval w (s.g a) ||| uval w (immWord imm) : Nat)) (putWord_or ..)
      rfl rfl rfl rfl rfl
  case xor =>
    exact gives_scalar_of_eq (x := fun s => putWord w (uval w (s.g a) ^^^ uval w (s.g b) : Nat)) (putWord_xor ..) rfl rfl rfl rfl rfl
  case xori =>
    exact gives_scalar_of_eq (x := fun s => putWord w (uval w (s.g a) ^^^ uval w (immWord imm) : Nat)) (putWord_xor ..)
      rfl rfl rfl rfl rfl
  case andn =>
    exact gives_scalar_of_eq (x := fun s => putWord w (uval w (s.g a) &&& uval w (~~~(s.g b)) : Nat)) (putWord_and ..)
      rfl rfl rfl rfl rfl
  case shl => exact gives_scalar (x := fun s => putWord w (shlValue w (s.g a) (s.g b).toNat)) rfl rfl rfl rfl rfl
  case shli => exact gives_scalar (x := fun s => putWord w (shlValue w (s.g a) n.val)) rfl rfl rfl rfl rfl
  case shr =>
    exact gives_scalar_of_eq (x := fun s => putWord w (shrValue false w (s.g a) (s.g b).toNat)) (congrArg _ (shrValue_false ..))
      rfl rfl rfl rfl rfl
  case shri =>
    exact gives_scalar_of_eq (x := fun s => putWord w (shrValue false w (s.g a) n.val)) (congrArg _ (shrValue_false ..))
      rfl rfl rfl rfl rfl
  case sar => exact gives_scalar (x := fun s => putWord w (shrValue true w (s.g a) (s.g b).toNat)) rfl rfl rfl rfl rfl
  case sari => exact gives_scalar (x := fun s => putWord w (shrValue true w (s.g a) n.val)) rfl rfl rfl rfl rfl
  case rotLeft =>
    exact gives_scalar_of_eq (x := fun s => putWord w (rotValue false w (s.g a) (s.g b).toNat))
      ((congrArg _ (rotValue_left ..)).trans (putWord_toNat ..)) rfl rfl rfl rfl rfl
  case rotRight =>
    exact gives_scalar_of_eq (x := fun s => putWord w (rotValue true w (s.g a) (s.g b).toNat))
      ((congrArg _ (rotValue_right ..)).trans (putWord_toNat ..)) rfl rfl rfl rfl rfl

/-! ## Products and quotients (05 R104, R106) -/

theorem gives_mul (w : Width) (f : MulForm) (d a b : Reg) (s : State) :
    Gives (.mul w f d a b) 8 d (putWord w (mulValue f w (s.g a) (s.g b))) s :=
  gives_scalar (x := fun s => putWord w (mulValue f w (s.g a) (s.g b))) rfl rfl rfl rfl rfl

/-- X(x) is zero only where the low bits are. -/
theorem xval_ne_zero {sg : Bool} {w : Width} {x : Word} (h : uval w x ≠ 0) : xval sg w x ≠ 0 := by
  have bound : (uval w x : Int) < 2 ^ w.bits := by exact_mod_cast uval_lt w x
  cases sg
  · exact Int.natCast_ne_zero.2 h
  · rw [xval, if_pos rfl, sval]
    split
    · exact Int.natCast_ne_zero.2 h
    · omega

/-- The remainder of a quotient rounded toward zero is smaller than the divisor and of the dividend's sign, or zero. -/
theorem tmod_spec (x : Int) {y : Int} (hy : y ≠ 0) : (x.tmod y).natAbs < y.natAbs ∧ (x.tmod y = 0 ∨ (0 < x.tmod y ↔ 0 < x)) := by
  refine ⟨?_, ?_⟩
  · rw [Int.natAbs_tmod]
    exact Nat.mod_lt _ (Int.natAbs_pos.2 hy)
  · have sign := Int.sign_tmod x y
    split at sign
    · exact .inl (Int.sign_eq_zero_iff_zero.1 sign)
    · right
      rw [← Int.sign_eq_one_iff_pos, sign, Int.sign_eq_one_iff_pos]

theorem exec_div (w : Width) (sg : Bool) (d a b : Reg) (s : State) :
    exec (.div w sg d a b) s = issue (.div w sg d a b) s fun s =>
      if uval w (s.g b) = 0 then divZero s 0 a
      else (s.putD w d (truncDiv (xval sg w (s.g a)) (xval sg w (s.g b)))).retire 8 := rfl
theorem exec_rem (w : Width) (sg : Bool) (d a b : Reg) (s : State) :
    exec (.rem w sg d a b) s = issue (.rem w sg d a b) s fun s =>
      if uval w (s.g b) = 0 then divZero s 1 a
      else (s.putD w d (xval sg w (s.g a) - xval sg w (s.g b) * truncDiv (xval sg w (s.g a)) (xval sg w (s.g b)))).retire 8 := rfl

/-- A cause that EFFEN does not enable is no effect (12 R239). -/
theorem effectTarget_of_disabled {s : State} {n cause : Nat} (h : bit (s.img n).effen cause = false) :
    s.effectTarget n cause = none := by
  rw [State.effectTarget]
  refine if_neg fun ⟨_, enabled, _⟩ => ?_
  rw [h] at enabled
  exact Bool.false_ne_true enabled

/-- Raised at the issuing instruction, a cause that is no effect and none of a boundary traps. -/
theorem raiseHere_of_disabled {s : State} {cause : Nat} (h : bit (s.img s.cur).effen cause = false) (hb : isBoundary cause = false)
    (sub : Nat) (v : Word) (len : Nat) : s.raiseHere cause sub v len = s.trap cause sub v := by
  rw [State.raiseHere, State.raiseCause, effectTarget_of_disabled h, hb]
  rfl

section
variable (w : Width) (sg : Bool) (d a b : Reg) {s : State}

theorem gives_div (h : uval w (s.g b) ≠ 0) :
    Gives (.div w sg d a b) 8 d (putWord w ((xval sg w (s.g a)).tdiv (xval sg w (s.g b)))) s :=
  acts_of_write (exec_div w sg d a b s) (issueFault_access rfl rfl rfl rfl) (if_neg h) rfl rfl

theorem gives_rem (h : uval w (s.g b) ≠ 0) :
    Gives (.rem w sg d a b) 8 d (putWord w ((xval sg w (s.g a)).tmod (xval sg w (s.g b)))) s := by
  rw [Int.tmod_def]
  exact acts_of_write (exec_rem w sg d a b s) (issueFault_access rfl rfl rfl rfl) (if_neg h) rfl rfl

variable (h : uval w (s.g b) = 0) (he : bit (s.img s.cur).effen 0x10 = false)
include h he

theorem trapsOn_div : TrapsOn (.div w sg d a b) 0x10 0 (s.g a) s :=
  trapsOn_of_body (exec_div w sg d a b s) (issueFault_access rfl rfl rfl rfl) ((if_pos h).trans (raiseHere_of_disabled he rfl ..))

theorem trapsOn_rem : TrapsOn (.rem w sg d a b) 0x10 1 (s.g a) s :=
  trapsOn_of_body (exec_rem w sg d a b s) (issueFault_access rfl rfl rfl rfl) ((if_pos h).trans (raiseHere_of_disabled he rfl ..))

end

/-- Settles O4: the products as MUL computes them, the quotient and remainder as those that truncate, and the trap of a zero divisor
as a cause that is no effect. -/
theorem productsAndQuotients : Obligations.ProductsAndQuotients := by
  unfold Obligations.ProductsAndQuotients
  intro w sg d a b s
  refine ⟨gives_mul w .lo d a b s, gives_mul w .hs d a b s, gives_mul w .hu d a b s, gives_mul w .hsu d a b s, fun h => ?_,
    fun h he => ⟨trapsOn_div w sg d a b h he, trapsOn_rem w sg d a b h he⟩⟩
  obtain ⟨small, sign⟩ := tmod_spec (xval sg w (s.g a)) (xval_ne_zero (sg := sg) h)
  exact ⟨_, _, (Int.mul_tdiv_add_tmod ..).symm, small, sign, gives_div w sg d a b h, gives_rem w sg d a b h⟩

end Sys2Proof.Machine
end

section
/-! Accesses to the own stores at their issue: Resolve, what an access performs at its store, and what it leaves of poisoned words (07 R139, R159;
13 R266). -/
namespace Sys2Proof.Machine
open Sys2Proof

/-! ## Resolving an address of an own store -/

/-- May the issuing slot name a store as its own: its core's G store, or on an ordinary core its tile's buffers (07 R136)? -/
def State.NamesOwn (s : State) (sp : SP) : Prop := sp = .g ∨ (isOrdinary s.cur = true ∧ (sp = .a ∨ sp = .c ∨ sp = .w))

namespace State.NamesOwn
variable {s : State} {sp : SP} (h : s.NamesOwn sp)
include h

/-- What holds of each of the own stores holds of the one that is named. -/
theorem elim {p : SP → Prop} (hg : p .g) (ha : p .a) (hc : p .c) (hw : p .w) : p sp := by
  rcases h with rfl | ⟨-, rfl | rfl | rfl⟩
  · exact hg
  · exact ha
  · exact hc
  · exact hw

theorem ne_glob : sp ≠ .glob := h.elim (p := (· ≠ .glob)) nofun nofun nofun nofun
theorem ne_ctx : sp ≠ .ctx := h.elim (p := (· ≠ .ctx)) nofun nofun nofun nofun

/-- The bounds of the stores that a slot has of its own (07 R139). -/
theorem aliasSize_eq : aliasSize sp = if sp = .g then 0x70000 else if sp = .a then 0x200000 else 0x100000 :=
  h.elim (p := fun sp => aliasSize sp = if sp = .g then 0x70000 else if sp = .a then 0x200000 else 0x100000) rfl rfl rfl rfl

theorem aliasLoc_eq (x : Word) : s.aliasLoc sp x = ⟨sp, if sp = .g then coreOf s.cur else tileOf s.cur, x.toNat⟩ :=
  h.elim (p := fun sp => s.aliasLoc sp x = ⟨sp, if sp = .g then coreOf s.cur else tileOf s.cur, x.toNat⟩) rfl rfl rfl rfl

/-- An aligned access within the space's bound resolves to the own store, whatever its kind but a counted store (07 R139). -/
theorem resolve {k : MemKind} {x : Word} {n al : Nat} (hc : k ≠ .counted) (hk : kindAllowed k sp = true)
    (hb : x.toNat + n ≤ aliasSize sp) (ha : x.toNat % al = 0) : s.resolve k sp x n al = .ok (s.aliasLoc sp x) := by
  have bound : ¬ aliasSize sp < x.toNat + n := Nat.not_lt.2 hb
  rcases h with rfl | ⟨ho, rfl | rfl | rfl⟩
  · simp [State.resolve, State.aliasLoc, hc, hk, bound, ha, bind, Except.bind, pure, Except.pure]
  all_goals simp [State.resolve, State.aliasLoc, ho, hc, hk, bound, ha, bind, Except.bind, pure, Except.pure]

end State.NamesOwn

/-! ## Widths in bytes -/

/-- The bytes of a width make up its bits. -/
theorem pow_bytes (w : Width) : 256 ^ (w.bits / 8) = 2 ^ w.bits := by cases w <;> rfl
theorem eight_mul_bytes (w : Width) : 8 * (w.bits / 8) = w.bits := by cases w <;> rfl
theorem widthOfBytes_bytes (w : Width) : widthOfBytes (w.bits / 8) = w := by cases w <;> rfl

theorem loadNat_lt (m : List Host.Cell) (a n : Nat) : loadNat m a n < 256 ^ n := by
  induction n generalizing a with
  | zero => exact Nat.one_pos
  | succ n ih =>
    have byte : (byteAt m a).toNat < 256 := (byteAt m a).isLt
    have rest := ih (a + 1)
    rw [loadNat, Nat.pow_succ]
    omega

theorem read_lt (s : State) (l : Loc) (w : Width) : s.read l (w.bits / 8) < 2 ^ w.bits := by
  rw [← pow_bytes]
  exact loadNat_lt ..

/-- A store takes the low bytes of its number only. -/
theorem storeNat_mod (m : List Host.Cell) (a n x : Nat) : storeNat m a n (x % 256 ^ n) = storeNat m a n x := by
  induction n generalizing m a x with
  | zero => rfl
  | succ n ih =>
    have byte : BitVec.ofNat 8 (x % 256 ^ (n + 1)) = BitVec.ofNat 8 x := by
      refine BitVec.eq_of_toNat_eq ?_
      rw [BitVec.toNat_ofNat, BitVec.toNat_ofNat, Nat.pow_succ']
      exact Nat.mod_mul_right_mod ..
    rw [storeNat, storeNat, byte, Nat.pow_succ', Nat.mod_mul_right_div_self, ih]

theorem storeNat_uval (m : List Host.Cell) (a : Nat) (w : Width) (x : Word) :
    storeNat m a (w.bits / 8) (uval w x) = storeNat m a (w.bits / 8) x.toNat := by
  rw [uval, ← pow_bytes, storeNat_mod]

/-- The value of a load's element k of a width (07 R159). -/
def State.valueAt (s : State) (w : Width) (sg : Bool) (l : Loc) (k : Nat) : Word :=
  let x := s.read { l with off := l.off + k * (w.bits / 8) } (w.bits / 8)
  if sg then sextBits w.bits x else word x

/-- A loaded element is within its width already. -/
theorem extend_read (s : State) (w : Width) (sg : Bool) (l : Loc) (k : Nat) :
    extend sg (8 * (w.bits / 8)) (s.read { l with off := l.off + k * (w.bits / 8) } (w.bits / 8)) = s.valueAt w sg l k := by
  rw [extend, eight_mul_bytes, Nat.mod_eq_of_lt (read_lt ..)]
  rfl

/-! ## Performing an access -/

section
variable {s : State} {n : Nat} {a : Access}

theorem perform_load {w : Width} {sg : Bool} (ha : a.op = .load sg) (hb : a.bytes = w.bits / 8) (hx : a.loc.sp ≠ .ctx)
    (hp : s.poisoned a.loc (a.bytes * a.count) = false) :
    s.perform n a = (.done ((List.range a.count).map (s.valueAt w sg a.loc)), s) := by
  have value (i : Nat) : extend sg (8 * a.bytes) (s.readElem (a.elem i) a.bytes) = s.valueAt w sg a.loc i := by
    rw [State.readElem, if_neg (show (a.elem i).sp ≠ .ctx from hx), Access.elem, hb]
    exact extend_read ..
  simp only [State.perform, ha, hp, Bool.and_false, Bool.false_eq_true, if_false, value]

theorem perform_store (ha : a.op = .store) : s.perform n a = (.done [], s.storeElems n a) := by
  simp only [State.perform, ha, AccessOp.reads, Bool.false_and, Bool.false_eq_true, if_false]

end

/-! ## Poison that a store leaves (13 R266) -/

/-- Only the words that are covered whole are whole again. -/
theorem mem_poison_unpoison (s : State) (l : Loc) (n k : Nat) :
    k ∈ (s.unpoison l n).poison ↔ k ∈ s.poison ∧ ¬ (l.markKey ≤ k ∧ k + 8 ≤ l.markKey + n) := by
  unfold State.unpoison
  split
  · next h => simp [h]
  · rw [List.mem_filter, Bool.not_eq_true', ← Bool.not_eq_true, Bool.and_eq_true, decide_eq_true_iff, decide_eq_true_iff]

theorem markKey_eq {l : Loc} (h : l.sp ≠ .ctx) : l.markKey = l.key := by
  unfold Loc.markKey
  split
  · next hc => exact absurd hc h
  · rfl

/-- The keys of a store follow its offsets. -/
theorem key_off_add (l : Loc) (j : Nat) : ({ l with off := l.off + j } : Loc).key = l.key + j := by
  obtain ⟨sp, unit, off⟩ := l
  cases sp
  case dram => rfl
  all_goals exact (Nat.add_assoc ..).symm

theorem mem_poison_writeElem {s : State} {n : Nat} {l : Loc} (h : l.sp ≠ .ctx) (e x k : Nat) :
    k ∈ (s.writeElem n l e x).poison ↔ k ∈ s.poison ∧ ¬ (l.key ≤ k ∧ k + 8 ≤ l.key + e) := by
  rw [State.writeElem, if_neg h, mem_poison_unpoison, markKey_eq h]
  rfl

/-- A store drops exactly the poisoned words that it covers whole: each of its elements lies within it. -/
theorem mem_poison_storeElems {s : State} {n : Nat} {a : Access} (h : a.loc.sp ≠ .ctx) (k : Nat) :
    k ∈ (s.storeElems n a).poison ↔ k ∈ s.poison ∧ ¬ (a.loc.key ≤ k ∧ k + 8 ≤ a.loc.key + a.bytes * a.count) := by
  rw [State.storeElems, mem_poison_unpoison, markKey_eq h]
  refine and_congr_left fun outside => ?_
  refine List.foldlRecOn (motive := fun t : State => k ∈ t.poison ↔ k ∈ s.poison) _ _ Iff.rfl fun t ht i hi => ?_
  have within : i * a.bytes + a.bytes ≤ a.bytes * a.count := by
    rw [← Nat.succ_mul, Nat.mul_comm]
    exact Nat.mul_le_mul_left _ (List.mem_range.1 hi)
  rw [mem_poison_writeElem (l := a.elem i) h, Access.elem, key_off_add, ht]
  exact and_iff_left fun ⟨low, high⟩ => outside ⟨by omega, by omega⟩

/-! ## An access to an own store in the frame -/

/-- An access to an own store that no race stops and that waits for no tag ends with its values in the registers. -/
theorem aliasAccess_of_done {s u : State} {a : Access} {vals : List Word}
    (hc : a.op.checked = false ∨ (s.launchOf s.cur).isChecked = false ∨ s.rangesOf a.loc = []) (ht : a.op.tagOp = none)
    (hs : a.op.stallOf a.count = 0) (hp : s.perform s.cur a = (.done vals, u)) :
    s.aliasAccess a = (u.putReply s.cur a.reg vals).retire 8 := by
  have check : (if a.op.checked then s.raceCheck s.cur a.loc (a.bytes * a.count) (a.op = .store) else .ok s) = .ok s := by
    rcases hc with hc | hc
    · rw [hc, if_neg Bool.false_ne_true]
    · rw [raceCheck_of_unchecked hc, ite_self]
  simp only [State.aliasAccess, check, ht, hp, hs, State.stall, if_true]

/-- An instruction whose access to an own store is performed: the values go to the registers, and the stores are as the access leaves them. -/
theorem acts_of_alias {i : Instr} {s u : State} {body : State → State} {k : MemKind} {sp : SP} {x : Word} {op : AccessOp}
    {bytes count : Nat} {reg : Reg} {data vals : List Word} {l : Loc} (hx : exec i s = issue i s body) (hi : s.issueFault i = none)
    (hb : body s = s.memory k sp x op bytes count reg data) (hr : s.resolve k sp x (bytes * count) bytes = .ok l) (hg : sp ≠ .glob)
    (hc : op.checked = false ∨ (s.launchOf s.cur).isChecked = false ∨ s.rangesOf l = [])
    (ht : op.tagOp = none) (hs : op.stallOf count = 0)
    (hp : s.perform s.cur ⟨op, bytes, count, reg, data, x, l⟩ = (.done vals, u)) (hu : OnlyBytes s u) :
    Acts i 8 ((List.range vals.length).foldl (fun im j => im.withG (regPlus reg j) (vals.getD j 0)) (s.img s.cur)) u s := by
  have ran : body s = (u.putReply s.cur reg vals).retire 8 := by
    rw [hb, State.memory, hr]
    exact (if_neg hg).trans (aliasAccess_of_done hc ht hs hp)
  have cur : u.cur = s.cur := by rw [hu]
  have image : u.img s.cur = s.img s.cur := by rw [hu]; rfl
  obtain ⟨only, slot, written⟩ := onlySlot_putReply u s.cur ⟨op, bytes, count, reg, data, x, l⟩ vals
  refine ⟨_, (hx.trans (issue_ok hi)).trans (congrArg _ ran), ?_⟩
  rw [State.retire, (OnlySlot.cur only).trans cur, ← image]
  exact retires_of only slot written

/-! ## Loads and stores -/

/-! The loads and stores that name an own store pass the frame's checks: of the stores only CONTEXT needs a level (13 R253). -/

section
variable {s : State} {sp : SP} (h : s.NamesOwn sp) (w : Width) (sg : Bool) (o : Ord) (d : Reg) (m : Addr)
include h

theorem State.NamesOwn.issueFault_ld : s.issueFault (.ld w sg o sp d m) = none :=
  issueFault_access rfl rfl (h.elim (p := fun sp => s.privFault (.ld w sg o sp d m) = none) rfl rfl rfl rfl) rfl
theorem State.NamesOwn.issueFault_ldm : s.issueFault (.ldm w sg o sp d m) = none :=
  issueFault_access rfl rfl (h.elim (p := fun sp => s.privFault (.ldm w sg o sp d m) = none) rfl rfl rfl rfl) rfl
theorem State.NamesOwn.issueFault_st : s.issueFault (.st w o sp d m) = none :=
  issueFault_access rfl rfl (h.elim (p := fun sp => s.privFault (.st w o sp d m) = none) rfl rfl rfl rfl) rfl
theorem State.NamesOwn.issueFault_stm : s.issueFault (.stm w o sp d m) = none :=
  issueFault_access rfl rfl (h.elim (p := fun sp => s.privFault (.stm w o sp d m) = none) rfl rfl rfl rfl) rfl

end

section
variable (w : Width) (sg : Bool) (o : Ord) (d : Reg) {sp : SP} {m : Addr} {s : State} {l : Loc}
  (hn : s.NamesOwn sp) (ha : (s.effAddr m).toNat % (w.bits / 8) = 0) (hl : s.aliasLoc sp (s.effAddr m) = l)
  (hc : (s.launchOf s.cur).isChecked = false ∨ s.rangesOf l = [])
include hn ha hl hc

theorem acts_load {i : Instr} (count : Nat) (hi : s.issueFault i = none)
    (hx : exec i s = issue i s fun s => s.memory .plain sp (s.effAddr m) (.load sg) (w.bits / 8) count d [])
    (hb : (s.effAddr m).toNat + w.bits / 8 * count ≤ aliasSize sp) (hp : s.poisoned l (w.bits / 8 * count) = false) :
    let vals := (List.range count).map (s.valueAt w sg l)
    Acts i 8 ((List.range vals.length).foldl (fun im j => im.withG (regPlus d j) (vals.getD j 0)) (s.img s.cur)) s s := by
  subst hl
  exact acts_of_alias hx hi rfl (hn.resolve nofun rfl hb ha) hn.ne_glob (.inr hc) rfl rfl (perform_load rfl rfl hn.ne_ctx hp)
    (OnlyBytes.refl s)

theorem gives_ld (hb : (s.effAddr m).toNat + w.bits / 8 ≤ aliasSize sp) (hp : s.poisoned l (w.bits / 8) = false) :
    Gives (.ld w sg o sp d m) 8 d (s.valueAt w sg l 0) s := by
  rw [← Nat.mul_one (w.bits / 8)] at hb hp
  have acts := acts_load w sg d hn ha hl hc 1 (hn.issueFault_ld ..) (exec_ld w sg o sp d m s) hb hp
  have acts : Acts (.ld w sg o sp d m) 8 ((s.img s.cur).withG (regPlus d 0) (s.valueAt w sg l 0)) s s := acts
  rwa [regPlus_zero] at acts

theorem acts_ldm (hb : (s.effAddr m).toNat + w.bits / 8 * 4 ≤ aliasSize sp) (hp : s.poisoned l (w.bits / 8 * 4) = false) :
    Acts (.ldm w sg o sp d m) 8 (((((s.img s.cur).withG d (s.valueAt w sg l 0)).withG (regPlus d 1) (s.valueAt w sg l 1)).withG
      (regPlus d 2) (s.valueAt w sg l 2)).withG (regPlus d 3) (s.valueAt w sg l 3)) s s := by
  have acts := acts_load w sg d hn ha hl hc 4 (hn.issueFault_ldm ..) (exec_ldm w sg o sp d m s) hb hp
  have acts : Acts (.ldm w sg o sp d m) 8 (((((s.img s.cur).withG (regPlus d 0) (s.valueAt w sg l 0)).withG (regPlus d 1)
    (s.valueAt w sg l 1)).withG (regPlus d 2) (s.valueAt w sg l 2)).withG (regPlus d 3) (s.valueAt w sg l 3)) s s := acts
  rwa [regPlus_zero] at acts

theorem acts_store {i : Instr} (count : Nat) {body : State → State} {data : List Word} (hi : s.issueFault i = none)
    (hx : exec i s = issue i s body) (hs : body s = s.memory .plain sp (s.effAddr m) .store (w.bits / 8) count d data)
    (hb : (s.effAddr m).toNat + w.bits / 8 * count ≤ aliasSize sp) :
    ∃ u, Acts i 8 (s.img s.cur) u s ∧ (∀ k, k ∈ u.poison ↔ k ∈ s.poison ∧ ¬ (l.key ≤ k ∧ k + 8 ≤ l.key + w.bits / 8 * count))
      ∧ u = { s with
          mem := (List.range count).foldl (fun m k =>
            storeNat m ({ l with off := l.off + k * (w.bits / 8) } : Loc).key (w.bits / 8) (data.getD k 0).toNat) s.mem
          poison := u.poison } := by
  subst hl
  let a : Access := ⟨.store, w.bits / 8, count, d, data, s.effAddr m, s.aliasLoc sp (s.effAddr m)⟩
  have bytes : OnlyBytes s (s.storeElems s.cur a) := onlyBytes_storeElems s s.cur a hn.ne_ctx
  refine ⟨_, acts_of_alias hx hi hs (hn.resolve nofun rfl hb ha) hn.ne_glob (.inr hc) rfl rfl (perform_store rfl) bytes,
    mem_poison_storeElems (a := a) hn.ne_ctx, ?_⟩
  rw [OnlyBytes, storeElems_mem s s.cur a hn.ne_ctx] at bytes
  exact bytes

theorem acts_st (hb : (s.effAddr m).toNat + w.bits / 8 ≤ aliasSize sp) (ho : o ≠ .counted) :
    ∃ u, Acts (.st w o sp d m) 8 (s.img s.cur) u s
      ∧ (∀ k, k ∈ u.poison ↔ k ∈ s.poison ∧ ¬ (l.key ≤ k ∧ k + 8 ≤ l.key + w.bits / 8))
      ∧ u = { s with mem := storeNat s.mem l.key (w.bits / 8) (s.g (regPlus d 0)).toNat, poison := u.poison } := by
  rw [← Nat.mul_one (w.bits / 8)] at hb
  obtain ⟨u, acts, poison, bytes⟩ := acts_store w d hn ha hl hc 1 (hn.issueFault_st ..) (exec_st w o sp d m s)
    (if_neg ho) hb
  refine ⟨u, acts, fun k => by rw [poison, Nat.mul_one], bytes.trans ?_⟩
  rw [List.range_one, List.foldl_cons, List.foldl_nil, key_off_add, Nat.zero_mul, Nat.add_zero]
  rfl

theorem acts_stm (hb : (s.effAddr m).toNat + w.bits / 8 * 4 ≤ aliasSize sp) :
    let key := fun k : Nat => ({ l with off := l.off + k * (w.bits / 8) } : Loc).key
    let src := fun k : Nat => (s.g (regPlus d k)).toNat
    ∃ u, Acts (.stm w o sp d m) 8 (s.img s.cur) u s
      ∧ (∀ k, k ∈ u.poison ↔ k ∈ s.poison ∧ ¬ (l.key ≤ k ∧ k + 8 ≤ l.key + w.bits / 8 * 4))
      ∧ u = { s with
          mem := storeNat (storeNat (storeNat (storeNat s.mem (key 0) (w.bits / 8) (src 0)) (key 1) (w.bits / 8) (src 1)) (key 2)
            (w.bits / 8) (src 2)) (key 3) (w.bits / 8) (src 3)
          poison := u.poison } :=
  acts_store w d hn ha hl hc 4 (hn.issueFault_stm ..) (exec_stm w o sp d m s) rfl hb

end

/-- Settles O16: a load and a store of n elements as accesses to an own store that are performed. -/
theorem aliasLoadsAndStores : Obligations.AliasLoadsAndStores := by
  unfold Obligations.AliasLoadsAndStores
  intro w sg o sp d m s n reach size x e l el val src cleaned hn ha hc
  have hn : s.NamesOwn sp := hn
  have hl : s.aliasLoc sp (s.effAddr m) = l := hn.aliasLoc_eq x
  have bound : aliasSize sp = size sp := hn.aliasSize_eq
  rw [← bound, Nat.mul_comm 4]
  exact ⟨fun hb => ⟨gives_ld w sg o d hn ha hl hc hb, acts_st w o d hn ha hl hc hb⟩,
    fun hb => ⟨acts_ldm w sg o d hn ha hl hc hb, acts_stm w o d hn ha hl hc hb⟩⟩

end Sys2Proof.Machine
end

section
/-! AMO and CAS of the own G store, at their issue by GLOBAL, and at the owner (07 R149, R151, R163, R164). -/
namespace Sys2Proof.Machine
open Sys2Proof

/-! ## The operation's result (07 R163) -/

/-- What AMO stores for an old value of a width and an operand. -/
def atomicResult (op : Aop) (w : Width) (old : Nat) (y : Word) : Nat :=
  match op with
  | .add => (old + uval w y) % 2 ^ w.bits
  | .and => old &&& uval w y
  | .or => old ||| uval w y
  | .xor => old ^^^ uval w y
  | .min => if sval w (word old) ≤ sval w y then old else uval w y
  | .max => if sval w y ≤ sval w (word old) then old else uval w y
  | .minu => min old (uval w y)
  | .maxu => max old (uval w y)
  | .swap => uval w y

theorem toNat_word_of_lt {w : Width} {n : Nat} (h : n < 2 ^ w.bits) : (word n).toNat = n := by
  rw [word, BitVec.toNat_ofNat]
  exact Nat.mod_eq_of_lt (h.trans_le (Nat.pow_le_pow_right Nat.two_pos (bits_le w)))

theorem aopValue_word {w : Width} {old : Nat} (h : old < 2 ^ w.bits) (op : Aop) (y : Word) :
    aopValue op w (word old) y = atomicResult op w old y := by
  have low : uval w (word old) = old := by rw [uval, toNat_word_of_lt h, Nat.mod_eq_of_lt h]
  cases op
  case minu => rw [aopValue, low, atomicResult, min_def]
  case maxu => rw [aopValue, low, atomicResult, max_comm, max_def]
  case swap => rfl
  all_goals rw [aopValue, low, atomicResult]

/-! ## Performing an atomic -/

theorem onlyBytes_ite (s : State) (p : Prop) [Decidable p] (m : List Host.Cell) :
    OnlyBytes s (if p then { s with mem := m } else s) := by
  split
  · rfl
  · exact OnlyBytes.refl s

section
variable {s : State} {n : Nat} {a : Access} {w : Width} (hb : a.bytes = w.bits / 8)
  (hp : s.poisoned a.loc (w.bits / 8 * a.count) = false)
include hb hp

theorem perform_amo {op : Aop} (ha : a.op = .amo op) : s.perform n a =
    (.done [sextBits w.bits (s.read a.loc (w.bits / 8))],
      { s with mem := storeNat s.mem a.loc.key (w.bits / 8) (atomicResult op w (s.read a.loc (w.bits / 8)) (a.data.getD 0 0)) }) := by
  have small := read_lt s a.loc w
  simp only [State.perform, ha, hb, hp, widthOfBytes_bytes, toNat_word_of_lt small, aopValue_word small, Bool.and_false,
    Bool.false_eq_true, if_false]
  rfl

theorem perform_cas {x : Word} (ha : a.op = .cas x) : s.perform n a =
    (.done [sextBits w.bits (s.read a.loc (w.bits / 8))],
      if s.read a.loc (w.bits / 8) = uval w x then
        { s with mem := storeNat s.mem a.loc.key (w.bits / 8) (uval w (a.data.getD 0 0)) }
      else s) := by
  simp only [State.perform, ha, hb, hp, widthOfBytes_bytes, storeNat_uval, Bool.and_false, Bool.false_eq_true, if_false]
  rfl

end

/-! ## The frame -/

section
variable (w : Width) (o : Ord) (op : Aop) (sp : SP) (d a b : Reg) (off : BitVec 24) (s : State)

theorem exec_amo : exec (.amo w o op sp d a b off) s = issue (.amo w o op sp d a b off) s fun s =>
    s.memory .atomic sp (s.effAddrAB a off) (.amo op) (w.bits / 8) 1 d [s.g b] := rfl
theorem exec_cas : exec (.cas w o sp d a b off) s = issue (.cas w o sp d a b off) s fun s =>
    s.memory .atomic sp (s.effAddrAB a off) (.cas (s.g d)) (w.bits / 8) 1 d [s.g b] := rfl

variable {d op} in
/-- AMO reveals timing where its result is kept or the old value is exchanged (03 R423). -/
theorem reveals_amo : s.reveals (.amo w o op sp d a b off) = true ↔ d ≠ 0 ∨ op = .swap := by
  rw [State.reveals, Bool.or_eq_true, decide_eq_true_iff, decide_eq_true_iff]

variable {s} in
theorem unrevealed_amo (h : s.sealedHere = false ∨ (d = 0 ∧ op ≠ .swap)) :
    s.reveals (.amo w o op sp d a b off) = false ∨ s.sealedHere = false := by
  refine h.symm.imp_left fun ⟨hd, ho⟩ => ?_
  rw [← Bool.not_eq_true, reveals_amo]
  exact fun h => h.elim (absurd hd) ho

end

/-! ## Of the own G store -/

section
variable (w : Width) (o : Ord) (op : Aop) (d a b : Reg) (off : BitVec 24) {s : State}

theorem trapsOn_amo_sealed (hs : s.sealedHere = true) (hd : d ≠ 0 ∨ op = .swap) : TrapsOn (.amo w o op .g d a b off) 0x07 0 0 s :=
  trapsOn_of_issueFault (exec_amo w o op .g d a b off s)
    (issueFault_of_sealed rfl rfl (engineAllows_scalar _) ((reveals_amo ..).2 hd) hs)

theorem trapsOn_cas_sealed (hs : s.sealedHere = true) : TrapsOn (.cas w o .g d a b off) 0x07 0 0 s :=
  trapsOn_of_issueFault (exec_cas w o .g d a b off s) (issueFault_of_sealed rfl rfl (engineAllows_scalar _) rfl hs)

variable (ha : (s.effAddrAB a off).toNat % (w.bits / 8) = 0) (hb : (s.effAddrAB a off).toNat + w.bits / 8 ≤ 0x70000)
  (hp : s.poisoned (gLoc (coreOf s.cur) (s.effAddrAB a off).toNat) (w.bits / 8) = false)
include ha hb hp

theorem acts_amo (hs : s.sealedHere = false ∨ (d = 0 ∧ op ≠ .swap)) :
    let l := gLoc (coreOf s.cur) (s.effAddrAB a off).toNat
    Acts (.amo w o op .g d a b off) 8 ((s.img s.cur).withG d (sextBits w.bits (s.read l (w.bits / 8))))
      { s with mem := storeNat s.mem l.key (w.bits / 8) (atomicResult op w (s.read l (w.bits / 8)) (s.g b)) } s := by
  intro l
  rw [← Nat.mul_one (w.bits / 8)] at hb hp
  have clear := issueFault_eq_none rfl rfl (engineAllows_scalar _) (unrevealed_amo w o op .g d a b off hs)
  have resolved : s.resolve .atomic .g (s.effAddrAB a off) (w.bits / 8 * 1) (w.bits / 8) = .ok l :=
    State.NamesOwn.resolve (.inl rfl) nofun rfl hb ha
  have acts := acts_of_alias (exec_amo w o op .g d a b off s) clear rfl resolved nofun (.inl rfl) rfl rfl
    (perform_amo rfl hp rfl) rfl
  have acts : Acts (.amo w o op .g d a b off) 8 ((s.img s.cur).withG (regPlus d 0) (sextBits w.bits (s.read l (w.bits / 8)))) _ s := acts
  rwa [regPlus_zero] at acts

theorem acts_cas (hs : s.sealedHere = false) :
    let l := gLoc (coreOf s.cur) (s.effAddrAB a off).toNat
    Acts (.cas w o .g d a b off) 8 ((s.img s.cur).withG d (sextBits w.bits (s.read l (w.bits / 8))))
      (if s.read l (w.bits / 8) = uval w (s.g d) then
        { s with mem := storeNat s.mem l.key (w.bits / 8) (uval w (s.g b)) } else s) s := by
  intro l
  rw [← Nat.mul_one (w.bits / 8)] at hb hp
  have clear : s.issueFault (.cas w o .g d a b off) = none := issueFault_eq_none rfl rfl (engineAllows_scalar _) (.inr hs)
  have resolved : s.resolve .atomic .g (s.effAddrAB a off) (w.bits / 8 * 1) (w.bits / 8) = .ok l :=
    State.NamesOwn.resolve (.inl rfl) nofun rfl hb ha
  have acts := acts_of_alias (exec_cas w o .g d a b off s) clear rfl resolved nofun (.inl rfl) rfl rfl
    (perform_cas rfl hp rfl) (onlyBytes_ite ..)
  have acts : Acts (.cas w o .g d a b off) 8 ((s.img s.cur).withG (regPlus d 0) (sextBits w.bits (s.read l (w.bits / 8)))) _ s := acts
  rwa [regPlus_zero] at acts

end

/-! ## By GLOBAL -/

/-- An atomic at a location of a G store resolves to it (07 R139). -/
theorem resolve_atomic {s : State} {x : Word} {l : Loc} {n al : Nat} (hl : s.globalLoc x = .ok l) (hg : l.sp = .g)
    (hs : l.off + n ≤ spSize .g) (ha : x.toNat % al = 0) : s.resolve .atomic .glob x n al = .ok l := by
  simp [State.resolve, hl, hg, hs, ha, kindAllowed, bind, Except.bind, pure, Except.pure]

/-- A GLOBAL access that resolves blocks its thread (07 R138). -/
theorem memory_of_resolve {s : State} {k : MemKind} {x : Word} {op : AccessOp} {bytes count : Nat} {reg : Reg} {data : List Word}
    {l : Loc} (h : s.resolve k .glob x (bytes * count) bytes = .ok l) :
    s.memory k .glob x op bytes count reg data = s.block s.cur (.globalOut ⟨op, bytes, count, reg, data, x, l⟩ 0) := by
  rw [State.memory, h]
  rfl

section
variable (w : Width) (o : Ord) (op : Aop) (d a b : Reg) (off : BitVec 24) {s : State} {l : Loc}
  (hl : s.globalLoc (s.effAddrAB a off) = .ok l) (hg : l.sp = .g) (ha : (s.effAddrAB a off).toNat % (w.bits / 8) = 0)
  (hb : l.off + w.bits / 8 ≤ spSize .g)
include hl hg ha hb

theorem blocksOn_amo (hs : s.sealedHere = false ∨ (d = 0 ∧ op ≠ .swap)) : BlocksOn (.amo w o op .glob d a b off)
    (.globalOut ⟨.amo op, w.bits / 8, 1, d, [s.g b], s.effAddrAB a off, l⟩ 0) s s :=
  blocksOn_of_body (exec_amo w o op .glob d a b off s)
    (issueFault_eq_none rfl rfl (engineAllows_scalar _) (unrevealed_amo w o op .glob d a b off hs))
    (memory_of_resolve (resolve_atomic hl hg (by rwa [Nat.mul_one]) ha))

theorem blocksOn_cas (hs : s.sealedHere = false) : BlocksOn (.cas w o .glob d a b off)
    (.globalOut ⟨.cas (s.g d), w.bits / 8, 1, d, [s.g b], s.effAddrAB a off, l⟩ 0) s s :=
  blocksOn_of_body (exec_cas w o .glob d a b off s) (issueFault_eq_none rfl rfl (engineAllows_scalar _) (.inr hs))
    (memory_of_resolve (resolve_atomic hl hg (by rwa [Nat.mul_one]) ha))

end

/-! ## At the owner -/

/-- GLOBAL_REQUEST of an access that a window admits, that needs no race check and waits for no tag: the owner performs it at once and
leaves the reply under way. -/
theorem globalRequest_of_performed {s u : State} {k e : Nat} {q : Access} {edges : Nat} {r : Reply}
    (hw : (s.slotAt k).wait = some (.globalOut q edges)) (he : q.bytes = e)
    (hq : s.windowRefusal k q.loc (e * q.count) q.op.rights = none) (hc : q.op.checked = false) (ht : q.op.tagOp = none)
    (hp : (s.landAccepted q.loc (e * q.count)).perform k q = (r, u)) (hu : OnlyBytes (s.landAccepted q.loc (e * q.count)) u) :
    exec (.globalRequest k) s =
      .next (u.setSlot k { (s.landAccepted q.loc (e * q.count)).slotAt k with wait := some (.globalIn q r) }) := by
  subst he
  have punctual : s.requestLate k q = false := by rw [State.requestLate, ht]
  have unposted (v : State) : v.postsGlobal k q = false := by
    have other : q.op ≠ .store := fun h => by
      rw [h] at hc
      cases hc
    simp [State.postsGlobal, other]
  have same : u.slotAt k = (s.landAccepted q.loc (q.bytes * q.count)).slotAt k := by rw [hu]; rfl
  rw [globalRequest_runs hw punctual, takeStop_ownerServes (.inl ht), ownerServes_of_admitted edges hq, ← same]
  simp only [State.ownerTakes, hc, ht, hp, unposted, Bool.false_eq_true, if_false]
  rfl

/-- Settles O19: of the own G store as an access that is performed, by GLOBAL as one that blocks, and at the owner as one that is
performed there. -/
theorem atomicsReadModifyWrite : Obligations.AtomicsReadModifyWrite := by
  unfold Obligations.AtomicsReadModifyWrite
  intro w o op d a b off s n x e l old result new _
  refine ⟨fun ha hb hp => ⟨acts_amo w o op d a b off ha hb hp, trapsOn_amo_sealed w o op d a b off,
      acts_cas w o d a b off ha hb hp, trapsOn_cas_sealed w o d a b off⟩,
    fun gl hl hg ha hb => ⟨blocksOn_amo w o op d a b off hl hg ha hb, blocksOn_cas w o d a b off hl hg ha hb⟩,
    fun k q edges hw hbytes hq => ?owner⟩
  case owner =>
    intro u was arg stores hp
    refine ⟨fun f hf => ?amo, fun y hy => ?cas⟩
    case amo =>
      exact globalRequest_of_performed hw hbytes (by rw [hf]; exact hq) (by rw [hf]; rfl) (by rw [hf]; rfl)
        (perform_amo hbytes hp hf) rfl
    case cas =>
      exact globalRequest_of_performed hw hbytes (by rw [hy]; exact hq) (by rw [hy]; rfl) (by rw [hy]; rfl)
        (perform_cas hbytes hp hy) (onlyBytes_ite ..)

end Sys2Proof.Machine
end

section
/-! BR, CALL, JR and CALLR transfer control, and LOOP, LOOPI and LBRK push and drop loop levels (06 R120 to R132). -/
namespace Sys2Proof.Machine
open Sys2Proof

/-- No check of 03 R61 fails an instruction of the scalar set that names no system register, needs no level and reveals nothing: its body
is its effect. -/
theorem exec_scalar {i : Instr} {s : State} {body : State → State} (hx : exec i s = issue i s body) (hu : unitOf i = .scalar)
    (hl : s.lateField i = none) (hp : s.privFault i = none) (hr : s.reveals i = false) : exec i s = .next (body s) :=
  hx.trans (issue_ok (issueFault_eq_none hl hp (by rw [hu]; rfl) (.inl hr)))

/-! ## Changes of the issuing slot's image -/

namespace OnlyImage
variable {im : Image} {s u : State} (h : OnlyImage im s u)
include h

theorem setImg (x : Image) : OnlyImage x s (u.setImg s.cur x) :=
  ⟨h.only.trans (onlySlot_setImg ..), h.slot, img_setImg ..⟩

theorem moves_tickRetired : Moves s.cur im s (u.tickRetired s.cur) := by
  have counted := Machine.moves_tickRetired u s.cur
  rw [h.image] at counted
  exact counted.after h.only h.slot

theorem retiresTo_retireTo (next : Word) : RetiresTo s.cur next im s (u.retireTo s.cur next) := by
  have retired := Machine.retiresTo_retireTo u s.cur next
  rw [h.image] at retired
  exact retired.after h.only h.slot

/-- A transfer moves the pc to its target, and BR's and JR's leave loops (06 R125). -/
theorem moves_transfer (pops : Bool) (t : Word) :
    Moves s.cur { im with pc := t, loops := if pops then leaveLoops im.pc t im.loops else im.loops } s (u.transfer pops t) := by
  have e : u.transfer pops t = (u.setImg s.cur
      { im with pc := t, loops := if pops then leaveLoops im.pc t im.loops else im.loops }).tickRetired s.cur := by
    rw [State.transfer, h.cur, h.image]
  rw [e]
  exact (h.setImg _).moves_tickRetired

end OnlyImage

/-! ## Branches and calls -/

/-- Does BR branch: under its condition, or always where it has none (06 R129)? -/
def State.branches (s : State) (w : Width) (c : Option Cond) (a b : Reg) : Bool :=
  match c with
  | none => true
  | some k => condHolds k w (s.g a) (s.g b)

section
variable (w : Width) (c : Option Cond) (d a b : Reg) (off : BitVec 32) (s : State)

theorem exec_br : exec (.br w c a b off) s = issue (.br w c a b off) s fun s => if s.branches w c a b
    then s.transfer true (s.pcOf s.cur + off.signExtend 64) else s.retire 8 := rfl
theorem exec_call : exec (.call d off) s = issue (.call d off) s fun s =>
    (s.setG d (s.pcOf s.cur + 8)).transfer false (s.pcOf s.cur + off.signExtend 64) := rfl
theorem exec_jr : exec (.jr a) s = issue (.jr a) s fun s =>
    if bits (s.g a) 1 0 ≠ 0 then s.trap 0x08 0x10 (s.g a) else s.transfer true (s.g a) := rfl
theorem exec_callr : exec (.callr d a) s = issue (.callr d a) s fun s => if bits (s.g a) 1 0 ≠ 0 then s.trap 0x08 0x10 (s.g a)
    else (s.setG d (s.pcOf s.cur + 8)).transfer false (s.g a) := rfl

end

theorem branches_of_forall {s : State} {w : Width} {c : Option Cond} {a b : Reg}
    (h : ∀ k, c = some k → condHolds k w (s.g a) (s.g b) = true) : s.branches w c a b = true := by
  cases c with
  | none => rfl
  | some k => exact h k rfl

/-- Bits [1:0] of a target, which an instruction's address has clear (06 R120). -/
theorem bits_one_zero (x : Word) : bits x 1 0 = x.toNat % 4 := by
  rw [bits, Nat.pow_zero, Nat.div_one]
  rfl

/-- Settles O10: each transfer by what it does to the issuing slot's image, with or without the link written before it. -/
theorem branchesAndCalls : Obligations.BranchesAndCalls := by
  unfold Obligations.BranchesAndCalls
  intro w c d a b off s im goal
  have here : OnlyImage im s s := .refl s
  have linked : OnlyImage (im.withG d (im.pc + 8)) s (s.setG d (im.pc + 8)) := here.setG ..
  refine ⟨fun h => ?taken, fun k hc hk => ?falls, ?call, fun ha => ⟨?jr, ?callr⟩, fun ha => ⟨?jrTraps, ?callrTraps⟩⟩
  case taken =>
    refine ⟨_, exec_scalar (exec_br ..) rfl rfl rfl rfl, ?_⟩
    rw [if_pos (branches_of_forall h)]
    exact here.moves_transfer true goal
  case falls =>
    subst hc
    refine ⟨_, exec_scalar (exec_br ..) rfl rfl rfl rfl, ?_⟩
    rw [if_neg (ne_true_of_eq_false (show s.branches w (some k) a b = false from hk))]
    exact retires_retireOf ..
  case call => exact ⟨_, exec_scalar (exec_call ..) rfl rfl rfl rfl, linked.moves_transfer false goal⟩
  case jr =>
    refine ⟨_, exec_scalar (exec_jr ..) rfl rfl rfl rfl, ?_⟩
    rw [if_neg (by rw [bits_one_zero]; exact not_not_intro ha)]
    exact here.moves_transfer true (s.g a)
  case callr =>
    refine ⟨_, exec_scalar (exec_callr ..) rfl rfl rfl rfl, ?_⟩
    rw [if_neg (by rw [bits_one_zero]; exact not_not_intro ha)]
    exact linked.moves_transfer false (s.g a)
  case jrTraps =>
    refine ⟨_, exec_scalar (exec_jr ..) rfl rfl rfl rfl, ?_⟩
    rw [if_pos (by rwa [bits_one_zero])]
    exact traps_trap ..
  case callrTraps =>
    refine ⟨_, exec_scalar (exec_callr ..) rfl rfl rfl rfl, ?_⟩
    rw [if_pos (by rwa [bits_one_zero])]
    exact traps_trap ..

/-! ## The end test and the loops that a transfer leaves -/

theorem endTest_of_passes {p n : Word} {l : LoopLevel} (r : List LoopLevel) (h : l.start ≤ p ∧ p ≤ l.stop) (hn : l.stop < n) :
    endTest p (l :: r) n = if l.count = 1 then endTest p r n else (l.start, { l with count := l.count - 1 } :: r) := by
  have last : l.count - 1 ≠ 0 ↔ ¬ l.count = 1 := not_congr sub_eq_zero
  rw [endTest, if_pos ⟨h.1, h.2, hn⟩, if_congr last rfl rfl, ite_not]

theorem endTest_of_not_passes {p n : Word} {l : LoopLevel} (r : List LoopLevel) (h : ¬ ((l.start ≤ p ∧ p ≤ l.stop) ∧ l.stop < n)) :
    endTest p (l :: r) n = (n, l :: r) := by
  rw [endTest, if_neg (by rwa [and_assoc] at h)]

theorem leaveLoops_of_left {p t : Word} {l : LoopLevel} (r : List LoopLevel) (h : l.start ≤ p ∧ p ≤ l.stop)
    (ht : t < l.start ∨ l.stop < t) : leaveLoops p t (l :: r) = leaveLoops p t r := by
  rw [leaveLoops, if_pos ⟨h.1, h.2, ht⟩]

theorem leaveLoops_of_not_left {p t : Word} {l : LoopLevel} (r : List LoopLevel)
    (h : ¬ ((l.start ≤ p ∧ p ≤ l.stop) ∧ (t < l.start ∨ l.stop < t))) : leaveLoops p t (l :: r) = l :: r := by
  rw [leaveLoops, if_neg (by rwa [and_assoc] at h)]

/-- The end test adds no level. -/
theorem length_endTest_le (p n : Word) (ls : List LoopLevel) : (endTest p ls n).2.length ≤ ls.length := by
  induction ls with
  | nil => exact Nat.le_refl _
  | cons l r ih =>
    by_cases h : (l.start ≤ p ∧ p ≤ l.stop) ∧ l.stop < n
    · rw [endTest_of_passes r h.1 h.2]
      split
      · exact ih.trans (Nat.le_succ _)
      · exact Nat.le_refl _
    · rw [endTest_of_not_passes r h]

/-- A transfer adds no level. -/
theorem length_leaveLoops_le (p t : Word) (ls : List LoopLevel) : (leaveLoops p t ls).length ≤ ls.length := by
  induction ls with
  | nil => exact Nat.le_refl _
  | cons l r ih =>
    by_cases h : (l.start ≤ p ∧ p ≤ l.stop) ∧ (t < l.start ∨ l.stop < t)
    · rw [leaveLoops_of_left r h.1 h.2]
      exact ih.trans (Nat.le_succ _)
    · rw [leaveLoops_of_not_left r h]

/-! ## LOOP, LOOPI and LBRK -/

theorem exec_loop (a : Reg) (off : BitVec 32) (s : State) :
    exec (.loop a off) s = issue (.loop a off) s fun s => s.enterLoop 8 off (s.g a) := rfl
theorem exec_loopi (off count : BitVec 32) (s : State) :
    exec (.loopi off count) s = issue (.loopi off count) s fun s => s.enterLoop 12 off (count.setWidth 64) := rfl

/-- What LBRK does: with no live level it traps, and otherwise it leaves the innermost one (06 R132). -/
def State.leaveLoop (s : State) : State :=
  match (s.img s.cur).loops with
  | [] => s.trap 0x11 0x01 0
  | l :: r => (s.setImg s.cur { s.img s.cur with loops := r }).retireTo s.cur (l.stop + word (s.lengthAt s.cur l.stop))

theorem exec_lbrk (s : State) : exec .lbrk s = issue .lbrk s State.leaveLoop := rfl

section
variable {s : State}

theorem leaveLoop_of_nil (h : (s.img s.cur).loops = []) : s.leaveLoop = s.trap 0x11 0x01 0 := by
  rw [State.leaveLoop, h]

theorem leaveLoop_of_cons {l : LoopLevel} {r : List LoopLevel} (h : (s.img s.cur).loops = l :: r) : s.leaveLoop =
    (s.setImg s.cur { s.img s.cur with loops := r }).retireTo s.cur (l.stop + word (s.lengthAt s.cur l.stop)) := by
  rw [State.leaveLoop, h]

variable {len : Nat} {off : BitVec 32} {n stop : Word} (hstop : (s.img s.cur).pc + off.signExtend 64 = stop)
include hstop

theorem enterLoop_beyond (h : s.codelim s.cur ≤ stop.toNat) : s.enterLoop len off n = s.trap 0x04 0x02 stop := by
  subst hstop
  exact if_pos h

variable (h : stop.toNat < s.codelim s.cur)
include h

theorem enterLoop_zero : s.enterLoop len off 0 = s.retireTo s.cur (stop + word (s.lengthAt s.cur stop)) := by
  subst hstop
  exact (if_neg (Nat.not_le.2 h)).trans (if_pos rfl)

variable (hn : n ≠ 0)
include hn

theorem enterLoop_full (hf : 4 ≤ (s.img s.cur).loops.length) : s.enterLoop len off n = s.trap 0x11 0x00 stop := by
  subst hstop
  exact ((if_neg (Nat.not_le.2 h)).trans (if_neg hn)).trans (if_pos hf)

theorem enterLoop_pushes (hf : (s.img s.cur).loops.length < 4) : s.enterLoop len off n =
    (s.setImg s.cur { s.img s.cur with
      pc := (s.img s.cur).pc + word len
      loops := ⟨(s.img s.cur).pc + word len, stop, n⟩ :: (s.img s.cur).loops }).tickRetired s.cur := by
  subst hstop
  exact ((if_neg (Nat.not_le.2 h)).trans (if_neg hn)).trans (if_neg (Nat.not_le.2 hf))

end

/-- Settles O11: the loop instructions by where their end lies, their count and the levels that are live; the end test and the loops that
a transfer leaves by the innermost level. -/
theorem loopLevelsPushEndAndLeave : Obligations.LoopLevelsPushEndAndLeave := by
  unfold Obligations.LoopLevelsPushEndAndLeave
  refine ⟨?_, ?_⟩
  · intro a off count s im stop
    have lbrk : exec .lbrk s = .next s.leaveLoop := exec_scalar (exec_lbrk s) rfl rfl rfl rfl
    refine ⟨fun i len n hi => ?enter, fun h => ?empty, fun l r h => ?leave⟩
    case enter =>
      have run : exec i s = .next (s.enterLoop len off n) := by
        rcases hi with ⟨rfl, rfl, rfl⟩ | ⟨rfl, rfl, rfl⟩
        · exact exec_scalar (exec_loop ..) rfl rfl rfl rfl
        · exact exec_scalar (exec_loopi ..) rfl rfl rfl rfl
      refine ⟨fun h => ?beyond, fun h hn => ?zero, fun h hn hf => ?full, fun h hn hf => ?pushes⟩
      case beyond => exact ⟨_, run.trans (congrArg _ (enterLoop_beyond rfl h)), traps_trap ..⟩
      case zero =>
        subst hn
        exact ⟨_, run.trans (congrArg _ (enterLoop_zero rfl h)), retiresTo_retireTo ..⟩
      case full => exact ⟨_, run.trans (congrArg _ (enterLoop_full rfl h hn hf)), traps_trap ..⟩
      case pushes =>
        exact ⟨_, run.trans (congrArg _ (enterLoop_pushes rfl h hn hf)), ((OnlyImage.refl s).setImg _).moves_tickRetired⟩
    case empty => exact ⟨_, lbrk.trans (congrArg _ (leaveLoop_of_nil h)), traps_trap ..⟩
    case leave => exact ⟨_, lbrk.trans (congrArg _ (leaveLoop_of_cons h)), ((OnlyImage.refl s).setImg _).retiresTo_retireTo _⟩
  · intro p n t l r inside
    refine ⟨rfl, fun hi hn hc => ?_, fun hi hn hc => ?_, endTest_of_not_passes r, rfl, leaveLoops_of_left r, leaveLoops_of_not_left r,
      length_endTest_le p n (l :: r), length_leaveLoops_le p t (l :: r)⟩
    · rw [endTest_of_passes r hi hn, if_neg hc]
    · rw [endTest_of_passes r hi hn, if_pos hc]

end Sys2Proof.Machine
end

section
/-! SRD and SWR of the system registers, FPXSUM at the end of a rotation, and the reeve's writes of the context area (05 R424; 13 R258 to
R261, R272). -/
namespace Sys2Proof.Machine
open Sys2Proof

/-! ## Registers of the image -/

section
variable {s : State} {n k j : Nat} (new x : Word) (hk : sysIndex k = some j)
include hk

theorem sysRead_of_index : s.sysRead n k = (s.img n).sysWord j := by
  unfold State.sysRead
  rw [hk]

theorem sysRefuses_of_index : s.sysRefuses n k new = (s.img n).refuses j true new := by
  unfold State.sysRefuses
  rw [hk]

theorem img_sysWrite_of_index : (s.sysWrite n k new x).img n = (s.img n).sysStore j (s.level n) new := by
  simp only [State.sysWrite, hk]
  split
  · refine (img_setSlot_same _ n _ ?_).trans (img_setImg ..)
    rfl
  · exact img_setImg ..

/-- A register of the image reads after its write as the word that the write has stored. -/
theorem sysRead_sysWrite_of_index : (s.sysWrite n k new x).sysRead n k = ((s.img n).sysStore j (s.level n) new).sysWord j := by
  rw [sysRead_of_index hk, img_sysWrite_of_index new x hk]

end

/-- HSP, HLIMIT, CONTBASE and CONTSLOTS take no write where a handler is live (05 R424; 12 R228). -/
theorem refuses_hstack {im : Image} {j : Nat} (x : Word) (hj : 6 ≤ j ∧ j ≤ 9) (hd : hspDepth im.hsp ≠ 0) :
    im.refuses j true x = some .hstack := by
  simp only [Image.refuses, hj.1, hj.2, hd, decide_true, Bool.and_true, ne_eq, not_false_eq_true, ↓reduceIte]

section
variable (im : Image) {x : Word}

theorem refuses_wdlimit (h : bits x 63 32 ≠ 0) : im.refuses 12 true x = some .field := by simp [Image.refuses, h]
theorem refuses_fpflags (h : bits x 63 5 ≠ 0) : im.refuses 14 true x = some .field := by simp [Image.refuses, h]
theorem refuses_fptrap (h : bits x 63 5 ≠ 0) : im.refuses 15 true x = some .field := by simp [Image.refuses, h]
theorem refuses_rmode (h : bits x 63 2 ≠ 0) : im.refuses 16 true x = some .field := by simp [Image.refuses, h]

end

/-! ## Registers outside the image -/

/-- The numbers of the window registers (07 R148). -/
def IsWindowReg (k : Nat) : Prop := (0x050 ≤ k ∧ k ≤ 0x05F) ∨ (0x110 ≤ k ∧ k ≤ 0x11F)

theorem sysIndex_window {k : Nat} (h : IsWindowReg k) : sysIndex k = none := by
  unfold IsWindowReg at h
  unfold sysIndex
  rw [if_neg (by omega), if_neg (by omega), if_neg (by omega), if_neg (by omega), if_neg (by omega), if_neg (by omega)]

section
variable (s : State) (n : Nat) (new x : Word) {k : Nat}

theorem sysRead_win (h : 0x050 ≤ k ∧ k ≤ 0x05F) : s.sysRead n k = (s.coreAt (coreOf n)).win[(k - 0x050) % 16] := by
  simp only [State.sysRead, sysIndex_window (.inl h), if_pos h]

theorem sysRead_twin (h : 0x110 ≤ k ∧ k ≤ 0x11F) : s.sysRead n k = (s.tileAt (tileOf n)).twin[(k - 0x110) % 16] := by
  have other : ¬ (0x050 ≤ k ∧ k ≤ 0x05F) := by omega
  simp only [State.sysRead, sysIndex_window (.inr h), if_neg other, if_pos h]

/-- The window registers stand in the order of their numbers. -/
theorem sysRead_win_add (j : Fin 16) : s.sysRead n (0x050 + j.val) = (s.coreAt (coreOf n)).win[j] := by
  have place : (0x050 + j.val - 0x050) % 16 = j.val := by omega
  rw [sysRead_win s n (by omega)]
  simp only [place, Fin.getElem_fin]

theorem sysRead_twin_add (j : Fin 16) : s.sysRead n (0x110 + j.val) = (s.tileAt (tileOf n)).twin[j] := by
  have place : (0x110 + j.val - 0x110) % 16 = j.val := by omega
  rw [sysRead_twin s n (by omega)]
  simp only [place, Fin.getElem_fin]

/-- A window register keeps all of a value that is written (07 R148). -/
theorem sysRead_sysWrite_window (h : IsWindowReg k) : (s.sysWrite n k new x).sysRead n k = new := by
  rcases h with h | h
  · have written : s.sysWrite n k new x = s.setCore (coreOf n)
        { s.coreAt (coreOf n) with win := (s.coreAt (coreOf n)).win.set (Fin.ofNat 16 (k - 0x050)) new } := by
      simp only [State.sysWrite, sysIndex_window (.inl h), if_pos h]
    rw [sysRead_win _ _ h, written, State.coreAt_setCore]
    exact Vector.getElem_set_self _
  · have other : ¬ (0x050 ≤ k ∧ k ≤ 0x05F) := by omega
    have written : s.sysWrite n k new x = s.setTile (tileOf n)
        { s.tileAt (tileOf n) with twin := (s.tileAt (tileOf n)).twin.set (Fin.ofNat 16 (k - 0x110)) new } := by
      simp only [State.sysWrite, sysIndex_window (.inr h), if_neg other, if_pos h]
    rw [sysRead_twin _ _ h, written, State.tileAt_setTile]
    exact Vector.getElem_set_self _

/-- IMAGE reads as the selector that was written (log 54). -/
theorem sysRead_sysWrite_selector : (s.sysWrite n 0x10A new x).sysRead n 0x10A = word (bits new 3 0) := by
  have written : s.sysWrite n 0x10A new x =
      s.setSlot n { s.slotAt n with sel := Fin.ofNat 16 (bits new 3 0 + 16 - slotIdx n) } := rfl
  have read (t : State) : t.sysRead n 0x10A = word ((slotIdx n + (t.slotAt n).sel.val) % 16) := rfl
  have sum : (slotIdx n + (bits new 3 0 + 16 - slotIdx n) % 16) % 16 = bits new 3 0 := by
    have := Nat.mod_lt n (show 0 < 16 by decide)
    simp only [slotIdx, bits]
    omega
  rw [written, read, State.slotAt_setSlot]
  exact congrArg word sum

/-- FPXSUM is cleared by a 1 in [31] (13 R261). -/
theorem sysRead_sysWrite_fpxsum : (s.sysWrite n 0x070 new x).sysRead n 0x070 =
    if isOrdinary n = true ∧ bit x 31 = true then 0 else s.sysRead n 0x070 := by
  have written : s.sysWrite n 0x070 new x =
      if isOrdinary n ∧ bit x 31 then s.setTile (tileOf n) { s.tileAt (tileOf n) with fpxsum := 0 } else s := rfl
  have read (t : State) : t.sysRead n 0x070 = if isOrdinary n then (t.tileAt (tileOf n)).fpxsum else 0 := rfl
  rw [written]
  split
  · next h => rw [read, if_pos h.1, State.tileAt_setTile]
  · rfl

theorem sysWrite_cur (k : Nat) : (s.sysWrite n k new x).cur = s.cur := by
  unfold State.sysWrite
  split
  · dsimp only
    split <;> rfl
  · split_ifs <;> rfl

end

/-! ## SRD and SWR -/

theorem exec_srd (d : Reg) (r : BitVec 12) (s : State) :
    exec (.srd d r) s = writes (.srd d r) 8 s d fun s => s.sysRead s.cur r.toNat := rfl

section
variable {d : Reg} {r : BitVec 12} {s : State} (ha : sysAllocated (isOrdinary s.cur) r.toNat = true)
  (hl : sysReadLevel r.toNat ≤ s.level s.cur)
include ha hl

theorem gives_srd (hr : sysReadReveals r.toNat = false ∨ s.sealedHere = false) : Gives (.srd d r) 8 d (s.sysRead s.cur r.toNat) s :=
  gives_of_writes (exec_srd d r s) (issueFault_eq_none (if_pos ha) (if_neg (Nat.not_lt.2 hl)) (engineAllows_scalar _) hr)

theorem trapsOn_srd_sealed (hs : s.sealedHere = true) (hr : sysReadReveals r.toNat = true) : TrapsOn (.srd d r) 0x07 0 0 s :=
  trapsOn_of_issueFault (exec_srd d r s)
    (issueFault_of_sealed (if_pos ha) (if_neg (Nat.not_lt.2 hl)) (engineAllows_scalar _) hr hs)

end

/-- Writing a register of slot n and going on, without a count. -/
theorem settled_setGOf (u : State) (n : Nat) (d : Reg) (x : Word) :
    let t := (u.setGOf n d x).settle n ((u.setGOf n d x).pcOf n + 8)
    OnlySlot n u t ∧ t.slotAt n = u.slotAt n ∧ t.img n = ((u.img n).withG d x).atNext ((u.img n).pc + 8) := by
  have pc : (u.setGOf n d x).pcOf n = (u.img n).pc := by rw [State.pcOf, img_setGOf, withG_pc]
  rw [pc, settle_eq, img_setGOf]
  exact ⟨(onlySlot_setGOf ..).trans (onlySlot_setImg ..), slotAt_setGOf .., img_setImg ..⟩

theorem exec_swr (f : SwrForm) (d a : Reg) (r : BitVec 12) (s : State) : exec (.swr f d a r) s = execSwr f d a r s := rfl

theorem isWinQ_eq_false {k : Nat} (h0 : k ≠ 0x053) (h1 : k ≠ 0x057) (h2 : k ≠ 0x05B) (h3 : k ≠ 0x05F) : isWinQ k = false := by
  simp only [isWinQ, h0, h1, h2, h3, decide_false, Bool.or_self]

section
variable {f : SwrForm} {d a : Reg} {r : BitVec 12} {s : State}

/-- SWR reveals nothing where g[D] shows no register that does and it sets neither WAITLIM nor a window's masks (13 R258). -/
theorem reveals_swr_eq_false (hd : d = 0 ∨ sysReadReveals r.toNat = false) (hw : r.toNat ≠ 0x020) (hq : isWinQ r.toNat = false) :
    s.reveals (.swr f d a r) = false := by
  have shows : (d ≠ 0 && sysReadReveals r.toNat) = false := by
    rcases hd with rfl | hd
    · rfl
    · rw [hd, Bool.and_false]
  simp only [State.reveals, shows, hw, hq, decide_false, Bool.false_and, Bool.or_self]

/-- SWR reveals what its g[D] shows (log 27). -/
theorem reveals_swr_of_shown (hd : d ≠ 0) (hr : sysReadReveals r.toNat = true) : s.reveals (.swr f d a r) = true := by
  simp only [State.reveals, hd, hr, ne_eq, not_false_eq_true, decide_true, Bool.and_self, Bool.true_or]

/-- SWR that sets WAITLIM would bound its waits by time (13 R258). -/
theorem reveals_swr_of_waitlim (hk : r.toNat = 0x020) (hn : swrNew f (s.sysRead s.cur r.toNat) (s.g a) ≠ 0) :
    s.reveals (.swr f d a r) = true := by
  have limit : swrNew f (s.img s.cur).waitlim (s.g a) ≠ 0 := by rwa [hk] at hn
  simp only [State.reveals, hk, limit, ne_eq, not_false_eq_true, decide_true, Bool.and_self, Bool.true_or, Bool.or_true]

section
variable (hl : max (sysReadLevel r.toNat) (sysWriteLevel r.toNat) ≤ s.level s.cur)
include hl

theorem privFault_swr : s.privFault (.swr f d a r) = none :=
  if_neg (by rw [← lt_max_iff]; exact Nat.not_lt.2 hl)

variable (ha : sysAllocated (isOrdinary s.cur) r.toNat = true)
include ha

theorem issueFault_swr (hr : s.reveals (.swr f d a r) = false ∨ s.sealedHere = false) : s.issueFault (.swr f d a r) = none :=
  issueFault_eq_none (if_pos ha) (privFault_swr hl) (engineAllows_scalar _) hr

theorem trapsOn_swr_sealed (hs : s.sealedHere = true) (hr : s.reveals (.swr f d a r) = true) : TrapsOn (.swr f d a r) 0x07 0 0 s :=
  trapsOn_of_check rfl (issueFault_of_sealed (if_pos ha) (privFault_swr hl) (engineAllows_scalar _) hr hs)

end

variable {new : Word} (hv : swrNew f (s.sysRead s.cur r.toNat) (s.g a) = new) (hi : s.issueFault (.swr f d a r) = none)
include hv hi

theorem trapsOn_swr_field (h : s.sysRefuses s.cur r.toNat new = some .field) : TrapsOn (.swr f d a r) 0x02 15 new s := by
  refine ⟨s.trap 0x02 15 new, ?_, traps_trap ..⟩
  rw [exec_swr, execSwr, issue_ok hi]
  simp only [hv, h]

theorem trapsOn_swr_hstack (h : s.sysRefuses s.cur r.toNat new = some .hstack) : TrapsOn (.swr f d a r) 0x12 4 new s := by
  refine ⟨s.trap 0x12 4 new, ?_, traps_trap ..⟩
  rw [exec_swr, execSwr, issue_ok hi]
  simp only [hv, h]

/-- SWR of a value that is not refused: the write, the old value in g[D], and the retirement, which TICKSET's write does not have
counted (12 R240). -/
theorem exec_swr_of_kept (h : s.sysRefuses s.cur r.toNat new = none) {u : State}
    (hu : (s.sysWrite s.cur r.toNat new (s.g a)).setGOf s.cur d (s.sysRead s.cur r.toNat) = u) :
    exec (.swr f d a r) s = .next (if r = 0x022 then u.settle s.cur (u.pcOf s.cur + 8) else u.retireOf s.cur 8) := by
  subst hu
  rw [exec_swr, execSwr, issue_ok hi]
  simp only [hv, h, State.setG, State.retire, sysWrite_cur, State.setGOf_cur]

end

/-! ## FPXSUM at the end of a rotation -/

theorem exec_fpxsumUpdate (t : Nat) (s : State) : exec (.fpxsumUpdate t) s =
    .next (if (s.tileAt t).cycle % 16 = 15 then s.setTile t (s.tileAt t).updateFpx else s) := rfl

/-! ## Writes of the context area -/

/-- A change of every bit of a word leaves the new value. -/
theorem setBits_word (y : Word) {x : Nat} (h : x < 2 ^ 64) : setBits y 63 0 x = word x := by
  have high : y.toNat / 2 ^ (63 + 1) = 0 := Nat.div_eq_of_lt y.isLt
  simp only [setBits, high, Nat.mod_eq_of_lt h, Nat.pow_zero, Nat.mod_one, Nat.zero_add, Nat.one_mul, Nat.mul_zero, Nat.add_zero]

theorem ctxWrite_word (s : State) {core off level : Nat} (v : Word) (h : off % 8 = 0) :
    s.ctxWrite core off 8 v.toNat level = s.ctxStore core off level v := by
  simp only [State.ctxWrite, h, Nat.sub_zero, Nat.zero_add, Nat.mul_zero]
  rw [show 8 * 8 - 1 = 63 from rfl, setBits_word _ v.isLt, word, BitVec.ofNat_toNat, BitVec.setWidth_eq]

section
variable {s : State} {n : Nat} (h : s.trailerOf n = none)
include h

theorem catchUp_of_unpaired : s.catchUp n = s := by
  rw [State.catchUp, h]

theorem pastWrite_of_unpaired (f : Image → Image) : s.pastWrite n f = s := by
  rw [State.pastWrite, h]

end

/-- The slot that an image belongs to leads no pair. -/
def State.OwnerUnpaired (s : State) (core i : Nat) : Prop := ∀ sl, s.imageOwner core i = some sl → s.trailerOf sl = none

section
variable {s : State} {core i o level : Nat} {x : Word}

/-- The word of a resumption under way takes no write (12 R236). -/
theorem ctxStore_of_restoring (ho : o < 0x1000) (h : s.ctxRestoring core i o = true) :
    s.ctxStore core (0x1000 * i + o) level x = s := by
  have area : (0x1000 * i + o) / 0x1000 = i := by omega
  have offset : (0x1000 * i + o) % 0x1000 = o := by omega
  simp only [State.ctxStore, area, offset, h, ↓reduceIte]

/-- A write of a word that is none of HCTL, HSP, CONTBASE and CONTSLOTS, to the image of no pair: the image's own change, and
TICKSET's owner (05 R424). -/
theorem ctxStore_of_unpaired {im : Image} (ho : o < 0x1000) (hr : s.ctxRestoring core i o = false)
    (hw : o / 8 ≠ 0x3F ∧ o / 8 ≠ 0x26 ∧ o / 8 ≠ 0x28 ∧ o / 8 ≠ 0x29) (hu : s.OwnerUnpaired core i)
    (hk : ∀ vec, (s.imageAt (16 * core + i)).ctxKeeps o vec x = false)
    (hp : ∀ vec, (s.imageAt (16 * core + i)).ctxPut o level vec x = im) :
    s.ctxStore core (0x1000 * i + o) level x =
      if o / 8 ≠ 0x2D then s.setImage (16 * core + i) im
      else if 2 ≤ level then (s.setImage (16 * core + i) im).armTick core i x
      else (s.setImage (16 * core + i) im).ownTick core i := by
  have area : (0x1000 * i + o) / 0x1000 = i := by omega
  have offset : (0x1000 * i + o) % 0x1000 = o := by omega
  simp only [State.ctxStore, area, offset, hr, hk, hw, or_self, Bool.false_eq_true, ↓reduceIte]
  cases h : s.imageOwner core i with
  | none => simp only [hp]
  | some sl => simp only [catchUp_of_unpaired (hu sl h), pastWrite_of_unpaired (hu sl h), hp]

end

section
variable {s : State} {core i o : Nat} (v : Word)

theorem exec_contextWrite (core off : Nat) (w : Width) (v : Word) (s : State) :
    exec (.contextWrite core off w v) s = execContextWrite core off w v s := rfl

/-- CONTEXT_WRITE makes no write that is misaligned or lies outside the area (05 R424). -/
theorem contextWrite_refused {off : Nat} {w : Width} (h : off % (w.bits / 8) ≠ 0 ∨ 0x10000 ≤ off) :
    exec (.contextWrite core off w v) s = .next s := by
  rw [exec_contextWrite, execContextWrite, if_pos h]

/-- CONTEXT_WRITE of a whole word stores it at hypervisor level, but for a count of TICKSET that the reeve does not arm. -/
theorem contextWrite_word (hi : i < 16) (ho : o < 0x1000) (h8 : o % 8 = 0) :
    exec (.contextWrite core (0x1000 * i + o) .b64 v) s = .next (
      let t := s.ctxStore core (0x1000 * i + o) 2 v
      if o / 8 = 0x2D ∧ bits (t.imageAt (16 * core + i)).tickset 31 0 ≠ 0 ∧ !s.reeveArms core i then s else t) := by
  have inside : ¬ ((0x1000 * i + o) % (Width.b64.bits / 8) ≠ 0 ∨ 0x10000 ≤ 0x1000 * i + o) := by
    rw [show Width.b64.bits / 8 = 8 from rfl]
    omega
  have area : (0x1000 * i + o) / 0x1000 = i := by omega
  have offset : (0x1000 * i + o) % 0x1000 = o := by omega
  have aligned : (0x1000 * i + o) % 8 = 0 := by omega
  have whole : s.ctxWrite core (0x1000 * i + o) (Width.b64.bits / 8) (v.toNat % 2 ^ Width.b64.bits) 2
      = s.ctxStore core (0x1000 * i + o) 2 v := by
    rw [show v.toNat % 2 ^ Width.b64.bits = v.toNat from Nat.mod_eq_of_lt v.isLt]
    exact ctxWrite_word s v aligned
  rw [exec_contextWrite, execContextWrite, if_neg inside, whole, area, offset]

/-- The reeve sets a general register that no resumption is about to set. -/
theorem contextWrite_g {q : Reg} (hi : i < 16) (hq : q ≠ 0) (hu : s.OwnerUnpaired core i) :
    exec (.contextWrite core (0x1000 * i + 8 * q.val) .b64 v) s =
      .next (if s.ctxRestoring core i (8 * q.val) then s else s.setImage (16 * core + i)
        { s.imageAt (16 * core + i) with g := (s.imageAt (16 * core + i)).g.set q v }) := by
  have place : 8 * q.val / 8 = q.val := by omega
  have pos : q.val ≠ 0 := fun h => hq (Fin.ext h)
  have lt : 8 * q.val < 0x100 := by omega
  have other : ¬ 8 * q.val / 8 = 0x2D := by omega
  rw [contextWrite_word v hi (by omega) (Nat.mul_mod_right ..)]
  dsimp only
  rw [if_neg fun h => other h.1]
  split
  · next h => rw [ctxStore_of_restoring (by omega) h]
  · next h =>
    refine congrArg _ ((ctxStore_of_unpaired (by omega) (eq_false_of_ne_true h) (by omega) hu (fun vec => ?_) fun vec => ?_).trans
      (if_pos other))
    · have below : ¬ 0x280 ≤ 8 * q.val ∧ ¬ 0x300 ≤ 8 * q.val ∧ ¬ 0x800 ≤ 8 * q.val := by omega
      simp only [Image.ctxKeeps, place, pos, Nat.not_le.2 lt, below, decide_false, Bool.false_or, Bool.false_and]
    · simp only [Image.ctxPut, if_pos lt, place, Fin.ofNat_val_eq_self]

end

/-! ## The reeve's TICKSET (13 R256) -/

section
variable {s : State} {core i sl : Nat} (v : Word) (ho : s.imageOwner core i = some sl)
include ho

/-- The reeve may arm an image's TICKSET where EFFEN.TICK is 0 and the thread has not written it. -/
theorem mayArmTick_of_owner : s.mayArmTick core i =
    (!bit (s.imageAt (16 * core + i)).effen 22 && !(s.slotAt sl).tickWritten) := by
  simp only [State.mayArmTick, ho]

/-- The reeve arms the TICKSET of an image whose EFFEN.TICK is 0, whose thread has not written it and is no level member. -/
theorem reeveArms_iff : s.reeveArms core i = true ↔ bit (s.imageAt (16 * core + i)).effen 22 = false
    ∧ (s.slotAt sl).tickWritten = false ∧ ∀ l g j, s.membership sl = some (l, g, j) → (s.launchAt l).isLevel = false := by
  simp only [State.reeveArms, mayArmTick_of_owner ho, ho, Bool.and_eq_true, Bool.not_eq_true', and_assoc]
  cases h : s.membership sl with
  | none => simp
  | some m =>
    obtain ⟨l, g, j⟩ := m
    simp only [Option.some.injEq, Prod.mk.injEq, and_imp, Bool.not_eq_true']
    refine and_congr_right fun _ => and_congr_right fun _ => ⟨fun hm _ _ _ hl _ _ => hl ▸ hm, fun hm => hm l g j rfl rfl rfl⟩

theorem armTick_of_owner : s.armTick core i v =
    s.setSlot sl { s.slotAt sl with tickByReeve := s.mayArmTick core i && bits v 31 0 ≠ 0 } := by
  unfold State.armTick
  rw [ho]

end

/-- TICKSET's count is read back as it was stored. -/
theorem bits_word_bits (v : Word) : bits (word (bits v 31 0)) 31 0 = bits v 31 0 := by
  simp only [bits, word, BitVec.toNat_ofNat]
  omega

/-- A core's image i with a count in its TICKSET word (05 R424). -/
def State.withCount (s : State) (core i : Nat) (v : Word) : State :=
  s.setImage (16 * core + i) { s.imageAt (16 * core + i) with tickset := word (bits v 31 0) }

theorem imageAt_withCount (s : State) (core i : Nat) (v : Word) : (s.withCount core i v).imageAt (16 * core + i) =
    { s.imageAt (16 * core + i) with tickset := word (bits v 31 0) } := State.imageAt_setImage ..

section
variable {s : State} {core i sl : Nat} {v : Word} (hi : i < 16) (ho : s.imageOwner core i = some sl) (ht : s.trailerOf sl = none)
include hi ho ht

/-- The reeve's write of a TICKSET word: where it does not arm a count that is not zero, it writes none (13 R256). -/
theorem contextWrite_tickset : exec (.contextWrite core (0x1000 * i + 0x168) .b64 v) s =
    .next (if bits v 31 0 ≠ 0 ∧ !s.reeveArms core i then s else (s.withCount core i v).setSlot sl
      { s.slotAt sl with tickByReeve := s.mayArmTick core i && bits v 31 0 ≠ 0 }) := by
  have unpaired : s.OwnerUnpaired core i := fun n hn => by rwa [← Option.some.inj (ho.symm.trans hn)]
  have owner : (s.withCount core i v).imageOwner core i = some sl := ho
  have mayArm : (s.withCount core i v).mayArmTick core i = s.mayArmTick core i := by
    rw [mayArmTick_of_owner owner, mayArmTick_of_owner ho, imageAt_withCount]
    rfl
  have stored : s.ctxStore core (0x1000 * i + 0x168) 2 v = (s.withCount core i v).setSlot sl
      { s.slotAt sl with tickByReeve := s.mayArmTick core i && bits v 31 0 ≠ 0 } :=
    calc s.ctxStore core (0x1000 * i + 0x168) 2 v
      _ = (s.withCount core i v).armTick core i v :=
        ctxStore_of_unpaired (by decide) rfl (by decide) unpaired (fun _ => rfl) fun _ => rfl
      _ = _ := by
        rw [armTick_of_owner v owner, mayArm]
        rfl
  have count : bits ((s.ctxStore core (0x1000 * i + 0x168) 2 v).imageAt (16 * core + i)).tickset 31 0 = bits v 31 0 := by
    rw [stored, State.imageAt_setSlot, imageAt_withCount, bits_word_bits]
  rw [contextWrite_word v hi (by decide) rfl]
  dsimp only
  rw [count, stored]
  simp only [true_and, show 0x168 / 8 = 0x2D from rfl]

/-- A count of zero it stores, and another that it arms, which is its own then (13 R256). -/
theorem contextWrite_tickset_stored (h : bits v 31 0 = 0 ∨ s.reeveArms core i = true) :
    exec (.contextWrite core (0x1000 * i + 0x168) .b64 v) s = .next ((s.withCount core i v).setSlot sl
      { s.slotAt sl with tickByReeve := decide (bits v 31 0 ≠ 0) }) := by
  have own : (s.mayArmTick core i && bits v 31 0 ≠ 0) = decide (bits v 31 0 ≠ 0) := by
    rcases h with h | h
    · rw [decide_eq_false (not_not_intro h), Bool.and_false]
    · rw [(Bool.and_eq_true_iff.mp h).1, Bool.true_and]
  have stores : ¬ (bits v 31 0 ≠ 0 ∧ (!s.reeveArms core i) = true) := by
    rw [not_and_or, not_not, Bool.not_eq_true', Bool.not_eq_false]
    exact h
  rw [contextWrite_tickset hi ho ht, if_neg stores, own]

/-- A count that it does not arm it does not store (13 R256). -/
theorem contextWrite_tickset_refused (hb : bits v 31 0 ≠ 0) (h : s.reeveArms core i = false) :
    exec (.contextWrite core (0x1000 * i + 0x168) .b64 v) s = .next s := by
  rw [contextWrite_tickset hi ho ht, if_pos ⟨hb, by rw [h]; rfl⟩]

end

/-! ## The obligation -/

/-- Settles O48: the registers of the image by the word of it that each names, the windows and the rest one by one; SRD and SWR by the
checks of their frame; CONTEXT_WRITE by what it stores of a whole word. -/
theorem systemRegistersReadAndWrite : Obligations.SystemRegistersReadAndWrite := by
  unfold Obligations.SystemRegistersReadAndWrite
  intro f d a r s n im k known old new mid
  have hv : swrNew f old (s.g a) = new := by cases f <;> rfl
  have refuses {q j : Nat} (hq : sysIndex q = some j) (hk : k = q) : s.sysRefuses n k new = im.refuses j true new :=
    sysRefuses_of_index new (hk ▸ hq)
  refine ⟨fun ha hl => ⟨fun hs => ?srd, fun hs hr => trapsOn_srd_sealed ha hl hs hr⟩,
    fun ha hl => ⟨fun hs hd hr => ?swrShows, fun hs => ?swr, fun hs hk hn => ?waitlim⟩,
    ?reads, fun w => ⟨?win, ?twin⟩, ?keeps, sysRead_sysWrite_window s n new _, ?readOnly,
    ⟨?flags, ?rmode, ?wdlimit, ?live⟩, fun t => ?fpxsum, fun core i q v hi hq hu => ?general,
    fun core i sl v hi ho ht => ?tickset, fun core off w v h => contextWrite_refused v h⟩
  case srd =>
    refine gives_srd ha hl ?_
    cases h : s.sealedHere
    · exact .inr rfl
    · exact .inl (hs h)
  case swrShows => exact trapsOn_swr_sealed hl ha hs (reveals_swr_of_shown hd hr)
  case waitlim => exact trapsOn_swr_sealed hl ha hs (reveals_swr_of_waitlim hk (hv ▸ hn))
  case swr =>
    have pass : s.issueFault (.swr f d a r) = none := by
      refine issueFault_swr hl ha ?_
      cases h : s.sealedHere
      · exact .inr rfl
      · obtain ⟨hd, hw, h0, h1, h2, h3⟩ := hs h
        exact .inl (reveals_swr_eq_false hd hw (isWinQ_eq_false h0 h1 h2 h3))
    refine ⟨trapsOn_swr_field hv pass, trapsOn_swr_hstack hv pass, fun hn => ⟨_, exec_swr_of_kept hv pass hn rfl,
      fun hk => ?counted, fun hk => ?uncounted⟩⟩
    case counted =>
      rw [if_neg fun h => hk (congrArg BitVec.toNat h)]
      exact retires_setGOf ..
    case uncounted =>
      have written : mid.img n = im.sysStore 13 (s.level n) new := img_sysWrite_of_index new (s.g a) (by rw [hk]; rfl)
      have pc : (mid.img n).pc = im.pc := by rw [written]; rfl
      rw [if_pos (BitVec.eq_of_toNat_eq hk), ← pc]
      exact settled_setGOf ..
  case reads =>
    simp only [List.forall_mem_cons]
    exact ⟨rfl, rfl, rfl, rfl, rfl, rfl, rfl, rfl, rfl, rfl, rfl, rfl, rfl, rfl, rfl, rfl, rfl, rfl, rfl, rfl, rfl, rfl, rfl, rfl, rfl, rfl,
      rfl, rfl, rfl, rfl, rfl, rfl, rfl, rfl, rfl, rfl, rfl, rfl, List.forall_mem_nil _⟩
  case win => exact sysRead_win_add s n w
  case twin => exact sysRead_twin_add s n w
  case keeps =>
    have keeps {q j : Nat} {v : Word} (hq : sysIndex q = some j) (hv : ((s.img n).sysStore j (s.level n) new).sysWord j = v)
        (hk : k = q) : mid.sysRead n k = v := by
      rw [← hv, ← sysRead_sysWrite_of_index new (s.g a) hq, ← hk]
    have tdeleg : (im.sysStore 25 (s.level n) new).sysWord 25 =
        if 2 ≤ s.level n then word (bits new 35 0) ||| 0x100000000 else im.tdeleg := apply_ite (Image.sysWord · 25) ..
    have level {m : Nat} (y : Vector Word 4) (hm : m < 4) : (y.set m new)[m] = new := Vector.getElem_set_self hm
    have selector (hk : k = 0x10A) : mid.sysRead n k = word (bits new 3 0) := by
      clear_value k
      subst hk
      exact sysRead_sysWrite_selector ..
    have fpxsum (hk : k = 0x070) : mid.sysRead n k = if isOrdinary n = true ∧ bit (s.g a) 31 = true then 0 else old := by
      clear_value k
      subst hk
      exact sysRead_sysWrite_fpxsum ..
    simp only [List.forall_mem_cons]
    exact ⟨keeps rfl rfl, keeps rfl rfl, keeps rfl rfl, keeps rfl rfl, keeps rfl rfl, keeps rfl rfl, keeps rfl rfl, keeps rfl rfl,
      keeps rfl rfl, keeps rfl rfl, keeps rfl rfl, keeps rfl rfl, keeps rfl rfl, keeps rfl rfl, keeps rfl rfl, keeps rfl rfl,
      keeps rfl rfl, keeps rfl (level ..), keeps rfl (level ..), keeps rfl (level ..), keeps rfl (level ..), keeps rfl (level ..),
      keeps rfl (level ..), keeps rfl (level ..), keeps rfl (level ..), keeps rfl tdeleg, selector, keeps rfl rfl, fpxsum, List.forall_mem_nil _⟩
  case readOnly =>
    intro hk
    clear_value k
    fin_cases hk <;> rfl
  case flags =>
    rintro (hk | hk) hb
    · exact (refuses (q := 0x030) rfl hk).trans (refuses_fpflags im hb)
    · exact (refuses (q := 0x031) rfl hk).trans (refuses_fptrap im hb)
  case rmode => exact fun hk hb => (refuses (q := 0x032) rfl hk).trans (refuses_rmode im hb)
  case wdlimit => exact fun hk hb => (refuses (q := 0x021) rfl hk).trans (refuses_wdlimit im hb)
  case live =>
    intro hlo hhi hd
    have index : sysIndex k = some (k - 0x010 + 6) := by
      rw [sysIndex, if_neg (by omega), if_pos (by omega)]
    exact (sysRefuses_of_index new index).trans (refuses_hstack new (by omega) hd)
  case fpxsum =>
    simp only [ne_eq, ite_not]
    exact exec_fpxsumUpdate t s
  case general => exact contextWrite_g v hi hq hu
  case tickset =>
    intro writes mayArm
    have arms : s.reeveArms core i = true ↔ mayArm := reeveArms_iff ho
    exact ⟨fun hb => contextWrite_tickset_stored hi ho ht (.inl hb), fun hm => contextWrite_tickset_stored hi ho ht (.inr (arms.mpr hm)),
      fun hb hm => contextWrite_tickset_refused hi ho ht hb (eq_false_of_ne_true fun h => hm (arms.mp h))⟩

end Sys2Proof.Machine
end

section
/-! The traps of accesses to the own stores: beyond the space, misaligned, and of CONTEXT at user level (07 R136, R139, R157; 13 R253). -/
namespace Sys2Proof.Machine
open Sys2Proof

/-! ## What Resolve refuses of an own store (07 R139) -/

namespace State.NamesOwn
variable {s : State} {sp : SP} (h : s.NamesOwn sp)
include h

/-- Of an own store the space's bound and then the alignment are left to test, whatever the kind but a counted store. -/
theorem resolve_eq {k : MemKind} (hc : k ≠ .counted) (hk : kindAllowed k sp = true) (x : Word) (n al : Nat) : s.resolve k sp x n al =
    if aliasSize sp < x.toNat + n then .error (0x09, 0) else if x.toNat % al ≠ 0 then .error (0x08, 0) else .ok (s.aliasLoc sp x) := by
  rcases h with rfl | ⟨ho, rfl | rfl | rfl⟩
  · simp [State.resolve, State.aliasLoc, hc, hk, bind, Except.bind, pure, Except.pure, throw, throwThe, MonadExceptOf.throw]
  all_goals simp [State.resolve, State.aliasLoc, ho, hc, hk, bind, Except.bind, pure, Except.pure, throw, throwThe, MonadExceptOf.throw]

variable {x : Word} {n al : Nat}

theorem resolve_plain_beyond (hb : aliasSize sp < x.toNat + n) : s.resolve .plain sp x n al = .error (0x09, 0) :=
  (h.resolve_eq (k := .plain) nofun rfl x n al).trans (if_pos hb)

theorem resolve_plain_misaligned (hb : x.toNat + n ≤ aliasSize sp) (ha : x.toNat % al ≠ 0) :
    s.resolve .plain sp x n al = .error (0x08, 0) :=
  (h.resolve_eq (k := .plain) nofun rfl x n al).trans ((if_neg (Nat.not_lt.2 hb)).trans (if_pos ha))

end State.NamesOwn

/-! ## Loads and stores that Resolve refuses -/

theorem memory_of_refused {s : State} {k : MemKind} {sp : SP} {x : Word} {op : AccessOp} {bytes count : Nat} {reg : Reg}
    {data : List Word} {c sub : Nat} (h : s.resolve k sp x (bytes * count) bytes = .error (c, sub)) :
    s.memory k sp x op bytes count reg data = s.trap c sub x := by
  rw [State.memory, h]

section
variable (w : Width) (sg : Bool) {o : Ord} (d : Reg) {sp : SP} {m : Addr} {s : State} {c sub : Nat} (hn : s.NamesOwn sp)
include hn

theorem trapsOn_ld_st (ho : o ≠ .counted)
    (hr : s.resolve .plain sp (s.effAddr m) (w.bits / 8) (w.bits / 8) = .error (c, sub)) :
    TrapsOn (.ld w sg o sp d m) c sub (s.effAddr m) s ∧ TrapsOn (.st w o sp d m) c sub (s.effAddr m) s := by
  have hr : s.resolve .plain sp (s.effAddr m) (w.bits / 8 * 1) (w.bits / 8) = .error (c, sub) := by rwa [Nat.mul_one]
  exact ⟨trapsOn_of_body (exec_ld ..) (hn.issueFault_ld ..) (memory_of_refused hr),
    trapsOn_of_body (exec_st ..) (hn.issueFault_st ..) ((if_neg ho).trans (memory_of_refused hr))⟩

theorem trapsOn_ldm_stm (hr : s.resolve .plain sp (s.effAddr m) (w.bits / 8 * 4) (w.bits / 8) = .error (c, sub)) :
    TrapsOn (.ldm w sg o sp d m) c sub (s.effAddr m) s ∧ TrapsOn (.stm w o sp d m) c sub (s.effAddr m) s :=
  ⟨trapsOn_of_body (exec_ldm ..) (hn.issueFault_ldm ..) (memory_of_refused hr),
    trapsOn_of_body (exec_stm ..) (hn.issueFault_stm ..) (memory_of_refused hr)⟩

end

/-- Settles O17: of an own store what Resolve refuses, of CONTEXT what check 6 of the frame does. -/
theorem aliasAccessesAreChecked : Obligations.AliasAccessesAreChecked := by
  unfold Obligations.AliasAccessesAreChecked
  intro w sg o sp d m s n reach size x e ho
  refine ⟨fun hn => ?own, fun hl => ?context⟩
  case own =>
    have hn : s.NamesOwn sp := hn
    have bound : aliasSize sp = size sp := hn.aliasSize_eq
    rw [← bound]
    exact ⟨fun hb => trapsOn_ld_st w sg d hn ho (hn.resolve_plain_beyond hb),
      fun hb => trapsOn_ldm_stm w sg d hn (hn.resolve_plain_beyond hb),
      fun hb ha => trapsOn_ld_st w sg d hn ho (hn.resolve_plain_misaligned hb ha),
      fun hb ha => trapsOn_ldm_stm w sg d hn (hn.resolve_plain_misaligned hb ha)⟩
  case context =>
    refine ⟨?_, ?_, ?_, ?_⟩
    all_goals exact trapsOn_of_privFault rfl rfl (if_pos hl)

end Sys2Proof.Machine
end

section
/-! FENCE, and RACEM of the own G store (07 R153, R165; 08 R185). -/
namespace Sys2Proof.Machine
open Sys2Proof

/-! ## FENCE -/

theorem exec_fence (classes : BitVec 8) (sc : Scope) (s : State) : exec (.fence classes sc) s =
    issue (.fence classes sc) s fun s => if s.fenceWaits classes then s.block s.cur .poll else s.finish 8 := rfl

/-- What a FENCE waits for: matrix instructions of its thread that have not finished, and the thread's outstanding stores (08 R185). -/
theorem fenceWaits_iff {s : State} {classes : BitVec 8} : s.fenceWaits classes = true ↔
    (classes.getLsbD 3 = true ∧ isOrdinary s.cur = true ∧ (s.slotAt s.cur).engine = .matrix
      ∧ (s.tileAt (tileOf s.cur)).mx.queue ≠ [])
    ∨ (∃ y ∈ s.culvert, y.slot = s.cur ∧ classes.getLsbD y.cls = true) := by
  simp only [State.fenceWaits, State.matrixBusy, Bool.or_eq_true, Bool.and_eq_true, decide_eq_true_eq, List.any_eq_true, and_assoc]

theorem finishes_fence {s : State} {classes : BitVec 8} (sc : Scope) (h : s.fenceWaits classes = false) :
    Finishes (.fence classes sc) 8 (s.img s.cur) s s :=
  ⟨_, (exec_scalar (exec_fence ..) rfl rfl rfl rfl).trans (congrArg _ (if_neg (by rw [h]; exact Bool.false_ne_true))), ends_finish ..⟩

theorem blocksOn_fence {s : State} {classes : BitVec 8} (sc : Scope) (h : s.fenceWaits classes = true) :
    BlocksOn (.fence classes sc) .poll s s :=
  blocksOn_of_body (exec_fence ..) (issueFault_access rfl rfl rfl rfl) (if_pos h)

/-! ## The ranges of a G store -/

theorem setCore_setCore (s : State) (c : Nat) (x y : Core) : (s.setCore c x).setCore c y = s.setCore c y :=
  congrArg (fun m => { s with cores := m }) (put_put ..)

section
variable (s : State) (c off n : Nat)

theorem setRanges_g (r : List (Nat × Nat)) : s.setRanges (gLoc c off) r = s.setCore c { s.coreAt c with ranges := r } := rfl
theorem noteMarks_g (f : List (Nat × (Nat × Nat)) → List (Nat × (Nat × Nat))) :
    s.noteMarks (gLoc c off) f = s.setCore c { s.coreAt c with marks := f (s.coreAt c).marks } := rfl

/-- RACEM with [63] set gives back the store's ranges that lie wholly inside, with what is noted of who marked them. -/
theorem clearRanges_g : s.clearRanges (gLoc c off) n = s.setCore c { s.coreAt c with
    ranges := (s.coreAt c).ranges.filter fun r => !decide (off ≤ r.1 ∧ r.1 + r.2 ≤ off + n)
    marks := (s.coreAt c).marks.filter fun p => !decide (off ≤ p.2.1 ∧ p.2.1 + p.2.2 ≤ off + n) } := by
  rw [State.clearRanges, setRanges_g, noteMarks_g, State.coreAt_setCore, setCore_setCore]
  rfl

/-- RACEM enters a range after those that the store holds, with the issuing thread's launch, and empties its granules' stamps. -/
theorem markRange_g : s.markRange (gLoc c off) n = { s.setCore c { s.coreAt c with
    ranges := (s.coreAt c).ranges ++ [(off, n)]
    marks := (s.coreAt c).marks ++ [((s.slotAt s.cur).launch, (off, n))] } with
    stamps := s.stamps.filter fun p => p.1 < (gLoc c off).key || (gLoc c off).key + n ≤ p.1 } := by
  rw [State.markRange, setRanges_g, noteMarks_g, State.coreAt_setCore, setCore_setCore]
  rfl

end

/-! ## RACEM -/

/-- Bits [5:0] of an address, clear where it starts a granule (07 R153). -/
theorem bits_five_zero (x : Word) : bits x 5 0 = x.toNat % 64 := by
  rw [bits, Nat.pow_zero, Nat.div_one]
  rfl

/-- What RACEM does with a range of whole granules (07 R165). -/
def State.racemRange (s : State) (d : Reg) (x : Word) (l : Loc) (n : Nat) : State :=
  if !(s.launchOf s.cur).isChecked then s.retire 8
  else if bit (s.g d) 63 then (s.clearRanges l n).retire 8
  else if 4 ≤ (s.rangesOf l).length then s.trap 0x09 0x08 x
  else (s.markRange l n).retire 8

/-- Retiring after what an instruction does outside its slot. -/
theorem retires_retire {s u : State} (len : Nat) (hc : u.cur = s.cur) (hi : u.img s.cur = s.img s.cur) :
    Retires s.cur len (s.img s.cur) u (u.retire len) := by
  rw [State.retire, hc, ← hi]
  exact retires_retireOf ..

theorem acts_of_retire {i : Instr} {s u : State} {len : Nat} (hx : exec i s = .next (u.retire len)) (hc : u.cur = s.cur)
    (hi : u.img s.cur = s.img s.cur) : Acts i len (s.img s.cur) u s := ⟨_, hx, retires_retire len hc hi⟩

/-- The location of the own G store at an instruction's effective address. -/
abbrev State.ownWord (s : State) (m : Addr) : Loc := gLoc (coreOf s.cur) (s.effAddr m).toNat
/-- The length or the count that g[D] [62:0] gives (07 R162, R165). -/
abbrev State.countIn (s : State) (d : Reg) : Nat := bits (s.g d) 62 0

section
variable {d : Reg} {m : Addr} {s : State} (hb : (s.effAddr m).toNat + s.countIn d ≤ 0x70000)
include hb

theorem exec_racem : exec (.racem .g d m) s =
    .next (if bits (s.effAddr m) 5 0 ≠ 0 ∨ s.countIn d % 64 ≠ 0 ∨ s.countIn d = 0 then s.trap 0x08 0x01 (s.effAddr m)
      else s.racemRange d (s.effAddr m) (s.ownWord m) (s.countIn d)) := by
  have resolved : s.resolve .race .g (s.effAddr m) (s.countIn d) 1 = .ok (s.ownWord m) :=
    State.NamesOwn.resolve (.inl rfl) nofun rfl hb (Nat.mod_one _)
  show execRacem .g d m s = _
  rw [execRacem, issue_ok (issueFault_access rfl rfl rfl rfl)]
  dsimp only
  rw [resolved]
  rfl

theorem trapsOn_racem_misaligned (h : (s.effAddr m).toNat % 64 ≠ 0 ∨ s.countIn d % 64 ≠ 0 ∨ s.countIn d = 0) :
    TrapsOn (.racem .g d m) 0x08 1 (s.effAddr m) s := by
  rw [← bits_five_zero] at h
  exact ⟨_, (exec_racem hb).trans (congrArg _ (if_pos h)), traps_trap ..⟩

variable (hx : (s.effAddr m).toNat % 64 = 0) (hn : s.countIn d % 64 = 0) (h0 : s.countIn d ≠ 0)
include hx hn h0

theorem exec_racem_of_aligned : exec (.racem .g d m) s = .next (s.racemRange d (s.effAddr m) (s.ownWord m) (s.countIn d)) := by
  rw [← bits_five_zero] at hx
  exact (exec_racem hb).trans (congrArg _ (if_neg fun h => h.elim (absurd hx) fun h => h.elim (absurd hn) h0))

theorem acts_racem_unchecked (hc : (s.launchOf s.cur).isChecked = false) : Acts (.racem .g d m) 8 (s.img s.cur) s s :=
  acts_of_retire ((exec_racem_of_aligned hb hx hn h0).trans (congrArg _ (if_pos (by rw [hc]; rfl)))) rfl rfl

variable (hc : (s.launchOf s.cur).isChecked = true)
include hc

theorem exec_racem_checked : exec (.racem .g d m) s =
    .next (if bit (s.g d) 63 then (s.clearRanges (s.ownWord m) (s.countIn d)).retire 8
      else if 4 ≤ (s.coreAt (coreOf s.cur)).ranges.length then s.trap 0x09 0x08 (s.effAddr m)
      else (s.markRange (s.ownWord m) (s.countIn d)).retire 8) :=
  (exec_racem_of_aligned hb hx hn h0).trans (congrArg _ (if_neg (by rw [hc]; exact Bool.false_ne_true)))

end

/-- Settles O20: FENCE by what it waits for, RACEM by its checks in their order and what it does to the store's ranges. -/
theorem fencesAndRaceRanges : Obligations.FencesAndRaceRanges := by
  unfold Obligations.FencesAndRaceRanges
  intro classes sc d m s n x len l rs ms busy
  have waits : s.fenceWaits classes = true ↔ busy := fenceWaits_iff
  refine ⟨fun h => finishes_fence sc (eq_false_of_ne_true (mt waits.1 h)), fun h => blocksOn_fence sc (waits.2 h),
    fun hb => ⟨trapsOn_racem_misaligned hb, fun hx hn h0 => ⟨acts_racem_unchecked hb hx hn h0, fun hc => ?checked⟩⟩⟩
  case checked =>
    have run := exec_racem_checked hb hx hn h0 hc
    refine ⟨fun hf => ?clears, fun hf h4 => ?full, fun hf h4 => ?marks⟩
    case clears =>
      rw [← clearRanges_g]
      refine acts_of_retire (run.trans (congrArg _ (if_pos hf))) ?_ ?_
      · rw [clearRanges_g]; rfl
      · rw [clearRanges_g]; rfl
    case full =>
      exact ⟨_, run.trans (by rw [hf]; exact congrArg _ (if_pos h4)), traps_trap ..⟩
    case marks =>
      have marked : exec (.racem .g d m) s = .next ((s.markRange l len).retire 8) :=
        run.trans (by rw [hf]; exact congrArg _ (if_neg (Nat.not_le.2 h4)))
      have range := markRange_g s (coreOf n) x.toNat len
      refine ⟨s.markRange l len, acts_of_retire marked ?_ ?_, ?_, fun p => ?_⟩
      · rw [range]; rfl
      · rw [range]; rfl
      · rw [range]
      · rw [range]
        simp only [List.mem_filter, Bool.or_eq_true, decide_eq_true_eq]
        rfl

end Sys2Proof.Machine
end

section
/-! Full/empty tags: LDF, LDE, STF, STFF, TAGQ and TAGSET of the own G store, at their issue by GLOBAL, at the owner, and a TAGSET's reply
(07 R142 to R144, R149, R160 to R162). -/
namespace Sys2Proof.Machine
open Sys2Proof

/-! ## Setting a tag that no slot waits for (07 R144) -/

theorem onlyContents_setTag (s : State) (l : Loc) (full : Bool) : OnlyContents s (s.setTag l full) := by
  unfold State.setTag
  split
  · rfl
  · rfl

theorem tagWaiters_setTag (s : State) (l : Loc) (full : Bool) (x : Loc) (op : TagOp) :
    (s.setTag l full).tagWaiters x op = s.tagWaiters x op := by
  rw [onlyContents_setTag]
  rfl

section
variable {s : State} {l : Loc} (h : ∀ op, s.tagWaiters l op = [])
include h

theorem serve_of_no_waiters (f : Nat) : s.serve l f = s := by
  cases f with
  | zero => rfl
  | succ f =>
    rw [State.serve]
    simp only [h, List.foldl_nil, State.firstOf]
    exact ite_self _

theorem changeTag_of_no_waiters (full : Bool) : s.changeTag l full = s.setTag l full :=
  serve_of_no_waiters (fun op => (tagWaiters_setTag ..).trans (h op)) _

end

theorem foldl_changeTag_of_no_waiters {s : State} {is : List Nat} {wd : Nat → Loc} (full : Bool)
    (h : ∀ i ∈ is, ∀ op, s.tagWaiters (wd i) op = []) :
    is.foldl (fun u i => u.changeTag (wd i) full) s = is.foldl (fun u i => u.setTag (wd i) full) s := by
  induction is generalizing s with
  | nil => rfl
  | cons i is ih =>
    rw [List.foldl_cons, List.foldl_cons, changeTag_of_no_waiters (h i List.mem_cons_self)]
    exact ih fun j hj op => (tagWaiters_setTag ..).trans (h j (List.mem_cons_of_mem _ hj) op)

/-! ## Performing a tagged access at a word that no slot waits for -/

section
variable {s : State} {n : Nat} {a : Access} (hp : s.poisoned a.loc (a.bytes * a.count) = false)
include hp

theorem perform_tagq (ha : a.op = .tagq) : s.perform n a = (.done [if s.tagFull a.loc then 1 else 0], s) := by
  simp only [State.perform, ha, hp, Bool.and_false, Bool.false_eq_true, if_false]

theorem perform_stff (ha : a.op = .stff) (hw : ∀ op, s.tagWaiters a.loc op = []) : s.perform n a =
    (.done [], ({ s with mem := storeNat s.mem a.loc.key 8 (s.gOf n a.reg).toNat } : State).setTag a.loc true) := by
  have set := changeTag_of_no_waiters (s := s.write a.loc 8 (s.gOf n a.reg).toNat) hw true
  simp only [State.perform, ha, hp, set, Bool.and_false, Bool.false_eq_true, if_false]
  rfl

theorem perform_tagset {full : Bool} (ha : a.op = .tagset full) (hw : ∀ i < a.count, ∀ op, s.tagWaiters (a.elem i) op = []) :
    s.perform n a = (.done [], (List.range a.count).foldl (fun u i => u.setTag (a.elem i) full) s) := by
  have set := foldl_changeTag_of_no_waiters full fun i hi => hw i (List.mem_range.1 hi)
  simp only [State.perform, ha, hp, State.setTags, set, Bool.and_false, Bool.false_eq_true, if_false]

end

/-- What an LDF, LDE or STF that can proceed answers and leaves, noted by the controller as taken (07 R143, R144, R160). -/
def State.tagServed (s : State) (op : TagOp) (n : Nat) (a : Access) : List Word × State :=
  let taken := s.tagTaken op a.loc n
  match op with
  | .ldf => ([word (s.read a.loc 8)], taken)
  | .lde => ([word (s.read a.loc 8)], taken.setTag a.loc false)
  | .stf => ([], ({ taken with mem := storeNat s.mem a.loc.key 8 (s.gOf n a.reg).toNat } : State).setTag a.loc true)

/-- It is the issuing slot's instruction that goes on, with its image as it was. -/
theorem tagServed_issuer (s : State) (op : TagOp) (n : Nat) (a : Access) :
    (s.tagServed op n a).2.cur = s.cur ∧ (s.tagServed op n a).2.img s.cur = s.img s.cur := by
  cases op
  case ldf => exact ⟨rfl, rfl⟩
  all_goals
    rw [State.tagServed, onlyContents_setTag]
    exact ⟨rfl, rfl⟩

theorem eq_access_of_tagOp {o : AccessOp} {op : TagOp} (h : o.tagOp = some op) : o = op.access := by
  cases o with
  | ldf | lde | stf =>
    cases h
    rfl
  | _ => cases h

theorem checked_of_tagOp {o : AccessOp} {op : TagOp} (h : o.tagOp = some op) : o.checked = false := by
  rw [eq_access_of_tagOp h]
  cases op
  all_goals rfl

section
variable {s : State} {n : Nat} {a : Access} {op : TagOp} (ht : a.op.tagOp = some op) (hb : a.bytes * a.count = 8)
  (hp : s.poisoned a.loc 8 = false) (hw : ∀ o, s.tagWaiters a.loc o = [])
include ht hb hp hw

theorem perform_tagTaken : (s.tagTaken op a.loc n).perform n a = (.done (s.tagServed op n a).1, (s.tagServed op n a).2) := by
  have whole : (s.tagTaken op a.loc n).poisoned a.loc 8 = false := hp
  have free : ∀ o, (s.tagTaken op a.loc n).tagWaiters a.loc o = [] := hw
  have ha := eq_access_of_tagOp ht
  cases op
  case ldf =>
    simp only [State.perform, ha, TagOp.access, hb, whole, Bool.and_false, Bool.false_eq_true, if_false]
    rfl
  case lde =>
    simp only [State.perform, ha, TagOp.access, hb, whole, changeTag_of_no_waiters free, Bool.and_false, Bool.false_eq_true, if_false]
    rfl
  case stf =>
    have set := changeTag_of_no_waiters (s := (s.tagTaken .stf a.loc n).write a.loc 8 ((s.tagTaken .stf a.loc n).gOf n a.reg).toNat) free true
    simp only [State.perform, ha, TagOp.access, hb, whole, set, Bool.and_false, Bool.false_eq_true, if_false]
    rfl

/-- At the own store it proceeds at once where the word's tag is as it needs, and waits for it where it is not (07 R143). -/
theorem aliasAccess_of_tagOp : s.aliasAccess a =
    if s.tagReady op a.loc then ((s.tagServed op s.cur a).2.putReply s.cur a.reg (s.tagServed op s.cur a).1).retire 8
    else s.block s.cur (.tagged op a.reg a.loc a.ea 0) := by
  simp only [State.aliasAccess, checked_of_tagOp ht, ht, hp, perform_tagTaken ht hb hp hw, Bool.false_eq_true, if_false]

theorem ownerTakes_of_tagOp (edges : Nat) : s.ownerTakes n a edges =
    if s.tagReady op a.loc then (s.tagServed op n a).2.block n (.globalIn a (.done (s.tagServed op n a).1))
    else s.block n (.tagged op a.reg a.loc a.ea edges) := by
  simp only [State.ownerTakes, checked_of_tagOp ht, ht, hp, perform_tagTaken ht hb hp hw, Bool.false_eq_true, if_false]

end

/-! ## Accesses that nothing checks and that wait for no tag -/

section
variable {s u : State} {n : Nat} {a : Access}

theorem putReply_nil (s : State) (n : Nat) (r : Reg) : s.putReply n r [] = s := rfl

/-- TAGSET of the own store retires and forfeits its turns (07 R162). -/
theorem aliasAccess_of_tagset {full : Bool} (ha : a.op = .tagset full) (hp : s.perform s.cur a = (.done [], u)) :
    s.aliasAccess a = (u.retire 8).stall s.cur (ceilDiv (a.count - 64) 64) := by
  simp only [State.aliasAccess, ha, AccessOp.checked, AccessOp.tagOp, AccessOp.stallOf, hp, putReply_nil, Bool.false_eq_true, if_false]

theorem ownerTakes_of_performed {r : Reply} (hc : a.op.checked = false) (ht : a.op.tagOp = none) (hp : s.perform n a = (r, u))
    (edges : Nat) : s.ownerTakes n a edges = u.block n (.globalIn a r) := by
  have other : a.op ≠ .store := fun h => by
    rw [h] at hc
    cases hc
  have unposted : s.postsGlobal n a = false := by simp [State.postsGlobal, other]
  simp only [State.ownerTakes, hc, ht, hp, unposted, Bool.false_eq_true, if_false]

end

/-! ## The turns that a TAGSET forfeits (07 R162) -/

theorem stall_ceilDiv (v : State) (n c : Nat) : v.stall n (ceilDiv (c - 64) 64) =
    if c ≤ 64 then v else v.setSlot n { v.slotAt n with issueFrom := v.now n + 16 * ((c - 64 + 63) / 64 + 1) } := by
  have turns : ceilDiv (c - 64) 64 = (c - 64 + 63) / 64 := by rw [ceilDiv, Nat.add_sub_assoc (by decide)]
  have zero : (c - 64 + 63) / 64 = 0 ↔ c ≤ 64 := by omega
  rw [State.stall, turns]
  simp only [zero]

/-- Forfeited turns leave what a stop is decided by. -/
theorem stall_stop (v : State) (n k : Nat) : ((v.stall n k).img n).paircfg = (v.img n).paircfg
    ∧ ∀ j, ((v.stall n k).slotAt j).stopDue = (v.slotAt j).stopDue := by
  unfold State.stall
  split
  · exact ⟨rfl, fun _ => rfl⟩
  · refine ⟨by rw [img_setSlot_same]; rfl, fun j => ?_⟩
    by_cases hj : j = n
    · rw [hj, State.slotAt_setSlot]
    · rw [State.slotAt_setSlot_of_ne _ _ hj]

/-! ## The own G store -/

section
variable (sp : SP) (d : Reg) (m : Addr) (s : State)

theorem exec_ldf : exec (.ldf sp d m) s = issue (.ldf sp d m) s fun s => s.memory .tagged sp (s.effAddr m) .ldf 8 1 d [] := rfl
theorem exec_lde : exec (.lde sp d m) s = issue (.lde sp d m) s fun s => s.memory .tagged sp (s.effAddr m) .lde 8 1 d [] := rfl
theorem exec_stf : exec (.stf sp d m) s = issue (.stf sp d m) s fun s => s.memory .tagged sp (s.effAddr m) .stf 8 1 d [] := rfl
theorem exec_stff : exec (.stff sp d m) s = issue (.stff sp d m) s fun s => s.memory .tagged sp (s.effAddr m) .stff 8 1 d [] := rfl
theorem exec_tagq : exec (.tagq sp d m) s = issue (.tagq sp d m) s fun s => s.memory .tagged sp (s.effAddr m) .tagq 8 1 d [] := rfl
theorem exec_tagset : exec (.tagset sp d m) s = issue (.tagset sp d m) s fun s =>
    if s.countIn d = 0 then s.retire 8
    else s.memory .tagged sp (s.effAddr m) (.tagset (bit (s.g d) 63)) 8 (s.countIn d) d [] := rfl

/-- A tagged access of `count` words of the issuing core's G store. -/
abbrev State.tagAccess (op : AccessOp) (count : Nat) : Access := ⟨op, 8, count, d, [], s.effAddr m, s.ownWord m⟩

end

/-- An access that answers one value and retires. -/
theorem acts_of_value {i : Instr} {s u : State} {r : Reg} {x : Word} (hx : exec i s = .next ((u.putReply s.cur r [x]).retire 8))
    (hc : u.cur = s.cur) (hi : u.img s.cur = s.img s.cur) : Acts i 8 ((s.img s.cur).withG r x) u s := by
  have put : u.putReply s.cur r [x] = u.setGOf s.cur r x := congrArg (u.setGOf s.cur · x) (regPlus_zero r)
  refine ⟨_, hx, ?_⟩
  rw [put, State.retire, State.setGOf_cur, hc, ← hi]
  exact retires_setGOf ..

section
variable {i : Instr} {body : State → State} {op : AccessOp} {count : Nat} {d : Reg} {m : Addr} {s : State}
  (hx : exec i s = issue i s body) (hi : s.issueFault i = none) (ha : (s.effAddr m).toNat % 8 = 0)
include hx hi ha

/-- A tagged access of words in the user part of the own G store is made at once. -/
theorem exec_of_tagged (hm : body s = s.memory .tagged .g (s.effAddr m) op 8 count d [])
    (hb : (s.effAddr m).toNat + 8 * count ≤ 0x70000) : exec i s = .next (s.aliasAccess (s.tagAccess d m op count)) := by
  have resolved : s.resolve .tagged .g (s.effAddr m) (8 * count) 8 = .ok (s.ownWord m) :=
    State.NamesOwn.resolve (.inl rfl) nofun rfl hb ha
  refine (hx.trans (issue_ok hi)).trans (congrArg _ ?_)
  rw [hm, State.memory, resolved]
  rfl

/-- By GLOBAL it is one that blocks its thread (07 R138). -/
theorem blocksOn_of_tagged {l : Loc} (hm : body s = s.memory .tagged .glob (s.effAddr m) op 8 count d [])
    (hl : s.globalLoc (s.effAddr m) = .ok l) (hg : l.sp = .g) (hb : l.off + 8 * count ≤ spSize .g) :
    BlocksOn i (.globalOut ⟨op, 8, count, d, [], s.effAddr m, l⟩ 0) s s := by
  have resolved : s.resolve .tagged .glob (s.effAddr m) (8 * count) 8 = .ok l := by
    simp [State.resolve, hl, hg, hb, ha, kindAllowed, bind, Except.bind, pure, Except.pure]
  exact blocksOn_of_body hx hi (hm.trans (memory_of_resolve resolved))

end

section
variable (d : Reg) {m : Addr} {s : State} (ha : (s.effAddr m).toNat % 8 = 0) (hb : (s.effAddr m).toNat + 8 ≤ 0x70000)
  (hp : s.poisoned (s.ownWord m) 8 = false)
include ha hb hp

theorem gives_tagq (hs : s.sealedHere = false) : Gives (.tagq .g d m) 8 d (if s.tagFull (s.ownWord m) then 1 else 0) s := by
  have clear : s.issueFault (.tagq .g d m) = none := issueFault_eq_none rfl rfl (engineAllows_scalar _) (.inr hs)
  refine acts_of_value ((exec_of_tagged (count := 1) (exec_tagq ..) clear ha rfl hb).trans (congrArg _ ?_)) rfl rfl
  exact aliasAccess_of_done (.inl rfl) rfl rfl (perform_tagq hp rfl)

variable (hw : ∀ op, s.tagWaiters (s.ownWord m) op = [])
include hw

theorem acts_stff : let l := s.ownWord m
    Acts (.stff .g d m) 8 (s.img s.cur) (({ s with mem := storeNat s.mem l.key 8 (s.g d).toNat } : State).setTag l true) s := by
  intro l
  have performed := aliasAccess_of_done (a := s.tagAccess d m .stff 1) (.inl rfl) rfl rfl (perform_stff hp rfl hw)
  rw [putReply_nil] at performed
  have only := onlyContents_setTag { s with mem := storeNat s.mem l.key 8 (s.g d).toNat } l true
  refine acts_of_retire ((exec_of_tagged (count := 1) (exec_stff ..) (issueFault_access rfl rfl rfl rfl) ha rfl hb).trans
    (congrArg _ performed)) ?_ ?_
  · rw [only]
  · rw [only]
    rfl

section
variable {i : Instr} {op : AccessOp} {o : TagOp} (hx : exec i s = issue i s fun s => s.memory .tagged .g (s.effAddr m) op 8 1 d [])
  (hi : s.issueFault i = none) (ht : op.tagOp = some o)
include hx hi ht

theorem exec_of_tagReady (hr : s.tagReady o (s.ownWord m) = true) :
    let r := s.tagServed o s.cur (s.tagAccess d m op 1)
    exec i s = .next ((r.2.putReply s.cur d r.1).retire 8) :=
  (exec_of_tagged hx hi ha rfl hb).trans (congrArg _ ((aliasAccess_of_tagOp ht rfl hp hw).trans (if_pos hr)))

theorem blocksOn_of_not_tagReady (hr : s.tagReady o (s.ownWord m) = false) :
    BlocksOn i (.tagged o d (s.ownWord m) (s.effAddr m) 0) s s :=
  (exec_of_tagged hx hi ha rfl hb).trans (congrArg _ ((aliasAccess_of_tagOp ht rfl hp hw).trans
    (if_neg (by rw [hr]; exact Bool.false_ne_true))))

end

theorem acts_ldf_lde (hf : s.tagFull (s.ownWord m) = true) : let l := s.ownWord m
    Acts (.ldf .g d m) 8 ((s.img s.cur).withG d (word (s.read l 8))) (s.tagTaken .ldf l s.cur) s
    ∧ Acts (.lde .g d m) 8 ((s.img s.cur).withG d (word (s.read l 8))) ((s.tagTaken .lde l s.cur).setTag l false) s := by
  have ldf := exec_of_tagReady d ha hb hp hw (exec_ldf ..) (issueFault_access rfl rfl rfl rfl) rfl hf
  have lde := exec_of_tagReady d ha hb hp hw (exec_lde ..) (issueFault_access rfl rfl rfl rfl) rfl hf
  obtain ⟨cur, image⟩ := tagServed_issuer s .lde s.cur (s.tagAccess d m .lde 1)
  exact ⟨acts_of_value ldf rfl rfl, acts_of_value lde cur image⟩

theorem acts_stf (he : s.tagFull (s.ownWord m) = false) : let l := s.ownWord m
    Acts (.stf .g d m) 8 (s.img s.cur)
      (({ s.tagTaken .stf l s.cur with mem := storeNat s.mem l.key 8 (s.g d).toNat } : State).setTag l true) s := by
  have ready : s.tagReady .stf (s.ownWord m) = true := by rw [State.tagReady, he]; rfl
  have stf := exec_of_tagReady d ha hb hp hw (exec_stf ..) (issueFault_access rfl rfl rfl rfl) rfl ready
  obtain ⟨cur, image⟩ := tagServed_issuer s .stf s.cur (s.tagAccess d m .stf 1)
  exact acts_of_retire stf cur image

end

theorem trapsOn_tagq_sealed (d : Reg) (m : Addr) {s : State} (hs : s.sealedHere = true) : TrapsOn (.tagq .g d m) 0x07 0 0 s :=
  trapsOn_of_issueFault (exec_tagq .g d m s) (issueFault_of_sealed rfl rfl (engineAllows_scalar _) rfl hs)

/-! ## TAGSET of the own G store -/

section
variable (d : Reg) (m : Addr) {s : State}

theorem acts_tagset_of_no_words (h0 : s.countIn d = 0) : Acts (.tagset .g d m) 8 (s.img s.cur) s s :=
  acts_of_retire ((exec_scalar (exec_tagset ..) rfl rfl rfl rfl).trans (congrArg _ (if_pos h0))) rfl rfl

/-- The state after TAGSET has set the tags of its words. -/
abbrev State.tagsetDone (s : State) (d : Reg) (m : Addr) : State :=
  (List.range (s.countIn d)).foldl
    (fun u k => u.setTag (gLoc (coreOf s.cur) ((s.effAddr m).toNat + 8 * k)) (bit (s.g d) 63)) s

theorem retires_tagset (h0 : s.countIn d ≠ 0) (ha : (s.effAddr m).toNat % 8 = 0)
    (hb : (s.effAddr m).toNat + 8 * s.countIn d ≤ 0x70000) (hp : s.poisoned (s.ownWord m) (8 * s.countIn d) = false)
    (hw : ∀ k op, k < s.countIn d → s.tagWaiters (gLoc (coreOf s.cur) ((s.effAddr m).toNat + 8 * k)) op = []) :
    ∃ v, Retires s.cur 8 (s.img s.cur) (s.tagsetDone d m) v
      ∧ exec (.tagset .g d m) s = .next (if s.countIn d ≤ 64 then v
        else v.setSlot s.cur { v.slotAt s.cur with issueFrom := s.now s.cur + 16 * ((s.countIn d - 64 + 63) / 64 + 1) }) := by
  let a := s.tagAccess d m (.tagset (bit (s.g d) 63)) (s.countIn d)
  have elem (k : Nat) : a.elem k = gLoc (coreOf s.cur) ((s.effAddr m).toNat + 8 * k) := by rw [Nat.mul_comm]; rfl
  have performed := perform_tagset (s := s) (n := s.cur) (a := a) hp rfl fun k hk op => by rw [elem]; exact hw k op hk
  simp only [elem] at performed
  have run : exec (.tagset .g d m) s = .next (((s.tagsetDone d m).retire 8).stall s.cur (ceilDiv (s.countIn d - 64) 64)) :=
    (exec_of_tagged (exec_tagset ..) (issueFault_access rfl rfl rfl rfl) ha (if_neg h0) hb).trans
      (congrArg _ (aliasAccess_of_tagset rfl performed))
  have only : OnlyContents s (s.tagsetDone d m) := onlyContents_foldl (fun _ _ => onlyContents_setTag ..) _ s
  have retires : Retires s.cur 8 (s.img s.cur) (s.tagsetDone d m) ((s.tagsetDone d m).retire 8) :=
    retires_retire 8 (by rw [only]) (by rw [only]; rfl)
  have now : ((s.tagsetDone d m).retire 8).now s.cur = s.now s.cur := (OnlySlot.now retires.1 _).trans (by rw [only]; rfl)
  refine ⟨_, retires, run.trans (congrArg _ ?_)⟩
  rw [stall_ceilDiv, now]

end

/-! ## At the owner -/

theorem OnlyStores.gOf {s t : State} (h : OnlyStores s t) (n : Nat) (r : Reg) : t.gOf n r = s.gOf n r := by
  rw [h]
  rfl

section
variable {s : State} {k e : Nat} {a : Access} {edges : Nat} (hw : (s.slotAt k).wait = some (.globalOut a edges))
include hw

/-- A request that a window admits and that is not late is taken by its owner. -/
theorem globalRequest_of_admitted (hl : s.requestLate k a = false)
    (hd : a.op.tagOp = none ∨ ∀ j ∈ s.pairOf k, (s.slotAt j).stopDue = false) (he : a.bytes * a.count = e)
    (hq : s.windowRefusal k a.loc e a.op.rights = none) :
    exec (.globalRequest k) s = .next ((s.landAccepted a.loc e).ownerTakes k a edges) := by
  subst he
  rw [globalRequest_runs hw hl, takeStop_ownerServes hd, ownerServes_of_admitted edges hq]

/-- One that nothing checks and that waits for no tag is performed, and the reply is under way. -/
theorem globalRequest_leaves {u : State} {vals : List Word} (hc : a.op.checked = false) (ht : a.op.tagOp = none)
    (he : a.bytes * a.count = e) (hq : s.windowRefusal k a.loc e a.op.rights = none)
    (hp : (s.landAccepted a.loc e).perform k a = (.done vals, u)) :
    exec (.globalRequest k) s = .next (u.setSlot k { u.slotAt k with wait := some (.globalIn a (.done vals)) }) :=
  (globalRequest_of_admitted hw (by rw [State.requestLate, ht]) (.inl ht) he hq).trans
    (congrArg _ (ownerTakes_of_performed hc ht hp edges))

end

/-! ## The reply of a TAGSET -/

theorem globalReply_of_tagset {s : State} {k : Nat} {a : Access} {full : Bool}
    (hw : (s.slotAt k).wait = some (.globalIn a (.done []))) (ha : a.op = .tagset full)
    (hd : ∀ j ∈ s.pairOf k, (s.slotAt j).stopDue = false) : ∃ v, Completes k 8 (s.img k) s v
      ∧ exec (.globalReply k) s = .next (if a.count ≤ 64 then v
        else v.setSlot k { v.slotAt k with issueFrom := s.now k + 16 * ((a.count - 64 + 63) / 64 + 1) }) := by
  have done := completes_complete s k 8
  have arrives : s.replyArrives k a (.done []) = (s.complete k 8).stall k (ceilDiv (a.count - 64) 64) := by
    rw [State.replyArrives, ha]
    rfl
  obtain ⟨pair, stop⟩ := done.stop rfl
  obtain ⟨pair', stop'⟩ := stall_stop (s.complete k 8) k (ceilDiv (a.count - 64) 64)
  have stays := takeStop_of_not_asked (stopAsked_of_pair (pair'.trans pair) (fun j => (stop' j).trans (stop j)) hd)
  refine ⟨_, done, (globalReply_runs hw).trans (congrArg _ ?_)⟩
  rw [arrives, stays, stall_ceilDiv, OnlySlot.now done.1]

/-- Settles O18: an LDF, LDE or STF by whether its word's tag lets it proceed, the others as accesses that are performed, each of the own
store and at the owner; by GLOBAL as one that blocks; TAGSET's forfeited turns at its issue and at its reply. -/
theorem taggedAccesses : Obligations.TaggedAccesses := by
  unfold Obligations.TaggedAccesses
  intro d m s n x l im v
  refine ⟨fun ha hb hp hw => ⟨fun hf => ?full, fun he => ?empty, acts_stff d ha hb hp hw, gives_tagq d ha hb hp, trapsOn_tagq_sealed d m,
      acts_tagset_of_no_words d m, fun h0 hb hp hw => retires_tagset d m h0 ha hb hp hw⟩,
    fun gl hl hg ha hb => ?global, fun k a edges op hw ht hl hd hbytes hcount hq => ?waits, fun k a edges hw hbytes hq => ?performs,
    fun k a hw ⟨full, ha⟩ hd => globalReply_of_tagset hw ha hd⟩
  case full =>
    have held : s.tagReady .stf l = false := by rw [State.tagReady, hf]; rfl
    obtain ⟨ldf, lde⟩ := acts_ldf_lde d ha hb hp hw hf
    exact ⟨ldf, lde, blocksOn_of_not_tagReady d ha hb hp hw (exec_stf ..) (issueFault_access rfl rfl rfl rfl) rfl held⟩
  case empty =>
    exact ⟨blocksOn_of_not_tagReady d ha hb hp hw (exec_ldf ..) (issueFault_access rfl rfl rfl rfl) rfl he,
      blocksOn_of_not_tagReady d ha hb hp hw (exec_lde ..) (issueFault_access rfl rfl rfl rfl) rfl he, acts_stf d ha hb hp hw he⟩
  case global =>
    exact ⟨blocksOn_of_tagged (count := 1) (exec_ldf ..) (issueFault_access rfl rfl rfl rfl) ha rfl hl hg hb,
      blocksOn_of_tagged (count := 1) (exec_lde ..) (issueFault_access rfl rfl rfl rfl) ha rfl hl hg hb,
      blocksOn_of_tagged (count := 1) (exec_stf ..) (issueFault_access rfl rfl rfl rfl) ha rfl hl hg hb,
      blocksOn_of_tagged (count := 1) (exec_stff ..) (issueFault_access rfl rfl rfl rfl) ha rfl hl hg hb,
      fun hs => blocksOn_of_tagged (count := 1) (exec_tagq ..)
        (issueFault_eq_none rfl rfl (engineAllows_scalar _) (.inr hs)) ha rfl hl hg hb,
      fun h0 hb => blocksOn_of_tagged (exec_tagset ..) (issueFault_access rfl rfl rfl rfl) ha (if_neg h0) hl hg hb⟩
  case waits =>
    intro u hp hnone taken waits
    have whole : a.bytes * a.count = 8 := by rw [hbytes, hcount]
    have arg : u.gOf k a.reg = s.gOf k a.reg := (onlyStores_landAccepted s a.loc 8).gOf k a.reg
    refine (globalRequest_of_admitted hw hl (.inr hd) whole hq).trans (congrArg _ ?_)
    rw [ownerTakes_of_tagOp ht whole hp hnone]
    cases hr : u.tagReady op a.loc with
    | false => rfl
    | true =>
      cases op with
      | ldf | lde => rfl
      | stf =>
        rw [← arg]
        rfl
  case performs =>
    intro u wd hp hnone leaves
    have whole : a.bytes * a.count = 8 * a.count := by rw [hbytes]
    have arg : u.gOf k a.reg = s.gOf k a.reg := (onlyStores_landAccepted s a.loc (8 * a.count)).gOf k a.reg
    have elem (i : Nat) : a.elem i = wd i := by rw [Access.elem, hbytes]
    rw [← whole] at hp
    refine ⟨fun ha => ?stff, fun ha => ?tagq, fun full ha => ?tagset⟩
    case stff =>
      rw [← arg]
      exact globalRequest_leaves hw (by rw [ha]; rfl) (by rw [ha]; rfl) whole hq (perform_stff hp ha fun o => hnone 0 o (by omega))
    case tagq =>
      exact globalRequest_leaves hw (by rw [ha]; rfl) (by rw [ha]; rfl) whole hq (perform_tagq hp ha)
    case tagset =>
      have performed := perform_tagset (n := k) hp ha fun i hi o => by rw [elem]; exact hnone i o (by omega)
      simp only [elem] at performed
      exact globalRequest_leaves hw (by rw [ha]; rfl) (by rw [ha]; rfl) whole hq performed

end Sys2Proof.Machine
end
